-- ==== Sys2Proof/Word.lean ====
section
/-!
DEFINITION. The plain types that the syntax and the state share: words, bytes, the names of contexts, kinds of access, the
sites of a soft error and the flits of a link.
-/

namespace Sys2Proof

/-- A byte of memory. -/
abbrev Byte := BitVec 8
/-- A 64-bit value: the data of a capability register, an address, a control register. -/
abbrev Word := BitVec 64

/-- The number of a context: its core (0 to 319) and its slot (0 to 9 a helper, 15 the control context; R84, R93). -/
structure CtxId where
  core : Nat
  slot : Nat
  deriving DecidableEq, Repr

/-- R391, R394. A firmware image, and the signature that comes with it. -/
structure SignedImage where
  image : List Byte
  signature : BitVec 4096
  deriving DecidableEq, Repr

/-- The kinds of access of the translation of R290. -/
inductive Access where
  | load
  | store
  | atomic
  | fetch
  deriving DecidableEq, Repr

/-- Where an uncorrectable soft error strikes (the tables of R256, R282, R309, R326, R347, R376 and R420). -/
inductive ErrorSite where
  /-- R256, R282, R283. A granule of a scratchpad, of a cluster's memory, of device memory. -/
  | spadGranule (core granule : Nat)
  | cmemGranule (cluster granule : Nat)
  | mainGranule (granule : Nat)
  /-- R256. A row of a tile, an accumulator row, the active or the shadow latch. -/
  | tileRow (core tile row : Nat)
  | accRow (core row : Nat)
  | latch (core : Nat) (shadow : Bool)
  /-- R256, R309. An entry of a shape-record cache or of the translation caches, by its place. -/
  | recordCache (core k : Nat)
  | translationCache (k : Nat)
  /-- R376, R380. Register or control state of a context. -/
  | context (c : CtxId)
  /-- R256. A sequencer entry, an entry of the matrix or of the copy queue (by issue number), the function store. -/
  | sequencer (core : Nat)
  | engineQueue (core seq : Nat)
  | copyQueue (core seq : Nat)
  | functionStore (core : Nat)
  /-- R256, R282. An entry of a core's or of a cluster's range-lock table, by its place. -/
  | coreLock (core k : Nat)
  | clusterLock (cluster k : Nat)
  /-- R376. The saved image of a switched-out context of a core. -/
  | rucksack (c : CtxId)
  /-- R376. A context's arrival at a Stile barrier; a slot transfer, by its number. -/
  | arrival (c : CtxId)
  | slotTransfer (num : Nat)
  /-- R282. A post, by its number; a walk thread's state; event line or barrier state of a cluster. -/
  | post (cluster num : Nat)
  | walkThread (cluster t : Nat)
  | eventLine (cluster : Nat)
  /-- R326. A Hamper entry; an edge, by its place; the reservation or drain state of a gang. -/
  | node (die n : Nat)
  | edge (die k : Nat)
  | gang (die n : Nat)
  /-- R347. An operation of a Ramble unit or its held reply, by its place. -/
  | ramble (unit k : Nat)
  /-- R309. A pending atomic of a context at its home, by its place; the walker's state for a context's access. -/
  | atomic (c : CtxId) (k : Nat)
  | walkState (c : CtxId) (second : Bool)
  /-- R420. A key; a pending remote load of a context; a held deposit; a request held during a RECONF. -/
  | key (index : Nat)
  | remoteLoad (c : CtxId) (k : Nat)
  | deposit (c : CtxId) (k : Nat)
  | heldRequest (k : Nat)
  /-- R376, R420. A flit that a port keeps for replay, by its place; whether it can be rebuilt. -/
  | flit (port k : Nat) (rebuilt : Bool)
  /-- R420. Root state of a job's group. -/
  | groupRoot (job : Nat)
  /-- R420. Routing or port control state. -/
  | portControl (port : Nat)
  /-- R309, R326, R347. Untagged control state of a die. -/
  | dieControl (die : Nat)
  /-- R376. Untagged control state of the I/O and security die. -/
  | ioControl
  /-- R256, R282. The scrub of a core, of a cluster. -/
  | coreScrub (core : Nat)
  | clusterScrub (cluster : Nat)
  deriving DecidableEq, Repr

/-- R305. The operations of the AMO instructions. -/
inductive AmoOp where
  | add | and | or | xor | swap | min | max | minu | maxu
  deriving DecidableEq, Repr

/-- R408. What a request between devices does. -/
inductive ReqKind where
  | load
  | store
  | amo (op : AmoOp)
  | cas
  | cas2
  deriving DecidableEq, Repr

/-- R132, R399, R403. A request between devices: its source and destination device, the job and the issuing context, the
end-to-end sequence number, the generation it is stamped with (0 for none, R405), the key, and the access. On the device that
sends it, `uid` is the number of the issuing context and `va` the fabric address; from another device both are 0. `ordered` says an
LDAQ or an STRL (R307), or an atomic with an order. `via` is the port by which it came; 8, which is none, on its own device. -/
structure Request where
  src : Nat
  dst : Nat
  job : Nat
  ctx : CtxId
  uid : Nat
  va : Word
  tag : Nat
  gen : BitVec 32
  key : BitVec 32
  core : Nat
  off : Nat
  kind : ReqKind
  size : Nat
  data : BitVec 128
  expect : BitVec 128
  expectTag : Bool
  ordered : Bool
  via : Nat
  deriving DecidableEq, Repr

/-- R399, R403, R408. What answers a request: the device it goes to, its job, the issuing context and the end-to-end number there, the
cause where the request is refused, and the data. -/
structure Reply where
  dst : Nat
  job : Nat
  ctx : CtxId
  tag : Nat
  refused : Option (BitVec 8)
  data : BitVec 128
  deriving DecidableEq, Repr

/-- What one flit of an optical link carries (R399): its sequence number, the number it acknowledges, whether its check code
is right, and a request or a reply; neither in an idle flit. -/
structure Flit where
  seq : Nat
  ack : Nat
  crcOk : Bool
  req : Option Request
  reply : Option Reply
  deriving DecidableEq, Repr

end Sys2Proof
end

