-- ==== Sys2Proof/Config.lean ====
section
/-!
DEFINITION. What the device fixes once, and the values the spec leaves open. The open values are opaque: nothing in Lean can
evaluate them, so what is proved holds whatever they are. Functions of a counter take State.freeN, which a step advances.
-/

namespace Sys2Proof.Config

/-- R4, R5. Cores, clusters of eight cores, dies of ten clusters. -/
def cores : Nat := 320
def clusters : Nat := 40
def dies : Nat := 4
/-- R228. Bytes of a core's scratchpad. -/
def spadBytes : Nat := 0xC0000
/-- R259. Bytes of a cluster's memory. -/
def cmemBytes : Nat := 0x800000
/-- R3, R284. Bytes of device memory: twelve stacks of 80 GB. -/
def memSize : Nat := 960000000000

/-- How many cycles beyond one a step takes (R131: no latency is architectural). -/
opaque freeStall : Nat → Nat
/-- R72. Whether a fetch of a changed line returns the line as it was before. -/
opaque freeOldLine : Nat → Bool
/-- R292. Whether an access whose page's entry has changed translates by the cached entry. -/
opaque freeOldEntry : Nat → Bool
/-- R233. Which entry of a full shape-record cache gives way. -/
opaque freeEvict : Nat → Nat
/-- The value of TRAPVAL for a trap whose entry states none. -/
opaque freeTrapVal : Nat → BitVec 64
/-- The value of TRAPPROG, or of the bits of it that no rule states, for a trap whose entry states none. -/
opaque freeTrapProg : Nat → BitVec 64
/-- R252. The bytes of the areas of a context's save image whose inner layout the spec does not give. -/
opaque freeByte : Nat → Byte
/-- R283. The home die of a byte of device memory: a fixed hash of its 4 KiB unit that the spec does not give. -/
opaque homeHash : Nat → Nat
/-- R283. Memory is interleaved in units of 4 KiB. -/
def homeDie (a : Nat) : Nat := homeHash (a / 4096)
/-- R386, R392. The physical addresses that firmware assigns to a virtual device. -/
opaque vdMayReach : Nat → Nat → Bool
/-- R392, R394. The stepping and vendor identity code of the part. -/
opaque stepping : BitVec 8
opaque vendor : BitVec 11
/-- R391. The device identity key: its modulus and its private exponent. -/
opaque identityModulus : Nat
opaque identityExponent : Nat
/-- R391. The public part of the Feldor Kerwick firmware key: its modulus and its exponent. -/
opaque firmwareModulus : Nat
opaque firmwareExponent : Nat
/-- R391. The salt of a signature. -/
opaque freeSalt : Nat → BitVec 512
/-- R413. The CHECK that the device chooses for a key. -/
opaque freeCheck : Nat → BitVec 22
/-- R394. What the boundary-scan register of the test port captures. -/
opaque boundaryScan : Nat → BitVec 32
/-- R394. Whether the firmware image enables test access after boot. -/
opaque testAccess : Bool

/-- R331. The distance of two vectors, by their bytes as numbers, of which the stored one holds a NaN or an infinity. -/
opaque openDistance : Nat → Nat → BitVec 32

/-- R376. The vector of a virtual device's error interrupt, which no rule numbers. -/
opaque errorVector : Nat
/-- R380. The STRUCT of a termination that no error of a listed structure causes: a fence for untagged control state, or a reset of
a virtual device. -/
opaque fenceStruct : Nat → BitVec 8

end Sys2Proof.Config
end

