-- ==== Sys2Proof/Machine/Sparse.lean ====
section
/-!
DEFINITION. Sparse data by key, as plain lists: maps from numbers (`SMap`), sets of numbers (`NSet`) and the bytes of a
memory (`Memory`), which is kept in one canonical form: addresses strictly rising, no entry equal to the zero that an
unlisted address reads as, tagged and poisoned granules strictly rising.
-/

namespace Sys2Proof.Machine

/-- A map from numbers, its keys rising. -/
abbrev SMap (α : Type) := List (Nat × α)

/-- The value of a key, if it is listed. -/
def SMap.find {α : Type} : SMap α → Nat → Option α
  | [], _ => none
  | (k', v) :: m, k => if k = k' then some v else SMap.find m k

/-- The value of a key, or the given value of every unlisted key. -/
def SMap.getD {α : Type} (m : SMap α) (k : Nat) (d : α) : α := (SMap.find m k).getD d

/-- The map with one key set. -/
def SMap.set {α : Type} : SMap α → Nat → α → SMap α
  | [], k, v => [(k, v)]
  | (k', v') :: m, k, v =>
    if k = k' then (k, v) :: m
    else if k < k' then (k, v) :: (k', v') :: m
    else (k', v') :: SMap.set m k v

/-- The map with one key removed. -/
def SMap.erase {α : Type} : SMap α → Nat → SMap α
  | [], _ => []
  | (k', v') :: m, k => if k = k' then SMap.erase m k else (k', v') :: SMap.erase m k

/-- A set of numbers, its members rising. -/
abbrev NSet := List Nat

/-- Membership. -/
def NSet.has : NSet → Nat → Bool
  | [], _ => false
  | x :: m, k => (k == x) || NSet.has m k

/-- The set with a member added. -/
def NSet.add : NSet → Nat → NSet
  | [], k => [k]
  | x :: m, k => if k = x then x :: m else if k < x then k :: x :: m else x :: NSet.add m k

/-- The set with a member taken out. -/
def NSet.del : NSet → Nat → NSet
  | [], _ => []
  | x :: m, k => if k = x then NSet.del m k else x :: NSet.del m k

/-- The set with a member added or taken out. -/
def NSet.put (m : NSet) (k : Nat) (b : Bool) : NSet := if b then m.add k else m.del k

/-- One memory of the device: its bytes, and for each 16-byte granule the tag bit (R134) and the poison mark (R184). -/
structure Memory where
  bytes : List Host.Cell
  tags : NSet
  poison : NSet
  deriving DecidableEq, Repr

/-- What an unlisted address reads as: zero (R229, R260, R394). -/
def Memory.unlisted : Byte := 0

/-- A memory with nothing listed. -/
def Memory.empty : Memory := ⟨[], [], []⟩

/-- The byte at an address. -/
def Memory.byte (m : Memory) (a : Nat) : Byte := SMap.getD m.bytes a Memory.unlisted

/-- The memory with one byte written; writing the unlisted value removes the entry. -/
def Memory.setByte (m : Memory) (a : Nat) (b : Byte) : Memory :=
  if b = Memory.unlisted then { m with bytes := SMap.erase m.bytes a } else { m with bytes := SMap.set m.bytes a b }

/-- The granule of an address (R134). -/
def granule (a : Nat) : Nat := a / 16

/-- The tag of the granule of an address. -/
def Memory.tag (m : Memory) (a : Nat) : Bool := NSet.has m.tags (granule a)

/-- The poison mark of the granule of an address. -/
def Memory.poisoned (m : Memory) (a : Nat) : Bool := NSet.has m.poison (granule a)

/-- The memory with the tag of an address's granule set or cleared. -/
def Memory.setTag (m : Memory) (a : Nat) (b : Bool) : Memory := { m with tags := NSet.put m.tags (granule a) b }

/-- The memory with the poison mark of an address's granule set or cleared. -/
def Memory.setPoison (m : Memory) (a : Nat) (b : Bool) : Memory := { m with poison := NSet.put m.poison (granule a) b }

/-- `n` bytes from an address on, little-endian (R14). -/
def Memory.read (m : Memory) (a : Nat) : Nat → Nat
  | 0 => 0
  | n + 1 => (m.byte a).toNat + 256 * Memory.read m (a + 1) n

/-- R14, R134. `n` bytes written little-endian; every granule touched loses its tag. -/
def Memory.write (m : Memory) (a : Nat) : Nat → Nat → Memory
  | 0, _ => m
  | n + 1, v => Memory.write ((m.setByte a (BitVec.ofNat 8 v)).setTag a false) (a + 1) n (v / 256)

/-- Some granule of `n` bytes from an address on carries a poison mark. -/
def Memory.anyPoison (m : Memory) (a n : Nat) : Bool :=
  m.poison.any (fun g => decide (g * 16 < a + n) && decide (a < g * 16 + 16))

/-- `n` bytes of a list of cells from an address on, little-endian; an unlisted byte is zero. -/
def cellsRead (m : List Host.Cell) (a : Nat) : Nat → Nat
  | 0 => 0
  | n + 1 => (SMap.getD m a 0).toNat + 256 * cellsRead m (a + 1) n

/-- A list of cells with `n` bytes written little-endian; a zero byte is not listed. -/
def cellsWrite (m : List Host.Cell) (a : Nat) : Nat → Nat → List Host.Cell
  | 0, _ => m
  | n + 1, v =>
    let b : Byte := BitVec.ofNat 8 v
    cellsWrite (if b = 0 then SMap.erase m a else SMap.set m a b) (a + 1) n (v / 256)

/-- R184. A granule of which the spans of bits, first bit of the memory and length, cover every bit. -/
def coversGranule (spans : List (Nat × Nat)) (g : Nat) : Bool :=
  (List.range 128).all (fun k => spans.any (fun p => decide (p.1 ≤ g * 128 + k) && decide (g * 128 + k < p.1 + p.2)))

/-- R184. A memory whose poison mark is cleared on every granule that spans of bits cover wholly. -/
def Memory.clearCovered (m : Memory) (spans : List (Nat × Nat)) : Memory :=
  { m with poison := m.poison.filter (fun g => !coversGranule spans g) }

/-- A memory with `n` bytes from an address on zeroed, with their tags and poison marks (the scrubs of R229 and R260). -/
def Memory.scrub (m : Memory) (a n : Nat) : Memory :=
  { bytes := m.bytes.filter (fun p => decide (p.1 < a) || decide (a + n ≤ p.1))
    tags := m.tags.filter (fun g => decide (g * 16 + 16 ≤ a) || decide (a + n ≤ g * 16))
    poison := m.poison.filter (fun g => decide (g * 16 + 16 ≤ a) || decide (a + n ≤ g * 16)) }

/-- Numbers strictly rising. -/
def rising : List Nat → Bool
  | [] => true
  | [_] => true
  | x :: y :: m => decide (x < y) && rising (y :: m)

/-- The canonical form of a memory. -/
def Memory.wf (m : Memory) : Bool :=
  rising (m.bytes.map (·.1)) && m.bytes.all (fun p => p.2 != Memory.unlisted) && rising m.tags && rising m.poison

end Sys2Proof.Machine
end

