-- ==== Sys2Proof/Syntax.lean ====
section
/-!
DEFINITION. The instruction set as syntax: one constructor per row of spec/opcode_table.json, in the table's order.
Encoded instructions carry the fields of their encoding (R64, R65, R79 and R276 to R279); the rows without an encoding are
the steps of the machine's other agents (file 95), and carry which agent or operation moves and what arrives from outside.
-/

namespace Sys2Proof

/-- The rows of the opcode table. -/
inductive Instr where
  /-- R104. Does nothing. -/
  | nop
  /-- R86. Waits until the context's counters are zero (and, for the control context, the sequencer is empty and every helper slot is FREE), then ends the context. -/
  | hend
  /-- R104. The control context ends its slice; a helper stands aside for other ready contexts. -/
  | yield
  /-- R104. Waits until the sequencer is empty and every vector instruction has merged its flags. -/
  | vsync
  /-- R101. Returns from a user-level interrupt handler through g30 and swaps the shadow bank back. -/
  | uiret
  /-- R104. Returns from a trap handler to TRAPPC and restores UIE, UIA and PRIV from ESTATUS. -/
  | eret
  /-- R72. Makes later instruction fetches observe every store that is visible to the context. -/
  | ifence
  /-- R233. Waits for the context's earlier stores to be performed, then invalidates the shape-record cache. -/
  | shfence
  /-- R104. Waits until every earlier engine operation of the context has completed. -/
  | xfence
  /-- R104. Waits as HEND does, then stops every context of the core through the halt tree. -/
  | halt
  /-- R104. Raises a Lantern trigger request for the core. -/
  | snap
  /-- R104. Stops the core for the debugger when DBGCTL.BE = 1; otherwise raises TRAP. -/
  | break_
  /-- R98. Holds the context until each class counter is at most its bound, and merges the pending matrix flags. -/
  | wait_ (ld : BitVec 4) (st : BitVec 4) (cp : BitVec 4) (tl : BitVec 4)
  /-- R105. Starts a helper in a FREE slot at a relative entry head. -/
  | hstart (slot : BitVec 4) (a : BitVec 5) (b : BitVec 5) (off : BitVec 16)
  /-- R106. Waits for a helper to end or be killed, takes its exit value and frees the slot. -/
  | hjoin (d : BitVec 5) (slot : BitVec 5)
  /-- R106. Reads the state code of a helper slot. -/
  | hstat (d : BitVec 5) (slot : BitVec 5)
  /-- R106. Makes a LIVE helper KILLED at its next group boundary. -/
  | hkill (slot : BitVec 5)
  /-- R107. Enters the trap handler with cause TRAP and the immediate in TRAPVAL. -/
  | trap (imm : BitVec 16)
  /-- R107. Enters the trap handler with cause SYSCALL and the immediate in TRAPVAL. -/
  | syscall (imm : BitVec 16)
  /-- R108. Copies a control register into a capability register as plain data. -/
  | movfc (d : BitVec 5) (cr : BitVec 12)
  /-- R108. Writes a capability register's low 64 bits into a control register that has no behaviour of its own. -/
  | movtc (a : BitVec 5) (cr : BitVec 12)
  /-- R109. Saves the selected classes of a suspended context into its save area. -/
  | savectx (x : BitVec 4) (a : BitVec 5) (cls : BitVec 8)
  /-- R109. Restores the selected classes of a suspended context from its save area. -/
  | restctx (x : BitVec 4) (a : BitVec 5) (cls : BitVec 8)
  /-- R123. Branches when two registers are equal. -/
  | beq (a : BitVec 5) (b : BitVec 5) (off : BitVec 16)
  /-- R123. Branches when two registers differ. -/
  | bne (a : BitVec 5) (b : BitVec 5) (off : BitVec 16)
  /-- R123. Branches on signed less than. -/
  | blt (a : BitVec 5) (b : BitVec 5) (off : BitVec 16)
  /-- R123. Branches on signed greater or equal. -/
  | bge (a : BitVec 5) (b : BitVec 5) (off : BitVec 16)
  /-- R123. Branches on unsigned less than. -/
  | bltu (a : BitVec 5) (b : BitVec 5) (off : BitVec 16)
  /-- R123. Branches on unsigned greater or equal. -/
  | bgeu (a : BitVec 5) (b : BitVec 5) (off : BitVec 16)
  /-- R124. Transfers through a 32-bit relative offset. -/
  | br (off : BitVec 32)
  /-- R124. Transfers through a 32-bit relative offset and writes the link register. -/
  | call (d : BitVec 5) (off : BitVec 32)
  /-- R125. Transfers to the address in a register, checking its capability if tagged. -/
  | jmpr (a : BitVec 5)
  /-- R125. Transfers to the address in a register and writes the link register. -/
  | callr (d : BitVec 5) (a : BitVec 5)
  /-- R125. Returns to the address in a register, g30 by default. -/
  | ret (a : BitVec 5)
  /-- R157. Has the sequencer replay the last k accepted vector instructions n more times. -/
  | vloop (u : BitVec 1) (k : BitVec 5) (a : BitVec 5) (n : BitVec 16)
  /-- R113. Integer add modulo 2^64. -/
  | add (d : BitVec 5) (a : BitVec 5) (b : BitVec 5)
  /-- R113. Integer subtract. -/
  | sub (d : BitVec 5) (a : BitVec 5) (b : BitVec 5)
  /-- R113. Low 64 bits of the product. -/
  | mul (d : BitVec 5) (a : BitVec 5) (b : BitVec 5)
  /-- R113. High 64 bits of the signed product. -/
  | mulh (d : BitVec 5) (a : BitVec 5) (b : BitVec 5)
  /-- R113. High 64 bits of the unsigned product. -/
  | mulhu (d : BitVec 5) (a : BitVec 5) (b : BitVec 5)
  /-- R113. Signed quotient truncated towards zero. -/
  | div (d : BitVec 5) (a : BitVec 5) (b : BitVec 5)
  /-- R113. Unsigned quotient. -/
  | divu (d : BitVec 5) (a : BitVec 5) (b : BitVec 5)
  /-- R113. Signed remainder. -/
  | rem (d : BitVec 5) (a : BitVec 5) (b : BitVec 5)
  /-- R113. Unsigned remainder. -/
  | remu (d : BitVec 5) (a : BitVec 5) (b : BitVec 5)
  /-- R113. Bitwise and. -/
  | and_ (d : BitVec 5) (a : BitVec 5) (b : BitVec 5)
  /-- R113. Bitwise or. -/
  | or_ (d : BitVec 5) (a : BitVec 5) (b : BitVec 5)
  /-- R113. Bitwise exclusive or. -/
  | xor_ (d : BitVec 5) (a : BitVec 5) (b : BitVec 5)
  /-- R113. a AND NOT b. -/
  | andn (d : BitVec 5) (a : BitVec 5) (b : BitVec 5)
  /-- R113. Shift left by b[5:0]. -/
  | shl (d : BitVec 5) (a : BitVec 5) (b : BitVec 5)
  /-- R113. Logical shift right. -/
  | shr (d : BitVec 5) (a : BitVec 5) (b : BitVec 5)
  /-- R113. Arithmetic shift right. -/
  | sra (d : BitVec 5) (a : BitVec 5) (b : BitVec 5)
  /-- R113. Rotate right. -/
  | rotr (d : BitVec 5) (a : BitVec 5) (b : BitVec 5)
  /-- R113. Signed minimum. -/
  | min_ (d : BitVec 5) (a : BitVec 5) (b : BitVec 5)
  /-- R113. Signed maximum. -/
  | max_ (d : BitVec 5) (a : BitVec 5) (b : BitVec 5)
  /-- R113. Unsigned minimum. -/
  | minu (d : BitVec 5) (a : BitVec 5) (b : BitVec 5)
  /-- R113. Unsigned maximum. -/
  | maxu (d : BitVec 5) (a : BitVec 5) (b : BitVec 5)
  /-- R113. 1 if equal. -/
  | seq (d : BitVec 5) (a : BitVec 5) (b : BitVec 5)
  /-- R113. 1 if not equal. -/
  | sne (d : BitVec 5) (a : BitVec 5) (b : BitVec 5)
  /-- R113. 1 if signed less than. -/
  | slt (d : BitVec 5) (a : BitVec 5) (b : BitVec 5)
  /-- R113. 1 if unsigned less than. -/
  | sltu (d : BitVec 5) (a : BitVec 5) (b : BitVec 5)
  /-- R113. 1 if signed less or equal. -/
  | sle (d : BitVec 5) (a : BitVec 5) (b : BitVec 5)
  /-- R113. 1 if unsigned less or equal. -/
  | sleu (d : BitVec 5) (a : BitVec 5) (b : BitVec 5)
  /-- R114. Adds a sign-extended 16-bit immediate. -/
  | addi (d : BitVec 5) (a : BitVec 5) (imm : BitVec 16)
  /-- R114. Ands with a sign-extended immediate. -/
  | andi (d : BitVec 5) (a : BitVec 5) (imm : BitVec 16)
  /-- R114. Ors with a sign-extended immediate. -/
  | ori (d : BitVec 5) (a : BitVec 5) (imm : BitVec 16)
  /-- R114. Exclusive-ors with a sign-extended immediate. -/
  | xori (d : BitVec 5) (a : BitVec 5) (imm : BitVec 16)
  /-- R114. Shift left by an immediate. -/
  | shli (d : BitVec 5) (a : BitVec 5) (imm : BitVec 6)
  /-- R114. Logical shift right by an immediate. -/
  | shri (d : BitVec 5) (a : BitVec 5) (imm : BitVec 6)
  /-- R114. Arithmetic shift right by an immediate. -/
  | srai (d : BitVec 5) (a : BitVec 5) (imm : BitVec 6)
  /-- R114. Rotate right by an immediate. -/
  | rotri (d : BitVec 5) (a : BitVec 5) (imm : BitVec 6)
  /-- R114. Signed compare with an immediate. -/
  | slti (d : BitVec 5) (a : BitVec 5) (imm : BitVec 16)
  /-- R114. Unsigned compare with an immediate. -/
  | sltui (d : BitVec 5) (a : BitVec 5) (imm : BitVec 16)
  /-- R114. Multiplies by an immediate. -/
  | muli (d : BitVec 5) (a : BitVec 5) (imm : BitVec 16)
  /-- R115. Counts leading zero bits. -/
  | clz (d : BitVec 5) (a : BitVec 5)
  /-- R115. Counts trailing zero bits. -/
  | ctz (d : BitVec 5) (a : BitVec 5)
  /-- R115. Counts one bits. -/
  | popc (d : BitVec 5) (a : BitVec 5)
  /-- R115. Sign-extends a byte. -/
  | sextb (d : BitVec 5) (a : BitVec 5)
  /-- R115. Sign-extends a halfword. -/
  | sexth (d : BitVec 5) (a : BitVec 5)
  /-- R115. Sign-extends a word. -/
  | sextw (d : BitVec 5) (a : BitVec 5)
  /-- R115. Zero-extends a byte. -/
  | zextb (d : BitVec 5) (a : BitVec 5)
  /-- R115. Zero-extends a halfword. -/
  | zexth (d : BitVec 5) (a : BitVec 5)
  /-- R115. Zero-extends a word. -/
  | zextw (d : BitVec 5) (a : BitVec 5)
  /-- R115. Reverses the bit order. -/
  | brev (d : BitVec 5) (a : BitVec 5)
  /-- R115. Reverses the byte order. -/
  | bswap (d : BitVec 5) (a : BitVec 5)
  /-- R116. Loads a sign-extended 32-bit immediate. -/
  | ldi (d : BitVec 5) (k : BitVec 32)
  /-- R116. Replaces the high 32 bits with an immediate. -/
  | ldih (d : BitVec 5) (a : BitVec 5) (k : BitVec 32)
  /-- R116. Forms an address relative to its own head. -/
  | ldipc (d : BitVec 5) (k : BitVec 32)
  /-- R117. Selects one of two registers, tag included, by a condition register. -/
  | sel (d : BitVec 5) (a : BitVec 5) (b : BitVec 5) (c : BitVec 5)
  /-- R117. Extracts a bit field. -/
  | bext (d : BitVec 5) (a : BitVec 5) (pos : BitVec 6) (lenm : BitVec 6) (s : BitVec 1)
  /-- R117. Inserts a bit field. -/
  | bins (d : BitVec 5) (a : BitVec 5) (b : BitVec 5) (pos : BitVec 6) (lenm : BitVec 6)
  /-- R119. Scalar floating-point add. -/
  | sfadd (w : BitVec 1) (d : BitVec 5) (a : BitVec 5) (b : BitVec 5)
  /-- R119. Scalar floating-point subtract. -/
  | sfsub (w : BitVec 1) (d : BitVec 5) (a : BitVec 5) (b : BitVec 5)
  /-- R119. Scalar floating-point multiply. -/
  | sfmul (w : BitVec 1) (d : BitVec 5) (a : BitVec 5) (b : BitVec 5)
  /-- R119. Scalar floating-point divide. -/
  | sfdiv (w : BitVec 1) (d : BitVec 5) (a : BitVec 5) (b : BitVec 5)
  /-- R119. Scalar floating-point minimum. -/
  | sfmin (w : BitVec 1) (d : BitVec 5) (a : BitVec 5) (b : BitVec 5)
  /-- R119. Scalar floating-point maximum. -/
  | sfmax (w : BitVec 1) (d : BitVec 5) (a : BitVec 5) (b : BitVec 5)
  /-- R119. Scalar floating-point square root. -/
  | sfsqrt (w : BitVec 1) (d : BitVec 5) (a : BitVec 5)
  /-- R119. Scalar floating-point equality compare. -/
  | sfeq (w : BitVec 1) (d : BitVec 5) (a : BitVec 5) (b : BitVec 5)
  /-- R119. Scalar floating-point less-than compare. -/
  | sflt (w : BitVec 1) (d : BitVec 5) (a : BitVec 5) (b : BitVec 5)
  /-- R119. Scalar floating-point less-or-equal compare. -/
  | sfle (w : BitVec 1) (d : BitVec 5) (a : BitVec 5) (b : BitVec 5)
  /-- R120. Scalar fused multiply-add with one rounding. -/
  | sffma (d : BitVec 5) (a : BitVec 5) (b : BitVec 5) (c : BitVec 5) (w : BitVec 1)
  /-- R121. Converts a scalar between floating-point and integer formats. -/
  | sfcvt (d : BitVec 5) (a : BitVec 5) (src : BitVec 4) (dst : BitVec 4) (rnd : BitVec 3)
  /-- R122. Writes a one-hot class of a floating-point value. -/
  | sfclass (d : BitVec 5) (a : BitVec 5) (w : BitVec 1)
  /-- R128. Narrows a capability's bounds to a length from a register. -/
  | klim (d : BitVec 5) (a : BitVec 5) (b : BitVec 5)
  /-- R127. Sets a capability's address. -/
  | kset (d : BitVec 5) (a : BitVec 5) (b : BitVec 5)
  /-- R127. Advances a capability's address. -/
  | kadv (d : BitVec 5) (a : BitVec 5) (b : BitVec 5)
  /-- R127. Removes permissions from a capability. -/
  | kmask (d : BitVec 5) (a : BitVec 5) (b : BitVec 5)
  /-- R129. Seals a capability with a key capability. -/
  | klock (d : BitVec 5) (a : BitVec 5) (b : BitVec 5)
  /-- R129. Unseals a capability with a key capability. -/
  | kopen (d : BitVec 5) (a : BitVec 5) (b : BitVec 5)
  /-- R127. Reads one field of a capability as plain data. -/
  | kinfo (d : BitVec 5) (a : BitVec 5) (fsel : BitVec 5)
  /-- R127. Copies all 128 bits of a capability with its tag cleared. -/
  | kstrip (d : BitVec 5) (a : BitVec 5)
  /-- R127. Copies a capability with its tag. -/
  | kcopy (d : BitVec 5) (a : BitVec 5)
  /-- R130. Narrows a capability's bounds to an immediate length. -/
  | klimi (d : BitVec 5) (a : BitVec 5) (imm : BitVec 16)
  /-- R130. Advances a capability's address by an immediate. -/
  | kadvi (d : BitVec 5) (a : BitVec 5) (imm : BitVec 16)
  /-- R130. Removes permissions by an immediate mask. -/
  | kmaski (d : BitVec 5) (a : BitVec 5) (imm : BitVec 7)
  /-- R137. Loads a byte, zero-extended. -/
  | ldb (d : BitVec 5) (a : BitVec 5) (disp : BitVec 16)
  /-- R137. Loads a halfword, zero-extended. -/
  | ldh (d : BitVec 5) (a : BitVec 5) (disp : BitVec 16)
  /-- R137. Loads a word, zero-extended. -/
  | ldw (d : BitVec 5) (a : BitVec 5) (disp : BitVec 16)
  /-- R137. Loads a doubleword. -/
  | ldd (d : BitVec 5) (a : BitVec 5) (disp : BitVec 16)
  /-- R137. Loads a byte, sign-extended. -/
  | ldbs (d : BitVec 5) (a : BitVec 5) (disp : BitVec 16)
  /-- R137. Loads a halfword, sign-extended. -/
  | ldhs (d : BitVec 5) (a : BitVec 5) (disp : BitVec 16)
  /-- R137. Loads a word, sign-extended. -/
  | ldws (d : BitVec 5) (a : BitVec 5) (disp : BitVec 16)
  /-- R137. Loads 16 bytes with the granule tag. -/
  | ldc (d : BitVec 5) (a : BitVec 5) (disp : BitVec 16)
  /-- R138. Stores a byte. -/
  | stb (b : BitVec 5) (a : BitVec 5) (disp : BitVec 16)
  /-- R138. Stores a halfword. -/
  | sth (b : BitVec 5) (a : BitVec 5) (disp : BitVec 16)
  /-- R138. Stores a word. -/
  | stw (b : BitVec 5) (a : BitVec 5) (disp : BitVec 16)
  /-- R138. Stores a doubleword. -/
  | std (b : BitVec 5) (a : BitVec 5) (disp : BitVec 16)
  /-- R138. Stores 16 bytes and writes the granule tag. -/
  | stc (b : BitVec 5) (a : BitVec 5) (disp : BitVec 16)
  /-- R139. Indexed byte load. -/
  | ldbx (d : BitVec 5) (a : BitVec 5) (b : BitVec 5)
  /-- R139. Indexed halfword load. -/
  | ldhx (d : BitVec 5) (a : BitVec 5) (b : BitVec 5)
  /-- R139. Indexed word load. -/
  | ldwx (d : BitVec 5) (a : BitVec 5) (b : BitVec 5)
  /-- R139. Indexed doubleword load. -/
  | lddx (d : BitVec 5) (a : BitVec 5) (b : BitVec 5)
  /-- R139. Indexed byte store. -/
  | stbx (c : BitVec 5) (a : BitVec 5) (b : BitVec 5)
  /-- R139. Indexed halfword store. -/
  | sthx (c : BitVec 5) (a : BitVec 5) (b : BitVec 5)
  /-- R139. Indexed word store. -/
  | stwx (c : BitVec 5) (a : BitVec 5) (b : BitVec 5)
  /-- R139. Indexed doubleword store. -/
  | stdx (c : BitVec 5) (a : BitVec 5) (b : BitVec 5)
  /-- R140. Loads a range of registers from consecutive words, resumable after a fault. -/
  | ldm (f : BitVec 5) (l : BitVec 5) (a : BitVec 5) (disp : BitVec 16)
  /-- R140. Stores a range of registers to consecutive words, resumable after a fault. -/
  | stm (f : BitVec 5) (l : BitVec 5) (a : BitVec 5) (disp : BitVec 16)
  /-- R305. Atomic add returning the old value. -/
  | amoadd (d : BitVec 5) (a : BitVec 5) (b : BitVec 5) (scope : BitVec 3) (order : BitVec 3) (size : BitVec 2)
  /-- R305. Atomic and. -/
  | amoand (d : BitVec 5) (a : BitVec 5) (b : BitVec 5) (scope : BitVec 3) (order : BitVec 3) (size : BitVec 2)
  /-- R305. Atomic or. -/
  | amoor (d : BitVec 5) (a : BitVec 5) (b : BitVec 5) (scope : BitVec 3) (order : BitVec 3) (size : BitVec 2)
  /-- R305. Atomic exclusive or. -/
  | amoxor (d : BitVec 5) (a : BitVec 5) (b : BitVec 5) (scope : BitVec 3) (order : BitVec 3) (size : BitVec 2)
  /-- R305. Atomic swap. -/
  | amoswap (d : BitVec 5) (a : BitVec 5) (b : BitVec 5) (scope : BitVec 3) (order : BitVec 3) (size : BitVec 2)
  /-- R305. Atomic signed minimum. -/
  | amomin (d : BitVec 5) (a : BitVec 5) (b : BitVec 5) (scope : BitVec 3) (order : BitVec 3) (size : BitVec 2)
  /-- R305. Atomic signed maximum. -/
  | amomax (d : BitVec 5) (a : BitVec 5) (b : BitVec 5) (scope : BitVec 3) (order : BitVec 3) (size : BitVec 2)
  /-- R305. Atomic unsigned minimum. -/
  | amominu (d : BitVec 5) (a : BitVec 5) (b : BitVec 5) (scope : BitVec 3) (order : BitVec 3) (size : BitVec 2)
  /-- R305. Atomic unsigned maximum. -/
  | amomaxu (d : BitVec 5) (a : BitVec 5) (b : BitVec 5) (scope : BitVec 3) (order : BitVec 3) (size : BitVec 2)
  /-- R306. Compares and conditionally swaps 4 or 8 bytes. -/
  | cas (d : BitVec 5) (a : BitVec 5) (b : BitVec 5) (scope : BitVec 3) (order : BitVec 3) (size : BitVec 2) (facq : BitVec 1) (c : BitVec 5)
  /-- R306. Compares and conditionally swaps 16 bytes with the granule tag. -/
  | cas2 (d : BitVec 5) (a : BitVec 5) (b : BitVec 5) (scope : BitVec 3) (order : BitVec 3) (facq : BitVec 1) (c : BitVec 5)
  /-- R307. Acquire load. -/
  | ldaq (d : BitVec 5) (a : BitVec 5) (scope : BitVec 3) (order : BitVec 3) (size : BitVec 2)
  /-- R307. Release store. -/
  | strl (b : BitVec 5) (a : BitVec 5) (scope : BitVec 3) (order : BitVec 3) (size : BitVec 2)
  /-- R308. Orders the context's scalar accesses by kind at a scope. -/
  | fence (scope : BitVec 3) (kind : BitVec 3)
  /-- R160. Elementwise vector add. -/
  | vadd (d : BitVec 5) (a : BitVec 5) (b : BitVec 5) (rm : BitVec 3) (m : BitVec 3)
  /-- R160. Elementwise vector subtract. -/
  | vsub (d : BitVec 5) (a : BitVec 5) (b : BitVec 5) (rm : BitVec 3) (m : BitVec 3)
  /-- R160. Elementwise vector multiply. -/
  | vmul (d : BitVec 5) (a : BitVec 5) (b : BitVec 5) (rm : BitVec 3) (m : BitVec 3)
  /-- R160. Elementwise minimum. -/
  | vmin (d : BitVec 5) (a : BitVec 5) (b : BitVec 5) (rm : BitVec 3) (m : BitVec 3)
  /-- R160. Elementwise maximum. -/
  | vmax (d : BitVec 5) (a : BitVec 5) (b : BitVec 5) (rm : BitVec 3) (m : BitVec 3)
  /-- R160. Bitwise and of lanes. -/
  | vand (d : BitVec 5) (a : BitVec 5) (b : BitVec 5) (m : BitVec 3)
  /-- R160. Bitwise or of lanes. -/
  | vor (d : BitVec 5) (a : BitVec 5) (b : BitVec 5) (m : BitVec 3)
  /-- R160. Bitwise exclusive or of lanes. -/
  | vxor (d : BitVec 5) (a : BitVec 5) (b : BitVec 5) (m : BitVec 3)
  /-- R160. Bitwise a AND NOT b of lanes. -/
  | vandn (d : BitVec 5) (a : BitVec 5) (b : BitVec 5) (m : BitVec 3)
  /-- R160. Lanewise shift left. -/
  | vshl (d : BitVec 5) (a : BitVec 5) (b : BitVec 5) (m : BitVec 3)
  /-- R160. Lanewise logical shift right. -/
  | vshr (d : BitVec 5) (a : BitVec 5) (b : BitVec 5) (m : BitVec 3)
  /-- R160. Lanewise arithmetic shift right. -/
  | vsra (d : BitVec 5) (a : BitVec 5) (b : BitVec 5) (m : BitVec 3)
  /-- R161. Scales float lanes by integer powers of two. -/
  | vscaleb (d : BitVec 5) (a : BitVec 5) (b : BitVec 5) (rm : BitVec 3) (m : BitVec 3)
  /-- R160. Saturating add. -/
  | vadds (d : BitVec 5) (a : BitVec 5) (b : BitVec 5) (rm : BitVec 3) (m : BitVec 3)
  /-- R160. Saturating subtract. -/
  | vsubs (d : BitVec 5) (a : BitVec 5) (b : BitVec 5) (rm : BitVec 3) (m : BitVec 3)
  /-- R160. Absolute difference. -/
  | vabsd (d : BitVec 5) (a : BitVec 5) (b : BitVec 5) (rm : BitVec 3) (m : BitVec 3)
  /-- R162. Copies lanes. -/
  | vmov (d : BitVec 5) (a : BitVec 5) (m : BitVec 3)
  /-- R162. Negates lanes. -/
  | vneg (d : BitVec 5) (a : BitVec 5) (m : BitVec 3)
  /-- R162. Absolute value of lanes. -/
  | vabs (d : BitVec 5) (a : BitVec 5) (m : BitVec 3)
  /-- R162. Bitwise not of lanes. -/
  | vnot (d : BitVec 5) (a : BitVec 5) (m : BitVec 3)
  /-- R162. One-hot class of each float lane. -/
  | vclass (d : BitVec 5) (a : BitVec 5) (m : BitVec 3)
  /-- R162. Writes each lane's index. -/
  | viota (d : BitVec 5) (tag : BitVec 5) (rm : BitVec 3) (m : BitVec 3)
  /-- R162. Broadcasts a scalar to every lane. -/
  | vbcast (d : BitVec 5) (a : BitVec 5) (tag : BitVec 5) (m : BitVec 3)
  /-- R162. Correctly rounded reciprocal. -/
  | vrcp (d : BitVec 5) (a : BitVec 5) (rm : BitVec 3) (m : BitVec 3)
  /-- R162. Correctly rounded reciprocal square root. -/
  | vrsqrt (d : BitVec 5) (a : BitVec 5) (rm : BitVec 3) (m : BitVec 3)
  /-- R162. Correctly rounded square root. -/
  | vsqrt (d : BitVec 5) (a : BitVec 5) (rm : BitVec 3) (m : BitVec 3)
  /-- R163. Fused a*b+c. -/
  | vfma (d : BitVec 5) (a : BitVec 5) (b : BitVec 5) (c : BitVec 5) (rm : BitVec 3) (m : BitVec 3)
  /-- R163. Fused a*b-c. -/
  | vfms (d : BitVec 5) (a : BitVec 5) (b : BitVec 5) (c : BitVec 5) (rm : BitVec 3) (m : BitVec 3)
  /-- R163. Fused -(a*b)+c. -/
  | vfnma (d : BitVec 5) (a : BitVec 5) (b : BitVec 5) (c : BitVec 5) (rm : BitVec 3) (m : BitVec 3)
  /-- R163. Selects lanes by a mask. -/
  | vsel (d : BitVec 5) (a : BitVec 5) (b : BitVec 5) (m : BitVec 3)
  /-- R164. Compares lanes for equality into a mask. -/
  | vceq (q : BitVec 3) (a : BitVec 5) (b : BitVec 5) (m : BitVec 3)
  /-- R164. Compares lanes for inequality into a mask. -/
  | vcne (q : BitVec 3) (a : BitVec 5) (b : BitVec 5) (m : BitVec 3)
  /-- R164. Compares lanes less-than into a mask. -/
  | vclt (q : BitVec 3) (a : BitVec 5) (b : BitVec 5) (m : BitVec 3)
  /-- R164. Compares lanes less-or-equal into a mask. -/
  | vcle (q : BitVec 3) (a : BitVec 5) (b : BitVec 5) (m : BitVec 3)
  /-- R164. Marks lanes where either operand is a NaN. -/
  | vcun (q : BitVec 3) (a : BitVec 5) (b : BitVec 5) (m : BitVec 3)
  /-- R164. Marks lanes whose class is in an immediate set. -/
  | vclassm (q : BitVec 3) (a : BitVec 5) (cls : BitVec 10) (m : BitVec 3)
  /-- R165. Converts lanes to another format, one part at a time. -/
  | vcvt (d : BitVec 5) (a : BitVec 5) (p : BitVec 4) (tag : BitVec 5) (rm : BitVec 3) (m : BitVec 3)
  /-- R166. Rounds lanes to integral values. -/
  | vrnd (d : BitVec 5) (a : BitVec 5) (rm : BitVec 3) (m : BitVec 3)
  /-- R166. Retags a register without changing its bits. -/
  | vtag (d : BitVec 5) (a : BitVec 5) (tag : BitVec 5) (m : BitVec 3)
  /-- R166. Converts two registers into one narrower register. -/
  | vpack (d : BitVec 5) (a : BitVec 5) (b : BitVec 5) (tag : BitVec 5) (rm : BitVec 3) (m : BitVec 3)
  /-- R166. Converts one register into two wider registers. -/
  | vunpack (d : BitVec 5) (a : BitVec 5) (tag : BitVec 5) (rm : BitVec 3) (m : BitVec 3)
  /-- R167. Tree-reduces active lanes by sum. -/
  | vredsum (d : BitVec 5) (a : BitVec 5) (rm : BitVec 3) (m : BitVec 3)
  /-- R167. Tree-reduces active lanes by maximum. -/
  | vredmax (d : BitVec 5) (a : BitVec 5) (m : BitVec 3)
  /-- R167. Tree-reduces active lanes by minimum. -/
  | vredmin (d : BitVec 5) (a : BitVec 5) (m : BitVec 3)
  /-- R168. Permutes lanes by an index register. -/
  | vperm (d : BitVec 5) (a : BitVec 5) (b : BitVec 5) (m : BitVec 3)
  /-- R168. Extracts one lane into a scalar register. -/
  | vextr (d : BitVec 5) (a : BitVec 5) (b : BitVec 5)
  /-- R168. Inserts a scalar into one lane. -/
  | vins (d : BitVec 5) (a : BitVec 5) (b : BitVec 5)
  /-- R169. Loads a 256-byte register image. -/
  | vld (d : BitVec 5) (a : BitVec 5) (b : BitVec 5) (tag : BitVec 5) (m : BitVec 3)
  /-- R169. Stores the active lanes of a register image. -/
  | vst (c : BitVec 5) (a : BitVec 5) (b : BitVec 5) (m : BitVec 3)
  /-- R170. Gathers elements by an index vector. -/
  | vgath (d : BitVec 5) (a : BitVec 5) (b : BitVec 5) (p : BitVec 4) (tag : BitVec 5) (m : BitVec 3)
  /-- R170. Scatters elements by an index vector. -/
  | vscat (c : BitVec 5) (a : BitVec 5) (b : BitVec 5) (p : BitVec 4) (m : BitVec 3)
  /-- R147. Binds a stream to a shape record through a capability. -/
  | sbind (mode : BitVec 2) (s : BitVec 3) (a : BitVec 5) (b : BitVec 5)
  /-- R171. Sets a stream's position. -/
  | spos (s : BitVec 3) (a : BitVec 5)
  /-- R171. Reads a stream's state and position. -/
  | sget (d : BitVec 5) (s : BitVec 3)
  /-- R172. Correctly rounded 2^a for a in [-1, 1]. -/
  | vexp2f (d : BitVec 5) (a : BitVec 5) (rm : BitVec 3) (m : BitVec 3)
  /-- R172. Correctly rounded base-two logarithm. -/
  | vlog2f (d : BitVec 5) (a : BitVec 5) (rm : BitVec 3) (m : BitVec 3)
  /-- R172. Correctly rounded hyperbolic tangent. -/
  | vtanh (d : BitVec 5) (a : BitVec 5) (rm : BitVec 3) (m : BitVec 3)
  /-- R173. Selects the k largest active lanes and their indices. -/
  | vtopk (d : BitVec 5) (a : BitVec 5) (c : BitVec 5) (k : BitVec 10) (m : BitVec 3)
  /-- R173. Selects the k largest nonzero active lanes and their indices. -/
  | vtopknz (d : BitVec 5) (a : BitVec 5) (c : BitVec 5) (k : BitVec 10) (m : BitVec 3)
  /-- R246. Writes a tile, accumulator rows or the weight latches to an image in scratchpad. -/
  | park (x : BitVec 6) (a : BitVec 5) (b : BitVec 5) (rb : BitVec 10)
  /-- R246. Restores a tile, accumulator rows or the weight latches from an image. -/
  | unpark (x : BitVec 6) (a : BitVec 5) (b : BitVec 5) (rb : BitVec 10)
  /-- R195. Latches a weight tile and its scales into SHADOW. -/
  | wload (t : BitVec 3) (a : BitVec 5)
  /-- R196. Streams activation rows through the ACTIVE weights into the accumulator. -/
  | mma (t : BitVec 3) (a : BitVec 5) (rb : BitVec 10) (cq : BitVec 2)
  /-- R196. Swaps SHADOW into ACTIVE, then performs an MMA. -/
  | mmasw (t : BitVec 3) (a : BitVec 5) (rb : BitVec 10) (cq : BitVec 2)
  /-- R197. Zeroes accumulator rows. -/
  | accz (nm : BitVec 10) (rb : BitVec 10)
  /-- R198. Reads accumulator rows into a tile with conversion and optional pruning. -/
  | accrd (t : BitVec 3) (rb : BitVec 10) (cq : BitVec 2) (sat : BitVec 1) (pr : BitVec 2)
  /-- R199. Writes a tile into accumulator rows. -/
  | accwr (t : BitVec 3) (rb : BitVec 10) (cq : BitVec 2)
  /-- R200. Copies accumulator rows. -/
  | acccp (nm : BitVec 6) (rs : BitVec 10) (rd : BitVec 10)
  /-- R201. Loads a tile from scratchpad or cluster memory. -/
  | tload (t : BitVec 3) (a : BitVec 5) (b : BitVec 5) (stride : BitVec 10)
  /-- R201. Stores a tile, optionally converted. -/
  | tstore (t : BitVec 3) (a : BitVec 5) (b : BitVec 5) (cvt : BitVec 1) (fmt : BitVec 5) (stride : BitVec 10)
  /-- R202. Transposes one tile into another. -/
  | ttrans (d : BitVec 3) (s : BitVec 3)
  /-- R219. Adds two Chebyshev series. -/
  | chadd (d : BitVec 3) (a : BitVec 3) (b : BitVec 3)
  /-- R219. Subtracts two Chebyshev series. -/
  | chsub (d : BitVec 3) (a : BitVec 3) (b : BitVec 3)
  /-- R219. Multiplies two Chebyshev series. -/
  | chmul (d : BitVec 3) (a : BitVec 3) (b : BitVec 3)
  /-- R220. Composes two functions. -/
  | chcomp (d : BitVec 3) (a : BitVec 3) (b : BitVec 3)
  /-- R221. Differentiates a function. -/
  | chdiff (d : BitVec 3) (a : BitVec 3)
  /-- R221. Integrates a function from the domain start. -/
  | chint (d : BitVec 3) (a : BitVec 3)
  /-- R222. Copies a function register. -/
  | chmov (d : BitVec 3) (a : BitVec 3)
  /-- R222. Empties a function register and frees its coefficients. -/
  | chfree (d : BitVec 3)
  /-- R222. Reads a function's length. -/
  | chlen (d : BitVec 5) (a : BitVec 3)
  /-- R222. Writes the sum of absolute coefficients. -/
  | chnorm (d : BitVec 5) (a : BitVec 3)
  /-- R222. Cuts a function to its first coefficients. -/
  | chtrunc (d : BitVec 3) (a : BitVec 3) (b : BitVec 5)
  /-- R224. Fits a Chebyshev series to samples read from memory. -/
  | chfit (d : BitVec 3) (a : BitVec 5) (b : BitVec 5) (n : BitVec 13)
  /-- R225. Evaluates a function at a point. -/
  | cheval (d : BitVec 5) (a : BitVec 3) (b : BitVec 5)
  /-- R226. Finds the k-th root of f(x) = y. -/
  | chroot (d : BitVec 5) (a : BitVec 3) (b : BitVec 5) (k : BitVec 12)
  /-- R223. Writes a constant function. -/
  | chconst (d : BitVec 3) (a : BitVec 5) (b : BitVec 5) (c : BitVec 5)
  /-- R223. Writes the identity function on a domain. -/
  | chx (d : BitVec 3) (a : BitVec 5) (b : BitVec 5)
  /-- R227. Loads a function image from memory. -/
  | chld (d : BitVec 3) (a : BitVec 5) (b : BitVec 5)
  /-- R227. Stores a function image to memory. -/
  | chst (s : BitVec 3) (a : BitVec 5) (b : BitVec 5)
  /-- R219. Scales a function by a scalar. -/
  | chscal (d : BitVec 3) (a : BitVec 3) (b : BitVec 5)
  /-- R240. Copies one shape walk to another. -/
  | cpy (ui : BitVec 1) (a : BitVec 5) (b : BitVec 5) (srec : BitVec 16) (drec : BitVec 16)
  /-- R243. Copies into a tile and carries a follow-on MMA. -/
  | cpym (ui : BitVec 1) (t : BitVec 3) (a : BitVec 5) (b : BitVec 5) (srec : BitVec 16) (rb : BitVec 10) (cq : BitVec 2) (sw : BitVec 1)
  /-- R240. Copies after every earlier copy of the context has completed. -/
  | cpyq (ui : BitVec 1) (a : BitVec 5) (b : BitVec 5) (srec : BitVec 16) (drec : BitVec 16)
  /-- R265. Posts an index list for gathering table rows into a packed area. -/
  | igather (i64 : BitVec 1) (ev : BitVec 4) (t : BitVec 5) (ix : BitVec 5) (n : BitVec 5) (p : BitVec 5) (ru : BitVec 10)
  /-- R265. Posts an index list for scattering packed rows into a table. -/
  | iscatter (i64 : BitVec 1) (ev : BitVec 4) (t : BitVec 5) (ix : BitVec 5) (n : BitVec 5) (p : BitVec 5) (ru : BitVec 10)
  /-- R270. Consumes counts from an event line or queues until they arrive. -/
  | evwait (ev : BitVec 4) (a : BitVec 5)
  /-- R270. Adds counts to an event line and serves its waiters. -/
  | evsig (ev : BitVec 4) (a : BitVec 5)
  /-- R271. Arrives at the cluster barrier and waits for its episode to complete. -/
  | cbar (a : BitVec 5)
  /-- R274. Starts a walk thread of the format walker. -/
  | wkstart (d : BitVec 5) (a : BitVec 5) (b : BitVec 5) (obj : BitVec 16)
  /-- R275. Reads a walk thread's state, exit value or fault address, optionally freeing it. -/
  | wkstat (d : BitVec 5) (a : BitVec 5) (fsel : BitVec 2) (rel : BitVec 1)
  /-- R335. Inserts a vector into a proximity partition. -/
  | stvec (d : BitVec 5) (a : BitVec 5) (ix : BitVec 16)
  /-- R341. Searches a partition at a stamp and writes the nearest entries. -/
  | ldnear (exact : BitVec 1) (d : BitVec 5) (a : BitVec 5) (b : BitVec 5) (ix : BitVec 16)
  /-- R336. Deletes an entry of a partition. -/
  | delvec (d : BitVec 5) (b : BitVec 5) (ix : BitVec 16)
  /-- R341. Reads a partition's NEXT and STAMP. -/
  | ixstamp (d : BitVec 5) (ix : BitVec 16)
  /-- R316. Copies a node descriptor into a free Hamper entry and returns its handle. -/
  | nsubmit (d : BitVec 5) (a : BitVec 5) (arm : BitVec 1)
  /-- R318. Completes a READY SIGNAL node or marks a WAITING one. -/
  | ndone (a : BitVec 5)
  /-- R318. Queries a node's state, optionally freeing a FAILED entry. -/
  | ndoneQ (d : BitVec 5) (a : BitVec 5) (rel : BitVec 1)
  /-- R318. Arms a HELD node. -/
  | narm (a : BitVec 5)
  /-- R318. Adds an edge from a predecessor to a HELD successor. -/
  | narmEdge (d : BitVec 5) (a : BitVec 5) (b : BitVec 5)
  /-- R359. Waits until a work-level counter is at most n. -/
  | cwait (d : BitVec 5) (a : BitVec 5) (n : BitVec 16)
  /-- R360. Cancels every unfinished item of a level. -/
  | cancel (d : BitVec 5) (a : BitVec 5)
  /-- R361. Reads a launch record and queues its items on its cores. -/
  | launch (d : BitVec 5) (a : BitVec 5)
  /-- R370. Arrives at a Stile barrier with a size. -/
  | barrive (d : BitVec 5) (a : BitVec 5) (ix : BitVec 16)
  /-- R370. Waits until a barrier's generation differs from a value. -/
  | bwait (a : BitVec 5) (ix : BitVec 16)
  /-- R370. Arrives at a Stile barrier and waits for the generation to complete. -/
  | bsync (d : BitVec 5) (a : BitVec 5) (ix : BitVec 16)
  /-- R372. Sends scratchpad bytes to a peer in a scheduled slot or the late lane. -/
  | slotsend (c : BitVec 5) (a : BitVec 5) (b : BitVec 5) (slot : BitVec 12)
  /-- R373. Waits until scheduled incoming transfers have landed or been missed. -/
  | slotwait (d : BitVec 5) (slot : BitVec 12)
  /-- R389. Seals a translated region and records its SHA-512 digest in a seal slot. -/
  | seal (d : BitVec 5) (a : BitVec 5) (b : BitVec 5)
  /-- R418. Arrives in a group move to another circuit plan. -/
  | reconf (d : BitVec 5) (plan : BitVec 8)
  /-- R415. Brings TGEN up to SCOPEGEN. -/
  | tgen (d : BitVec 5)
  /-- R417. Arrives at the group barrier with a step and waits for its release. -/
  | gbar (d : BitVec 5) (a : BitVec 5)
  /-- R419. Sends an abort token with a reason to the group root. -/
  | abort (a : BitVec 5)
  /-- R416. Stores 8 bytes at one fabric address on every member of a scope set. -/
  | stmc (a : BitVec 5) (b : BitVec 5) (scope : BitVec 3)
  /-- R413. Registers a region with the key table and returns its key. -/
  | rkreg (d : BitVec 5) (a : BitVec 5) (b : BitVec 5) (kind : BitVec 2) (rights : BitVec 3)
  /-- R414. Revokes a remote key once requests admitted under it are performed. -/
  | rkrevoke (d : BitVec 5) (a : BitVec 5)
  /-- R277. Walker no-op. -/
  | wnop
  /-- R277. Walker add. -/
  | wadd (d : BitVec 4) (a : BitVec 4) (b : BitVec 4)
  /-- R277. Walker subtract. -/
  | wsub (d : BitVec 4) (a : BitVec 4) (b : BitVec 4)
  /-- R277. Walker and. -/
  | wand (d : BitVec 4) (a : BitVec 4) (b : BitVec 4)
  /-- R277. Walker or. -/
  | wor (d : BitVec 4) (a : BitVec 4) (b : BitVec 4)
  /-- R277. Walker exclusive or. -/
  | wxor (d : BitVec 4) (a : BitVec 4) (b : BitVec 4)
  /-- R277. Walker shift left. -/
  | wshl (d : BitVec 4) (a : BitVec 4) (b : BitVec 4)
  /-- R277. Walker logical shift right. -/
  | wshr (d : BitVec 4) (a : BitVec 4) (b : BitVec 4)
  /-- R277. Walker add immediate. -/
  | waddi (d : BitVec 4) (a : BitVec 4) (i : BitVec 14)
  /-- R277. Walker multiply by immediate. -/
  | wmuli (d : BitVec 4) (a : BitVec 4) (i : BitVec 14)
  /-- R277. Walker load of an 18-bit signed immediate. -/
  | wldi (d : BitVec 4) (i : BitVec 18)
  /-- R278. Walker byte load through a window. -/
  | wldB (d : BitVec 4) (a : BitVec 4) (c : BitVec 2) (i : BitVec 14)
  /-- R278. Walker halfword load. -/
  | wldH (d : BitVec 4) (a : BitVec 4) (c : BitVec 2) (i : BitVec 14)
  /-- R278. Walker word load. -/
  | wldW (d : BitVec 4) (a : BitVec 4) (c : BitVec 2) (i : BitVec 14)
  /-- R278. Walker doubleword load. -/
  | wldD (d : BitVec 4) (a : BitVec 4) (c : BitVec 2) (i : BitVec 14)
  /-- R278. Walker byte store through a window. -/
  | wstB (d : BitVec 4) (a : BitVec 4) (c : BitVec 2) (i : BitVec 14)
  /-- R278. Walker halfword store. -/
  | wstH (d : BitVec 4) (a : BitVec 4) (c : BitVec 2) (i : BitVec 14)
  /-- R278. Walker word store. -/
  | wstW (d : BitVec 4) (a : BitVec 4) (c : BitVec 2) (i : BitVec 14)
  /-- R278. Walker doubleword store. -/
  | wstD (d : BitVec 4) (a : BitVec 4) (c : BitVec 2) (i : BitVec 14)
  /-- R277. Walker FP32 less-than compare. -/
  | wflt (d : BitVec 4) (a : BitVec 4) (b : BitVec 4)
  /-- R277. Walker FP32 less-or-equal compare. -/
  | wfle (d : BitVec 4) (a : BitVec 4) (b : BitVec 4)
  /-- R277. Walker branch if equal. -/
  | wbeq (a : BitVec 4) (b : BitVec 4) (i : BitVec 14)
  /-- R277. Walker branch if not equal. -/
  | wbne (a : BitVec 4) (b : BitVec 4) (i : BitVec 14)
  /-- R277. Walker branch if unsigned less than. -/
  | wbltu (a : BitVec 4) (b : BitVec 4) (i : BitVec 14)
  /-- R277. Walker jump. -/
  | wj (i : BitVec 14)
  /-- R279. Starts a SHA-512 digest. -/
  | wdinit
  /-- R279. Appends 8 bytes to the digest message. -/
  | wdabs (a : BitVec 4)
  /-- R279. Pads and finishes the digest and writes it to memory. -/
  | wdfin (a : BitVec 4) (c : BitVec 2) (i : BitVec 14)
  /-- R277. Clears the row buffer. -/
  | wzrow
  /-- R277. Writes bytes of a register into the row buffer. -/
  | wrins (d : BitVec 4) (a : BitVec 4) (s : BitVec 2) (i : BitVec 14)
  /-- R277. Writes the start of the row buffer to memory. -/
  | wemit (a : BitVec 4) (c : BitVec 2) (i : BitVec 14)
  /-- R277. Adds 1 to an event line with release ordering. -/
  | wsig (e : BitVec 4)
  /-- R277. Ends the walk thread with an exit value. -/
  | wend (a : BitVec 4)
  /-- R281. A thread whose step count would exceed its limit faults with BUDGET. Walk thread `th` of cluster `cl`. -/
  | walkStepLimit (cl : Nat) (th : Nat)
  /-- R279. The cluster digest unit compresses one 128-byte block for a thread. Walk thread `th` of cluster `cl`. -/
  | digestBlockCompress (cl : Nat) (th : Nat)
  /-- R153. Empties the sequencer, ends any replay and clears SUSP. Acts on the core of the current context. -/
  | vsqctlDiscard
  /-- R188. Discards the failing and later queued matrix and function operations and clears SUSP. Acts on the core of the current context. -/
  | mxctlDiscard
  /-- R244. Ends the failed copy, discards unstarted copies and clears SUSP. Acts on the core of the current context. -/
  | cpctlDiscard
  /-- R293. Removes cached translations covering one page of a domain. `v` is the value the MOVTC writes. -/
  | xlinvPage (v : BitVec 64)
  /-- R293. Removes every cached translation of a domain. `v` is the value the MOVTC writes. -/
  | xlinvDomain (v : BitVec 64)
  /-- R293. Removes every cached translation. `v` is the value the MOVTC writes. -/
  | xlinvAll (v : BitVec 64)
  /-- R93. A privileged write to DOMAIN changes the context's domain, with a scrub where needed. `v` is the value the MOVTC writes. -/
  | domainWrite (v : BitVec 64)
  /-- R18. A write to RND takes effect after every earlier instruction has finished rounding. `v` is the value the MOVTC writes. -/
  | rndWrite (v : BitVec 64)
  /-- R24. A write to FLAGS acts after earlier scalar, vector and function flags have merged. `v` is the value the MOVTC writes. -/
  | flagsWrite (v : BitVec 64)
  /-- R24. A read of FLAGS waits for earlier instructions to merge their flags. `d` is the destination of the MOVFC. -/
  | flagsRead (d : BitVec 5)
  /-- R206. A write to FNTOL is checked and sets the truncation tolerance. `v` is the value the MOVTC writes. -/
  | fntolWrite (v : BitVec 64)
  /-- R207. A read of FNSTAT waits for earlier function instructions to complete. `d` is the destination of the MOVFC. -/
  | fnstatRead (d : BitVec 5)
  /-- R382. Writing 1 clears a domain's termination bit once its record is DONE. `v` is the value the MOVTC writes. -/
  | dtermClear (v : BitVec 64)
  /-- R387. Resets a virtual device: terminates its domains, stops its jobs and releases its seal slots. `v` is the value the MOVTC writes. -/
  | vdctlRst (v : BitVec 64)
  /-- R385. Sends a host interrupt vector of the selected virtual device. `v` is the value the MOVTC writes. -/
  | vdirq (v : BitVec 64)
  /-- R386. The host starts a launch from a physical launch record for a job. The host writes `v` to JSGO of virtual device `vd`. -/
  | jsgo (vd : Nat) (v : BitVec 64)
  /-- R386. The host clears pending interrupt vectors by writing ones. -/
  | irqstatClear (vd : Nat) (v : BitVec 64)
  /-- R384. The host triggers a Lantern capture. -/
  | lntrig (vd : Nat) (v : BitVec 64)
  /-- R384. The host resumes cores stopped by a Lantern halt. -/
  | lnres (vd : Nat) (v : BitVec 64)
  /-- R392. The host starts an attestation report at a physical address. `v` is the physical address written. -/
  | atgo (vd : Nat) (v : BitVec 64)
  /-- R386. A host write to a window register without behaviour of its own. `off` is the byte offset in the register window. -/
  | hostRegisterWrite (vd : Nat) (off : Nat) (v : BitVec 64)
  /-- R394. Reset is released and bring-up begins. -/
  | packageReset
  /-- R393. The next memory stack wakes, one every 1 us. -/
  | stackWake
  /-- R393. The next optical engine wakes, one every 10 us. -/
  | opticalEngineWake
  /-- R393. The next die's core rails wake, one every 50 us. -/
  | dieRailWake
  /-- R394. The security processor boots from ROM and verifies the signature of the firmware image, which comes from outside the package. -/
  | securityProcessorBoot (firmware : SignedImage)
  /-- R394. The Decsyn link trains and opens virtual device 0's register window. -/
  | decsynLinkTrain
  /-- R394. IEEE 1149.1 BYPASS instruction. -/
  | bypass
  /-- R394. IEEE 1149.1 IDCODE instruction returning stepping and part code. -/
  | idcode
  /-- R394. IEEE 1149.1 SAMPLE/PRELOAD instruction. -/
  | samplePreload
  /-- R394. IEEE 1149.1 EXTEST instruction. -/
  | extest
  /-- R191. A cluster's matrix arrays wake 16 x n cycles after its wake request. -/
  | arrayWake (cl : Nat)
  /-- R191. A cluster's arrays sleep after 65,536 cycles without a matrix operation. -/
  | arraySleep (cl : Nat)
  /-- R357. A queued launch item starts its control context once earlier items have ended and its domain is allowed. -/
  | launchItemStart (core : Nat)
  /-- R424. A pending deferred trap is taken at a group boundary, or at once from a wait. -/
  | takeDeferredTrap (c : CtxId)
  /-- R100. At a group boundary with a pending copy or mailbox interrupt, the control context enters its user handler. -/
  | enterUserHandler (core : Nat)
  /-- R103. An arriving deposit writes the marked register and sets D, or is NACKed. A deposit of `v` arrives for context `c`. -/
  | mailboxDeposit (c : CtxId) (v : BitVec 64)
  /-- R255. A spilled mailbox deposit is delivered to the mailbox once D is clear. -/
  | spillDelivery (c : CtxId)
  /-- R254. A remote-load reply or deposit for a switched-out context is written into its Rucksack. -/
  | rucksackDelivery (c : CtxId) (k : Nat) (v : BitVec 64)
  /-- R97. A load's value or reply is written to its register and CNTS.LOAD decrements. `k` indexes the pending operations of `c`; `reply` is used for an operation whose home is another device. -/
  | loadComplete (c : CtxId) (k : Nat) (reply : BitVec 128)
  /-- R97. A store is performed at its home and CNTS.STORE decrements. -/
  | storePerformed (c : CtxId) (k : Nat)
  /-- R136. A refusal reply from another device makes a deferred trap pending and decrements the counter. -/
  | remoteRefusal (c : CtxId) (k : Nat) (cause : BitVec 8)
  /-- R290. The die walker translates a virtual address through three levels, setting A and D. -/
  | translationWalk (c : CtxId) (va : BitVec 64) (kind : Access)
  /-- R151. The sequencer executes its oldest entry, making execution checks. -/
  | sequencerExecute (core : Nat)
  /-- R157. The sequencer replays the loop body for one more pass. -/
  | vloopReplay (core : Nat)
  /-- R190. A queued matrix operation starts when the resources it uses are free. -/
  | matrixOpStart (core : Nat)
  /-- R190. A matrix operation writes its results, its flags join the pending set and CNTS.TILE decrements. -/
  | matrixOpComplete (core : Nat)
  /-- R208. A function instruction commits its result and merges its flags. -/
  | functionOpComplete (core : Nat)
  /-- R240. A queued copy starts once lock conflicts and earlier copies allow. -/
  | copyStart (core : Nat)
  /-- R242. A copy's last byte lands, its locks are removed and CNTS.COPY decrements. -/
  | copyComplete (core : Nat) (k : Nat)
  /-- R244. A copy fails at an element, keeps its locks and suspends the copy engine. -/
  | copyFail (core : Nat) (k : Nat)
  /-- R265. The indirect copy engine starts a queued post. -/
  | indirectPostStart (cl : Nat)
  /-- R266. A post finishes its rows, removes its locks and adds 1 to its event line. -/
  | indirectPostComplete (cl : Nat) (k : Nat)
  /-- R268. A post fails at a row and the posting context takes a deferred trap. -/
  | indirectPostFail (cl : Nat) (k : Nat)
  /-- R249. The scheduler pre-empts a core: contexts stop, engines stop and the resident handler runs. -/
  | preemption (core : Nat)
  /-- R313. A READY compute node becomes STEALABLE after AGE cycles. -/
  | nodeAgeing (die : Nat) (n : Nat)
  /-- R321. A READY single node starts on its idle affinity core. -/
  | nodePlaceAffinity (die : Nat) (n : Nat)
  /-- R321. An idle core of the job takes the oldest STEALABLE node. -/
  | nodeSteal (die : Nat) (core : Nat)
  /-- R323. The dispatcher asks every core of a candidate region to reserve for a gang. -/
  | gangReserveBegin (die : Nat) (n : Nat) (region : Nat)
  /-- R323. Every core granted, so the gang commits and its members start. -/
  | gangCommit (die : Nat) (n : Nat)
  /-- R323. Grants are not all in within 16 cycles, so they are released and back-off begins. -/
  | gangReserveFail (die : Nat) (n : Nat)
  /-- R323. A gang's back-off interval ends and it is a candidate again. -/
  | gangBackoffExpiry (die : Nat) (n : Nat)
  /-- R324. A gang reaches RMAX failures or DMUL x AGE cycles and the die drains a region for it. -/
  | gangDrainStart (die : Nat) (n : Nat) (region : Nat)
  /-- R324. A core of the drain region is reserved when its context ends or is suspended. -/
  | drainCoreReserve (die : Nat) (core : Nat)
  /-- R313. Every member of a running node has ended; successors are released and the entry becomes FREE. -/
  | nodeCompletion (die : Nat) (n : Nat)
  /-- R313. A node becomes FAILED because a predecessor or its task failed or its domain ended. -/
  | nodeFail (die : Nat) (n : Nat)
  /-- R337. The home Ramble unit admits the next operation on a partition and applies a mutation whole. -/
  | rambleAdmit (unit : Nat) (k : Nat)
  /-- R333. A unit runs a search at a stamp and forms its visited set. -/
  | rambleSearch (unit : Nat) (k : Nat)
  /-- R341. The unit writes an operation's records and reply. -/
  | rambleReply (unit : Nat) (k : Nat)
  /-- R344. An operation fails at the unit and is reported as a deferred trap. -/
  | rambleFail (unit : Nat) (k : Nat)
  /-- R345. A held reply is delivered after its context is restored. -/
  | rambleHeldReplyDelivery (c : CtxId)
  /-- R364. A job's slice on a core becomes READY at its period. -/
  | sliceRelease (core : Nat) (k : Nat)
  /-- R364. The READY slice with the earliest deadline takes the core. -/
  | sliceDispatch (core : Nat)
  /-- R365. A slice's budget reaches 0 for the first time and a BUDGET trap is made pending. -/
  | sliceBudgetExpiry (core : Nat)
  /-- R364. Budget reaches 0 during grace; the core is pre-empted and MISS counts. -/
  | sliceGraceExpiry (core : Nat)
  /-- R364. CYCLE passes a slice's deadline and MISS counts. -/
  | deadlineMiss (core : Nat) (k : Nat)
  /-- R368. A Stile barrier's generation completes, its waiters are released and the selector runs. -/
  | generationComplete (k : Nat)
  /-- R372. A slotted transfer starts once STEPCYC reaches its slot. -/
  | slotTransferStart (k : Nat)
  /-- R372. A late-lane transfer starts after every slotted transfer of the step has started. -/
  | lateLaneStart (k : Nat)
  /-- R372. A beat of a slot transfer lands and BEATS decrements. -/
  | slotBeatLand (k : Nat)
  /-- R376. An uncorrectable soft error is detected and charged by location. -/
  | uncorrectableError (site : ErrorSite)
  /-- R377. Every item of the terminated domain is recorded; DONE is written and the domain interrupt sent. -/
  | terminationDone (d : BitVec 6)
  /-- R384. A core writes its capture record at its next group boundary. -/
  | lanternCoreCapture (core : Nat)
  /-- R384. Every record is written; SEQ advances and the snapshot interrupt is sent. -/
  | lanternCaptureComplete
  /-- R389. Hashing of a sealed region ends and the slot records its digest. -/
  | sealDigestDone (k : Nat)
  /-- R392. The signed attestation report is written; ATSTAT reads 2 and vector 3 is sent. -/
  | attestationDone (vd : Nat)
  /-- R399. A flit arrives on a link and is acknowledged, replayed or discarded. -/
  | flitReceive (port : Nat) (flit : Flit)
  /-- R399. A port with nothing to send sends an idle flit every 1 us. -/
  | idleFlit (port : Nat)
  /-- R399. No flit is acknowledged for 1 ms, so the link is failed and its flits rerouted. -/
  | linkFailTimeout (port : Nat)
  /-- R403. A device forwards or refuses a request by the route table of the plan in force. -/
  | forwardRequest (k : Nat)
  /-- R408. An inbound remote request is checked against the key table and performed or refused. -/
  | inboundRequestAdmit (k : Nat)
  /-- R417. The root completes a group barrier episode and sends the release. -/
  | gbarEpisodeComplete (job : Nat)
  /-- R417. A member receives the release and its GBARs complete. -/
  | gbarRelease (job : Nat) (result : BitVec 64)
  /-- R418. Every member has arrived at the root, which sends SWITCH or FAIL. -/
  | reconfAllArrived (job : Nat)
  /-- R418. A member sends its command words and trains its ports, then reports to the root. -/
  | reconfSwitch (job : Nat)
  /-- R418. A port of the mask that does not come up within 25 us is marked failed. -/
  | portTrainTimeout (port : Nat)
  /-- R418. On COMMIT the generation advances, the new plan is in force and held requests are released. -/
  | reconfCommit (job : Nat)
  /-- R418. On FAIL held requests are released and RECONF returns all ones. -/
  | reconfFail (job : Nat)
  /-- R419. The root broadcasts an abort token with the Waypoint and discards the open episode. -/
  | abortTokenBroadcast (job : Nat)
  /-- R80. A head with a reserved major, 0x7F or an unassigned minor reaches issue and raises ILLEGAL_OP with its subcode. The word (head, T1, T2, T3) at the program counter. -/
  | reservedMajorIssue (word : BitVec 64)
  /-- R71. Sequential execution enters a new line, which is checked for translation and framing and raises ILLEGAL_LINE, PAGE_FAULT or PAGE_PERM at head 1. -/
  | sequentialLineEntry (c : CtxId)
  /-- R104. The debugger restarts a core stopped by BREAK or HALT. -/
  | debuggerResume (core : Nat)
  /-- R386. A host read or write through a virtual device's device-memory window is performed as a .pkg access of the host-link agent. -/
  | hostMemoryWindowAccess (vd : Nat) (write : Bool) (addr : BitVec 64) (size : Nat) (data : BitVec 64)
  /-- R284. The memory controller issues a per-bank refresh of a stack, with periodic retraining in its window, at a rate set by the stack temperature. -/
  | perBankRefresh (stack : Nat)
  /-- R284. A stack reports its temperature crossing 85 °C, which doubles or restores the refresh rate. -/
  | stackTemperatureReport (stack : Nat) (hot : Bool)
  /-- R418. A port of the plan's mask finishes training and goes up, after which its member reports to the root. -/
  | portTrainingComplete (port : Nat)
  /-- R399. A target network interface drops a kept end-to-end tag and reply after 2 ms. -/
  | keptReplyExpiry (k : Nat)
  /-- R417. The group root receives a member's GBAR or RECONF arrival, or a switch report, that does not yet complete the set. -/
  | groupArrivalReceive (job : Nat) (device : Nat) (v : BitVec 64)
  /-- R419. A member device receives the root's abort token, abandons waiting GBAR and RECONF, and makes ABORT_TOKEN pending for every live context of the job. -/
  | abortTokenArrival (job device : Nat) (waypoint reason : BitVec 32)
  deriving DecidableEq, Repr

end Sys2Proof
end

