-- ==== Sys2Proof/Machine/State.lean ====
section
/-!
DEFINITION. The state of the whole package as plain data: 320 cores with eleven contexts each, 40 clusters, 4 dies, the
package's own units, and the model's own fields (the agenda, which says what moves next, and the free-value counter).
Collections are sparse: a key that is not listed holds its reset value.
-/

namespace Sys2Proof.Machine

/-- Why the machine stops with a fault. -/
inductive Fault where
  /-- Raised by `step` when the agenda, the model's own schedule, names a context, cluster, thread, or event of an agent that
  the package does not have, or an event that is no step of an agent. Safe: no program can reach it, since nothing but the
  agenda's author puts an entry there. -/
  | noSuchAgent
  deriving DecidableEq, Repr

/-- Why an instruction has no outcome. -/
inductive Refusal where
  /-- Raised by `exec` for an instruction that has no meaning in the model yet. Safe: nothing is claimed of it. -/
  | notModelled (mnemonic : String)
  deriving DecidableEq, Repr

/-! ## Contexts (files 03, 04, 12) -/

/-- R89, R90. A capability register: 128 bits and the tag. -/
structure Reg where
  bits : BitVec 128
  tag : Bool
  deriving DecidableEq, Repr

/-- Untagged zero. -/
def Reg.zero : Reg := ⟨0, false⟩

/-- R85, R87. The state of a helper slot; a control context is FREE until its launch item starts and LIVE until it ends. -/
inductive Life where
  | free
  | live
  | ended
  | killed
  deriving DecidableEq, Repr

/-- R141. Whether an LDM or STM resumes from TRAPPROG: armed by ERET, active in the first group after it. -/
inductive Resume where
  | none
  | armed
  | active
  deriving DecidableEq, Repr

/-- The bytes that an access reaches (R131, R289): device memory, host memory, a core's scratchpad, a cluster's memory. -/
inductive Space where
  | main
  | host
  | spad (core : Nat)
  | cmem (cluster : Nat)
  deriving DecidableEq, Repr

/-- An address of one space; `va` is the address as the program gave it, by which range locks compare (R234). -/
structure Loc where
  space : Space
  off : Nat
  va : Nat
  deriving DecidableEq, Repr

/-- The result of decoding an address: a place of this package, or another device (R132). -/
inductive Home where
  | local (l : Loc)
  | remote (addr : Word) (key : BitVec 32)
  deriving DecidableEq, Repr

/-- R408 and the requests of R412 to R416: what a request to the die or the fabric asks, for an operation that counts in
CNTS and completes by a reply. -/
inductive MemKind where
  /-- A load of 1 to 8 bytes, zero- or sign-extended. -/
  | load (d : BitVec 5) (signed : Bool)
  /-- LDC: `lc` is LC of the capability it went through. -/
  | loadCap (d : BitVec 5) (lc : Bool)
  | store
  /-- STC. -/
  | storeCap
  | amo (d : BitVec 5) (op : AmoOp)
  | cas (d : BitVec 5) (expect : BitVec 64)
  | cas2 (d : BitVec 5) (expect : Reg) (lc : Bool)
  /-- An instruction whose effect another unit has applied and whose reply, its data, is on its way (R315, R361). -/
  | reply (d : BitVec 5)
  /-- The same without a reply: NARM, and NDONE without Q (R315). -/
  | ack
  /-- R343. An operation of a Ramble unit, performed by the unit alone; STVEC and DELVEC are writes too. -/
  | unit (d : BitVec 5) (mutation : Bool)
  /-- A FENCE that stands between accesses (R308); it counts nowhere. -/
  | fence (kind : BitVec 3)
  deriving DecidableEq, Repr

/-- An issued access that is not yet performed. -/
structure PendOp where
  /-- The issue number of its instruction; the elements of one LDM or STM share it. -/
  seq : Nat
  /-- The head of the instruction (R136). -/
  head : Word
  kind : MemKind
  home : Home
  size : Nat
  /-- What it writes, or the second operand of an atomic. -/
  data : Reg
  /-- R295, R304. The scope and the order of the access. -/
  scope : BitVec 3
  acq : Bool
  rel : Bool
  sc : Bool
  /-- R306. The order of a CAS or CAS2, in force only where its comparison succeeds. -/
  swap : BitVec 3
  /-- R306. The value that a read took at its home ahead of an earlier CAS; it holds if that CAS fails. -/
  early : Option Reg
  /-- Which bank of g24 to g31 its destination names: UIA at issue (R100). -/
  bank : Bool
  /-- R375. The domain of its context when it was issued. -/
  dom : BitVec 6
  /-- R399. The context that issued it, as its request names it. -/
  ctx : CtxId
  /-- R132. The device that its fabric address names; 65,536, which is none, for an address of this package. -/
  dev : Nat
  /-- R135. Its fabric address names this device itself: which bytes it reaches is settled when its request is admitted. -/
  own : Bool
  /-- R135. The place of this package that it reaches, where that is settled. -/
  at_ : Option Loc
  /-- R399. The 16-bit sequence number of its request's end-to-end tag. -/
  tag : Nat
  deriving DecidableEq, Repr

/-- R424. The classes of a deferred trap, in the order in which those of one cycle are taken. -/
inductive DeferClass where
  | vector
  | matrix
  | copy
  | post
  | remote
  | abort
  | budget
  deriving DecidableEq, Repr

/-- A trap: its cause and the values of TRAPPC, TRAPVAL and TRAPPROG. `pc` is filled in when a deferred trap is taken. -/
structure Trap where
  cause : BitVec 8
  pc : Word
  val : Word
  prog : Word
  deriving DecidableEq, Repr

/-- A pending deferred trap; `seq` orders remote refusals (R136). -/
structure Deferred where
  cls : DeferClass
  seq : Nat
  trap : Trap
  deriving DecidableEq, Repr

/-- What a waiting instruction at a head has done that its entry preserves (R271, R370, R389, R412). -/
inductive Arrival where
  /-- R370, R375. A BSYNC has arrived; the value it writes, and the domain of its context when it arrived. -/
  | bsync (gen : Word) (tag : BitVec 6)
  /-- R271. A CBAR waits in the open episode; `done` once the episode has closed. -/
  | cbar (done : Bool)
  /-- R417. A GBAR has arrived in an episode of its device; the value it writes, once released. -/
  | gbar (episode : Nat) (result : Option Word)
  /-- R418. A RECONF has joined its device's arrival; the value it writes, once decided. -/
  | reconf (result : Option Word)
  /-- R389. A SEAL past its sealing moment: its slot; the address of a poisoned granule, if hashing met one. -/
  | seal (slot : Nat) (poison : Option Word)
  /-- R416, R422. An STMC has passed its checks and waits for the earlier stores of its context: the devices to which it will send, and
  whether it issued while the device was in no RECONF. -/
  | stmcIssued (devices : List Nat) (early : Bool)
  /-- R416. An STMC has sent its stores, under one issue number, to these devices; the members that refused, with their causes. -/
  | stmc (seq : Nat) (devices : List Nat) (failed : List (Nat × BitVec 8))
  /-- R360. A CANCEL has acted: the number of items cancelled. -/
  | cancel (total : Nat)
  deriving DecidableEq, Repr

/-- On whose behalf an access runs: a core, a domain, a privilege and an XLBASE (R294). -/
structure Who where
  core : Nat
  dom : BitVec 6
  priv : Bool
  xlbase : Word
  deriving DecidableEq, Repr

/-- No address of a line. -/
def noLine : Word := BitVec.allOnes 64

/-- One context: a control context or a helper (R84). -/
structure Ctx where
  life : Life
  /-- The context's own number, by which operations that outlive a switch name it. -/
  uid : Nat
  /-- R95: TVEC failed its check, so the context does not run on. -/
  halted : Bool
  /-- R106: killed, and stopping at its next group boundary. -/
  killing : Bool
  exitVal : Word
  pc : Word
  regs : SMap Reg
  shadow : SMap Reg
  flags : BitVec 5
  rnd : BitVec 2
  dom : BitVec 6
  uia : Bool
  uie : Bool
  priv : Bool
  trapCause : BitVec 8
  trapPc : Word
  trapVal : Word
  trapProg : Word
  uivec : Word
  cpn : BitVec 8
  mbp : Bool
  cpp : Bool
  mbox : BitVec 8
  cntLoad : Nat
  cntStore : Nat
  cntCopy : Nat
  cntTile : Nat
  tvec : Word
  estatus : Word
  dbgctl : Bool
  xlbase : Word
  savebase : Word
  /-- R25. The pending flag set of the matrix engine. -/
  mxFlags : BitVec 5
  resume : Resume
  /-- R255. Trap handlers entered and not yet left by ERET: by this the resident handler's own ERET is told from one of its handlers. -/
  depth : Nat
  /-- R424. A deferred trap has been taken while others were pending: they stay pending until ERET. -/
  trapsHeld : Bool
  /-- R419. The value of `depth` in the handler of an ABORT_TOKEN that has not yet left by ERET; 0 where there is none. -/
  tokenDepth : Nat
  /-- R87. Registers that await the result of an earlier instruction; 32 + n stands for the shadow register n (R100). -/
  awaits : NSet
  pend : List PendOp
  pendSeq : Nat
  deferred : List Deferred
  /-- The kept arrivals, by the head of the instruction. -/
  arrivals : List (Word × Arrival)
  /-- R254, R255, R375. Deposits that came while the context was switched out, oldest first, each with its domain. -/
  spill : List (Word × BitVec 6)
  /-- R254. The address of the image whose class [0] SAVECTX has written, while the context is switched out. -/
  saved : Option Word
  /-- R251. The registers that had a pending remote load at that SAVECTX. -/
  heldLive : NSet
  /-- R87. Held by a waiting instruction. -/
  waiting : Bool
  /-- R104. After YIELD in a helper: the cycles for which it still stands aside, and the contexts that have issued since. -/
  standAside : Nat
  passed : NSet
  /-- The position of the next member in its issue group, 0 at a group boundary (R73). -/
  gpos : Nat
  /-- The head of the group's first issued member (R77). -/
  ghead : Word
  /-- R83. The word of the member that issues. -/
  ir : Word
  /-- R72. The line fetched last, and the lines fetched since the last IFENCE by the place that each was fetched from. -/
  line : BitVec 512
  /-- R71. The address of that line; `noLine` before any fetch and after IFENCE. -/
  lineVa : Word
  lines : SMap (BitVec 512)
  deriving DecidableEq, Repr

/-- A context before any start (R85, R90 and the resets of file 04). -/
def Ctx.reset : Ctx :=
  { life := .free, uid := 0, halted := false, killing := false, exitVal := 0, pc := 0, regs := [], shadow := [], flags := 0, rnd := 0
    dom := 0, uia := false, uie := false, priv := false, trapCause := 0, trapPc := 0, trapVal := 0, trapProg := 0
    uivec := 0, cpn := 0, mbp := false, cpp := false, mbox := 0, cntLoad := 0, cntStore := 0, cntCopy := 0, cntTile := 0
    tvec := 0, estatus := 0, dbgctl := false, xlbase := 0, savebase := 0, mxFlags := 0, resume := .none, depth := 0, trapsHeld := false, tokenDepth := 0, awaits := []
    pend := [], pendSeq := 0, deferred := [], arrivals := [], spill := [], saved := none, heldLive := []
    waiting := false, standAside := 0, passed := [], gpos := 0, ghead := 0
    ir := 0, line := 0, lineVa := noLine, lines := [] }

/-! ## Vector unit (file 06) -/

/-- R142. A vector register: 2048 bits and the format tag. -/
structure VReg where
  bits : BitVec 2048
  tag : Nat
  deriving DecidableEq, Repr

/-- R142. Zero bits with tag EMPTY. -/
def VReg.empty : VReg := ⟨0, 0⟩

/-- R231. A SHAPE record, its dimensions (extent, stride) in order. -/
structure ShapeRec where
  fmt : Nat
  matrix : Bool
  rd : Bool
  wr : Bool
  lo : Int
  hi : Int
  dims : List (Nat × Int)
  deriving DecidableEq, Repr

/-- R146. The states of a stream. -/
inductive StreamState where
  | unbound
  | bound
  | ended
  deriving DecidableEq, Repr

/-- R146. A stream. -/
structure Stream where
  state : StreamState
  shape : ShapeRec
  cap : Reg
  mode : BitVec 2
  idx : List Nat
  pos : Nat
  count : Nat
  obj : Nat
  deriving DecidableEq, Repr

/-- R146. Unbound. -/
def Stream.unbound : Stream :=
  ⟨.unbound, ⟨0, false, false, false, 0, 0, []⟩, Reg.zero, 0, [0, 0, 0, 0], 0, 0, 0⟩

/-- R151. A vector instruction accepted by the sequencer: its head, its scalar operands read at acceptance (in the order A,
B, C), the rounding mode in force, the issue order that its vector reads must observe (R156), and the matrix and function
operations issued before it (R246). -/
structure SeqEntry where
  id : Nat
  instr : Instr
  head : Word
  a : Reg
  b : Reg
  rnd : BitVec 2
  memSeq : Nat
  mxSeq : Nat
  bank : Bool
  /-- R375. The domain of its context at acceptance. -/
  dom : BitVec 6
  deriving DecidableEq, Repr

/-- R157. What the sequencer still has to do, in acceptance order: entries, and replays of a body. -/
inductive SeqItem where
  | entry (e : SeqEntry)
  | replay (body : List SeqEntry) (pos : Nat) (rem : Nat) (toEnd : Bool) (active : Bool)
  deriving DecidableEq, Repr

/-! ## Matrix, function and copy engines (files 07, 08, 09) -/

/-- R174. A tile register: its bytes as one memory image and the rows whose poison bit is set. -/
structure Tile where
  data : List Host.Cell
  poison : NSet
  deriving DecidableEq, Repr

/-- R178. A weight latch. -/
structure Latch where
  loaded : Bool
  fmt : Nat
  sp : Nat
  rows : Nat
  depth : Nat
  cols : Nat
  /-- The bits of the weights, physical row by physical row. -/
  w : List (List Nat)
  /-- R179. The positions of a sparse tile's weights, likewise; none for a dense tile. -/
  meta_ : List (List Nat)
  scales : List (BitVec 32)
  poison : Bool
  deriving DecidableEq, Repr

/-- R178. EMPTY. -/
def Latch.empty : Latch := ⟨false, 0, 0, 0, 0, 0, [], [], [], false⟩

/-- R181. The kind of an accumulator row. -/
inductive AccKind where
  | zero
  | fp
  | int
  deriving DecidableEq, Repr

/-- R181. An accumulator row: 128 elements by column, zero when not listed. -/
structure AccRow where
  elems : SMap (BitVec 32)
  kind : AccKind
  poison : Bool
  deriving DecidableEq, Repr

/-- R181, R197. Zero bits, KIND ZERO, P = 0. -/
def AccRow.zero : AccRow := ⟨[], .zero, false⟩

/-- R204. A VALID function register: its domain and its coefficients as FP64 bits. -/
structure Fn where
  lo : BitVec 64
  hi : BitVec 64
  coeffs : List (BitVec 64)
  deriving DecidableEq, Repr

/-- R185, R211. An operation of the engine queue: what it captured at issue. -/
structure MxOp where
  seq : Nat
  instr : Instr
  head : Word
  word : Word
  /-- The TSHAPE of each tile it names, in the order X, A (R185). -/
  shapeX : Word
  shapeA : Word
  a : Reg
  b : Reg
  c : Reg
  /-- FNTOL at issue (R206). -/
  tol : Word
  memSeq : Nat
  bank : Bool
  /-- The kind that the rows of an MMA take (R180). -/
  kind : AccKind
  /-- R216. The words that an abandoned CHFIT or CHLD had read. -/
  words : Option (List Word)
  started : Bool
  /-- It came from a CPYM (R203): its issue checks are still to be made. -/
  follow : Bool
  /-- R375. The domain of its context at issue. -/
  dom : BitVec 6
  deriving DecidableEq, Repr

/-- R234. An entry of a range-lock table. -/
structure Lock where
  lo : Nat
  hi : Nat
  dst : Bool
  /-- The owner: its core (or cluster for a post) and its number there. -/
  post : Bool
  owner : Nat
  num : Nat
  dom : BitVec 6
  deriving DecidableEq, Repr

/-- R237, R242. A copy: what it captured at issue, and its progress. -/
structure Copy where
  seq : Nat
  fn : Nat
  ui : Bool
  head : Word
  word : Word
  src : Reg
  dst : Reg
  srcRec : ShapeRec
  dstRec : ShapeRec
  rnd : BitVec 2
  tile : Nat
  tshape : Word
  rb : Nat
  cq : Nat
  sw : Bool
  memSeq : Nat
  mxSeq : Nat
  started : Bool
  failed : Bool
  done : Nat
  flags : BitVec 5
  /-- The register of g[B], which the follow-on MMA names. -/
  breg : BitVec 5
  /-- R241. The elements whose source bytes carried a poison mark. -/
  dirty : NSet
  /-- R375. The domain of its context at issue. -/
  dom : BitVec 6
  deriving DecidableEq, Repr

/-- R354, R357. An item of work for a core: what its control context starts with, and the levels it counts in. -/
structure LaunchItem where
  job : Nat
  /-- The launch's entry and generation, and the item's rank in it; none for a Hamper node (R355). -/
  launch : Option (Nat × Nat)
  rank : Nat
  graph : Nat
  phase : Option Nat
  entry : Word
  tvec : Word
  xlbase : Word
  live : Word
  phrec : Word
  dom : BitVec 6
  regs : SMap Reg
  /-- R51, R356. The images: 0 to 2 the scratchpad banks, 3 the cluster; address and length. -/
  images : List (Nat × Word × Nat)
  /-- R321. The Hamper node that the item carries out: its die, entry and generation. -/
  node : Option (Nat × Nat × Nat)
  /-- R360. Cancelled: its contexts stop at their next group boundaries. -/
  cancelled : Bool
  deriving DecidableEq, Repr

/-- R249, R252. The engine work of a pre-empted core: the sequencer's, the matrix and function queue, the copies with the
suspensions and the failure's progress, and the range locks of the core's and of the cluster's table. -/
structure Held where
  seq : List SeqItem
  window : List SeqEntry
  vsqEnded : NSet
  vsqSusp : Bool
  vsqPc : Word
  mxq : List MxOp
  mxSusp : Bool
  copies : List Copy
  cpSusp : Bool
  cpProgSeq : BitVec 32
  cpProgDone : BitVec 32
  mxIssued : BitVec 32
  mxDone : BitVec 32
  cpIssued : BitVec 32
  cpDone : BitVec 32
  parkBusy : Nat
  parkBytes : BitVec 32
  locks : List Lock
  clusterLocks : List Lock
  deriving DecidableEq, Repr

/-- R252. What an image in memory holds in its parts of open layout: where SAVECTX wrote it, the number of the free bytes that stand
there and by which the image is known wherever it is moved, the number of its context, and, for a control context, the engine work. -/
structure SavedImage where
  core : Nat
  addr : Nat
  seed : Nat
  uid : Nat
  work : Option Held
  deriving DecidableEq, Repr

/-- R362, R364. A time slice of a job on a core. -/
structure Slice where
  job : Nat
  period : Nat
  budget : Nat
  deadline : Nat
  ready : Bool
  running : Bool
  grace : Bool
  left : Nat
  released : Nat
  missed : Bool
  deriving DecidableEq, Repr

/-- A core: its contexts, its memories and its engines. -/
structure Core where
  ctxs : SMap Ctx
  /-- R399. The sequence number of the next request of each slot, whichever context stands in it. -/
  tags : SMap Nat
  spad : Memory
  v : SMap VReg
  q : SMap (BitVec 512)
  streams : SMap Stream
  seq : List SeqItem
  seqNext : Nat
  window : List SeqEntry
  /-- R157. The accepted entries whose last execution left one of their streams ENDED. -/
  vsqEnded : NSet
  vsqSusp : Bool
  vsqPc : Word
  tiles : SMap Tile
  tshape : SMap Word
  active : Latch
  shadow : Latch
  acc : SMap AccRow
  mxq : List MxOp
  mxIssued : BitVec 32
  mxDone : BitVec 32
  mxSusp : Bool
  fns : SMap Fn
  fntol : Word
  fnRoots : Nat
  fnZero : Bool
  fnLast : Nat
  locks : List Lock
  copies : List Copy
  cpIssued : BitVec 32
  cpDone : BitVec 32
  cpSusp : Bool
  cpProgSeq : BitVec 32
  cpProgDone : BitVec 32
  parkBusy : Nat
  parkBytes : BitVec 32
  otbase : Word
  otlimit : Nat
  /-- R233. The shape-record cache: (OTBASE, index, domain) and the record's 64 bytes. -/
  recCache : List (Nat × Nat × Nat × BitVec 512)
  prvec : Word
  livebase : Word
  lastdom : BitVec 6
  /-- R104. Stopped by HALT: the job scheduler or the debugger restarts it. -/
  stopped : Bool
  /-- R104. Stopped by BREAK for the debugger. -/
  broken : Bool
  /-- R384. Stopped by the Lantern. -/
  lnStop : Bool
  /-- The job the core runs for (R357). -/
  job : Nat
  /-- R249, R250. Pre-empted: the contexts that count as suspended, and the bank of the resident handler. -/
  preempted : Bool
  suspended : SMap Ctx
  resident : SMap Reg
  /-- R357. The item whose control context runs, and the queued items, oldest first. -/
  current : Option LaunchItem
  queue : List LaunchItem
  slices : List Slice
  /-- R364. Items switched out, each with its contexts and the resident handler's context, which resumes after its YIELD. -/
  away : List (LaunchItem × SMap Ctx × Ctx)
  /-- R249, R255. Engine work that waits for SAVECTX, or for the ERET that reinstates it. -/
  held : Option Held
  /-- R256. Withdrawn from service. -/
  withdrawn : Bool
  /-- R362, R367. The cycle of the core's last release by a barrier of each job. -/
  stepAt : SMap Nat
  /-- R88. The slot of the context that issued last. -/
  last : Nat
  deriving DecidableEq, Repr

/-- R206. FNTOL at reset: 2^-50. -/
def fntolReset : Word := 0x3CD0000000000000

/-- A core at reset. -/
def Core.reset : Core :=
  { ctxs := [], tags := [], spad := Memory.empty, v := [], q := [], streams := [], seq := [], seqNext := 0, window := [], vsqEnded := []
    vsqSusp := false, vsqPc := 0, tiles := [], tshape := [], active := Latch.empty, shadow := Latch.empty, acc := []
    mxq := [], mxIssued := 0, mxDone := 0, mxSusp := false, fns := [], fntol := fntolReset, fnRoots := 0, fnZero := false
    fnLast := 0, locks := [], copies := [], cpIssued := 0, cpDone := 0, cpSusp := false, cpProgSeq := 0, cpProgDone := 0
    parkBusy := 0, parkBytes := 0, otbase := 0, otlimit := 0, recCache := [], prvec := 0, livebase := 0, lastdom := 0
    stopped := false, broken := false, lnStop := false, job := 0, preempted := false, suspended := [], resident := []
    current := none, queue := [], slices := [], away := [], held := none, withdrawn := false, stepAt := [], last := 9 }

/-! ## The package (files 11 to 20) -/

/-- R270. An event line: its count, and the waiting contexts with the counts they wait for, oldest first. -/
structure EventLine where
  count : Nat
  waiters : List (CtxId × Nat)
  deriving DecidableEq, Repr

/-- R263 to R266. A post of the indirect copy engine, with the rows it has moved. -/
structure Post where
  num : Nat
  ctx : CtxId
  uid : Nat
  scatter : Bool
  wide : Bool
  ev : Nat
  table : Reg
  index : Reg
  packed : Reg
  n : Nat
  rb : Nat
  who : Who
  memSeq : Nat
  started : Bool
  done : Nat
  deriving DecidableEq, Repr

/-- R272. The states of a walk thread. -/
inductive ThreadState where
  | free | run | ended | faulted
  deriving DecidableEq, Repr

/-- R279. A digest in progress: the chaining value, the bytes not yet compressed, the length so far, and whether the padding
has been appended. -/
structure Digest where
  h : List Word
  msg : List Byte
  len : Nat
  padded : Bool
  deriving DecidableEq, Repr

/-- R272. A walk thread. -/
structure Thread where
  state : ThreadState
  regs : SMap Word
  pc : Int
  /-- R275. The word index of the instruction executed last. -/
  last : Int
  win : List Reg
  row : BitVec 2048
  digest : Option Digest
  who : Who
  steps : Nat
  limit : Nat
  fev : Nat
  cause : BitVec 8
  faultAddr : Word
  exitVal : Word
  /-- R273. The address of the code image, and the code. -/
  prog : Word
  code : List (BitVec 32)
  /-- R275. The number of the control context of the item that started it. -/
  item : Nat
  deriving DecidableEq, Repr

/-- A thread before any start. -/
def Thread.reset : Thread :=
  { state := .free, regs := [], pc := 0, last := 0, win := [], row := 0, digest := none, who := ⟨0, 0, false, 0⟩, steps := 0, limit := 0
    fev := 0, cause := 0, faultAddr := 0, exitVal := 0, prog := 0, code := [], item := 0 }

/-- R272, R274. A resident program of the walker's instruction store: where it was loaded from, for whom, and its words. -/
structure StoreProg where
  code : Word
  who : Who
  words : List (BitVec 32)
  deriving DecidableEq, Repr

/-- A cluster of eight cores. -/
structure Cluster where
  mem : Memory
  locks : List Lock
  /-- R191. Whether the matrix arrays are awake, the cycle of a wake request, and the cycle in which a matrix operation last
  executed. -/
  awake : Bool
  wakeAt : Option Nat
  lastMatrix : Nat
  /-- R260, R261, R271. The owning domain and the barrier episode. -/
  cldom : BitVec 6
  cbOpen : Bool
  cbMask : BitVec 8
  cbArr : BitVec 8
  events : SMap EventLine
  posts : List Post
  postNext : Nat
  threads : SMap Thread
  store : List StoreProg
  digestQ : List Nat
  /-- R357. The launches (job, entry, generation) whose cluster image has been written here. -/
  imaged : List (Nat × Nat × Nat)
  /-- R282. Withdrawn from service. -/
  withdrawn : Bool
  /-- R272. The walk thread that issued last. -/
  wkLast : Nat
  deriving DecidableEq, Repr

/-- A cluster at reset. -/
def Cluster.reset : Cluster :=
  { mem := Memory.empty, locks := [], awake := false, wakeAt := none, lastMatrix := 0, cldom := 0, cbOpen := false, cbMask := 0
    cbArr := 0, events := [], posts := [], postNext := 0, threads := [], store := [], digestQ := [], imaged := [], withdrawn := false, wkLast := 7 }

/-! ## Dies (files 13, 14) -/

/-- R313. The states of a Hamper entry. -/
inductive NodeState where
  | free | held | waiting | ready | stealable | reserving | running | failed
  deriving DecidableEq, Repr

/-- R310. The way an entry's previous node left the Hamper. -/
inductive NodeLast where
  | none | done | lost
  deriving DecidableEq, Repr

/-- R310, R311, R313. A Hamper entry. -/
structure Node where
  state : NodeState
  gen : Nat
  last : NodeLast
  entry : Word
  signal : Bool
  gk : Nat
  gn : Nat
  nops : Nat
  graph : Nat
  arg : Word
  opnds : List Reg
  count : Nat
  failures : Nat
  dp : Bool
  /-- A predecessor or its task has failed: the node is to become FAILED. -/
  doomed : Bool
  /-- R360. Cancelled while it runs: it leaves as LOST when its members have ended. -/
  lost : Bool
  who : Who
  tvec : Word
  job : Nat
  phase : Option Nat
  /-- R322. The AGE in force when it entered READY, the cycle in which it did, and that in which its AGE cycles had passed. -/
  age : Nat
  readyAt : Nat
  stealAt : Nat
  /-- The state it came from while RESERVING. -/
  came : NodeState
  /-- R323. The cycle in which back-off ends. -/
  backUntil : Option Nat
  /-- The cores of a RUNNING node, and those whose contexts have ended. -/
  members : List Nat
  ended : NSet
  deriving DecidableEq, Repr

/-- R310. An entry after reset: FREE, GEN 1, LAST NONE. -/
def Node.reset : Node :=
  { state := .free, gen := 1, last := .none, entry := 0, signal := false, gk := 0, gn := 0, nops := 0, graph := 0, arg := 0
    opnds := [], count := 0, failures := 0, dp := false, doomed := false, lost := false, who := ⟨0, 0, false, 0⟩, tvec := 0
    job := 0, phase := none, age := 0
    readyAt := 0, stealAt := 0, came := .ready, backUntil := none, members := [], ended := [] }

/-- R323. A reservation in progress: its node, the cores asked, those that granted, and the cycle it began. -/
structure Reservation where
  node : Nat
  cores : List Nat
  granted : NSet
  since : Nat
  deriving DecidableEq, Repr

/-- R324. A drain: its gang's node and generation, the drain region, and the cores reserved. -/
structure Drain where
  node : Nat
  gen : Nat
  cores : List Nat
  reserved : NSet
  deriving DecidableEq, Repr

/-- A die: its Hamper. -/
structure Die where
  nodes : SMap Node
  /-- R318. Edges: predecessor and successor entry. -/
  edges : List (Nat × Nat)
  rmax : BitVec 8
  dmul : BitVec 8
  age : BitVec 32
  reservations : List Reservation
  drain : Option Drain
  /-- R324. The gangs that met the drain condition and wait. -/
  drainQ : List Nat
  /-- R324. The regions that were drained for gangs which have been committed. -/
  drained : List Drain
  deriving DecidableEq, Repr

/-- R322. A die at reset. -/
def Die.reset : Die :=
  { nodes := [], edges := [], rmax := 64, dmul := 16, age := 2048, reservations := [], drain := none, drainQ := [], drained := [] }

/-- R327. An INDEX record. -/
structure IndexRec where
  fmt : Nat
  rd : Bool
  wr : Bool
  dot : Bool
  unit : Nat
  dom : Nat
  dim : Nat
  dmax : Nat
  width : Nat
  base : Nat
  capacity : Nat
  deriving DecidableEq, Repr

/-- R338. The operations of the Ramble units. -/
inductive RambleKind where
  | stvec
  | ldnear (exact cur : Bool) (k stamp : Nat)
  | delvec (id : Nat)
  | ixstamp
  deriving DecidableEq, Repr

/-- R337, R345. How far an operation has come: arrived, admitted at a stamp, finished with its reply and its records; or its
reply or its failure (cause and TRAPVAL) is held for a switched-out context. -/
inductive RamblePhase where
  | arrived
  | admitted (stamp : Nat)
  | finished (reply : Word) (records : List Word)
  | held (reply : Word) (records : List Word)
  | failed (cause : BitVec 8) (val : Word)
  deriving DecidableEq, Repr

/-- R340, R342. An operation in a Ramble unit. -/
structure RambleOp where
  ctx : CtxId
  uid : Nat
  head : Word
  seq : Nat
  d : BitVec 5
  bank : Bool
  rec_ : IndexRec
  kind : RambleKind
  /-- The copied vector's bytes, as one number. -/
  vec : Nat
  /-- The own-scratchpad offset of the result area. -/
  area : Nat
  who : Who
  phase : RamblePhase
  deriving DecidableEq, Repr

/-- R292. The caches of translations: a core's, of 64 entries, and a cluster's, of 1024. -/
inductive Cache where
  | core (n : Nat)
  | cluster (n : Nat)
  deriving DecidableEq, Repr

/-- R292. A cached translation: its cache, the leaf entry, its level, the page (VA bits [54:16]), the domain and the ROOT. -/
structure CachedEntry where
  cache : Cache
  dom : BitVec 6
  root : Nat
  page : Nat
  level : Nat
  entry : BitVec 64
  deriving DecidableEq, Repr

/-- R355. An entry of a job's launch table: its generation and its count of items. -/
structure LaunchEntry where
  gen : Nat
  count : Nat
  deriving DecidableEq, Repr

/-- R419. An abort token: the originating device and the reason. -/
structure Token where
  device : Nat
  reason : BitVec 32
  deriving DecidableEq, Repr

/-- R417, R419. What a root sends to its own device, in order: the release of an episode with its result, or an abort token with the
Waypoint. -/
inductive RootMsg where
  | release (result : Word)
  | token (t : Token) (waypoint : BitVec 32)
  deriving DecidableEq, Repr

/-- R418. How far this device has come in a RECONF: draining, arrived at the root, switching with the ports that train, or
reported. -/
inductive ReconfPhase where
  | draining
  | arrived
  | switching (ports : List Nat) (since : Nat)
  | reported
  deriving DecidableEq, Repr

/-- R354, R404, R417 to R419. What a job holds on the device. -/
structure Job where
  rkeys : SMap (BitVec 32)
  tgen : BitVec 32
  scopegen : BitVec 32
  launches : SMap LaunchEntry
  graphs : SMap Nat
  phases : SMap Nat
  total : Nat
  /-- R417. This device's open episode: its number and the steps of the GBARs issued in it; and the number of episodes released. -/
  gbEpisode : Nat
  gbSteps : List Word
  gbReleased : Nat
  /-- R417, R419. The root's state: the arrivals, oldest first, with their steps; what it has sent to its own device; the Waypoint;
  the tokens. -/
  rootArr : List (Nat × Word)
  rootOut : List RootMsg
  waypoint : BitVec 32
  tokens : List Token
  /-- R418. This device's RECONF: the plan and how far it has come. -/
  reconf : Option (Nat × ReconfPhase)
  /-- R418. The root's state: the plans that members have arrived with, whether SWITCH or FAIL was sent, and the members reported. -/
  rootPlans : SMap Nat
  rootVerdict : Option Bool
  rootReports : NSet
  deriving DecidableEq, Repr

/-- R417. The Waypoint before any episode has completed. -/
def noWaypoint : BitVec 32 := 0xFFFFFFFF

/-- A job before any start. -/
def Job.reset : Job :=
  { rkeys := [], tgen := 0, scopegen := 0, launches := [], graphs := [], phases := [], total := 0, gbEpisode := 0
    gbSteps := [], gbReleased := 0, rootArr := [], rootOut := [], waypoint := noWaypoint, tokens := [], reconf := none
    rootPlans := [], rootVerdict := none, rootReports := [] }

/-! ## The Stile (file 17) -/

/-- R367. A Stile domain: the owning job and the five words of its core mask. -/
structure StileDom where
  job : BitVec 12
  mask : SMap Word
  deriving DecidableEq, Repr

/-- R367. A Stile domain at reset. -/
def StileDom.reset : StileDom := ⟨0, []⟩

/-- R368, R373. What the Stile keeps of a barrier beside its record: the largest size of the generation-0 arrivals, the launch
of the first arriving context (its PHREC and on whose behalf it is read), and the schedule entries landed and missed in the
current step. -/
structure Bar where
  size : Nat
  first : Option (Word × Who × Nat)
  landed : NSet
  missed : NSet
  deriving DecidableEq, Repr

/-- A barrier before any arrival. -/
def Bar.reset : Bar := ⟨0, none, [], []⟩

/-- R372. A slot transfer: its sender, its slot and schedule entry, its barrier's record, and its progress in beats. -/
structure Xfer where
  num : Nat
  ctx : CtxId
  uid : Nat
  slot : Nat
  entry : Option Nat
  bar : Nat
  slog : Nat
  src : Nat
  dstCore : Nat
  dst : Nat
  len : Nat
  dom : BitVec 6
  memSeq : Nat
  started : Bool
  landed : Nat
  deriving DecidableEq, Repr

/-! ## System (file 18) -/

/-- R385, R386, R392. A virtual device. -/
structure VDev where
  fqos : BitVec 8
  mqos : BitVec 8
  en : Bool
  doms : Word
  jsrec : Word
  jsxl : Word
  jsstat : Word
  irqPend : BitVec 32
  irqMask : BitVec 32
  nonce : BitVec 512
  atstat : BitVec 2
  ataddr : Word
  deriving DecidableEq, Repr

/-- R385, R386. A virtual device at reset. -/
def VDev.reset : VDev :=
  { fqos := 1, mqos := 1, en := false, doms := 0, jsrec := 0, jsxl := 0, jsstat := 0, irqPend := 0, irqMask := 0xFFFFFFFF
    nonce := 0, atstat := 0, ataddr := 0 }

/-- R389, R390. A seal slot in use: its domain, its virtual device (16 where the domain belongs to none), the region, its
physical pages, the context that waits, and the digest, once hashed. -/
structure SealSlot where
  dom : BitVec 6
  vd : Nat
  addr : Word
  len : Nat
  pages : List Nat
  who : Who
  owner : CtxId
  uid : Nat
  digest : Option (BitVec 512)
  deriving DecidableEq, Repr

/-- R379. An item entry of a failure record. -/
structure FailItem where
  kind : Nat
  outcome : Nat
  core : Nat
  prog : Nat
  id : Word
  deriving DecidableEq, Repr

/-- R377, R379. A termination whose record is not yet DONE: the entries written and lost, and the settled items that are written
once every context of the domain has stopped, in the order in which they were settled. -/
structure Termination where
  written : Nat
  lost : Nat
  items : List FailItem
  deriving DecidableEq, Repr

/-- R384. A Lantern capture in progress: the cores that have still to write their records. -/
structure Capture where
  pending : NSet
  halt : Bool
  /-- R386. The writes to host memory that happen before a SNAP which triggered it or merged into it: context, number, issue number. -/
  after : List (CtxId × Nat × Nat)
  deriving DecidableEq, Repr

/-- R393, R394. The steps of bring-up. -/
inductive BootStage where
  | reset
  | refused
  | booted
  | trained
  deriving DecidableEq, Repr

/-- R394. The instruction in force in the IEEE 1149.1 port. -/
inductive TapInstr where
  | idcode
  | bypass
  | sample
  | extest
  deriving DecidableEq, Repr

/-- R393, R394. Power, bring-up and test access. -/
structure Power where
  hbmStacks : Nat
  engines : Nat
  rails : Nat
  lastWake : Nat
  stage : BootStage
  /-- R392. SHA-512 of the firmware image that the security processor has verified last. -/
  firmware : BitVec 512
  tap : TapInstr
  /-- What the port's selected data register captures. -/
  tapData : BitVec 32
  deriving DecidableEq, Repr

/-- Power at reset. -/
def Power.reset : Power := ⟨0, 0, 0, 0, .reset, 0, .idcode, 0⟩

/-- R284. What a stack's controller holds: hot above 85 °C, and the per-bank refreshes issued. -/
structure Stack where
  hot : Bool
  refreshes : Nat
  deriving DecidableEq, Repr

/-! ## Fabric (file 20) -/

/-- R398 to R400, R402. An optical port: its state code, the next sequence number it sends, its kept flits, the number it expects, the
cycles of its last send and of the last acknowledgement, the grants that each virtual device has left in this round, and the command
word sent last over its control channel. -/
structure Port where
  state : BitVec 4
  next : Nat
  kept : List Flit
  expect : Nat
  lastSend : Nat
  lastAck : Nat
  credits : SMap Nat
  cmd : Option Word
  deriving DecidableEq, Repr

/-- A port at reset: dark. -/
def Port.reset : Port := ⟨0, 0, [], 0, 0, 0, [], none⟩

/-- R407. An entry of the key table; `last` is the CHECK of its last revoked key. -/
structure Key where
  used : Bool
  check : BitVec 22
  kind : BitVec 2
  rights : BitVec 3
  base : Nat
  length : Nat
  core : Nat
  dom : BitVec 6
  xlbase : Word
  last : Option (BitVec 22)
  deriving DecidableEq, Repr

/-- An entry not in use. -/
def Key.reset : Key := ⟨false, 0, 0, 0, 0, 0, 0, 0, 0, none⟩

/-- R399. A kept reply: the request's end-to-end tag, its reply, and the cycle. -/
structure Kept where
  src : Nat
  ctx : CtxId
  tag : Nat
  reply : BitVec 128
  at_ : Nat
  deriving DecidableEq, Repr

/-- What moves next: a step of an agent, an issue of a context, an instruction of a walk thread, elements of a copy,
or rows of a post. -/
inductive Action where
  | event (i : Instr)
  | issue (c : CtxId)
  | walk (cluster thread : Nat)
  | copy (core k n : Nat)
  | post (cluster k n : Nat)
  deriving DecidableEq, Repr

/-- The state of the machine. -/
structure State where
  /-- The context that issues, or issued last (R88). -/
  cur : CtxId
  /-- The walk thread that issues, or issued last: its cluster and its number. -/
  wk : Nat × Nat
  cores : SMap Core
  clusters : SMap Cluster
  main : Memory
  host : Memory
  /-- R376. The package has stopped through the halt tree, for an error in the control state of the I/O and security die. -/
  halt : Bool
  /-- R292. The cached translations of every core and cluster. -/
  xcache : List CachedEntry
  jobs : SMap Job
  dies : SMap Die
  /-- R337. The operations in the Ramble units 0 to 7, in arrival order. -/
  units : SMap (List RambleOp)
  /-- R363. JOBBASE and JOBLIMIT. -/
  jobbase : Word
  joblimit : Nat
  /-- R367. STDSEL and the Stile domains; the barriers by the physical address of their records; the slot transfers. -/
  stdsel : BitVec 4
  stile : SMap StileDom
  bars : SMap Bar
  xfers : List Xfer
  xferNext : Nat
  /-- R382. FRBASE, DTERM, DFENCE, and the terminations whose records are not yet DONE. -/
  frbase : Word
  dterm : Word
  dfence : BitVec 4
  terms : SMap Termination
  /-- R383, R384. LNCTL, LNBASE, LNSTAT.SEQ, and the capture in progress. -/
  lnctl : BitVec 8
  lnbase : Word
  lnseq : BitVec 32
  capture : Option Capture
  /-- R385. VDSEL and the virtual devices. -/
  vdsel : BitVec 4
  vdevs : SMap VDev
  seals : SMap SealSlot
  power : Power
  hbmStacks : SMap Stack
  /-- R400. GRPBASE, FABCTL, HRBASE and the ports. -/
  grpbase : Word
  fabid : BitVec 16
  hr : Bool
  hrbase : Word
  ports : SMap Port
  keys : SMap Key
  /-- R399, R403, R408, R418. The requests at the network interface: those that contexts of this device have issued and that have not
  left, and those that have arrived from other devices, oldest first; and those held there for a RECONF. -/
  inbound : List Request
  heldReqs : List Request
  /-- R399, R403. Replies that wait at the network interface for a way to their devices. -/
  replies : List Reply
  kept : List Kept
  /-- R389. The 64 KiB pages of device memory that are sealed. -/
  sealedPages : NSet
  cycle : Word
  /-- R252. The images in memory, the latest first: the parts whose layout the spec leaves open. -/
  images : List SavedImage
  uidNext : Nat
  agenda : List Action
  freeN : Nat
  deriving DecidableEq, Repr

/-- The machine right after reset. -/
def State.reset : State :=
  { cur := ⟨0, 15⟩, wk := (0, 0), cores := [], clusters := [], main := Memory.empty, host := Memory.empty, halt := false, xcache := [], jobs := []
    dies := [], units := [], jobbase := 0, joblimit := 0, stdsel := 0, stile := [], bars := [], xfers := [], xferNext := 0
    frbase := 0, dterm := 0, dfence := 0, terms := [], lnctl := 0, lnbase := 0, lnseq := 0, capture := none, vdsel := 0
    vdevs := [], seals := [], power := Power.reset, hbmStacks := [], grpbase := 0, fabid := 0xFFFF, hr := false
    hrbase := 0, ports := [], keys := [], inbound := [], heldReqs := [], replies := [], kept := [], sealedPages := [], cycle := 0
    images := [], uidNext := 1
    agenda := [], freeN := 0 }

end Sys2Proof.Machine
end

