-- ==== Sys2Proof/Machine/Ops.lean ====
section
/-!
DEFINITION. The named operations over the state: cores and contexts, capability registers, memories, the program counter and
instruction lines (R61 to R72), taking a trap (R95), capability checks (R92), the decoding of addresses (R131), translation
(R287 to R292), range locks (R133, R235), and the access checks of R133.
-/

namespace Sys2Proof.Machine

/-- The outcome of a step. -/
abbrev Out := Host.Outcome State Fault Refusal

/-! ## Trap causes (R96) -/

namespace Cause
def illegalLine : BitVec 8 := 0x01
def illegalOp : BitVec 8 := 0x02
def illegalOperand : BitVec 8 := 0x03
def badTarget : BitVec 8 := 0x04
def priv : BitVec 8 := 0x05
def notInHelper : BitVec 8 := 0x06
def capTag : BitVec 8 := 0x10
def capBounds : BitVec 8 := 0x11
def capPerm : BitVec 8 := 0x12
def capSealed : BitVec 8 := 0x13
def capDomain : BitVec 8 := 0x14
def align : BitVec 8 := 0x18
def pageFault : BitVec 8 := 0x20
def pagePerm : BitVec 8 := 0x21
def rangeLocked : BitVec 8 := 0x28
def shapeRights : BitVec 8 := 0x29
def shapeBounds : BitVec 8 := 0x2A
def fmtTagMismatch : BitVec 8 := 0x30
def matFmt : BitVec 8 := 0x31
def poisonConsumed : BitVec 8 := 0x32
def fnDomain : BitVec 8 := 0x38
def fnStoreFull : BitVec 8 := 0x39
def fnRange : BitVec 8 := 0x3A
def budget : BitVec 8 := 0x40
def slotViolation : BitVec 8 := 0x41
def staleTopo : BitVec 8 := 0x42
def remoteKey : BitVec 8 := 0x43
def linkDown : BitVec 8 := 0x44
def mcastPartial : BitVec 8 := 0x45
def abortToken : BitVec 8 := 0x48
def sealedWrite : BitVec 8 := 0x50
/-- R96. Not a trap: the cause of a domain termination in its failure record. -/
def terminated : BitVec 8 := 0x60
def trap : BitVec 8 := 0x70
def syscall : BitVec 8 := 0x71
end Cause

/-- A failed check: the cause and the value of TRAPVAL. -/
structure Fail where
  cause : BitVec 8
  val : Word
  deriving DecidableEq, Repr

/-- The result of a check that may fail. -/
abbrev Res (α : Type) := Except Fail α
/-- The result of an instruction's checks: a value, or the trap they raise. -/
abbrev Chk (α : Type) := Except Trap α

/-- Fail with a cause and a value unless a condition holds. -/
def ensure (b : Bool) (cause : BitVec 8) (val : Word) : Res Unit := if b then .ok () else .error ⟨cause, val⟩

/-- The trap of a failed check at head `pc` with a TRAPPROG value. -/
def Fail.trap (f : Fail) (pc prog : Word) : Trap := ⟨f.cause, pc, f.val, prog⟩

/-- A check's failure as a trap. -/
def asTrap {α : Type} (r : Res α) (pc prog : Word) : Chk α :=
  match r with
  | .ok a => .ok a
  | .error f => .error (f.trap pc prog)

/-! ## Numbers -/

/-- A number as a word. -/
abbrev w64 (n : Nat) : Word := BitVec.ofNat 64 n
/-- Bits [hi:lo] of a word as a number. -/
def bits (w : Word) (hi lo : Nat) : Nat := w.toNat / 2 ^ lo % 2 ^ (hi + 1 - lo)
/-- A signed number modulo 2^64. -/
abbrev i64 (i : Int) : Word := BitVec.ofInt 64 i
/-- Sign extension to a word. -/
abbrev sext {n : Nat} (x : BitVec n) : Word := x.signExtend 64
/-- Zero extension to a word. -/
abbrev zext {n : Nat} (x : BitVec n) : Word := x.setWidth 64
/-- A Boolean as a word, 1 or 0. -/
def flag (b : Bool) : Word := if b then 1 else 0

/-! ## Cores, contexts, registers -/

/-- The slot number of a control context (R93). -/
def control : Nat := 15

/-- A core. -/
def State.core (s : State) (n : Nat) : Core := SMap.getD s.cores n Core.reset
/-- The state with a core replaced. -/
def State.setCore (s : State) (n : Nat) (c : Core) : State := { s with cores := SMap.set s.cores n c }
/-- The state with a core changed. -/
def State.modCore (s : State) (n : Nat) (f : Core → Core) : State := s.setCore n (f (s.core n))
/-- A context. -/
def State.ctx (s : State) (c : CtxId) : Ctx := SMap.getD (s.core c.core).ctxs c.slot Ctx.reset
/-- The state with a context replaced. -/
def State.setCtx (s : State) (c : CtxId) (x : Ctx) : State :=
  s.modCore c.core (fun k => { k with ctxs := SMap.set k.ctxs c.slot x })
/-- The state with a context changed. -/
def State.modCtx (s : State) (c : CtxId) (f : Ctx → Ctx) : State := s.setCtx c (f (s.ctx c))
/-- The current context. -/
def State.me (s : State) : Ctx := s.ctx s.cur
/-- The state with the current context changed. -/
def State.modMe (s : State) (f : Ctx → Ctx) : State := s.modCtx s.cur f
/-- The core of the current context. -/
def State.myCore (s : State) : Core := s.core s.cur.core
/-- The state with the core of the current context changed. -/
def State.modMyCore (s : State) (f : Core → Core) : State := s.modCore s.cur.core f
/-- R84. The current context is a helper. -/
def State.helper (s : State) : Bool := s.cur.slot != control
/-- R4. The cluster of a core, and the die of a core. -/
def clusterOf (core : Nat) : Nat := core / 8
def dieOf (core : Nat) : Nat := core / 80
/-- A cluster. -/
def State.cluster (s : State) (n : Nat) : Cluster := SMap.getD s.clusters n Cluster.reset
/-- The state with a cluster changed. -/
def State.modCluster (s : State) (n : Nat) (f : Cluster → Cluster) : State :=
  { s with clusters := SMap.set s.clusters n (f (s.cluster n)) }
/-- What a job holds. -/
def State.jobOf (s : State) (n : Nat) : Job := SMap.getD s.jobs n Job.reset
/-- The state with a job changed. -/
def State.modJob (s : State) (n : Nat) (f : Job → Job) : State := { s with jobs := SMap.set s.jobs n (f (s.jobOf n)) }

/-- R89. A register's data. -/
def Reg.word (r : Reg) : Word := r.bits.setWidth 64
/-- R89. Plain data: zero in bits [127:64], the tag clear. -/
def Reg.plain (w : Word) : Reg := ⟨w.setWidth 128, false⟩

/-- R89. A capability register of a context; g0 reads as untagged zero. -/
def Ctx.reg (c : Ctx) (n : Nat) : Reg := if n = 0 then Reg.zero else SMap.getD c.regs n Reg.zero
/-- R89. A context with a capability register written; writes to g0 are discarded. -/
def Ctx.setReg (c : Ctx) (n : Nat) (r : Reg) : Ctx := if n = 0 then c else { c with regs := SMap.set c.regs n r }

/-- A capability register of the current context. -/
def State.g (s : State) (n : BitVec 5) : Reg := s.me.reg n.toNat
/-- R110. Bits [63:0] of a capability register of the current context. -/
def State.x (s : State) (n : BitVec 5) : Word := (s.g n).word
/-- The state with a capability register of the current context written. -/
def State.setG (s : State) (n : BitVec 5) (r : Reg) : State := s.modMe (fun c => c.setReg n.toNat r)
/-- R89. The state with plain data written to a capability register of the current context. -/
def State.setX (s : State) (n : BitVec 5) (w : Word) : State := s.setG n (Reg.plain w)

/-! ## Instruction lines (R61 to R68) -/

/-- Halfword `i` of a line. -/
def half (line : BitVec 512) (i : Nat) : Nat := line.toNat / 2 ^ (16 * i) % 65536
/-- R61. The number of heads of a line. -/
def lineHeads (line : BitVec 512) : Nat := half line 0 % 32
/-- R64. The tail length of head `i`. -/
def headTL (line : BitVec 512) (i : Nat) : Nat := half line i / 8192 % 4
/-- R62. The halfwords that the tails of heads 1 to `i` take. -/
def tailsUpTo (line : BitVec 512) : Nat → Nat
  | 0 => 0
  | i + 1 => tailsUpTo line i + headTL line (i + 1)
/-- R62. The header is in order and the tails overlap neither heads nor header. -/
def lineFramed (line : BitVec 512) : Bool :=
  decide (half line 0 / 32 = 0) && decide (lineHeads line ≠ 0) &&
    decide (2 + 2 * lineHeads line + 2 * tailsUpTo line (lineHeads line) ≤ 64)
/-- R62, R83. The instruction at head `i`: head, T1, T2 and T3, halfwords beyond its TL zero. -/
def lineWord (line : BitVec 512) (i : Nat) : Nat :=
  let base := 32 - tailsUpTo line i
  let t := fun k => if k < headTL line i then half line (base + k) else 0
  half line i + t 0 * 2 ^ 16 + t 1 * 2 ^ 32 + t 2 * 2 ^ 48
/-- R67. The head index of a program counter. -/
def headIndex (pc : Word) : Nat := bits pc 5 1
/-- R67. The line address of a program counter. -/
def lineAddr (pc : Word) : Word := pc &&& ~~~(63 : Word)
/-- R68. The address of the next head, by the line last fetched. -/
def Ctx.nextHead (c : Ctx) (pc : Word) : Word :=
  if headIndex pc < lineHeads c.line then pc + 2 else lineAddr pc + 66

/-- R68. The instruction completes: the program counter moves to the next head. -/
def State.advance (s : State) : State := s.modMe (fun c => { c with pc := c.nextHead c.pc, waiting := false })

/-- An instruction that only writes plain data to `d` and completes. -/
def State.retire (s : State) (d : BitVec 5) (w : Word) : Out := .next (s.setX d w).advance

/-! ## Memories -/

/-- The memory of a space. -/
def State.memory (s : State) : Space → Memory
  | .main => s.main
  | .host => s.host
  | .spad n => (s.core n).spad
  | .cmem n => (s.cluster n).mem

/-- The state with the memory of a space replaced. -/
def State.setMemory (s : State) (sp : Space) (m : Memory) : State :=
  match sp with
  | .main => { s with main := m }
  | .host => { s with host := m }
  | .spad n => s.modCore n (fun c => { c with spad := m })
  | .cmem n => s.modCluster n (fun c => { c with mem := m })

/-- `n` bytes of a place, little-endian. -/
def State.readAt (s : State) (l : Loc) (n : Nat) : Nat := (s.memory l.space).read l.off n
/-- The state with `n` bytes of a place written (R134 clears the tags). -/
def State.writeAt (s : State) (l : Loc) (n v : Nat) : State :=
  s.setMemory l.space ((s.memory l.space).write l.off n v)
/-- The state with a 16-byte granule and its tag written; its poison mark is cleared (R184). R134 and R283 give tag bits to the package's
own memories; the host's memory keeps them in the model too (DESIGN CHOICE, log 87). -/
def State.writeCapAt (s : State) (l : Loc) (r : Reg) : State :=
  s.setMemory l.space ((((s.memory l.space).write l.off 16 r.bits.toNat).setTag l.off r.tag).setPoison l.off false)
/-- Bits of a memory: the place of a byte, the first bit from there on, and their number. -/
structure BitSpan where
  loc : Loc
  bit : Nat
  len : Nat
  deriving DecidableEq, Repr

/-- R184. The state with the poison marks of the granules that the bits cover wholly cleared. -/
def State.clearBits (s : State) (spans : List BitSpan) : State :=
  (spans.map (·.loc.space)).eraseDups.foldl (fun t sp =>
    t.setMemory sp ((t.memory sp).clearCovered
      (spans.filterMap (fun p => if p.loc.space = sp then some (8 * p.loc.off + p.bit, p.len) else none)))) s
/-- R184. The same for whole bytes: places and their numbers of bytes. -/
def State.clearCovered (s : State) (spans : List (Loc × Nat)) : State :=
  s.clearBits (spans.map (fun p => ⟨p.1, 0, 8 * p.2⟩))
/-- The tag of the granule of a place. -/
def State.tagAt (s : State) (l : Loc) : Bool := (s.memory l.space).tag l.off
/-- R184. A byte of the place lies in a marked granule. -/
def State.poisonAt (s : State) (l : Loc) (n : Nat) : Bool := (s.memory l.space).anyPoison l.off n

/-! ## Capabilities (R90 to R92) -/

namespace Reg
/-- The fields of R90. -/
def isSealed (r : Reg) : Bool := r.bits.getLsbD 127
def dom (r : Reg) : Nat := r.bits.toNat / 2 ^ 121 % 64
def permR (r : Reg) : Bool := r.bits.getLsbD 120
def permW (r : Reg) : Bool := r.bits.getLsbD 119
def permX (r : Reg) : Bool := r.bits.getLsbD 118
def permLC (r : Reg) : Bool := r.bits.getLsbD 117
def permSC (r : Reg) : Bool := r.bits.getLsbD 116
def permSH (r : Reg) : Bool := r.bits.getLsbD 115
def permG (r : Reg) : Bool := r.bits.getLsbD 114
def exp (r : Reg) : Nat := r.bits.toNat / 2 ^ 108 % 64
def capBase (r : Reg) : Nat := r.bits.toNat / 2 ^ 86 % 2 ^ 22
def capTop (r : Reg) : Nat := r.bits.toNat / 2 ^ 65 % 2 ^ 21
/-- R91. The decoded bounds, base and exclusive top, on unbounded integers. -/
def bounds (r : Reg) : Int × Int :=
  if r.exp = 63 then (0, 2 ^ 64)
  else
    let e := r.exp
    let a := r.word.toNat
    let hi : Int := (a / 2 ^ (e + 22) : Nat)
    let hi := if a / 2 ^ e % 2 ^ 22 < r.capBase then hi - 1 else hi
    let base : Int := hi * 2 ^ (e + 22) + r.capBase * 2 ^ e
    (base, base + r.capTop * 2 ^ e)
/-- R91. The encodings that are capabilities. -/
def encodable (bits : BitVec 128) : Bool :=
  let r : Reg := ⟨bits, true⟩
  decide (r.exp ≤ 42) || (decide (r.exp = 63) && decide (r.capBase = 0) && decide (r.capTop = 0))
/-- R91. The register with another address; the tag is cleared when that address is not representable. -/
def withAddr (r : Reg) (a : Word) : Reg :=
  let moved : BitVec 128 := (r.bits &&& ~~~(BitVec.ofNat 128 (2 ^ 64 - 1))) ||| a.setWidth 128
  let base := r.bounds.1
  let ok := decide (r.exp = 63) || (decide (base ≤ (a.toNat : Int)) && decide ((a.toNat : Int) < base + 2 ^ (r.exp + 22)))
  ⟨moved, r.tag && ok⟩
/-- R137, R91. A register loaded from memory: a tag stays clear on an encoding that is no capability. -/
def loaded (bits : BitVec 128) (tag : Bool) : Reg := ⟨bits, tag && encodable bits⟩
end Reg

/-- R92. What an access does with its capability. -/
inductive CapUse where
  | load
  | store
  | atomic
  | transfer
  deriving DecidableEq, Repr

/-- R131. An address in the peer-scratchpad window. -/
def isPeerAddr (a : Word) : Bool := decide (bits a 63 48 = 0x7C00)
/-- R131. An address in the own scratchpad. -/
def isOwnSpad (a : Word) : Bool := decide (bits a 63 48 = 0x7E00)
/-- R132. A fabric address. -/
def isFabric (a : Word) : Bool := a.getLsbD 63

/-- R92 check 4. The kind is permitted. -/
def Reg.permits (r : Reg) (k : CapUse) (addr : Word) : Bool :=
  (match k with
    | .load => r.permR
    | .store => r.permW
    | .atomic => r.permR && r.permW
    | .transfer => r.permX) &&
  (!(isPeerAddr addr || isFabric addr) || r.permSH)

/-- R92 checks 1 to 4. -/
def checkCapRights (r : Reg) (dom : BitVec 6) (priv : Bool) (k : CapUse) (addr : Word) : Res Unit := do
  ensure r.tag Cause.capTag addr
  ensure (!r.isSealed) Cause.capSealed addr
  ensure (decide (r.dom = dom.toNat) || decide (r.dom = 63) || priv) Cause.capDomain addr
  ensure (r.permits k addr) Cause.capPerm addr

/-- R92 check 5. `size` bytes from an address on lie within the bounds. -/
def Reg.covers (r : Reg) (addr : Int) (size : Nat) : Bool := decide (r.bounds.1 ≤ addr) && decide (addr + size ≤ r.bounds.2)

/-- R92. The checks of an access of `size` bytes with a required alignment. -/
def checkCap (r : Reg) (dom : BitVec 6) (priv : Bool) (k : CapUse) (addr : Word) (size align : Nat) : Res Unit := do
  checkCapRights r dom priv k addr
  ensure (r.covers addr.toNat size) Cause.capBounds addr
  ensure (decide (addr.toNat % align = 0)) Cause.align addr

/-- R92, R136. The further check of a store of a tagged value: SC in the capability, and G in the value unless it goes to the
own scratchpad; never to a fabric address. -/
def checkCapStore (r v : Reg) (addr : Word) : Res Unit :=
  ensure (!v.tag || (r.permSC && (v.permG || isOwnSpad addr) && !isFabric addr)) Cause.capPerm addr

/-! ## Regions (R131) -/

/-- R131. The region of an address. -/
inductive Region where
  | translated
  | spad (core off : Nat)
  | cmem (cluster off : Nat)
  | fabric
  deriving DecidableEq, Repr

/-- R131. Region decode for a context of `core`. -/
def decodeRegion (core : Nat) (a : Word) : Res Region :=
  let fault : Res Region := .error ⟨Cause.pageFault, a⟩
  if isFabric a then .ok .fabric
  else if a.toNat < 2 ^ 55 then .ok .translated
  else
    let off := bits a 47 0
    match bits a 63 48 with
    | 0x7C00 =>
      if bits a 47 33 = 0 ∧ bits a 32 24 < 320 ∧ bits a 23 0 < Config.spadBytes then
        .ok (.spad (bits a 32 24) (bits a 23 0)) else fault
    | 0x7D00 => if off < Config.cmemBytes then .ok (.cmem (clusterOf core) off) else fault
    | 0x7E00 => if off < Config.spadBytes then .ok (.spad core off) else fault
    | _ => fault

/-! ## Translation (R287 to R292) -/

/-- A context as the originator of accesses. -/
def State.who (s : State) (c : CtxId) : Who :=
  ⟨c.core, (s.ctx c).dom, (s.ctx c).priv, (s.ctx c).xlbase⟩

namespace Entry
/-- The fields of R289. -/
def valid (e : Word) : Bool := e.getLsbD 0
def leaf (e : Word) : Bool := e.getLsbD 1
def r (e : Word) : Bool := e.getLsbD 2
def w (e : Word) : Bool := e.getLsbD 3
def x (e : Word) : Bool := e.getLsbD 4
def u (e : Word) : Bool := e.getLsbD 5
def d (e : Word) : Bool := e.getLsbD 6
def pa (e : Word) : Nat := bits e 47 16
def sealed (e : Word) : Bool := e.getLsbD 53
def tgt (e : Word) : Nat := bits e 55 54
/-- R289. A bit that must be zero is set, for an entry of a level. -/
def mustBeZero (e : Word) (level : Nat) : Bool :=
  bits e 63 56 != 0 || bits e 51 48 != 0 || bits e 15 8 != 0 || decide (2 ≤ tgt e) ||
    (!leaf e && (bits e 7 2 != 0 || bits e 55 52 != 0)) || (leaf e && level == 1 && bits e 28 16 != 0)
/-- R290. The permissions of a leaf. -/
def permits (e : Word) (k : Access) (priv : Bool) : Bool :=
  (match k with
    | .load => r e
    | .store => w e
    | .atomic => r e && w e
    | .fetch => x e) && (priv || u e)
/-- R291. A set, and D set on a store or atomic. -/
def accessed (e : Word) (k : Access) : Word :=
  e ||| 0x80 ||| (match k with
    | .store => 0x40
    | .atomic => 0x40
    | _ => 0)
/-- R287. Bytes that a leaf of a level maps. -/
def span (level : Nat) : Nat := if level = 1 then 2 ^ 29 else 2 ^ 16
end Entry

/-- A leaf that a walk found: the entry, its level and its physical address. -/
structure Leaf where
  entry : Word
  level : Nat
  at_ : Nat
  deriving DecidableEq, Repr

/-- R287. The index of a level in a virtual address. -/
def levelIndex (va : Word) (l : Nat) : Nat := bits va (54 - 13 * l) (42 - 13 * l)

/-- R408. The home of an address on a fenced die does not answer (R381): addresses of main memory by the hash of R283, of a
scratchpad by its core's die. -/
def State.homeFenced (s : State) (l : Loc) : Bool :=
  s.dfence != 0 && (match l.space with
    | .main => s.dfence.getLsbD (Config.homeDie l.off % 4)
    | .spad n => s.dfence.getLsbD (dieOf n)
    | .cmem n => s.dfence.getLsbD (dieOf (8 * n))
    | .host => false)

/-- R290. One walk from table `t` through the remaining levels, reading only. A walk that meets an entry homed on a fenced die does not
complete (R381); its failure names that entry's physical address. -/
def State.walkTables (s : State) (va : Word) (k : Access) (priv : Bool) : List Nat → Nat → Res Leaf
  | [], _ => .error ⟨Cause.pageFault, va⟩
  | l :: rest, t =>
    if Config.memSize < t + 65536 then .error ⟨Cause.pageFault, va⟩
    else
      let a := t + 8 * levelIndex va l
      if s.homeFenced ⟨.main, a, a⟩ then .error ⟨Cause.linkDown, w64 a⟩
      else if s.main.anyPoison a 8 then .error ⟨Cause.poisonConsumed, va⟩
      else
        let e : Word := w64 (s.main.read a 8)
        if !Entry.valid e || Entry.mustBeZero e l then .error ⟨Cause.pageFault, va⟩
        else if !Entry.leaf e then s.walkTables va k priv rest (Entry.pa e * 2 ^ 16)
        else if l = 0 then .error ⟨Cause.pageFault, va⟩
        else if !Entry.permits e k priv then .error ⟨Cause.pagePerm, va⟩
        else if Entry.tgt e = 0 ∧ Config.memSize < Entry.pa e * 2 ^ 16 + Entry.span l then .error ⟨Cause.pageFault, va⟩
        else .ok ⟨e, l, a⟩

/-- R290. The walk of the die's walker. -/
def State.walk (s : State) (who : Who) (va : Word) (k : Access) : Res Leaf :=
  if who.xlbase.getLsbD 0 then s.walkTables va k who.priv [0, 1, 2] (bits who.xlbase 47 16 * 2 ^ 16)
  else .error ⟨Cause.pageFault, va⟩

/-- R292. The entries that a cache holds at most. -/
def Cache.size : Cache → Nat
  | .core _ => 64
  | .cluster _ => 1024

/-- R292. A cached entry serves an access: made under the same domain and ROOT, covering the page. -/
def CachedEntry.serves (e : CachedEntry) (who : Who) (va : Word) : Bool :=
  e.dom == who.dom && e.root == bits who.xlbase 47 16 &&
    (if e.level = 1 then e.page / 2 ^ 13 == bits va 54 29 else e.page == bits va 54 16)

/-- R292. The entry of one cache that serves an access. -/
def State.cachedIn (s : State) (k : Cache) (who : Who) (va : Word) : Option CachedEntry :=
  s.xcache.find? (fun e => e.cache == k && e.serves who va)

/-- R292. The cached entry that serves an access, if there is one: the core's cache is searched before the cluster's. -/
def State.cached (s : State) (who : Who) (va : Word) : Option CachedEntry :=
  match s.cachedIn (.core who.core) who va with
  | some e => some e
  | none => s.cachedIn (.cluster (clusterOf who.core)) who va

/-- R292. Caches with an entry put into its own; in a full one a free choice gives way. -/
def fillCache (l : List CachedEntry) (e : CachedEntry) (pick : Nat) : List CachedEntry :=
  let mine := l.filter (fun o => o.cache == e.cache)
  if mine.length < e.cache.size then e :: l
  else e :: (match mine[pick % e.cache.size]? with
    | some o => l.erase o
    | none => l)

/-- The parts of an entry that a walk does not change: all but A and D. -/
def Entry.fixedPart (e : Word) : Word := e &&& ~~~(0xC0 : Word)

/-- R292. The cached entry of an access whose page's entry no longer agrees with it, where the access may use it: enabled,
permitted, and with D set where it stores (R291). -/
def State.staleEntry (s : State) (who : Who) (va : Word) (k : Access) (fresh : Res Leaf) : Option CachedEntry :=
  match s.cached who va with
  | none => none
  | some e =>
    let same := match fresh with
      | .ok l => l.level == e.level && Entry.fixedPart l.entry == Entry.fixedPart e.entry
      | .error _ => false
    let store := k == .store || k == .atomic
    if !same && who.xlbase.getLsbD 0 && (Entry.d e.entry || !store) && Config.freeOldEntry s.freeN then some e else none

/-- The place that a leaf entry maps an address to. -/
def Entry.place (e : Word) (level : Nat) (va : Word) : Loc :=
  ⟨if Entry.tgt e = 1 then .host else .main, Entry.pa e * 2 ^ 16 + va.toNat % Entry.span level, va.toNat⟩

/-- R292. The caches after an access by a leaf: the entry is in the caches of the core and of its cluster, where no entry of an older
table stands there, which may be kept; copies of it follow its D and A. -/
def State.cacheLeaf (s : State) (who : Who) (va : Word) (level : Nat) (e : Word) : List CachedEntry :=
  let make := fun (k : Cache) => (⟨k, who.dom, bits who.xlbase 47 16, bits va 54 16, level, e⟩ : CachedEntry)
  let kept := s.xcache.map (fun o =>
    if o.serves who va && o.level == level && Entry.fixedPart o.entry == Entry.fixedPart e then { o with entry := e } else o)
  [Cache.cluster (clusterOf who.core), Cache.core who.core].foldl (fun l k =>
    if (s.cachedIn k who va).isSome then l else fillCache l (make k) (Config.freeEvict s.freeN)) kept

/-- R290 to R292. Translation: the state with A and D set and the entry cached, the place, and whether it is sealed. -/
def State.translate (s : State) (who : Who) (va : Word) (k : Access) : Res (State × Loc × Bool) :=
  let fresh := s.walk who va k
  match s.staleEntry who va k fresh with
  | some e =>
    if Entry.permits e.entry k who.priv then
      .ok ({ s with freeN := s.freeN + 1 }, Entry.place e.entry e.level va, Entry.sealed e.entry)
    else .error ⟨Cause.pagePerm, va⟩
  | none =>
    match fresh with
    | .error f => .error ⟨f.cause, va⟩
    | .ok l =>
      let e := Entry.accessed l.entry k
      let main := if e = l.entry then s.main else s.main.write l.at_ 8 e.toNat
      .ok ({ s with main := main, xcache := s.cacheLeaf who va l.level e }, Entry.place e l.level va, Entry.sealed e)

/-! ## Fetch and control transfer (R70 to R72) -/

/-- R72. The line at a place: the line as it now stands, or, where it was fetched since the last IFENCE and has changed, the
line as it was. -/
def State.chooseLine (s : State) (old : Option (BitVec 512)) (l : Loc) : BitVec 512 :=
  let now : BitVec 512 := BitVec.ofNat 512 (s.readAt l 64)
  match old with
  | none => now
  | some o => if o = now then now else if Config.freeOldLine s.freeN then o else now

/-- R72. The number of a place under which a context keeps the line that it has fetched there: of device memory, or of the host's. -/
def lineKey (l : Loc) : Nat := if l.space = .host then 2 ^ 64 + l.off else l.off

/-- R70, R71. Fetch of the line of an address: translation with execute permission, then the framing of R62. `lines` are the lines
fetched since the last IFENCE. -/
def State.fetchLine (s : State) (w : Who) (lines : SMap (BitVec 512)) (pc : Word) : Res (State × BitVec 512) := do
  let (s1, l, _) ← s.translate w (lineAddr pc) .fetch
  ensure (!s1.homeFenced l) Cause.linkDown pc
  let line := s1.chooseLine (SMap.find lines (lineKey l)) l
  ensure (lineFramed line) Cause.illegalLine pc
  .ok ({ s1 with freeN := s1.freeN + 1 }, line)

/-- R70. The checks of a control transfer to a target, by whom the line is fetched for; TRAPVAL holds the target. -/
def State.targetFor (s : State) (w : Who) (lines : SMap (BitVec 512)) (target : Word) : Res Unit :=
  if bits target 63 55 ≠ 0 ∨ target.getLsbD 0 then .error ⟨Cause.badTarget, target⟩
  else
    match s.fetchLine w lines target with
    | .error f => .error ⟨f.cause, target⟩
    | .ok (_, line) =>
      ensure (decide (1 ≤ headIndex target) && decide (headIndex target ≤ lineHeads line)) Cause.badTarget target

/-- R70. The checks of a control transfer of a context. -/
def State.checkTarget (s : State) (c : CtxId) (target : Word) : Res Unit := s.targetFor (s.who c) (s.ctx c).lines target

/-- R291. The state that a translation leaves. -/
def State.walked (s : State) (who : Who) (va : Word) (k : Access) : State :=
  match s.translate who va k with
  | .ok (s1, _, _) => s1
  | .error _ => s

/-- R70, R291. The state after the fetch that the checks of a target make: A is set where the fetch is permitted, whatever check passes
or fails after it. -/
def State.fetchedFor (s : State) (w : Who) (target : Word) : State :=
  if bits target 63 55 ≠ 0 ∨ target.getLsbD 0 then s else s.walked w (lineAddr target) .fetch
/-- R70, R291. The same for a transfer of a context. -/
def State.targetTouched (s : State) (c : CtxId) (target : Word) : State := s.fetchedFor (s.who c) target

/-! ## Traps (R95) -/

/-- R93. The STATUS word of a context in a slot. -/
def Ctx.statusWord (c : Ctx) (slot : Nat) : Word :=
  w64 (c.dom.toNat * 2 ^ 10 + (if c.uia then 2 ^ 7 else 0) + (if c.uie then 2 ^ 6 else 0) + (if c.priv then 2 ^ 5 else 0) +
    (if slot = control then 0 else 2 ^ 4) + slot)

/-- R95. A context with the trap registers and STATUS of a trap taken; its program counter is not yet moved. -/
def Ctx.enterTrap (c : Ctx) (slot : Nat) (t : Trap) : Ctx :=
  { c with
    trapCause := t.cause, trapPc := t.pc, trapVal := t.val, trapProg := t.prog
    estatus := c.statusWord slot, priv := true, uie := false
    waiting := false, gpos := 0, resume := .none, depth := c.depth + 1 }

/-- R95. A context takes a trap: the trap registers and ESTATUS are written, STATUS.PRIV set and UIE cleared, and the
program counter goes to TVEC; where TVEC fails R70, the context halts. The check leaves what its fetch leaves (R291). -/
def State.takeTrap (s : State) (c : CtxId) (t : Trap) : State :=
  let s1 := s.modCtx c (fun x => x.enterTrap c.slot t)
  let s2 := s1.targetTouched c (s1.ctx c).tvec
  match s1.checkTarget c (s1.ctx c).tvec with
  | .ok () => s2.modCtx c (fun x => { x with pc := x.tvec })
  | .error _ => s2.modCtx c (fun x => { x with halted := true })

/-- R95. On whose behalf TVEC is fetched: the context, with STATUS.PRIV set. -/
def State.trapReader (s : State) (c : CtxId) : Who := { s.who c with priv := true }

/-- A value of TRAPVAL that no rule states: free. -/
def State.openVal (s : State) : Word := Config.freeTrapVal s.freeN
/-- R136. A value of TRAPPROG that no rule states: free, but that a precise trap leaves bits [63:62] zero. -/
def State.openProg (s : State) : Word := Config.freeTrapProg s.freeN &&& 0x3FFFFFFFFFFFFFFF
/-- TRAPPROG[4:0] as stated, the bits above them free. -/
def State.regProg (s : State) (n : BitVec 5) : Word := (s.openProg &&& ~~~(31 : Word)) ||| zext n
/-- TRAPPROG[7:0] as stated, the bits above them free. -/
def State.byteProg (s : State) (n : Nat) : Word := (s.openProg &&& ~~~(255 : Word)) ||| w64 (n % 256)

/-- A precise trap of the current context at its own head. -/
def State.raise (s : State) (cause : BitVec 8) (val prog : Word) : State := s.takeTrap s.cur ⟨cause, s.me.pc, val, prog⟩

/-- An instruction's checks and effect: the state they give, or the trap they raise, the rest of the state unchanged. -/
def State.finish (s : State) (r : Chk State) : Out :=
  match r with
  | .ok t => .next t
  | .error t => .next (s.takeTrap s.cur t)

/-- R291. The same where the checks have read memory: a trap is taken on the state `u` that the reads leave. -/
def State.finishOn (s u : State) (r : Chk State) : Out :=
  match r with
  | .ok t => .next t
  | .error t => .next (u.takeTrap s.cur t)

/-- A trap at the head of the current instruction. -/
def State.trapHere (s : State) (cause : BitVec 8) (val prog : Word) : Trap := ⟨cause, s.me.pc, val, prog⟩

/-- A check's failure as a trap at the head of the current instruction. -/
def State.check {α : Type} (s : State) (r : Res α) (prog : Word) : Chk α := asTrap r s.me.pc prog

/-- Trap at the head of the current instruction unless a condition holds. -/
def State.need (s : State) (b : Bool) (cause : BitVec 8) (val prog : Word) : Chk Unit :=
  if b then .ok () else .error (s.trapHere cause val prog)

/-- ILLEGAL_OPERAND with a value unless a condition holds. -/
def State.needOperand (s : State) (b : Bool) (val : Word) : Chk Unit := s.need b Cause.illegalOperand val s.openProg

/-- R77, R83. A decode fault of the issuing member: TRAPPC holds the group's first head, TRAPVAL the member's word. -/
def State.decodeFault (s : State) (cause : BitVec 8) (prog : Word) : Trap := ⟨cause, s.me.ghead, s.me.ir, prog⟩

/-- R81. The position of the issuing member in its group: its head counted from the group's first. TRAPPROG[7:0] of NOT_IN_HELPER and
PRIV, for which R81 gives no subcode, is 0 (DESIGN CHOICE, log 10). -/
def State.position (s : State) : Word := w64 (256 * (headIndex s.me.pc - headIndex s.me.ghead))

/-- R104. A privileged instruction: PRIV at decode in user mode. -/
def State.privileged (s : State) (m : Chk State) : Out :=
  s.finish (if s.me.priv then m else .error (s.decodeFault Cause.priv s.position))

/-- R78. An instruction of the control context alone: NOT_IN_HELPER at decode in a helper. -/
def State.controlOnly (s : State) (m : Chk State) : Out :=
  s.finish (if s.helper then .error (s.decodeFault Cause.notInHelper s.position) else m)

/-- R78, R291. The same where the checks have read memory. -/
def State.controlOn (s u : State) (m : Chk State) : Out := if s.helper then s.controlOnly m else s.finishOn u m

/-- R87. A waiting instruction whose condition does not hold yet: the context is held at its head, a group boundary. -/
def State.hold (s : State) : State := s.modMe (fun c => { c with waiting := true, gpos := 0 })

/-- A waiting instruction completes when its condition holds, and holds its context otherwise. -/
def State.waitFor (s : State) (b : Bool) (done : State) : State := if b then done else s.hold

/-- R424. A deferred trap becomes pending for a context. -/
def State.defer (s : State) (c : CtxId) (d : Deferred) : State :=
  s.modCtx c (fun x => { x with deferred := x.deferred ++ [d] })

/-! ## Range locks (R133 step 5, R234, R235) -/

/-- Two byte spans overlap. -/
def overlap (a1 n1 lo hi : Nat) : Bool := decide (a1 < hi) && decide (lo < a1 + n1)

/-- R235. A lock refuses an access: a DST span refuses every access, a SRC span every write. -/
def Lock.refuses (k : Lock) (write : Bool) (a n : Nat) : Bool := (k.dst || write) && overlap a n k.lo k.hi

/-- R131, R235. The address by which a place is compared in lock tables: its window address, or its virtual address. -/
def lockAddr (core : Nat) (l : Loc) : Nat :=
  match l.space with
  | .spad n => if n = core then 0x7E00 * 2 ^ 48 + l.off else 0x7C00 * 2 ^ 48 + n * 2 ^ 24 + l.off
  | .cmem _ => 0x7D00 * 2 ^ 48 + l.off
  | _ => l.va

/-- R133 step 5. The core's table, and the cluster's for cluster-memory and translated addresses, refuse an access. -/
def State.locked (s : State) (core : Nat) (l : Loc) (n : Nat) (write : Bool) : Bool :=
  let a := lockAddr core l
  (s.core core).locks.any (·.refuses write a n) ||
    (match l.space with
      | .spad _ => false
      | _ => (s.cluster (clusterOf core)).locks.any (·.refuses write a n))

/-! ## The access checks of R133 -/

/-- The kind of translation that a use of a capability needs. -/
def CapUse.access : CapUse → Access
  | .load => .load
  | .store => .store
  | .atomic => .atomic
  | .transfer => .fetch

/-- R133. An access writes. -/
def CapUse.writes : CapUse → Bool
  | .store => true
  | .atomic => true
  | _ => false

/-- A place that passed R133 steps 2 to 5. -/
abbrev Place := Home

/-- R132, R404. The remote key that a fabric address selects. -/
def State.remoteKey (s : State) (core : Nat) (a : Word) : BitVec 32 :=
  SMap.getD (s.jobOf (s.core core).job).rkeys (bits a 62 60) 0

/-- R381. An access whose translation the fence of a die stops: it goes to the table entry that its walk cannot read, whose home refuses
it as it refuses any access to that die. -/
def State.stoppedAt (s : State) (who : Who) (a : Word) (k : CapUse) (f : Fail) : Res (State × Place) :=
  match s.walk who a k.access with
  | .error g => if f.cause = Cause.linkDown ∧ g.cause = Cause.linkDown then .ok (s, .local ⟨.main, g.val.toNat, a.toNat⟩) else .error f
  | .ok _ => .error f

/-- R133 steps 2 to 5 for an access that a context or an engine makes. -/
def State.resolve (s : State) (who : Who) (a : Word) (n : Nat) (k : CapUse) : Res (State × Place) := do
  match ← decodeRegion who.core a with
  | .fabric => .ok (s, .remote a (s.remoteKey who.core a))
  | .spad c off =>
    ensure (!s.locked who.core ⟨.spad c, off, a.toNat⟩ n k.writes) Cause.rangeLocked a
    .ok (s, .local ⟨.spad c, off, a.toNat⟩)
  | .cmem c off =>
    ensure (!s.locked who.core ⟨.cmem c, off, a.toNat⟩ n k.writes) Cause.rangeLocked a
    .ok (s, .local ⟨.cmem c, off, a.toNat⟩)
  | .translated =>
    match s.translate who a k.access with
    | .error f => s.stoppedAt who a k f
    | .ok (s1, l, sealed) => do
      ensure (!(sealed && k.writes)) Cause.sealedWrite a
      ensure (!s1.locked who.core l n k.writes) Cause.rangeLocked a
      .ok (s1, .local l)

/-- R290, R291. The state after the translation of an access, which sets A and D whatever check fails after it. -/
def State.touched (s : State) (who : Who) (a : Word) (k : CapUse) : State :=
  match decodeRegion who.core a with
  | .ok .translated => s.walked who a k.access
  | _ => s

/-- R133. TRAPPROG of a failed access: base register, the write bit, and the count and resume bits of R141. -/
def accessProg (base : BitVec 5) (write : Bool) (count : Nat) (resume : Bool) : Word :=
  w64 (base.toNat + (if write then 2 ^ 5 else 0) + count * 2 ^ 6 + (if resume then 2 ^ 12 else 0))

end Sys2Proof.Machine
end

