-- ==== Sys2Proof/Machine/Operands.lean ====
section
/-!
DEFINITION. The operand forms of the scalar instructions (R110 to R117, R137 to R140): register pairs, immediates, bit fields,
base and displacement, base and scaled index; and the integer functions of R113 to R117.
-/

namespace Sys2Proof.Machine

/-- R113. A register-register operation: `f` of g[a] and g[b] as plain data in g[d]. -/
def State.binary (s : State) (d a b : BitVec 5) (f : Word → Word → Word) : Out := s.retire d (f (s.x a) (s.x b))
/-- R114, R115. An operation on one register. -/
def State.unary (s : State) (d a : BitVec 5) (f : Word → Word) : Out := s.retire d (f (s.x a))

/-- R137. The address of a base and a signed displacement, modulo 2^64. -/
def State.dispAddr (s : State) (a : BitVec 5) (disp : BitVec 16) : Word := s.x a + sext disp
/-- R139. The address of a base and an index scaled by the size, modulo 2^64. -/
def State.indexAddr (s : State) (a b : BitVec 5) (size : Nat) : Word := s.x a + s.x b * w64 size
/-- R69. The target of a relative transfer: the head plus twice a signed count of halfwords. -/
def State.relTarget (s : State) {n : Nat} (off : BitVec n) : Word := s.me.pc + 2 * sext off

namespace Int64
/-- R113. The high half of the signed 128-bit product. -/
def mulh (a b : Word) : Word := BitVec.ofInt 64 (a.toInt * b.toInt / 2 ^ 64)
/-- R113. The high half of the unsigned 128-bit product. -/
def mulhu (a b : Word) : Word := BitVec.ofNat 64 (a.toNat * b.toNat / 2 ^ 64)
/-- R113. The signed quotient, truncated towards zero; all ones when b = 0. -/
def div (a b : Word) : Word := if b = 0 then BitVec.allOnes 64 else BitVec.ofInt 64 (a.toInt.tdiv b.toInt)
/-- R113. The unsigned quotient; all ones when b = 0. -/
def divu (a b : Word) : Word := if b = 0 then BitVec.allOnes 64 else BitVec.ofNat 64 (a.toNat / b.toNat)
/-- R113. The signed remainder, of the sign of a; a when b = 0. -/
def rem (a b : Word) : Word := if b = 0 then a else BitVec.ofInt 64 (a.toInt.tmod b.toInt)
/-- R113. The unsigned remainder; a when b = 0. -/
def remu (a b : Word) : Word := if b = 0 then a else BitVec.ofNat 64 (a.toNat % b.toNat)
/-- R113. A shift amount: b[5:0]. -/
def amount (b : Word) : Nat := b.toNat % 64
def shl (a b : Word) : Word := a <<< amount b
def shr (a b : Word) : Word := a >>> amount b
def sra (a b : Word) : Word := a.sshiftRight (amount b)
def rotr (a b : Word) : Word := a.rotateRight (amount b)
def min (a b : Word) : Word := if a.slt b then a else b
def max (a b : Word) : Word := if a.slt b then b else a
def minu (a b : Word) : Word := if a.ult b then a else b
def maxu (a b : Word) : Word := if a.ult b then b else a
def seq (a b : Word) : Word := flag (a == b)
def sne (a b : Word) : Word := flag (a != b)
def slt (a b : Word) : Word := flag (a.slt b)
def sltu (a b : Word) : Word := flag (a.ult b)
def sle (a b : Word) : Word := flag (a.sle b)
def sleu (a b : Word) : Word := flag (a.ule b)

/-- R115. Leading zeros among the lowest `n` bits. -/
def leading (a : Word) : Nat → Nat
  | 0 => 0
  | n + 1 => if a.getLsbD n then 0 else leading a n + 1
/-- R115. Trailing zeros, `n` bits remaining from bit 64 - n on. -/
def trailing (a : Word) : Nat → Nat
  | 0 => 0
  | n + 1 => if a.getLsbD (63 - n) then 0 else trailing a n + 1
/-- R115. One bits among the lowest `n`. -/
def ones (a : Word) : Nat → Nat
  | 0 => 0
  | n + 1 => ones a n + (if a.getLsbD n then 1 else 0)
/-- R115. The lowest `n` bits in reverse order, the lowest becoming bit 63. -/
def reversed (a : Word) : Nat → Word
  | 0 => 0
  | n + 1 => reversed a n ||| (if a.getLsbD n then (1 : Word) <<< (63 - n) else 0)
def clz (a : Word) : Word := w64 (leading a 64)
def ctz (a : Word) : Word := w64 (trailing a 64)
def popc (a : Word) : Word := w64 (ones a 64)
def brev (a : Word) : Word := reversed a 64
/-- R115. Bytes in reverse order. -/
def bswap (a : Word) : Word :=
  (List.range 8).foldl (fun r i => r ||| zext (a.extractLsb' (8 * i) 8) <<< (8 * (7 - i))) 0
/-- R115. The lowest `n` bits sign- or zero-extended. -/
def sextn (n : Nat) (a : Word) : Word := (a.setWidth n).signExtend 64
def zextn (n : Nat) (a : Word) : Word := (a.setWidth n).setWidth 64
end Int64

/-- R117. A bit field is legal: 1 ≤ len and pos + len ≤ 64, with len = lenm + 1. -/
def fieldLegal (pos lenm : BitVec 6) : Bool := decide (pos.toNat + lenm.toNat + 1 ≤ 64)
/-- R117. a[pos+len-1:pos], zero- or sign-extended. -/
def extractField (a : Word) (pos len : Nat) (signed : Bool) : Word :=
  let f := (a >>> pos) &&& w64 (2 ^ len - 1)
  if signed && f.getLsbD (len - 1) then f ||| ~~~ w64 (2 ^ len - 1) else f
/-- R117. b with bits [pos+len-1:pos] replaced by a[len-1:0]. -/
def insertField (b a : Word) (pos len : Nat) : Word :=
  let mask := w64 (2 ^ len - 1)
  (b &&& ~~~(mask <<< pos)) ||| ((a &&& mask) <<< pos)

end Sys2Proof.Machine
end

