-- ==== Sys2Proof/Machine/Branch.lean ====
section
/-!
DEFINITION. Branches and calls: majors 0x08 to 0x0A (R123 to R125). Every transfer checks its target before it takes effect
(R70).
-/

namespace Sys2Proof.Machine

/-- R70. A transfer of the current context to a target that passed its checks. -/
def State.jump (s : State) (target : Word) : State := s.modMe (fun c => { c with pc := target, waiting := false })
/-- R70, R291. Check a target and go there, on the state that the check's fetch has left, the rest of the effect in `t`. -/
def State.transfer (s : State) (target : Word) (t : State → State) : Chk State := do
  s.check (s.checkTarget s.cur target) s.openProg
  .ok ((t (s.targetTouched s.cur target)).jump target)

/-- R70, R291. An instruction whose target is checked: its effect, or its trap on the state that the check's fetch has left. -/
def State.finishTarget (s : State) (target : Word) (r : Chk State) : Out :=
  s.finishOn (s.targetTouched s.cur target) r

/-- R78, R291. The same for an instruction of the control context alone, which in a helper raises NOT_IN_HELPER at decode. -/
def State.controlTarget (s : State) (target : Word) (r : Chk State) : Out :=
  s.controlOn (s.targetTouched s.cur target) r

/-- R123. A conditional branch: not taken, it checks nothing. -/
def State.branch (s : State) (a b : BitVec 5) (off : BitVec 16) (cond : Word → Word → Bool) : Out :=
  s.finishTarget (s.relTarget off) (if cond (s.x a) (s.x b) then s.transfer (s.relTarget off) id else .ok s.advance)

/-- R123. Branch if a = b. -/
def execBeq (a b : BitVec 5) (off : BitVec 16) (s : State) : Out := s.branch a b off (· == ·)
/-- R123. Branch if a differs from b. -/
def execBne (a b : BitVec 5) (off : BitVec 16) (s : State) : Out := s.branch a b off (· != ·)
/-- R123. Branch if a < b, signed. -/
def execBlt (a b : BitVec 5) (off : BitVec 16) (s : State) : Out := s.branch a b off BitVec.slt
/-- R123. Branch if a is at least b, signed. -/
def execBge (a b : BitVec 5) (off : BitVec 16) (s : State) : Out := s.branch a b off (fun x y => y.sle x)
/-- R123. Branch if a < b, unsigned. -/
def execBltu (a b : BitVec 5) (off : BitVec 16) (s : State) : Out := s.branch a b off BitVec.ult
/-- R123. Branch if a is at least b, unsigned. -/
def execBgeu (a b : BitVec 5) (off : BitVec 16) (s : State) : Out := s.branch a b off (fun x y => y.ule x)

/-- R124. The link of a call: the next head, as plain data. -/
def State.link (s : State) (d : BitVec 5) : State := s.setX d (s.me.nextHead s.me.pc)
/-- R124. BR. -/
def execBr (off : BitVec 32) (s : State) : Out := s.finishTarget (s.relTarget off) (s.transfer (s.relTarget off) id)
/-- R124. CALL: nothing is written when the check fails. -/
def execCall (d : BitVec 5) (off : BitVec 32) (s : State) : Out := s.finishTarget (s.relTarget off) (s.transfer (s.relTarget off) (·.link d))

/-- R125. The checks of a register-indirect transfer: a tagged register needs R92 checks 2 to 5. -/
def State.checkJump (s : State) (a : BitVec 5) : Chk Unit :=
  let c := s.g a
  if c.tag then
    s.check (do
      checkCapRights c s.me.dom s.me.priv .transfer c.word
      ensure (c.covers c.word.toNat 2) Cause.capBounds c.word) (s.regProg a)
  else .ok ()
/-- R125. A transfer to g[a], read before any write. -/
def State.jumpReg (s : State) (a : BitVec 5) (t : State → State) : Out :=
  match s.checkJump a with
  | .error t => .next (s.takeTrap s.cur t)
  | .ok () => s.finishTarget (s.x a) (s.transfer (s.x a) t)
/-- R125. JMPR. -/
def execJmpr (a : BitVec 5) (s : State) : Out := s.jumpReg a id
/-- R125. CALLR. -/
def execCallr (d a : BitVec 5) (s : State) : Out := s.jumpReg a (·.link d)
/-- R125. RET. -/
def execRet (a : BitVec 5) (s : State) : Out := s.jumpReg a id

end Sys2Proof.Machine
end

