-- ==== Sys2Proof/Machine/Capability.lean ====
section
/-!
DEFINITION. The capability instructions: majors 0x18 and 0x19 (R126 to R130). Every trap leaves g[d] unchanged, TRAPVAL holds
g[a][63:0], and TRAPPROG[4:0] the number of the register that failed.
-/

namespace Sys2Proof.Machine

/-- R126. Fail with a cause unless a condition holds; `n` is the register that failed. -/
def State.needCap (s : State) (ok : Bool) (cause : BitVec 8) (a n : BitVec 5) : Chk Unit := s.need ok cause (s.x a) (s.regProg n)
/-- R126. A source must be tagged. -/
def State.needTagged (s : State) (a : BitVec 5) : Chk Unit := s.needCap (s.g a).tag Cause.capTag a a
/-- R126. A tagged source must not be sealed. -/
def State.needUnsealed (s : State) (a : BitVec 5) : Chk Unit :=
  s.needCap (!((s.g a).tag && (s.g a).isSealed)) Cause.capSealed a a
/-- The instruction writes a capability register and completes. -/
def State.retireG (s : State) (d : BitVec 5) (r : Reg) : Chk State := .ok (s.setG d r).advance

/-- R128. The bounds of the exponent `e` around [a, a + n). -/
def limitSpan (a n e : Nat) : Nat × Nat := (a / 2 ^ e * 2 ^ e, (a + n + 2 ^ e - 1) / 2 ^ e * 2 ^ e)
/-- R128. The first exponent from 0 to 42 that serves, of the `k` highest. -/
def limitExp (a n : Nat) : Nat → Option Nat
  | 0 => none
  | k + 1 =>
    let e := 42 - k
    if ((limitSpan a n e).2 - (limitSpan a n e).1) / 2 ^ e ≤ 2 ^ 21 - 1 then some e else limitExp a n k
/-- R90, R128. A capability with other bounds fields. -/
def Reg.withBounds (r : Reg) (e base top : Nat) : Reg :=
  let keep := r.bits.toNat / 2 ^ 114 * 2 ^ 114 + r.bits.toNat % 2 ^ 65
  ⟨BitVec.ofNat 128 (keep + e * 2 ^ 108 + base * 2 ^ 86 + top * 2 ^ 65), r.tag⟩
/-- R128. The capability limited to [a, a + n), or none where its bounds do not hold the new ones. -/
def Reg.limit (r : Reg) (n : Nat) : Option Reg :=
  let a := r.word.toNat
  if 2 ^ 64 < a + n then none
  else
    match limitExp a n 43 with
    | some e =>
      let (lo, hi) := limitSpan a n e
      if (lo : Int) < r.bounds.1 ∨ r.bounds.2 < hi then none
      else some (r.withBounds e (lo / 2 ^ e % 2 ^ 22) ((hi - lo) / 2 ^ e))
    | none => if (0 : Int) < r.bounds.1 ∨ r.bounds.2 < 2 ^ 64 then none else some (r.withBounds 63 0 0)

/-- R127, R128, R130. Limit the bounds of g[a] to `n` bytes. -/
def State.klim (s : State) (d a : BitVec 5) (n : Nat) : Chk State := do
  s.needTagged a
  s.needUnsealed a
  match (s.g a).limit n with
  | some r => s.retireG d r
  | none => .error (s.trapHere Cause.capBounds (s.x a) (s.regProg a))
/-- R127. KLIM. -/
def execKlim (d a b : BitVec 5) (s : State) : Out := s.finish (s.klim d a (s.x b).toNat)
/-- R130. KLIMI: the length is the zero-extended immediate. -/
def execKlimi (d a : BitVec 5) (imm : BitVec 16) (s : State) : Out := s.finish (s.klim d a imm.toNat)

/-- R126, R127. Another address for g[a]; a plain integer where it is untagged. -/
def State.moveCap (s : State) (d a : BitVec 5) (addr : Word) : Chk State := do
  s.needUnsealed a
  s.retireG d (if (s.g a).tag then (s.g a).withAddr addr else Reg.plain addr)
/-- R127. KSET. -/
def execKset (d a b : BitVec 5) (s : State) : Out := s.finish (s.moveCap d a (s.x b))
/-- R127. KADV. -/
def execKadv (d a b : BitVec 5) (s : State) : Out := s.finish (s.moveCap d a (s.x a + s.x b))
/-- R130. KADVI. -/
def execKadvi (d a : BitVec 5) (imm : BitVec 16) (s : State) : Out := s.finish (s.moveCap d a (s.x a + sext imm))

/-- R127. A capability with its permissions [120:114] masked. -/
def Reg.maskPerms (r : Reg) (m : BitVec 7) : Reg :=
  ⟨r.bits &&& ~~~((~~~m).setWidth 128 <<< 114), r.tag⟩
/-- R126, R127, R130. Mask the permissions of g[a]. -/
def State.kmask (s : State) (d a : BitVec 5) (m : BitVec 7) : Chk State := do
  s.needTagged a
  s.needUnsealed a
  s.retireG d ((s.g a).maskPerms m)
/-- R127. KMASK. -/
def execKmask (d a b : BitVec 5) (s : State) : Out := s.finish (s.kmask d a ((s.x b).setWidth 7))
/-- R130. KMASKI. -/
def execKmaski (d a : BitVec 5) (imm : BitVec 7) (s : State) : Out := s.finish (s.kmask d a imm)

/-- R90. A capability with SEALED set or cleared. -/
def Reg.setSealed (r : Reg) (b : Bool) : Reg :=
  ⟨if b then r.bits ||| BitVec.twoPow 128 127 else r.bits &&& ~~~BitVec.twoPow 128 127, r.tag⟩
/-- R129. The checks that the key makes. -/
def State.needKey (s : State) (a b : BitVec 5) : Chk Unit := do
  s.needCap (s.g b).tag Cause.capTag a b
  s.needCap (!(s.g b).isSealed) Cause.capSealed a b
  s.needCap (decide ((s.g b).dom = (s.g a).dom) && (s.g b).permW) Cause.capPerm a b
  s.needCap (decide ((s.g b).bounds.1 ≤ (s.g a).bounds.1) && decide ((s.g a).bounds.2 ≤ (s.g b).bounds.2))
    Cause.capBounds a b
/-- R129. KLOCK: seal g[a] with the key g[b]. -/
def execKlock (d a b : BitVec 5) (s : State) : Out :=
  s.finish (do
    s.needTagged a
    s.needCap (!(s.g a).isSealed) Cause.capSealed a a
    s.needKey a b
    s.retireG d ((s.g a).setSealed true))
/-- R129. KOPEN: open g[a] with the key g[b]. -/
def execKopen (d a b : BitVec 5) (s : State) : Out :=
  s.finish (do
    s.needTagged a
    s.needCap (s.g a).isSealed Cause.illegalOperand a a
    s.needKey a b
    s.retireG d ((s.g a).setSealed false))

/-- R127. One field of a capability. -/
def Reg.info (r : Reg) (sel : Nat) : Word :=
  match sel with
  | 0 => if r.tag then i64 r.bounds.1 else 0
  | 1 => if r.tag then (if r.bounds.2 - r.bounds.1 = 2 ^ 64 then BitVec.allOnes 64 else i64 (r.bounds.2 - r.bounds.1)) else 0
  | 2 => if r.tag then w64 (r.bits.toNat / 2 ^ 114 % 2 ^ 7 + (if r.isSealed then 2 ^ 7 else 0)) else 0
  | 3 => if r.tag then w64 r.dom else 0
  | _ => flag r.tag
/-- R127. KINFO reads one field as plain data; it never traps. -/
def execKinfo (d a : BitVec 5) (sel : BitVec 5) (s : State) : Out := s.retire d ((s.g a).info sel.toNat)
/-- R127. KSTRIP: all 128 bits, the tag cleared. -/
def execKstrip (d a : BitVec 5) (s : State) : Out := s.finish (s.retireG d ⟨(s.g a).bits, false⟩)
/-- R127. KCOPY: all 129 bits. -/
def execKcopy (d a : BitVec 5) (s : State) : Out := s.finish (s.retireG d (s.g a))

end Sys2Proof.Machine
end

