-- ==== Sys2Proof/Machine/Formats.lean ====
section
/-!
DEFINITION. Number formats, rounding and flags (file 01): values of encodings on unbounded integers, one rounding of an
exact value with its flags, arithmetic on floating-point encodings, and the conversions of R26 to R28. Encodings are numbers
(the raw bits of an element); an exact magnitude is `m * 2^e`, or lies strictly between `m` and `m + 1` times `2^e`.
-/

namespace Sys2Proof.Machine

/-- R9, R13. The element formats. -/
inductive Elem where
  | fp64 | fp32 | fp19 | bf16 | fp16 | e5m2 | e4m3 | e3m2 | e2m3 | e2m1
  | int64 | int32 | int16 | int8 | uint8 | int4 | uint4
  deriving DecidableEq, Repr

/-- R11, R12. Which NaN encodings a format has. -/
inductive NanKind where
  | ieee
  | one
  | none
  deriving DecidableEq, Repr

/-- R9, R11. A floating-point format: field widths, bias, the place of its lowest bit in the container, specials. -/
structure Fmt where
  ebits : Nat
  mbits : Nat
  bias : Nat
  lo : Nat
  inf : Bool
  nan : NanKind
  deriving DecidableEq, Repr

/-- R9. The floating-point formats. -/
def Elem.fmt : Elem → Option Fmt
  | .fp64 => some ⟨11, 52, 1023, 0, true, .ieee⟩
  | .fp32 => some ⟨8, 23, 127, 0, true, .ieee⟩
  | .fp19 => some ⟨8, 10, 127, 13, true, .ieee⟩
  | .bf16 => some ⟨8, 7, 127, 0, true, .ieee⟩
  | .fp16 => some ⟨5, 10, 15, 0, true, .ieee⟩
  | .e5m2 => some ⟨5, 2, 15, 0, true, .ieee⟩
  | .e4m3 => some ⟨4, 3, 7, 0, false, .one⟩
  | .e3m2 => some ⟨3, 2, 3, 0, false, .none⟩
  | .e2m3 => some ⟨2, 3, 1, 0, false, .none⟩
  | .e2m1 => some ⟨2, 1, 1, 0, false, .none⟩
  | .int64 | .int32 | .int16 | .int8 | .uint8 | .int4 | .uint4 => none

/-- R9, R13, R14. Bits of an element's container. -/
def Elem.width : Elem → Nat
  | .fp64 => 64 | .fp32 => 32 | .fp19 => 32 | .bf16 => 16 | .fp16 => 16 | .e5m2 => 8 | .e4m3 => 8 | .e3m2 => 6
  | .e2m3 => 6 | .e2m1 => 4 | .int64 => 64 | .int32 => 32 | .int16 => 16 | .int8 => 8 | .uint8 => 8 | .int4 => 4
  | .uint4 => 4

/-- R13. The element is a signed integer. -/
def Elem.signed : Elem → Bool
  | .uint8 => false
  | .uint4 => false
  | _ => true

/-- The element is a floating-point format. -/
def Elem.isFloat (t : Elem) : Bool := t.fmt.isSome

/-! ## Flags and modes -/

/-- R22. The sticky flags. -/
abbrev Flags := BitVec 5
def nv : Flags := 16
def dz : Flags := 8
def ovf : Flags := 4
def unf : Flags := 2
def nx : Flags := 1

/-- R15. The rounding modes by their codes. -/
inductive Mode where
  | rne | rtz | rup | rdn
  deriving DecidableEq, Repr

/-- R15. The mode of a code. -/
def modeOf (code : Nat) : Mode :=
  match code % 4 with
  | 0 => .rne
  | 1 => .rtz
  | 2 => .rup
  | _ => .rdn

/-! ## Values of encodings -/

/-- R10 to R12. What an encoding denotes: a NaN, an infinity, or plus or minus `m * 2^e`. -/
inductive Val where
  | nan (signalling : Bool)
  | inf (neg : Bool)
  | fin (neg : Bool) (m : Nat) (e : Int)
  deriving DecidableEq, Repr

/-- The bits that a format uses of its container, moved to bit 0. -/
def Fmt.strip (f : Fmt) (raw : Nat) : Nat := raw / 2 ^ f.lo % 2 ^ (1 + f.ebits + f.mbits)

/-- R10 to R12. The value of an encoding. -/
def Fmt.value (f : Fmt) (raw : Nat) : Val :=
  let x := f.strip raw
  let m := x % 2 ^ f.mbits
  let e := x / 2 ^ f.mbits % 2 ^ f.ebits
  let s := decide (x / 2 ^ (f.ebits + f.mbits) = 1)
  let top := 2 ^ f.ebits - 1
  let finite : Val :=
    if e = 0 then .fin s m (1 - (f.bias : Int) - f.mbits)
    else .fin s (2 ^ f.mbits + m) ((e : Int) - f.bias - f.mbits)
  match f.nan with
  | .ieee =>
    if e = top then
      if m = 0 then .inf s else .nan (decide (2 < f.mbits) && decide (m < 2 ^ (f.mbits - 1)))
    else finite
  | .one => if e = top ∧ m = 2 ^ f.mbits - 1 then .nan false else finite
  | .none => finite

/-- R11. The largest finite magnitude, as a mantissa with its lowest exponent. -/
def Fmt.maxFin (f : Fmt) : Nat × Int :=
  match f.nan with
  | .ieee => (2 ^ (f.mbits + 1) - 1, (2 ^ f.ebits - 2 : Nat) - (f.bias : Int) - f.mbits)
  | .one => (2 ^ (f.mbits + 1) - 2, (2 ^ f.ebits - 1 : Nat) - (f.bias : Int) - f.mbits)
  | .none => (2 ^ (f.mbits + 1) - 1, (2 ^ f.ebits - 1 : Nat) - (f.bias : Int) - f.mbits)

/-- A sign and a magnitude field in a format's container. -/
def Fmt.put (f : Fmt) (neg : Bool) (mag : Nat) : Nat :=
  ((if neg then 2 ^ (f.ebits + f.mbits) else 0) + mag) * 2 ^ f.lo

/-- R11. The encoding of the largest finite value. -/
def Fmt.maxBits (f : Fmt) (neg : Bool) : Nat :=
  f.put neg (match f.nan with
    | .ieee => (2 ^ f.ebits - 1) * 2 ^ f.mbits - 1
    | .one => 2 ^ (f.ebits + f.mbits) - 2
    | .none => 2 ^ (f.ebits + f.mbits) - 1)

/-- R11. The encoding of an infinity, for a format that has them. -/
def Fmt.infBits (f : Fmt) (neg : Bool) : Nat := f.put neg ((2 ^ f.ebits - 1) * 2 ^ f.mbits)

/-- R11, R21. The default NaN; a format without NaN delivers +0 instead. -/
def Fmt.defaultNaN (f : Fmt) : Nat :=
  match f.nan with
  | .ieee => f.put false ((2 ^ f.ebits - 1) * 2 ^ f.mbits + 2 ^ (f.mbits - 1))
  | .one => f.put false (2 ^ (f.ebits + f.mbits) - 1)
  | .none => 0

/-! ## Rounding (R15, R19, R20) -/

/-- Bits of a positive number. -/
def bitLen (n : Nat) : Nat := if n = 0 then 0 else Nat.log2 n + 1

/-- Round `m * 2^e`, exact or with more below it (`sticky`), to a multiple of `2^q`: the multiple and whether it is inexact. -/
def roundAt (mode : Mode) (neg : Bool) (m : Nat) (e : Int) (sticky : Bool) (q : Int) : Nat × Bool :=
  if q ≤ e then
    let n := m * 2 ^ (e - q).toNat
    (if sticky && ((mode == .rup && !neg) || (mode == .rdn && neg)) then n + 1 else n, sticky)
  else
    let d := 2 ^ (q - e).toNat
    let n := m / d
    let r := m % d
    let inexact := sticky || decide (r ≠ 0)
    let up := match mode with
      | .rtz => false
      | .rup => !neg && inexact
      | .rdn => neg && inexact
      | .rne => decide (d < 2 * r) || (decide (2 * r = d) && (sticky || decide (n % 2 = 1)))
    (if up then n + 1 else n, inexact)

/-- R19. What an overflow delivers. -/
def Fmt.overflowBits (f : Fmt) (mode : Mode) (sat neg : Bool) : Nat :=
  if !f.inf || sat then f.maxBits neg
  else
    match mode with
    | .rne => f.infBits neg
    | .rtz => f.maxBits neg
    | .rup => if neg then f.maxBits neg else f.infBits neg
    | .rdn => if neg then f.infBits neg else f.maxBits neg

/-- `a * 2^i` is greater than `b * 2^j`. -/
def gtScaled (a : Nat) (i : Int) (b : Nat) (j : Int) : Bool :=
  if i ≤ j then decide (b * 2 ^ (j - i).toNat < a) else decide (b < a * 2 ^ (i - j).toNat)

/-- R19, R20. One rounding of an exact magnitude to a format, with its flags. -/
def Fmt.round (f : Fmt) (mode : Mode) (sat neg : Bool) (m : Nat) (e : Int) (sticky : Bool) : Nat × Flags :=
  if m = 0 && !sticky then (f.put neg 0, 0)
  else
    let top : Int := e + bitLen m - 1
    let qFree : Int := top - f.mbits
    let qMin : Int := 1 - (f.bias : Int) - f.mbits
    let q := max qFree qMin
    let (n, inexact) := roundAt mode neg m e sticky q
    let (nFree, _) := roundAt mode neg m e sticky qFree
    let tiny := gtScaled 1 (1 - (f.bias : Int)) nFree qFree
    let flags : Flags := (if inexact then nx else 0) ||| (if tiny && inexact then unf else 0)
    if gtScaled n q f.maxFin.1 f.maxFin.2 then (f.overflowBits mode sat neg, ovf ||| nx)
    else if n < 2 ^ f.mbits then (f.put neg n, flags)
    else if n = 2 ^ (f.mbits + 1) then (f.put neg ((q + f.mbits + f.bias + 1).toNat * 2 ^ f.mbits), flags)
    else (f.put neg ((q + f.mbits + f.bias).toNat * 2 ^ f.mbits + (n - 2 ^ f.mbits)), flags)

/-- R19, R26. What an exact infinite result delivers. -/
def Fmt.infResult (f : Fmt) (sat neg : Bool) : Nat × Flags :=
  if f.inf && !sat then (f.infBits neg, 0) else (f.maxBits neg, ovf ||| nx)

/-- R21. An invalid operation. -/
def Fmt.invalid (f : Fmt) : Nat × Flags := (f.defaultNaN, nv)

/-- R21. A NaN result: NV when an operand is signalling. -/
def Fmt.nanResult (f : Fmt) (signalling : Bool) : Nat × Flags := (f.defaultNaN, if signalling then nv else 0)

/-! ## Arithmetic -/

/-- The signed sum of two exact values at a common exponent. -/
def addExact (n1 : Bool) (m1 : Nat) (e1 : Int) (n2 : Bool) (m2 : Nat) (e2 : Int) : Int × Int :=
  let e := min e1 e2
  let a : Int := m1 * 2 ^ (e1 - e).toNat
  let b : Int := m2 * 2 ^ (e2 - e).toNat
  ((if n1 then -a else a) + (if n2 then -b else b), e)

/-- R20, R120. The sum of two finite values, rounded; an exact zero is +0, or -0 in RDN, unless both are zeros of one sign. -/
def Fmt.sumFin (f : Fmt) (mode : Mode) (sat : Bool) (n1 : Bool) (m1 : Nat) (e1 : Int) (n2 : Bool) (m2 : Nat) (e2 : Int) :
    Nat × Flags :=
  let (v, e) := addExact n1 m1 e1 n2 m2 e2
  if v = 0 then
    (f.put (if m1 = 0 ∧ m2 = 0 ∧ n1 = n2 then n1 else mode == .rdn) 0, 0)
  else f.round mode sat (decide (v < 0)) v.natAbs e false

/-- a + b. -/
def Fmt.add (f : Fmt) (mode : Mode) (sat : Bool) (a b : Val) : Nat × Flags :=
  match a, b with
  | .nan x, .nan y => f.nanResult (x || y)
  | .nan x, _ => f.nanResult x
  | _, .nan y => f.nanResult y
  | .inf x, .inf y => if x = y then f.infResult sat x else f.invalid
  | .inf x, _ => f.infResult sat x
  | _, .inf y => f.infResult sat y
  | .fin n1 m1 e1, .fin n2 m2 e2 => f.sumFin mode sat n1 m1 e1 n2 m2 e2

/-- The value with its sign flipped. -/
def Val.neg : Val → Val
  | .nan s => .nan s
  | .inf n => .inf (!n)
  | .fin n m e => .fin (!n) m e

/-- a - b. -/
def Fmt.sub (f : Fmt) (mode : Mode) (sat : Bool) (a b : Val) : Nat × Flags := f.add mode sat a b.neg

/-- a * b. -/
def Fmt.mul (f : Fmt) (mode : Mode) (a b : Val) : Nat × Flags :=
  match a, b with
  | .nan x, .nan y => f.nanResult (x || y)
  | .nan x, _ => f.nanResult x
  | _, .nan y => f.nanResult y
  | .inf x, .inf y => f.infResult false (x != y)
  | .inf x, .fin n m _ => if m = 0 then f.invalid else f.infResult false (x != n)
  | .fin n m _, .inf y => if m = 0 then f.invalid else f.infResult false (n != y)
  | .fin n1 m1 e1, .fin n2 m2 e2 => f.round mode false (n1 != n2) (m1 * m2) (e1 + e2) false

/-- a * b + c with a single rounding; NV for 0 times infinity even when c is a quiet NaN (R120, R163). -/
def Fmt.fma (f : Fmt) (mode : Mode) (a b c : Val) : Nat × Flags :=
  let sig : Val → Bool := fun v => match v with
    | .nan s => s
    | _ => false
  let isNan : Val → Bool := fun v => match v with
    | .nan _ => true
    | _ => false
  let zeroInf : Bool := match a, b with
    | .inf _, .fin _ m _ => decide (m = 0)
    | .fin _ m _, .inf _ => decide (m = 0)
    | _, _ => false
  if zeroInf then f.invalid
  else if isNan a || isNan b || isNan c then f.nanResult (sig a || sig b || sig c)
  else
    let prod : Val := match a, b with
      | .inf x, .inf y => .inf (x != y)
      | .inf x, .fin n _ _ => .inf (x != n)
      | .fin n _ _, .inf y => .inf (n != y)
      | .fin n1 m1 e1, .fin n2 m2 e2 => .fin (n1 != n2) (m1 * m2) (e1 + e2)
      | _, _ => .nan false
    f.add mode false prod c

/-- The quotient of two positive magnitudes with `extra` further bits: a floor and whether something lies below it. -/
def divExact (f : Fmt) (m1 m2 : Nat) : Nat × Int × Bool :=
  let k := f.mbits + 4 + bitLen m2
  let n := m1 * 2 ^ k
  (n / m2, -(k : Int), decide (n % m2 ≠ 0))

/-- a / b (R21). -/
def Fmt.div (f : Fmt) (mode : Mode) (a b : Val) : Nat × Flags :=
  match a, b with
  | .nan x, .nan y => f.nanResult (x || y)
  | .nan x, _ => f.nanResult x
  | _, .nan y => f.nanResult y
  | .inf _, .inf _ => f.invalid
  | .inf x, .fin n _ _ => f.infResult false (x != n)
  | .fin n _ _, .inf y => (f.put (n != y) 0, 0)
  | .fin n1 m1 e1, .fin n2 m2 e2 =>
    if m2 = 0 then
      if m1 = 0 then f.invalid
      else (if f.inf then f.infBits (n1 != n2) else f.maxBits (n1 != n2), dz)
    else
      let (q, k, st) := divExact f m1 m2
      f.round mode false (n1 != n2) q (e1 - e2 + k) st

/-- The integer square root by bits, from the highest bit that can be set down. -/
def isqrtFrom (n : Nat) : Nat → Nat → Nat
  | 0, r => r
  | k + 1, r => isqrtFrom n k (if (r + 2 ^ k) * (r + 2 ^ k) ≤ n then r + 2 ^ k else r)
/-- The integer square root. -/
def isqrt (n : Nat) : Nat := isqrtFrom n (bitLen n / 2 + 1) 0

/-- The square root of `m * 2^e` to enough bits: a floor, its exponent, and whether something lies below it. -/
def sqrtExact (f : Fmt) (m : Nat) (e : Int) : Nat × Int × Bool :=
  let k : Int := 2 * (f.mbits + 4)
  let k := if (e - k) % 2 = 0 then k else k + 1
  let n := m * 2 ^ k.toNat
  let r := isqrt n
  (r, (e - k) / 2, decide (r * r ≠ n))

/-- The square root (R21). -/
def Fmt.sqrt (f : Fmt) (mode : Mode) (a : Val) : Nat × Flags :=
  match a with
  | .nan s => f.nanResult s
  | .inf n => if n then f.invalid else f.infResult false false
  | .fin n m e =>
    if m = 0 then (f.put n 0, 0)
    else if n then f.invalid
    else
      let (r, k, st) := sqrtExact f m e
      f.round mode false false r k st

/-- R162. The reciprocal (R21). -/
def Fmt.rcp (f : Fmt) (mode : Mode) (a : Val) : Nat × Flags := f.div mode (.fin false 1 0) a

/-- R162. The reciprocal square root, correctly rounded from its exact value (R21). -/
def Fmt.rsqrt (f : Fmt) (mode : Mode) (a : Val) : Nat × Flags :=
  match a with
  | .nan s => f.nanResult s
  | .inf n => if n then f.invalid else (f.put false 0, 0)
  | .fin n m e =>
    if m = 0 then (if f.inf then f.infBits n else f.maxBits n, dz)
    else if n then f.invalid
    else
      let e2 := if e % 2 = 0 then e else e - 1
      let m2 := if e % 2 = 0 then m else 2 * m
      let k := 2 * (f.mbits + 4 + bitLen m2)
      let n2 := 2 ^ (2 * k)
      let r := isqrt (n2 / m2)
      f.round mode false false r (-(k : Int) - e2 / 2) (decide (r * r * m2 ≠ n2))

/-- The order of two finite values: negative, zero or positive as a - b is. -/
def cmpFin (n1 : Bool) (m1 : Nat) (e1 : Int) (n2 : Bool) (m2 : Nat) (e2 : Int) : Int := (addExact n1 m1 e1 (!n2) m2 e2).1

/-- a < b for values that are no NaN. -/
def Val.lt : Val → Val → Bool
  | .inf true, .inf b => !b
  | .inf true, _ => true
  | .inf false, _ => false
  | _, .inf b => !b
  | .fin n1 m1 e1, .fin n2 m2 e2 => decide (cmpFin n1 m1 e1 n2 m2 e2 < 0)
  | _, _ => false

/-- a = b numerically, -0 and +0 equal, for values that are no NaN. -/
def Val.eq : Val → Val → Bool
  | .inf a, .inf b => a == b
  | .fin n1 m1 e1, .fin n2 m2 e2 => decide (cmpFin n1 m1 e1 n2 m2 e2 = 0)
  | _, _ => false

def Val.isNaN : Val → Bool
  | .nan _ => true
  | _ => false
def Val.isSignalling : Val → Bool
  | .nan s => s
  | _ => false
def Val.isNeg : Val → Bool
  | .nan _ => false
  | .inf n => n
  | .fin n _ _ => n
def Val.isZero : Val → Bool
  | .fin _ m _ => decide (m = 0)
  | _ => false

/-- R21. a is the lesser of two numbers, -0 counting as less than +0. -/
def Val.ltSigned (a b : Val) : Bool := a.lt b || (a.isZero && b.isZero && a.isNeg && !b.isNeg)

/-- R21. Minimum or maximum of two encodings. -/
def Fmt.minMax (f : Fmt) (isMax : Bool) (ra rb : Nat) : Nat × Flags :=
  let a := f.value ra
  let b := f.value rb
  if a.isSignalling || b.isSignalling then f.invalid
  else
    match a.isNaN, b.isNaN with
    | true, true => (f.defaultNaN, 0)
    | true, false => (f.strip rb * 2 ^ f.lo, 0)
    | false, true => (f.strip ra * 2 ^ f.lo, 0)
    | false, false => ((if b.ltSigned a == isMax then f.strip ra else f.strip rb) * 2 ^ f.lo, 0)

/-- R122. The class of an encoding, as a bit number. -/
def Fmt.classOf (f : Fmt) (raw : Nat) : Nat :=
  match f.value raw with
  | .nan true => 8
  | .nan false => 9
  | .inf true => 0
  | .inf false => 7
  | .fin n m e =>
    if m = 0 then (if n then 3 else 4)
    else if m < 2 ^ f.mbits ∧ e = 1 - (f.bias : Int) - f.mbits then (if n then 2 else 5)
    else (if n then 1 else 6)

/-! ## Conversions (R26 to R28) -/

/-- R26. A floating-point value in another floating-point format. -/
def Fmt.ofVal (f : Fmt) (mode : Mode) (sat : Bool) (v : Val) : Nat × Flags :=
  match v with
  | .nan s => if f.nan = .none then (0, nv) else f.nanResult s
  | .inf n => f.infResult sat n
  | .fin n m e => f.round mode sat n m e false

/-- R13. The range of an integer format. -/
def Elem.intRange (t : Elem) : Int × Int :=
  if t.signed then (-(2 ^ (t.width - 1) : Nat), (2 ^ (t.width - 1) : Nat) - 1) else (0, (2 ^ t.width : Nat) - 1)

/-- R13. The value of an integer encoding. -/
def Elem.intVal (t : Elem) (raw : Nat) : Int :=
  let x := raw % 2 ^ t.width
  if t.signed && decide (2 ^ (t.width - 1) ≤ x) then (x : Int) - (2 ^ t.width : Nat) else x

/-- The encoding of an integer modulo the width. -/
def Elem.ofInt (t : Elem) (i : Int) : Nat := (i % (2 ^ t.width : Nat)).toNat

/-- The integer clamped to a format's range. -/
def Elem.clamp (t : Elem) (i : Int) : Int := max t.intRange.1 (min t.intRange.2 i)

/-- R27. A floating-point value as an integer of a format. -/
def Elem.ofVal (t : Elem) (mode : Mode) (v : Val) : Nat × Flags :=
  match v with
  | .nan _ => (0, nv)
  | .inf n => (t.ofInt (if n then t.intRange.1 else t.intRange.2), nv)
  | .fin n m e =>
    let (k, inexact) := roundAt mode n m e false 0
    let i : Int := if n then -(k : Int) else k
    if i < t.intRange.1 ∨ t.intRange.2 < i then (t.ofInt (t.clamp i), nv)
    else (t.ofInt i, if inexact then nx else 0)

/-- R28. An integer in a floating-point format. -/
def Fmt.ofInt (f : Fmt) (mode : Mode) (sat : Bool) (i : Int) : Nat × Flags :=
  f.round mode sat (decide (i < 0)) i.natAbs 0 false

/-- R26 to R28, R19. One element converted from a format to another; without saturation, an element keeps its own format's bits. -/
def convert (src dst : Elem) (mode : Mode) (sat : Bool) (raw : Nat) : Nat × Flags :=
  match src.fmt, dst.fmt with
  | some f, some g =>
    if src = dst ∧ sat = false then
      match f.value raw with
      | .nan s => f.nanResult s
      | _ => (raw % 2 ^ src.width, 0)
    else g.ofVal mode sat (f.value raw)
  | some f, none => dst.ofVal mode (f.value raw)
  | none, some g => g.ofInt mode sat (src.intVal raw)
  | none, none => (dst.ofInt (dst.clamp (src.intVal raw)), 0)

/-- R42. The format of a vector tag 1 to 15. -/
def elemOfTag : Nat → Option Elem
  | 1 => some .fp32 | 2 => some .bf16 | 3 => some .fp16 | 4 => some .e4m3 | 5 => some .e5m2 | 6 => some .e3m2
  | 7 => some .e2m3 | 8 => some .e2m1 | 9 => some .int32 | 10 => some .int16 | 11 => some .int8 | 12 => some .uint8
  | 13 => some .int4 | 14 => some .uint4 | 15 => some .fp19 | _ => none

/-- R175. The base format of a matrix format code 0 to 19, and whether it is block-scaled. -/
def elemOfMatrix : Nat → Option (Elem × Bool)
  | 0 => some (.fp32, false) | 1 => some (.fp19, false) | 2 => some (.bf16, false) | 3 => some (.fp16, false)
  | 4 => some (.e5m2, false) | 5 => some (.e4m3, false) | 6 => some (.e3m2, false) | 7 => some (.e2m3, false)
  | 8 => some (.e2m1, false) | 9 => some (.int16, false) | 10 => some (.int8, false) | 11 => some (.uint8, false)
  | 12 => some (.int4, false) | 13 => some (.uint4, false) | 14 => some (.e4m3, true) | 15 => some (.e5m2, true)
  | 16 => some (.e2m3, true) | 17 => some (.e2m1, true) | 18 => some (.int8, true) | 19 => some (.int4, true)
  | _ => none

/-- R121. The format of an SFCVT code 0 to 8. -/
def elemOfScalar : Nat → Elem
  | 0 => .fp64 | 1 => .fp32 | 2 => .fp19 | 3 => .bf16 | 4 => .fp16 | 5 => .e5m2 | 6 => .e4m3 | 7 => .int64 | _ => .int32

/-- R14. Where element `n` of an array lies: the byte of its word from the array's base, the bytes of that word, the bit in
it, and the bits of the element. -/
structure ElemPlace where
  byte : Int
  bytes : Nat
  bit : Nat
  width : Nat
  deriving DecidableEq, Repr

/-- R14. The place of element `n`, which may be negative. -/
def Elem.place (t : Elem) (n : Int) : ElemPlace :=
  match t.width with
  | 4 => ⟨n / 2, 1, (4 * (n % 2)).toNat, 4⟩
  | 6 => ⟨4 * (n / 5), 4, (6 * (n % 5)).toNat, 6⟩
  | w => ⟨(w / 8 : Nat) * n, w / 8, 0, w⟩

/-- R14. Bytes of an array of `n` elements. -/
def Elem.arrayBytes (t : Elem) (n : Nat) : Nat :=
  match t.width with
  | 4 => (n + 1) / 2
  | 6 => 4 * ((n + 4) / 5)
  | w => w / 8 * n

/-- R14. An element's bits with padding zero: FP19 keeps bits [31:13]. -/
def Elem.pad (t : Elem) (raw : Nat) : Nat :=
  match t with
  | .fp19 => raw % 2 ^ 32 / 2 ^ 13 * 2 ^ 13
  | _ => raw % 2 ^ t.width

end Sys2Proof.Machine
end

