-- ==== Sys2Proof/Machine/Flags.lean ====
section
/-!
DEFINITION. The sticky flags of a context (R22 to R25) and its rounding mode (R16, R17).
-/

namespace Sys2Proof.Machine

/-- R22. A context with flags raised; an instruction sets flags and never clears them. -/
def Ctx.raiseFlags (c : Ctx) (f : Flags) : Ctx := { c with flags := c.flags ||| f }
/-- R24. The state with flags merged into FLAGS of the current context. -/
def State.mergeFlags (s : State) (f : Flags) : State := s.modMe (fun c => c.raiseFlags f)
/-- R25. The state with flags added to the pending set of a control context. -/
def State.pendFlags (s : State) (c : CtxId) (f : Flags) : State := s.modCtx c (fun x => { x with mxFlags := x.mxFlags ||| f })
/-- R25, R98. A context with its pending set merged into FLAGS and cleared. -/
def Ctx.mergePending (c : Ctx) : Ctx := { c with flags := c.flags ||| c.mxFlags, mxFlags := 0 }
/-- R17. The dynamic rounding mode of the current context. -/
def State.mode (s : State) : Mode := modeOf s.me.rnd.toNat
/-- R24. A scalar result written as plain data, with its flags merged; the instruction completes. -/
def State.retireFlags (s : State) (d : BitVec 5) (r : Nat × Flags) : Out :=
  .next ((s.mergeFlags r.2).setX d (w64 r.1)).advance
/-- R167. Flags of several elements (R23). -/
def orFlags (l : List Flags) : Flags := l.foldl (· ||| ·) 0

end Sys2Proof.Machine
end

