-- ==== Sys2Proof/WellFormed.lean ====
section
/-!
DEFINITION. Which instructions are well formed: every field within the range its entry assigns (R66). A word whose fields
are out of range raises ILLEGAL_OP with subcode 4 (R81). The steps without an encoding carry no reserved values.
-/

namespace Sys2Proof

/-- R66, R84. A helper slot is 0 to 9. -/
def isSlot {n : Nat} (x : BitVec n) : Bool := decide (x.toNat < 10)
/-- R66, R158. Vector operand codes 24 to 31 are reserved. -/
def isVecCode (c : BitVec 5) : Bool := decide (c.toNat < 24)
/-- R158. A TAG field of 16 to 31 is reserved. -/
def isTag (t : BitVec 5) : Bool := decide (t.toNat < 16)
/-- R246. X of PARK and UNPARK: a tile 0 to 7; rows with log2 n of at most 10; both latches. Only rows use T2[15:6]. -/
def isParkObject (x : BitVec 6) (rb : BitVec 10) : Bool :=
  match x.toNat / 16 with
  | 0 => decide (x.toNat < 8) && rb == 0
  | 1 => decide (x.toNat % 16 ≤ 10)
  | 2 => decide (x.toNat % 16 = 0) && rb == 0
  | _ => false

/-- R66. Every field lies in the range its entry assigns. The format field of a TSTORE with CVT = 0, which it does not use, may hold any value
(DESIGN CHOICE, log 104). -/
def Instr.wf : Instr → Bool
  | .hstart slot _ _ _ => isSlot slot
  | .hjoin _ slot => isSlot slot
  | .hstat _ slot => isSlot slot
  | .hkill slot => isSlot slot
  | .savectx x _ _ => (isSlot x || x == 15)
  | .restctx x _ _ => (isSlot x || x == 15)
  | .vloop _ k a n => (1 ≤ k.toNat && k.toNat ≤ 16) && (a == 0 || n == 0)
  | .sfcvt _ _ src dst rnd => (src.toNat ≤ 8 && dst.toNat ≤ 8) && rnd.toNat ≤ 4
  | .kinfo _ _ fsel => fsel.toNat ≤ 4
  | .amoadd _ _ _ _ order size => order.toNat ≤ 4 && size.toNat ≤ 1
  | .amoand _ _ _ _ order size => order.toNat ≤ 4 && size.toNat ≤ 1
  | .amoor _ _ _ _ order size => order.toNat ≤ 4 && size.toNat ≤ 1
  | .amoxor _ _ _ _ order size => order.toNat ≤ 4 && size.toNat ≤ 1
  | .amoswap _ _ _ _ order size => order.toNat ≤ 4 && size.toNat ≤ 1
  | .amomin _ _ _ _ order size => order.toNat ≤ 4 && size.toNat ≤ 1
  | .amomax _ _ _ _ order size => order.toNat ≤ 4 && size.toNat ≤ 1
  | .amominu _ _ _ _ order size => order.toNat ≤ 4 && size.toNat ≤ 1
  | .amomaxu _ _ _ _ order size => order.toNat ≤ 4 && size.toNat ≤ 1
  | .cas _ _ _ _ order size _ _ => order.toNat ≤ 4 && size.toNat ≤ 1
  | .cas2 _ _ _ _ order _ _ => order.toNat ≤ 4
  | .ldaq _ _ _ order size => (order == 0 || order == 1 || order == 4) && size.toNat ≤ 1
  | .strl _ _ _ order size => (order == 0 || order == 2 || order == 4) && size.toNat ≤ 1
  | .fence _ kind => kind.toNat ≤ 4
  | .vadd d a b rm _ => isVecCode d && isVecCode a && isVecCode b && rm.toNat ≤ 4
  | .vsub d a b rm _ => isVecCode d && isVecCode a && isVecCode b && rm.toNat ≤ 4
  | .vmul d a b rm _ => isVecCode d && isVecCode a && isVecCode b && rm.toNat ≤ 4
  | .vmin d a b rm _ => isVecCode d && isVecCode a && isVecCode b && rm.toNat ≤ 4
  | .vmax d a b rm _ => isVecCode d && isVecCode a && isVecCode b && rm.toNat ≤ 4
  | .vand d a b _ => isVecCode d && isVecCode a && isVecCode b
  | .vor d a b _ => isVecCode d && isVecCode a && isVecCode b
  | .vxor d a b _ => isVecCode d && isVecCode a && isVecCode b
  | .vandn d a b _ => isVecCode d && isVecCode a && isVecCode b
  | .vshl d a b _ => isVecCode d && isVecCode a && isVecCode b
  | .vshr d a b _ => isVecCode d && isVecCode a && isVecCode b
  | .vsra d a b _ => isVecCode d && isVecCode a && isVecCode b
  | .vscaleb d a b rm _ => isVecCode d && isVecCode a && isVecCode b && rm.toNat ≤ 4
  | .vadds d a b rm _ => isVecCode d && isVecCode a && isVecCode b && rm.toNat ≤ 4
  | .vsubs d a b rm _ => isVecCode d && isVecCode a && isVecCode b && rm.toNat ≤ 4
  | .vabsd d a b rm _ => isVecCode d && isVecCode a && isVecCode b && rm.toNat ≤ 4
  | .vmov d a _ => isVecCode d && isVecCode a
  | .vneg d a _ => isVecCode d && isVecCode a
  | .vabs d a _ => isVecCode d && isVecCode a
  | .vnot d a _ => isVecCode d && isVecCode a
  | .vclass d a _ => isVecCode d && isVecCode a
  | .viota d tag rm _ => isVecCode d && isTag tag && rm.toNat ≤ 4
  | .vbcast d _ tag _ => isVecCode d && isTag tag
  | .vrcp d a rm _ => isVecCode d && isVecCode a && rm.toNat ≤ 4
  | .vrsqrt d a rm _ => isVecCode d && isVecCode a && rm.toNat ≤ 4
  | .vsqrt d a rm _ => isVecCode d && isVecCode a && rm.toNat ≤ 4
  | .vfma d a b c rm _ => isVecCode d && isVecCode a && isVecCode b && isVecCode c && rm.toNat ≤ 4
  | .vfms d a b c rm _ => isVecCode d && isVecCode a && isVecCode b && isVecCode c && rm.toNat ≤ 4
  | .vfnma d a b c rm _ => isVecCode d && isVecCode a && isVecCode b && isVecCode c && rm.toNat ≤ 4
  | .vsel d a b _ => isVecCode d && isVecCode a && isVecCode b
  | .vceq _ a b _ => isVecCode a && isVecCode b
  | .vcne _ a b _ => isVecCode a && isVecCode b
  | .vclt _ a b _ => isVecCode a && isVecCode b
  | .vcle _ a b _ => isVecCode a && isVecCode b
  | .vcun _ a b _ => isVecCode a && isVecCode b
  | .vclassm _ a _ _ => isVecCode a
  | .vcvt d a _ tag rm _ => isVecCode d && isVecCode a && isTag tag && rm.toNat ≤ 4
  | .vrnd d a rm _ => isVecCode d && isVecCode a && rm.toNat ≤ 4
  | .vtag d a tag _ => isVecCode d && isVecCode a && isTag tag
  | .vpack d a b tag rm _ => isVecCode d && isVecCode a && isVecCode b && isTag tag && rm.toNat ≤ 4
  | .vunpack d a tag rm _ => isVecCode d && isVecCode a && isTag tag && rm.toNat ≤ 4
  | .vredsum d a rm _ => isVecCode d && isVecCode a && rm.toNat ≤ 4
  | .vredmax d a _ => isVecCode d && isVecCode a
  | .vredmin d a _ => isVecCode d && isVecCode a
  | .vperm d a b _ => isVecCode d && isVecCode a && isVecCode b
  | .vextr _ a _ => isVecCode a
  | .vins d _ _ => isVecCode d
  | .vld d _ _ tag _ => isVecCode d && isTag tag
  | .vst c _ _ _ => isVecCode c
  | .vgath d _ b _ tag _ => isVecCode d && isVecCode b && isTag tag
  | .vscat c _ b _ _ => isVecCode c && isVecCode b
  | .sbind mode _ _ _ => (mode == 1 || mode == 2)
  | .vexp2f d a rm _ => isVecCode d && isVecCode a && rm.toNat ≤ 4
  | .vlog2f d a rm _ => isVecCode d && isVecCode a && rm.toNat ≤ 4
  | .vtanh d a rm _ => isVecCode d && isVecCode a && rm.toNat ≤ 4
  | .vtopk d a _ _ _ => isVecCode d && isVecCode a
  | .vtopknz d a _ _ _ => isVecCode d && isVecCode a
  | .park x _ _ rb => isParkObject x rb
  | .unpark x _ _ rb => isParkObject x rb
  | .stmc _ _ scope => 5 ≤ scope.toNat
  | .rkreg _ _ _ kind _ => kind != 3
  | .nop | .hend | .yield | .vsync | .uiret | .eret | .ifence | .shfence | .xfence | .halt | .snap | .break_
  | .wait_ _ _ _ _ | .trap _ | .syscall _ | .movfc _ _ | .movtc _ _ | .beq _ _ _ | .bne _ _ _ | .blt _ _ _
  | .bge _ _ _ | .bltu _ _ _ | .bgeu _ _ _ | .br _ | .call _ _ | .jmpr _ | .callr _ _ | .ret _ | .add _ _ _
  | .sub _ _ _ | .mul _ _ _ | .mulh _ _ _ | .mulhu _ _ _ | .div _ _ _ | .divu _ _ _ | .rem _ _ _ | .remu _ _ _
  | .and_ _ _ _ | .or_ _ _ _ | .xor_ _ _ _ | .andn _ _ _ | .shl _ _ _ | .shr _ _ _ | .sra _ _ _ | .rotr _ _ _
  | .min_ _ _ _ | .max_ _ _ _ | .minu _ _ _ | .maxu _ _ _ | .seq _ _ _ | .sne _ _ _ | .slt _ _ _ | .sltu _ _ _
  | .sle _ _ _ | .sleu _ _ _ | .addi _ _ _ | .andi _ _ _ | .ori _ _ _ | .xori _ _ _ | .shli _ _ _ | .shri _ _ _
  | .srai _ _ _ | .rotri _ _ _ | .slti _ _ _ | .sltui _ _ _ | .muli _ _ _ | .clz _ _ | .ctz _ _ | .popc _ _
  | .sextb _ _ | .sexth _ _ | .sextw _ _ | .zextb _ _ | .zexth _ _ | .zextw _ _ | .brev _ _ | .bswap _ _ | .ldi _ _
  | .ldih _ _ _ | .ldipc _ _ | .sel _ _ _ _ | .bext _ _ _ _ _ | .bins _ _ _ _ _ | .sfadd _ _ _ _ | .sfsub _ _ _ _
  | .sfmul _ _ _ _ | .sfdiv _ _ _ _ | .sfmin _ _ _ _ | .sfmax _ _ _ _ | .sfsqrt _ _ _ | .sfeq _ _ _ _ | .sflt _ _ _ _
  | .sfle _ _ _ _ | .sffma _ _ _ _ _ | .sfclass _ _ _ | .klim _ _ _ | .kset _ _ _ | .kadv _ _ _ | .kmask _ _ _
  | .klock _ _ _ | .kopen _ _ _ | .kstrip _ _ | .kcopy _ _ | .klimi _ _ _ | .kadvi _ _ _ | .kmaski _ _ _ | .ldb _ _ _
  | .ldh _ _ _ | .ldw _ _ _ | .ldd _ _ _ | .ldbs _ _ _ | .ldhs _ _ _ | .ldws _ _ _ | .ldc _ _ _ | .stb _ _ _
  | .sth _ _ _ | .stw _ _ _ | .std _ _ _ | .stc _ _ _ | .ldbx _ _ _ | .ldhx _ _ _ | .ldwx _ _ _ | .lddx _ _ _
  | .stbx _ _ _ | .sthx _ _ _ | .stwx _ _ _ | .stdx _ _ _ | .ldm _ _ _ _ | .stm _ _ _ _ | .spos _ _ | .sget _ _
  | .wload _ _ | .mma _ _ _ _ | .mmasw _ _ _ _ | .accz _ _ | .accrd _ _ _ _ _ | .accwr _ _ _ | .acccp _ _ _
  | .tload _ _ _ _ | .tstore _ _ _ _ _ _ | .ttrans _ _ | .chadd _ _ _ | .chsub _ _ _ | .chmul _ _ _ | .chcomp _ _ _
  | .chdiff _ _ | .chint _ _ | .chmov _ _ | .chfree _ | .chlen _ _ | .chnorm _ _ | .chtrunc _ _ _ | .chfit _ _ _ _
  | .cheval _ _ _ | .chroot _ _ _ _ | .chconst _ _ _ _ | .chx _ _ _ | .chld _ _ _ | .chst _ _ _ | .chscal _ _ _
  | .cpy _ _ _ _ _ | .cpym _ _ _ _ _ _ _ _ | .cpyq _ _ _ _ _ | .igather _ _ _ _ _ _ _ | .iscatter _ _ _ _ _ _ _
  | .evwait _ _ | .evsig _ _ | .cbar _ | .wkstart _ _ _ _ | .wkstat _ _ _ _ | .stvec _ _ _ | .ldnear _ _ _ _ _
  | .delvec _ _ _ | .ixstamp _ _ | .nsubmit _ _ _ | .ndone _ | .ndoneQ _ _ _ | .narm _ | .narmEdge _ _ _
  | .cwait _ _ _ | .cancel _ _ | .launch _ _ | .barrive _ _ _ | .bwait _ _ | .bsync _ _ _ | .slotsend _ _ _ _
  | .slotwait _ _ | .seal _ _ _ | .reconf _ _ | .tgen _ | .gbar _ _ | .abort _ | .rkrevoke _ _ | .wnop | .wadd _ _ _
  | .wsub _ _ _ | .wand _ _ _ | .wor _ _ _ | .wxor _ _ _ | .wshl _ _ _ | .wshr _ _ _ | .waddi _ _ _ | .wmuli _ _ _
  | .wldi _ _ | .wldB _ _ _ _ | .wldH _ _ _ _ | .wldW _ _ _ _ | .wldD _ _ _ _ | .wstB _ _ _ _ | .wstH _ _ _ _
  | .wstW _ _ _ _ | .wstD _ _ _ _ | .wflt _ _ _ | .wfle _ _ _ | .wbeq _ _ _ | .wbne _ _ _ | .wbltu _ _ _ | .wj _
  | .wdinit | .wdabs _ | .wdfin _ _ _ | .wzrow | .wrins _ _ _ _ | .wemit _ _ _ | .wsig _ | .wend _
  | .walkStepLimit _ _ | .digestBlockCompress _ _ | .vsqctlDiscard | .mxctlDiscard | .cpctlDiscard | .xlinvPage _
  | .xlinvDomain _ | .xlinvAll _ | .domainWrite _ | .rndWrite _ | .flagsWrite _ | .flagsRead _ | .fntolWrite _
  | .fnstatRead _ | .dtermClear _ | .vdctlRst _ | .vdirq _ | .jsgo _ _ | .irqstatClear _ _ | .lntrig _ _ | .lnres _ _
  | .atgo _ _ | .hostRegisterWrite _ _ _ | .packageReset | .stackWake | .opticalEngineWake | .dieRailWake
  | .securityProcessorBoot _ | .decsynLinkTrain | .bypass | .idcode | .samplePreload | .extest | .arrayWake _
  | .arraySleep _ | .launchItemStart _ | .takeDeferredTrap _ | .enterUserHandler _ | .mailboxDeposit _ _
  | .spillDelivery _ | .rucksackDelivery _ _ _ | .loadComplete _ _ _ | .storePerformed _ _ | .remoteRefusal _ _ _
  | .translationWalk _ _ _ | .sequencerExecute _ | .vloopReplay _ | .matrixOpStart _ | .matrixOpComplete _
  | .functionOpComplete _ | .copyStart _ | .copyComplete _ _ | .copyFail _ _ | .indirectPostStart _
  | .indirectPostComplete _ _ | .indirectPostFail _ _ | .preemption _ | .nodeAgeing _ _ | .nodePlaceAffinity _ _
  | .nodeSteal _ _ | .gangReserveBegin _ _ _ | .gangCommit _ _ | .gangReserveFail _ _ | .gangBackoffExpiry _ _
  | .gangDrainStart _ _ _ | .drainCoreReserve _ _ | .nodeCompletion _ _ | .nodeFail _ _ | .rambleAdmit _ _
  | .rambleSearch _ _ | .rambleReply _ _ | .rambleFail _ _ | .rambleHeldReplyDelivery _ | .sliceRelease _ _
  | .sliceDispatch _ | .sliceBudgetExpiry _ | .sliceGraceExpiry _ | .deadlineMiss _ _ | .generationComplete _
  | .slotTransferStart _ | .lateLaneStart _ | .slotBeatLand _ | .uncorrectableError _ | .terminationDone _
  | .lanternCoreCapture _ | .lanternCaptureComplete | .sealDigestDone _ | .attestationDone _ | .flitReceive _ _
  | .idleFlit _ | .linkFailTimeout _ | .forwardRequest _ | .inboundRequestAdmit _ | .gbarEpisodeComplete _
  | .gbarRelease _ _ | .reconfAllArrived _ | .reconfSwitch _ | .portTrainTimeout _ | .reconfCommit _ | .reconfFail _
  | .abortTokenBroadcast _ | .reservedMajorIssue _ | .sequentialLineEntry _ | .debuggerResume _
  | .hostMemoryWindowAccess _ _ _ _ _ | .perBankRefresh _ | .stackTemperatureReport _ _ | .portTrainingComplete _
  | .keptReplyExpiry _ | .groupArrivalReceive _ _ _ | .abortTokenArrival _ _ _ _ => true

end Sys2Proof
end

