-- ==== Sys2Proof/Decode.lean ====
section
/-!
DEFINITION. Decoding of instruction words, total on every word and rejecting by the subcodes of R81, and the encoder after
it. A core instruction is a 64-bit word in the layout of R83: the head in bits [15:0], then T1, T2 and T3. A walker
instruction is a 32-bit word (R276). The rows below are the encoding tables of R79 and of the entries, one row an
instruction: form, major, minor, constant fields, operand fields, and the constructor made from the operand fields.
-/

namespace Sys2Proof

/- Lean's compiler gives a constructor with arguments a tag of at most 244, and `Instr` has 421 constructors. The
definitions below that build such a constructor cannot be compiled to run; the kernel evaluates them all. -/
noncomputable section

/-- A bit field: its lowest bit and its width. -/
structure Field where
  lo : Nat
  width : Nat
  deriving DecidableEq, Repr

/-- The value of a field in a word. -/
def Field.get (f : Field) (w : Nat) : Nat := (w >>> f.lo) % 2 ^ f.width

/-- A word with the given values in the given fields, and zero elsewhere. -/
def packFields : List (Field × Nat) → Nat
  | [] => 0
  | (f, v) :: rest => (v <<< f.lo) ||| packFields rest

/-- R64. The bits of a head. -/
def fieldX : Field := ⟨0, 6⟩
def fieldOp : Field := ⟨6, 7⟩
def fieldTL : Field := ⟨13, 2⟩
def fieldG : Field := ⟨15, 1⟩
/-- R65. T1.FN. -/
def fieldFn : Field := ⟨26, 6⟩

/-- One row of the opcode map of R79. `form` is the tail length TL; `minor` is none for WAIT and FENCE. -/
structure Row where
  form : Nat
  major : Nat
  minor : Option Nat
  fixed : List (Field × Nat)
  args : List Field
  make : (Nat → Nat) → Instr

/-- R79. The minor field is X for form H and T1.FN otherwise. -/
def Row.minorField (r : Row) : Field := if r.form = 0 then fieldX else fieldFn

/-- The constant fields of a row: major, tail length, minor, and the constants of its entry. -/
def Row.consts (r : Row) : List (Field × Nat) :=
  (fieldOp, r.major) :: (fieldTL, r.form) ::
    ((match r.minor with | some m => [(r.minorField, m)] | none => []) ++ r.fixed)

/-- The word of a row with the given G bit and operand values. -/
def Row.pack (r : Row) (g : Nat) (vs : List Nat) : Nat :=
  packFields ((fieldG, g) :: (r.consts ++ r.args.zip vs))

/-- The operand values of a word. -/
def Row.values (r : Row) (w : Nat) : List Nat := r.args.map (·.get w)

/-- R66. A word fits a row when every bit that is no operand field holds the row's constant, the rest being zero. -/
def Row.fits (r : Row) (w : Nat) : Bool := r.pack (fieldG.get w) (r.values w) == w

/-- The word names the row's minor. -/
def Row.minorIs (r : Row) (w : Nat) : Bool :=
  match r.minor with
  | some m => r.minorField.get w == m
  | none => true

/-- The instruction a row reads from a list of operand values. -/
def Row.instr (r : Row) (vs : List Nat) : Instr := r.make (fun k => vs.getD k 0)

def rowNop : Row := ⟨0, 0x00, (some 0), [], [], fun _ => .nop⟩
def rowHend : Row := ⟨0, 0x00, (some 1), [], [], fun _ => .hend⟩
def rowYield : Row := ⟨0, 0x00, (some 2), [], [], fun _ => .yield⟩
def rowVsync : Row := ⟨0, 0x00, (some 3), [], [], fun _ => .vsync⟩
def rowUiret : Row := ⟨0, 0x00, (some 4), [], [], fun _ => .uiret⟩
def rowEret : Row := ⟨0, 0x00, (some 5), [], [], fun _ => .eret⟩
def rowIfence : Row := ⟨0, 0x00, (some 6), [], [], fun _ => .ifence⟩
def rowShfence : Row := ⟨0, 0x00, (some 7), [], [], fun _ => .shfence⟩
def rowXfence : Row := ⟨0, 0x00, (some 8), [], [], fun _ => .xfence⟩
def rowHalt : Row := ⟨0, 0x00, (some 9), [], [], fun _ => .halt⟩
def rowSnap : Row := ⟨0, 0x00, (some 10), [], [], fun _ => .snap⟩
def rowBreak : Row := ⟨0, 0x00, (some 11), [], [], fun _ => .break_⟩
def rowWait : Row := ⟨1, 0x01, none, [], [⟨28,4⟩, ⟨24,4⟩, ⟨20,4⟩, ⟨16,4⟩], fun v => .wait_ (.ofNat 4 (v 0)) (.ofNat 4 (v 1)) (.ofNat 4 (v 2)) (.ofNat 4 (v 3))⟩
def rowHstart : Row := ⟨2, 0x02, (some 0), [], [⟨0,4⟩, ⟨16,5⟩, ⟨21,5⟩, ⟨32,16⟩], fun v => .hstart (.ofNat 4 (v 0)) (.ofNat 5 (v 1)) (.ofNat 5 (v 2)) (.ofNat 16 (v 3))⟩
def rowHjoin : Row := ⟨1, 0x03, (some 0), [], [⟨0,5⟩, ⟨16,5⟩], fun v => .hjoin (.ofNat 5 (v 0)) (.ofNat 5 (v 1))⟩
def rowHstat : Row := ⟨1, 0x03, (some 1), [], [⟨0,5⟩, ⟨16,5⟩], fun v => .hstat (.ofNat 5 (v 0)) (.ofNat 5 (v 1))⟩
def rowHkill : Row := ⟨1, 0x03, (some 2), [], [⟨16,5⟩], fun v => .hkill (.ofNat 5 (v 0))⟩
def rowTrap : Row := ⟨2, 0x04, (some 0), [], [⟨32,16⟩], fun v => .trap (.ofNat 16 (v 0))⟩
def rowSyscall : Row := ⟨2, 0x04, (some 1), [], [⟨32,16⟩], fun v => .syscall (.ofNat 16 (v 0))⟩
def rowMovfc : Row := ⟨2, 0x05, (some 0), [], [⟨0,5⟩, ⟨32,12⟩], fun v => .movfc (.ofNat 5 (v 0)) (.ofNat 12 (v 1))⟩
def rowMovtc : Row := ⟨2, 0x05, (some 1), [], [⟨16,5⟩, ⟨32,12⟩], fun v => .movtc (.ofNat 5 (v 0)) (.ofNat 12 (v 1))⟩
def rowSavectx : Row := ⟨2, 0x06, (some 0), [], [⟨0,4⟩, ⟨16,5⟩, ⟨32,8⟩], fun v => .savectx (.ofNat 4 (v 0)) (.ofNat 5 (v 1)) (.ofNat 8 (v 2))⟩
def rowRestctx : Row := ⟨2, 0x06, (some 1), [], [⟨0,4⟩, ⟨16,5⟩, ⟨32,8⟩], fun v => .restctx (.ofNat 4 (v 0)) (.ofNat 5 (v 1)) (.ofNat 8 (v 2))⟩
def rowBeq : Row := ⟨2, 0x08, (some 0), [], [⟨16,5⟩, ⟨21,5⟩, ⟨32,16⟩], fun v => .beq (.ofNat 5 (v 0)) (.ofNat 5 (v 1)) (.ofNat 16 (v 2))⟩
def rowBne : Row := ⟨2, 0x08, (some 1), [], [⟨16,5⟩, ⟨21,5⟩, ⟨32,16⟩], fun v => .bne (.ofNat 5 (v 0)) (.ofNat 5 (v 1)) (.ofNat 16 (v 2))⟩
def rowBlt : Row := ⟨2, 0x08, (some 2), [], [⟨16,5⟩, ⟨21,5⟩, ⟨32,16⟩], fun v => .blt (.ofNat 5 (v 0)) (.ofNat 5 (v 1)) (.ofNat 16 (v 2))⟩
def rowBge : Row := ⟨2, 0x08, (some 3), [], [⟨16,5⟩, ⟨21,5⟩, ⟨32,16⟩], fun v => .bge (.ofNat 5 (v 0)) (.ofNat 5 (v 1)) (.ofNat 16 (v 2))⟩
def rowBltu : Row := ⟨2, 0x08, (some 4), [], [⟨16,5⟩, ⟨21,5⟩, ⟨32,16⟩], fun v => .bltu (.ofNat 5 (v 0)) (.ofNat 5 (v 1)) (.ofNat 16 (v 2))⟩
def rowBgeu : Row := ⟨2, 0x08, (some 5), [], [⟨16,5⟩, ⟨21,5⟩, ⟨32,16⟩], fun v => .bgeu (.ofNat 5 (v 0)) (.ofNat 5 (v 1)) (.ofNat 16 (v 2))⟩
def rowBr : Row := ⟨3, 0x09, (some 0), [], [⟨32,32⟩], fun v => .br (.ofNat 32 (v 0))⟩
def rowCall : Row := ⟨3, 0x09, (some 1), [], [⟨0,5⟩, ⟨32,32⟩], fun v => .call (.ofNat 5 (v 0)) (.ofNat 32 (v 1))⟩
def rowJmpr : Row := ⟨1, 0x0A, (some 0), [], [⟨16,5⟩], fun v => .jmpr (.ofNat 5 (v 0))⟩
def rowCallr : Row := ⟨1, 0x0A, (some 1), [], [⟨0,5⟩, ⟨16,5⟩], fun v => .callr (.ofNat 5 (v 0)) (.ofNat 5 (v 1))⟩
def rowRet : Row := ⟨1, 0x0A, (some 2), [], [⟨16,5⟩], fun v => .ret (.ofNat 5 (v 0))⟩
def rowVloop : Row := ⟨2, 0x0B, (some 0), [], [⟨5,1⟩, ⟨0,5⟩, ⟨16,5⟩, ⟨32,16⟩], fun v => .vloop (.ofNat 1 (v 0)) (.ofNat 5 (v 1)) (.ofNat 5 (v 2)) (.ofNat 16 (v 3))⟩
def rowAdd : Row := ⟨1, 0x10, (some 0), [], [⟨0,5⟩, ⟨16,5⟩, ⟨21,5⟩], fun v => .add (.ofNat 5 (v 0)) (.ofNat 5 (v 1)) (.ofNat 5 (v 2))⟩
def rowSub : Row := ⟨1, 0x10, (some 1), [], [⟨0,5⟩, ⟨16,5⟩, ⟨21,5⟩], fun v => .sub (.ofNat 5 (v 0)) (.ofNat 5 (v 1)) (.ofNat 5 (v 2))⟩
def rowMul : Row := ⟨1, 0x10, (some 2), [], [⟨0,5⟩, ⟨16,5⟩, ⟨21,5⟩], fun v => .mul (.ofNat 5 (v 0)) (.ofNat 5 (v 1)) (.ofNat 5 (v 2))⟩
def rowMulh : Row := ⟨1, 0x10, (some 3), [], [⟨0,5⟩, ⟨16,5⟩, ⟨21,5⟩], fun v => .mulh (.ofNat 5 (v 0)) (.ofNat 5 (v 1)) (.ofNat 5 (v 2))⟩
def rowMulhu : Row := ⟨1, 0x10, (some 4), [], [⟨0,5⟩, ⟨16,5⟩, ⟨21,5⟩], fun v => .mulhu (.ofNat 5 (v 0)) (.ofNat 5 (v 1)) (.ofNat 5 (v 2))⟩
def rowDiv : Row := ⟨1, 0x10, (some 5), [], [⟨0,5⟩, ⟨16,5⟩, ⟨21,5⟩], fun v => .div (.ofNat 5 (v 0)) (.ofNat 5 (v 1)) (.ofNat 5 (v 2))⟩
def rowDivu : Row := ⟨1, 0x10, (some 6), [], [⟨0,5⟩, ⟨16,5⟩, ⟨21,5⟩], fun v => .divu (.ofNat 5 (v 0)) (.ofNat 5 (v 1)) (.ofNat 5 (v 2))⟩
def rowRem : Row := ⟨1, 0x10, (some 7), [], [⟨0,5⟩, ⟨16,5⟩, ⟨21,5⟩], fun v => .rem (.ofNat 5 (v 0)) (.ofNat 5 (v 1)) (.ofNat 5 (v 2))⟩
def rowRemu : Row := ⟨1, 0x10, (some 8), [], [⟨0,5⟩, ⟨16,5⟩, ⟨21,5⟩], fun v => .remu (.ofNat 5 (v 0)) (.ofNat 5 (v 1)) (.ofNat 5 (v 2))⟩
def rowAnd : Row := ⟨1, 0x10, (some 9), [], [⟨0,5⟩, ⟨16,5⟩, ⟨21,5⟩], fun v => .and_ (.ofNat 5 (v 0)) (.ofNat 5 (v 1)) (.ofNat 5 (v 2))⟩
def rowOr : Row := ⟨1, 0x10, (some 10), [], [⟨0,5⟩, ⟨16,5⟩, ⟨21,5⟩], fun v => .or_ (.ofNat 5 (v 0)) (.ofNat 5 (v 1)) (.ofNat 5 (v 2))⟩
def rowXor : Row := ⟨1, 0x10, (some 11), [], [⟨0,5⟩, ⟨16,5⟩, ⟨21,5⟩], fun v => .xor_ (.ofNat 5 (v 0)) (.ofNat 5 (v 1)) (.ofNat 5 (v 2))⟩
def rowAndn : Row := ⟨1, 0x10, (some 12), [], [⟨0,5⟩, ⟨16,5⟩, ⟨21,5⟩], fun v => .andn (.ofNat 5 (v 0)) (.ofNat 5 (v 1)) (.ofNat 5 (v 2))⟩
def rowShl : Row := ⟨1, 0x10, (some 13), [], [⟨0,5⟩, ⟨16,5⟩, ⟨21,5⟩], fun v => .shl (.ofNat 5 (v 0)) (.ofNat 5 (v 1)) (.ofNat 5 (v 2))⟩
def rowShr : Row := ⟨1, 0x10, (some 14), [], [⟨0,5⟩, ⟨16,5⟩, ⟨21,5⟩], fun v => .shr (.ofNat 5 (v 0)) (.ofNat 5 (v 1)) (.ofNat 5 (v 2))⟩
def rowSra : Row := ⟨1, 0x10, (some 15), [], [⟨0,5⟩, ⟨16,5⟩, ⟨21,5⟩], fun v => .sra (.ofNat 5 (v 0)) (.ofNat 5 (v 1)) (.ofNat 5 (v 2))⟩
def rowRotr : Row := ⟨1, 0x10, (some 16), [], [⟨0,5⟩, ⟨16,5⟩, ⟨21,5⟩], fun v => .rotr (.ofNat 5 (v 0)) (.ofNat 5 (v 1)) (.ofNat 5 (v 2))⟩
def rowMin : Row := ⟨1, 0x10, (some 17), [], [⟨0,5⟩, ⟨16,5⟩, ⟨21,5⟩], fun v => .min_ (.ofNat 5 (v 0)) (.ofNat 5 (v 1)) (.ofNat 5 (v 2))⟩
def rowMax : Row := ⟨1, 0x10, (some 18), [], [⟨0,5⟩, ⟨16,5⟩, ⟨21,5⟩], fun v => .max_ (.ofNat 5 (v 0)) (.ofNat 5 (v 1)) (.ofNat 5 (v 2))⟩
def rowMinu : Row := ⟨1, 0x10, (some 19), [], [⟨0,5⟩, ⟨16,5⟩, ⟨21,5⟩], fun v => .minu (.ofNat 5 (v 0)) (.ofNat 5 (v 1)) (.ofNat 5 (v 2))⟩
def rowMaxu : Row := ⟨1, 0x10, (some 20), [], [⟨0,5⟩, ⟨16,5⟩, ⟨21,5⟩], fun v => .maxu (.ofNat 5 (v 0)) (.ofNat 5 (v 1)) (.ofNat 5 (v 2))⟩
def rowSeq : Row := ⟨1, 0x10, (some 21), [], [⟨0,5⟩, ⟨16,5⟩, ⟨21,5⟩], fun v => .seq (.ofNat 5 (v 0)) (.ofNat 5 (v 1)) (.ofNat 5 (v 2))⟩
def rowSne : Row := ⟨1, 0x10, (some 22), [], [⟨0,5⟩, ⟨16,5⟩, ⟨21,5⟩], fun v => .sne (.ofNat 5 (v 0)) (.ofNat 5 (v 1)) (.ofNat 5 (v 2))⟩
def rowSlt : Row := ⟨1, 0x10, (some 23), [], [⟨0,5⟩, ⟨16,5⟩, ⟨21,5⟩], fun v => .slt (.ofNat 5 (v 0)) (.ofNat 5 (v 1)) (.ofNat 5 (v 2))⟩
def rowSltu : Row := ⟨1, 0x10, (some 24), [], [⟨0,5⟩, ⟨16,5⟩, ⟨21,5⟩], fun v => .sltu (.ofNat 5 (v 0)) (.ofNat 5 (v 1)) (.ofNat 5 (v 2))⟩
def rowSle : Row := ⟨1, 0x10, (some 25), [], [⟨0,5⟩, ⟨16,5⟩, ⟨21,5⟩], fun v => .sle (.ofNat 5 (v 0)) (.ofNat 5 (v 1)) (.ofNat 5 (v 2))⟩
def rowSleu : Row := ⟨1, 0x10, (some 26), [], [⟨0,5⟩, ⟨16,5⟩, ⟨21,5⟩], fun v => .sleu (.ofNat 5 (v 0)) (.ofNat 5 (v 1)) (.ofNat 5 (v 2))⟩
def rowAddi : Row := ⟨2, 0x11, (some 0), [], [⟨0,5⟩, ⟨16,5⟩, ⟨32,16⟩], fun v => .addi (.ofNat 5 (v 0)) (.ofNat 5 (v 1)) (.ofNat 16 (v 2))⟩
def rowAndi : Row := ⟨2, 0x11, (some 1), [], [⟨0,5⟩, ⟨16,5⟩, ⟨32,16⟩], fun v => .andi (.ofNat 5 (v 0)) (.ofNat 5 (v 1)) (.ofNat 16 (v 2))⟩
def rowOri : Row := ⟨2, 0x11, (some 2), [], [⟨0,5⟩, ⟨16,5⟩, ⟨32,16⟩], fun v => .ori (.ofNat 5 (v 0)) (.ofNat 5 (v 1)) (.ofNat 16 (v 2))⟩
def rowXori : Row := ⟨2, 0x11, (some 3), [], [⟨0,5⟩, ⟨16,5⟩, ⟨32,16⟩], fun v => .xori (.ofNat 5 (v 0)) (.ofNat 5 (v 1)) (.ofNat 16 (v 2))⟩
def rowShli : Row := ⟨2, 0x11, (some 4), [], [⟨0,5⟩, ⟨16,5⟩, ⟨32,6⟩], fun v => .shli (.ofNat 5 (v 0)) (.ofNat 5 (v 1)) (.ofNat 6 (v 2))⟩
def rowShri : Row := ⟨2, 0x11, (some 5), [], [⟨0,5⟩, ⟨16,5⟩, ⟨32,6⟩], fun v => .shri (.ofNat 5 (v 0)) (.ofNat 5 (v 1)) (.ofNat 6 (v 2))⟩
def rowSrai : Row := ⟨2, 0x11, (some 6), [], [⟨0,5⟩, ⟨16,5⟩, ⟨32,6⟩], fun v => .srai (.ofNat 5 (v 0)) (.ofNat 5 (v 1)) (.ofNat 6 (v 2))⟩
def rowRotri : Row := ⟨2, 0x11, (some 7), [], [⟨0,5⟩, ⟨16,5⟩, ⟨32,6⟩], fun v => .rotri (.ofNat 5 (v 0)) (.ofNat 5 (v 1)) (.ofNat 6 (v 2))⟩
def rowSlti : Row := ⟨2, 0x11, (some 8), [], [⟨0,5⟩, ⟨16,5⟩, ⟨32,16⟩], fun v => .slti (.ofNat 5 (v 0)) (.ofNat 5 (v 1)) (.ofNat 16 (v 2))⟩
def rowSltui : Row := ⟨2, 0x11, (some 9), [], [⟨0,5⟩, ⟨16,5⟩, ⟨32,16⟩], fun v => .sltui (.ofNat 5 (v 0)) (.ofNat 5 (v 1)) (.ofNat 16 (v 2))⟩
def rowMuli : Row := ⟨2, 0x11, (some 10), [], [⟨0,5⟩, ⟨16,5⟩, ⟨32,16⟩], fun v => .muli (.ofNat 5 (v 0)) (.ofNat 5 (v 1)) (.ofNat 16 (v 2))⟩
def rowClz : Row := ⟨1, 0x12, (some 0), [], [⟨0,5⟩, ⟨16,5⟩], fun v => .clz (.ofNat 5 (v 0)) (.ofNat 5 (v 1))⟩
def rowCtz : Row := ⟨1, 0x12, (some 1), [], [⟨0,5⟩, ⟨16,5⟩], fun v => .ctz (.ofNat 5 (v 0)) (.ofNat 5 (v 1))⟩
def rowPopc : Row := ⟨1, 0x12, (some 2), [], [⟨0,5⟩, ⟨16,5⟩], fun v => .popc (.ofNat 5 (v 0)) (.ofNat 5 (v 1))⟩
def rowSextb : Row := ⟨1, 0x12, (some 3), [], [⟨0,5⟩, ⟨16,5⟩], fun v => .sextb (.ofNat 5 (v 0)) (.ofNat 5 (v 1))⟩
def rowSexth : Row := ⟨1, 0x12, (some 4), [], [⟨0,5⟩, ⟨16,5⟩], fun v => .sexth (.ofNat 5 (v 0)) (.ofNat 5 (v 1))⟩
def rowSextw : Row := ⟨1, 0x12, (some 5), [], [⟨0,5⟩, ⟨16,5⟩], fun v => .sextw (.ofNat 5 (v 0)) (.ofNat 5 (v 1))⟩
def rowZextb : Row := ⟨1, 0x12, (some 6), [], [⟨0,5⟩, ⟨16,5⟩], fun v => .zextb (.ofNat 5 (v 0)) (.ofNat 5 (v 1))⟩
def rowZexth : Row := ⟨1, 0x12, (some 7), [], [⟨0,5⟩, ⟨16,5⟩], fun v => .zexth (.ofNat 5 (v 0)) (.ofNat 5 (v 1))⟩
def rowZextw : Row := ⟨1, 0x12, (some 8), [], [⟨0,5⟩, ⟨16,5⟩], fun v => .zextw (.ofNat 5 (v 0)) (.ofNat 5 (v 1))⟩
def rowBrev : Row := ⟨1, 0x12, (some 9), [], [⟨0,5⟩, ⟨16,5⟩], fun v => .brev (.ofNat 5 (v 0)) (.ofNat 5 (v 1))⟩
def rowBswap : Row := ⟨1, 0x12, (some 10), [], [⟨0,5⟩, ⟨16,5⟩], fun v => .bswap (.ofNat 5 (v 0)) (.ofNat 5 (v 1))⟩
def rowLdi : Row := ⟨3, 0x13, (some 0), [], [⟨0,5⟩, ⟨32,32⟩], fun v => .ldi (.ofNat 5 (v 0)) (.ofNat 32 (v 1))⟩
def rowLdih : Row := ⟨3, 0x13, (some 1), [], [⟨0,5⟩, ⟨16,5⟩, ⟨32,32⟩], fun v => .ldih (.ofNat 5 (v 0)) (.ofNat 5 (v 1)) (.ofNat 32 (v 2))⟩
def rowLdipc : Row := ⟨3, 0x13, (some 2), [], [⟨0,5⟩, ⟨32,32⟩], fun v => .ldipc (.ofNat 5 (v 0)) (.ofNat 32 (v 1))⟩
def rowSel : Row := ⟨2, 0x14, (some 0), [], [⟨0,5⟩, ⟨16,5⟩, ⟨21,5⟩, ⟨32,5⟩], fun v => .sel (.ofNat 5 (v 0)) (.ofNat 5 (v 1)) (.ofNat 5 (v 2)) (.ofNat 5 (v 3))⟩
def rowBext : Row := ⟨2, 0x14, (some 1), [], [⟨0,5⟩, ⟨16,5⟩, ⟨32,6⟩, ⟨38,6⟩, ⟨44,1⟩], fun v => .bext (.ofNat 5 (v 0)) (.ofNat 5 (v 1)) (.ofNat 6 (v 2)) (.ofNat 6 (v 3)) (.ofNat 1 (v 4))⟩
def rowBins : Row := ⟨2, 0x14, (some 2), [], [⟨0,5⟩, ⟨16,5⟩, ⟨21,5⟩, ⟨32,6⟩, ⟨38,6⟩], fun v => .bins (.ofNat 5 (v 0)) (.ofNat 5 (v 1)) (.ofNat 5 (v 2)) (.ofNat 6 (v 3)) (.ofNat 6 (v 4))⟩
def rowSfadd : Row := ⟨1, 0x15, (some 0), [], [⟨5,1⟩, ⟨0,5⟩, ⟨16,5⟩, ⟨21,5⟩], fun v => .sfadd (.ofNat 1 (v 0)) (.ofNat 5 (v 1)) (.ofNat 5 (v 2)) (.ofNat 5 (v 3))⟩
def rowSfsub : Row := ⟨1, 0x15, (some 1), [], [⟨5,1⟩, ⟨0,5⟩, ⟨16,5⟩, ⟨21,5⟩], fun v => .sfsub (.ofNat 1 (v 0)) (.ofNat 5 (v 1)) (.ofNat 5 (v 2)) (.ofNat 5 (v 3))⟩
def rowSfmul : Row := ⟨1, 0x15, (some 2), [], [⟨5,1⟩, ⟨0,5⟩, ⟨16,5⟩, ⟨21,5⟩], fun v => .sfmul (.ofNat 1 (v 0)) (.ofNat 5 (v 1)) (.ofNat 5 (v 2)) (.ofNat 5 (v 3))⟩
def rowSfdiv : Row := ⟨1, 0x15, (some 3), [], [⟨5,1⟩, ⟨0,5⟩, ⟨16,5⟩, ⟨21,5⟩], fun v => .sfdiv (.ofNat 1 (v 0)) (.ofNat 5 (v 1)) (.ofNat 5 (v 2)) (.ofNat 5 (v 3))⟩
def rowSfmin : Row := ⟨1, 0x15, (some 4), [], [⟨5,1⟩, ⟨0,5⟩, ⟨16,5⟩, ⟨21,5⟩], fun v => .sfmin (.ofNat 1 (v 0)) (.ofNat 5 (v 1)) (.ofNat 5 (v 2)) (.ofNat 5 (v 3))⟩
def rowSfmax : Row := ⟨1, 0x15, (some 5), [], [⟨5,1⟩, ⟨0,5⟩, ⟨16,5⟩, ⟨21,5⟩], fun v => .sfmax (.ofNat 1 (v 0)) (.ofNat 5 (v 1)) (.ofNat 5 (v 2)) (.ofNat 5 (v 3))⟩
def rowSfsqrt : Row := ⟨1, 0x15, (some 6), [], [⟨5,1⟩, ⟨0,5⟩, ⟨16,5⟩], fun v => .sfsqrt (.ofNat 1 (v 0)) (.ofNat 5 (v 1)) (.ofNat 5 (v 2))⟩
def rowSfeq : Row := ⟨1, 0x15, (some 7), [], [⟨5,1⟩, ⟨0,5⟩, ⟨16,5⟩, ⟨21,5⟩], fun v => .sfeq (.ofNat 1 (v 0)) (.ofNat 5 (v 1)) (.ofNat 5 (v 2)) (.ofNat 5 (v 3))⟩
def rowSflt : Row := ⟨1, 0x15, (some 8), [], [⟨5,1⟩, ⟨0,5⟩, ⟨16,5⟩, ⟨21,5⟩], fun v => .sflt (.ofNat 1 (v 0)) (.ofNat 5 (v 1)) (.ofNat 5 (v 2)) (.ofNat 5 (v 3))⟩
def rowSfle : Row := ⟨1, 0x15, (some 9), [], [⟨5,1⟩, ⟨0,5⟩, ⟨16,5⟩, ⟨21,5⟩], fun v => .sfle (.ofNat 1 (v 0)) (.ofNat 5 (v 1)) (.ofNat 5 (v 2)) (.ofNat 5 (v 3))⟩
def rowSffma : Row := ⟨2, 0x16, (some 0), [], [⟨0,5⟩, ⟨16,5⟩, ⟨21,5⟩, ⟨32,5⟩, ⟨37,1⟩], fun v => .sffma (.ofNat 5 (v 0)) (.ofNat 5 (v 1)) (.ofNat 5 (v 2)) (.ofNat 5 (v 3)) (.ofNat 1 (v 4))⟩
def rowSfcvt : Row := ⟨2, 0x16, (some 1), [], [⟨0,5⟩, ⟨16,5⟩, ⟨32,4⟩, ⟨36,4⟩, ⟨40,3⟩], fun v => .sfcvt (.ofNat 5 (v 0)) (.ofNat 5 (v 1)) (.ofNat 4 (v 2)) (.ofNat 4 (v 3)) (.ofNat 3 (v 4))⟩
def rowSfclass : Row := ⟨2, 0x16, (some 2), [], [⟨0,5⟩, ⟨16,5⟩, ⟨32,1⟩], fun v => .sfclass (.ofNat 5 (v 0)) (.ofNat 5 (v 1)) (.ofNat 1 (v 2))⟩
def rowKlim : Row := ⟨1, 0x18, (some 0), [], [⟨0,5⟩, ⟨16,5⟩, ⟨21,5⟩], fun v => .klim (.ofNat 5 (v 0)) (.ofNat 5 (v 1)) (.ofNat 5 (v 2))⟩
def rowKset : Row := ⟨1, 0x18, (some 1), [], [⟨0,5⟩, ⟨16,5⟩, ⟨21,5⟩], fun v => .kset (.ofNat 5 (v 0)) (.ofNat 5 (v 1)) (.ofNat 5 (v 2))⟩
def rowKadv : Row := ⟨1, 0x18, (some 2), [], [⟨0,5⟩, ⟨16,5⟩, ⟨21,5⟩], fun v => .kadv (.ofNat 5 (v 0)) (.ofNat 5 (v 1)) (.ofNat 5 (v 2))⟩
def rowKmask : Row := ⟨1, 0x18, (some 3), [], [⟨0,5⟩, ⟨16,5⟩, ⟨21,5⟩], fun v => .kmask (.ofNat 5 (v 0)) (.ofNat 5 (v 1)) (.ofNat 5 (v 2))⟩
def rowKlock : Row := ⟨1, 0x18, (some 4), [], [⟨0,5⟩, ⟨16,5⟩, ⟨21,5⟩], fun v => .klock (.ofNat 5 (v 0)) (.ofNat 5 (v 1)) (.ofNat 5 (v 2))⟩
def rowKopen : Row := ⟨1, 0x18, (some 5), [], [⟨0,5⟩, ⟨16,5⟩, ⟨21,5⟩], fun v => .kopen (.ofNat 5 (v 0)) (.ofNat 5 (v 1)) (.ofNat 5 (v 2))⟩
def rowKinfo : Row := ⟨1, 0x18, (some 6), [], [⟨0,5⟩, ⟨16,5⟩, ⟨21,5⟩], fun v => .kinfo (.ofNat 5 (v 0)) (.ofNat 5 (v 1)) (.ofNat 5 (v 2))⟩
def rowKstrip : Row := ⟨1, 0x18, (some 7), [], [⟨0,5⟩, ⟨16,5⟩], fun v => .kstrip (.ofNat 5 (v 0)) (.ofNat 5 (v 1))⟩
def rowKcopy : Row := ⟨1, 0x18, (some 8), [], [⟨0,5⟩, ⟨16,5⟩], fun v => .kcopy (.ofNat 5 (v 0)) (.ofNat 5 (v 1))⟩
def rowKlimi : Row := ⟨2, 0x19, (some 0), [], [⟨0,5⟩, ⟨16,5⟩, ⟨32,16⟩], fun v => .klimi (.ofNat 5 (v 0)) (.ofNat 5 (v 1)) (.ofNat 16 (v 2))⟩
def rowKadvi : Row := ⟨2, 0x19, (some 1), [], [⟨0,5⟩, ⟨16,5⟩, ⟨32,16⟩], fun v => .kadvi (.ofNat 5 (v 0)) (.ofNat 5 (v 1)) (.ofNat 16 (v 2))⟩
def rowKmaski : Row := ⟨2, 0x19, (some 2), [], [⟨0,5⟩, ⟨16,5⟩, ⟨32,7⟩], fun v => .kmaski (.ofNat 5 (v 0)) (.ofNat 5 (v 1)) (.ofNat 7 (v 2))⟩
def rowLdb : Row := ⟨2, 0x20, (some 0), [], [⟨0,5⟩, ⟨16,5⟩, ⟨32,16⟩], fun v => .ldb (.ofNat 5 (v 0)) (.ofNat 5 (v 1)) (.ofNat 16 (v 2))⟩
def rowLdh : Row := ⟨2, 0x20, (some 1), [], [⟨0,5⟩, ⟨16,5⟩, ⟨32,16⟩], fun v => .ldh (.ofNat 5 (v 0)) (.ofNat 5 (v 1)) (.ofNat 16 (v 2))⟩
def rowLdw : Row := ⟨2, 0x20, (some 2), [], [⟨0,5⟩, ⟨16,5⟩, ⟨32,16⟩], fun v => .ldw (.ofNat 5 (v 0)) (.ofNat 5 (v 1)) (.ofNat 16 (v 2))⟩
def rowLdd : Row := ⟨2, 0x20, (some 3), [], [⟨0,5⟩, ⟨16,5⟩, ⟨32,16⟩], fun v => .ldd (.ofNat 5 (v 0)) (.ofNat 5 (v 1)) (.ofNat 16 (v 2))⟩
def rowLdbs : Row := ⟨2, 0x20, (some 4), [], [⟨0,5⟩, ⟨16,5⟩, ⟨32,16⟩], fun v => .ldbs (.ofNat 5 (v 0)) (.ofNat 5 (v 1)) (.ofNat 16 (v 2))⟩
def rowLdhs : Row := ⟨2, 0x20, (some 5), [], [⟨0,5⟩, ⟨16,5⟩, ⟨32,16⟩], fun v => .ldhs (.ofNat 5 (v 0)) (.ofNat 5 (v 1)) (.ofNat 16 (v 2))⟩
def rowLdws : Row := ⟨2, 0x20, (some 6), [], [⟨0,5⟩, ⟨16,5⟩, ⟨32,16⟩], fun v => .ldws (.ofNat 5 (v 0)) (.ofNat 5 (v 1)) (.ofNat 16 (v 2))⟩
def rowLdc : Row := ⟨2, 0x20, (some 7), [], [⟨0,5⟩, ⟨16,5⟩, ⟨32,16⟩], fun v => .ldc (.ofNat 5 (v 0)) (.ofNat 5 (v 1)) (.ofNat 16 (v 2))⟩
def rowStb : Row := ⟨2, 0x21, (some 0), [], [⟨21,5⟩, ⟨16,5⟩, ⟨32,16⟩], fun v => .stb (.ofNat 5 (v 0)) (.ofNat 5 (v 1)) (.ofNat 16 (v 2))⟩
def rowSth : Row := ⟨2, 0x21, (some 1), [], [⟨21,5⟩, ⟨16,5⟩, ⟨32,16⟩], fun v => .sth (.ofNat 5 (v 0)) (.ofNat 5 (v 1)) (.ofNat 16 (v 2))⟩
def rowStw : Row := ⟨2, 0x21, (some 2), [], [⟨21,5⟩, ⟨16,5⟩, ⟨32,16⟩], fun v => .stw (.ofNat 5 (v 0)) (.ofNat 5 (v 1)) (.ofNat 16 (v 2))⟩
def rowStd : Row := ⟨2, 0x21, (some 3), [], [⟨21,5⟩, ⟨16,5⟩, ⟨32,16⟩], fun v => .std (.ofNat 5 (v 0)) (.ofNat 5 (v 1)) (.ofNat 16 (v 2))⟩
def rowStc : Row := ⟨2, 0x21, (some 4), [], [⟨21,5⟩, ⟨16,5⟩, ⟨32,16⟩], fun v => .stc (.ofNat 5 (v 0)) (.ofNat 5 (v 1)) (.ofNat 16 (v 2))⟩
def rowLdbx : Row := ⟨1, 0x22, (some 0), [], [⟨0,5⟩, ⟨16,5⟩, ⟨21,5⟩], fun v => .ldbx (.ofNat 5 (v 0)) (.ofNat 5 (v 1)) (.ofNat 5 (v 2))⟩
def rowLdhx : Row := ⟨1, 0x22, (some 1), [], [⟨0,5⟩, ⟨16,5⟩, ⟨21,5⟩], fun v => .ldhx (.ofNat 5 (v 0)) (.ofNat 5 (v 1)) (.ofNat 5 (v 2))⟩
def rowLdwx : Row := ⟨1, 0x22, (some 2), [], [⟨0,5⟩, ⟨16,5⟩, ⟨21,5⟩], fun v => .ldwx (.ofNat 5 (v 0)) (.ofNat 5 (v 1)) (.ofNat 5 (v 2))⟩
def rowLddx : Row := ⟨1, 0x22, (some 3), [], [⟨0,5⟩, ⟨16,5⟩, ⟨21,5⟩], fun v => .lddx (.ofNat 5 (v 0)) (.ofNat 5 (v 1)) (.ofNat 5 (v 2))⟩
def rowStbx : Row := ⟨1, 0x22, (some 4), [], [⟨0,5⟩, ⟨16,5⟩, ⟨21,5⟩], fun v => .stbx (.ofNat 5 (v 0)) (.ofNat 5 (v 1)) (.ofNat 5 (v 2))⟩
def rowSthx : Row := ⟨1, 0x22, (some 5), [], [⟨0,5⟩, ⟨16,5⟩, ⟨21,5⟩], fun v => .sthx (.ofNat 5 (v 0)) (.ofNat 5 (v 1)) (.ofNat 5 (v 2))⟩
def rowStwx : Row := ⟨1, 0x22, (some 6), [], [⟨0,5⟩, ⟨16,5⟩, ⟨21,5⟩], fun v => .stwx (.ofNat 5 (v 0)) (.ofNat 5 (v 1)) (.ofNat 5 (v 2))⟩
def rowStdx : Row := ⟨1, 0x22, (some 7), [], [⟨0,5⟩, ⟨16,5⟩, ⟨21,5⟩], fun v => .stdx (.ofNat 5 (v 0)) (.ofNat 5 (v 1)) (.ofNat 5 (v 2))⟩
def rowLdm : Row := ⟨2, 0x23, (some 0), [], [⟨0,5⟩, ⟨21,5⟩, ⟨16,5⟩, ⟨32,16⟩], fun v => .ldm (.ofNat 5 (v 0)) (.ofNat 5 (v 1)) (.ofNat 5 (v 2)) (.ofNat 16 (v 3))⟩
def rowStm : Row := ⟨2, 0x23, (some 1), [], [⟨0,5⟩, ⟨21,5⟩, ⟨16,5⟩, ⟨32,16⟩], fun v => .stm (.ofNat 5 (v 0)) (.ofNat 5 (v 1)) (.ofNat 5 (v 2)) (.ofNat 16 (v 3))⟩
def rowAmoadd : Row := ⟨2, 0x28, (some 0), [], [⟨0,5⟩, ⟨16,5⟩, ⟨21,5⟩, ⟨32,3⟩, ⟨35,3⟩, ⟨38,2⟩], fun v => .amoadd (.ofNat 5 (v 0)) (.ofNat 5 (v 1)) (.ofNat 5 (v 2)) (.ofNat 3 (v 3)) (.ofNat 3 (v 4)) (.ofNat 2 (v 5))⟩
def rowAmoand : Row := ⟨2, 0x28, (some 1), [], [⟨0,5⟩, ⟨16,5⟩, ⟨21,5⟩, ⟨32,3⟩, ⟨35,3⟩, ⟨38,2⟩], fun v => .amoand (.ofNat 5 (v 0)) (.ofNat 5 (v 1)) (.ofNat 5 (v 2)) (.ofNat 3 (v 3)) (.ofNat 3 (v 4)) (.ofNat 2 (v 5))⟩
def rowAmoor : Row := ⟨2, 0x28, (some 2), [], [⟨0,5⟩, ⟨16,5⟩, ⟨21,5⟩, ⟨32,3⟩, ⟨35,3⟩, ⟨38,2⟩], fun v => .amoor (.ofNat 5 (v 0)) (.ofNat 5 (v 1)) (.ofNat 5 (v 2)) (.ofNat 3 (v 3)) (.ofNat 3 (v 4)) (.ofNat 2 (v 5))⟩
def rowAmoxor : Row := ⟨2, 0x28, (some 3), [], [⟨0,5⟩, ⟨16,5⟩, ⟨21,5⟩, ⟨32,3⟩, ⟨35,3⟩, ⟨38,2⟩], fun v => .amoxor (.ofNat 5 (v 0)) (.ofNat 5 (v 1)) (.ofNat 5 (v 2)) (.ofNat 3 (v 3)) (.ofNat 3 (v 4)) (.ofNat 2 (v 5))⟩
def rowAmoswap : Row := ⟨2, 0x28, (some 4), [], [⟨0,5⟩, ⟨16,5⟩, ⟨21,5⟩, ⟨32,3⟩, ⟨35,3⟩, ⟨38,2⟩], fun v => .amoswap (.ofNat 5 (v 0)) (.ofNat 5 (v 1)) (.ofNat 5 (v 2)) (.ofNat 3 (v 3)) (.ofNat 3 (v 4)) (.ofNat 2 (v 5))⟩
def rowAmomin : Row := ⟨2, 0x28, (some 5), [], [⟨0,5⟩, ⟨16,5⟩, ⟨21,5⟩, ⟨32,3⟩, ⟨35,3⟩, ⟨38,2⟩], fun v => .amomin (.ofNat 5 (v 0)) (.ofNat 5 (v 1)) (.ofNat 5 (v 2)) (.ofNat 3 (v 3)) (.ofNat 3 (v 4)) (.ofNat 2 (v 5))⟩
def rowAmomax : Row := ⟨2, 0x28, (some 6), [], [⟨0,5⟩, ⟨16,5⟩, ⟨21,5⟩, ⟨32,3⟩, ⟨35,3⟩, ⟨38,2⟩], fun v => .amomax (.ofNat 5 (v 0)) (.ofNat 5 (v 1)) (.ofNat 5 (v 2)) (.ofNat 3 (v 3)) (.ofNat 3 (v 4)) (.ofNat 2 (v 5))⟩
def rowAmominu : Row := ⟨2, 0x28, (some 7), [], [⟨0,5⟩, ⟨16,5⟩, ⟨21,5⟩, ⟨32,3⟩, ⟨35,3⟩, ⟨38,2⟩], fun v => .amominu (.ofNat 5 (v 0)) (.ofNat 5 (v 1)) (.ofNat 5 (v 2)) (.ofNat 3 (v 3)) (.ofNat 3 (v 4)) (.ofNat 2 (v 5))⟩
def rowAmomaxu : Row := ⟨2, 0x28, (some 8), [], [⟨0,5⟩, ⟨16,5⟩, ⟨21,5⟩, ⟨32,3⟩, ⟨35,3⟩, ⟨38,2⟩], fun v => .amomaxu (.ofNat 5 (v 0)) (.ofNat 5 (v 1)) (.ofNat 5 (v 2)) (.ofNat 3 (v 3)) (.ofNat 3 (v 4)) (.ofNat 2 (v 5))⟩
def rowCas : Row := ⟨2, 0x29, (some 0), [], [⟨0,5⟩, ⟨16,5⟩, ⟨21,5⟩, ⟨32,3⟩, ⟨35,3⟩, ⟨38,2⟩, ⟨40,1⟩, ⟨42,5⟩], fun v => .cas (.ofNat 5 (v 0)) (.ofNat 5 (v 1)) (.ofNat 5 (v 2)) (.ofNat 3 (v 3)) (.ofNat 3 (v 4)) (.ofNat 2 (v 5)) (.ofNat 1 (v 6)) (.ofNat 5 (v 7))⟩
def rowCas2 : Row := ⟨2, 0x29, (some 1), [(⟨38,2⟩, 3)], [⟨0,5⟩, ⟨16,5⟩, ⟨21,5⟩, ⟨32,3⟩, ⟨35,3⟩, ⟨40,1⟩, ⟨42,5⟩], fun v => .cas2 (.ofNat 5 (v 0)) (.ofNat 5 (v 1)) (.ofNat 5 (v 2)) (.ofNat 3 (v 3)) (.ofNat 3 (v 4)) (.ofNat 1 (v 5)) (.ofNat 5 (v 6))⟩
def rowLdaq : Row := ⟨2, 0x2A, (some 0), [], [⟨0,5⟩, ⟨16,5⟩, ⟨32,3⟩, ⟨35,3⟩, ⟨38,2⟩], fun v => .ldaq (.ofNat 5 (v 0)) (.ofNat 5 (v 1)) (.ofNat 3 (v 2)) (.ofNat 3 (v 3)) (.ofNat 2 (v 4))⟩
def rowStrl : Row := ⟨2, 0x2A, (some 1), [], [⟨21,5⟩, ⟨16,5⟩, ⟨32,3⟩, ⟨35,3⟩, ⟨38,2⟩], fun v => .strl (.ofNat 5 (v 0)) (.ofNat 5 (v 1)) (.ofNat 3 (v 2)) (.ofNat 3 (v 3)) (.ofNat 2 (v 4))⟩
def rowFence : Row := ⟨0, 0x2B, none, [], [⟨0,3⟩, ⟨3,3⟩], fun v => .fence (.ofNat 3 (v 0)) (.ofNat 3 (v 1))⟩
def rowVadd : Row := ⟨2, 0x30, (some 0), [], [⟨0,5⟩, ⟨16,5⟩, ⟨21,5⟩, ⟨35,3⟩, ⟨32,3⟩], fun v => .vadd (.ofNat 5 (v 0)) (.ofNat 5 (v 1)) (.ofNat 5 (v 2)) (.ofNat 3 (v 3)) (.ofNat 3 (v 4))⟩
def rowVsub : Row := ⟨2, 0x30, (some 1), [], [⟨0,5⟩, ⟨16,5⟩, ⟨21,5⟩, ⟨35,3⟩, ⟨32,3⟩], fun v => .vsub (.ofNat 5 (v 0)) (.ofNat 5 (v 1)) (.ofNat 5 (v 2)) (.ofNat 3 (v 3)) (.ofNat 3 (v 4))⟩
def rowVmul : Row := ⟨2, 0x30, (some 2), [], [⟨0,5⟩, ⟨16,5⟩, ⟨21,5⟩, ⟨35,3⟩, ⟨32,3⟩], fun v => .vmul (.ofNat 5 (v 0)) (.ofNat 5 (v 1)) (.ofNat 5 (v 2)) (.ofNat 3 (v 3)) (.ofNat 3 (v 4))⟩
def rowVmin : Row := ⟨2, 0x30, (some 3), [], [⟨0,5⟩, ⟨16,5⟩, ⟨21,5⟩, ⟨35,3⟩, ⟨32,3⟩], fun v => .vmin (.ofNat 5 (v 0)) (.ofNat 5 (v 1)) (.ofNat 5 (v 2)) (.ofNat 3 (v 3)) (.ofNat 3 (v 4))⟩
def rowVmax : Row := ⟨2, 0x30, (some 4), [], [⟨0,5⟩, ⟨16,5⟩, ⟨21,5⟩, ⟨35,3⟩, ⟨32,3⟩], fun v => .vmax (.ofNat 5 (v 0)) (.ofNat 5 (v 1)) (.ofNat 5 (v 2)) (.ofNat 3 (v 3)) (.ofNat 3 (v 4))⟩
def rowVand : Row := ⟨2, 0x30, (some 5), [], [⟨0,5⟩, ⟨16,5⟩, ⟨21,5⟩, ⟨32,3⟩], fun v => .vand (.ofNat 5 (v 0)) (.ofNat 5 (v 1)) (.ofNat 5 (v 2)) (.ofNat 3 (v 3))⟩
def rowVor : Row := ⟨2, 0x30, (some 6), [], [⟨0,5⟩, ⟨16,5⟩, ⟨21,5⟩, ⟨32,3⟩], fun v => .vor (.ofNat 5 (v 0)) (.ofNat 5 (v 1)) (.ofNat 5 (v 2)) (.ofNat 3 (v 3))⟩
def rowVxor : Row := ⟨2, 0x30, (some 7), [], [⟨0,5⟩, ⟨16,5⟩, ⟨21,5⟩, ⟨32,3⟩], fun v => .vxor (.ofNat 5 (v 0)) (.ofNat 5 (v 1)) (.ofNat 5 (v 2)) (.ofNat 3 (v 3))⟩
def rowVandn : Row := ⟨2, 0x30, (some 8), [], [⟨0,5⟩, ⟨16,5⟩, ⟨21,5⟩, ⟨32,3⟩], fun v => .vandn (.ofNat 5 (v 0)) (.ofNat 5 (v 1)) (.ofNat 5 (v 2)) (.ofNat 3 (v 3))⟩
def rowVshl : Row := ⟨2, 0x30, (some 9), [], [⟨0,5⟩, ⟨16,5⟩, ⟨21,5⟩, ⟨32,3⟩], fun v => .vshl (.ofNat 5 (v 0)) (.ofNat 5 (v 1)) (.ofNat 5 (v 2)) (.ofNat 3 (v 3))⟩
def rowVshr : Row := ⟨2, 0x30, (some 10), [], [⟨0,5⟩, ⟨16,5⟩, ⟨21,5⟩, ⟨32,3⟩], fun v => .vshr (.ofNat 5 (v 0)) (.ofNat 5 (v 1)) (.ofNat 5 (v 2)) (.ofNat 3 (v 3))⟩
def rowVsra : Row := ⟨2, 0x30, (some 11), [], [⟨0,5⟩, ⟨16,5⟩, ⟨21,5⟩, ⟨32,3⟩], fun v => .vsra (.ofNat 5 (v 0)) (.ofNat 5 (v 1)) (.ofNat 5 (v 2)) (.ofNat 3 (v 3))⟩
def rowVscaleb : Row := ⟨2, 0x30, (some 12), [], [⟨0,5⟩, ⟨16,5⟩, ⟨21,5⟩, ⟨35,3⟩, ⟨32,3⟩], fun v => .vscaleb (.ofNat 5 (v 0)) (.ofNat 5 (v 1)) (.ofNat 5 (v 2)) (.ofNat 3 (v 3)) (.ofNat 3 (v 4))⟩
def rowVadds : Row := ⟨2, 0x30, (some 13), [], [⟨0,5⟩, ⟨16,5⟩, ⟨21,5⟩, ⟨35,3⟩, ⟨32,3⟩], fun v => .vadds (.ofNat 5 (v 0)) (.ofNat 5 (v 1)) (.ofNat 5 (v 2)) (.ofNat 3 (v 3)) (.ofNat 3 (v 4))⟩
def rowVsubs : Row := ⟨2, 0x30, (some 14), [], [⟨0,5⟩, ⟨16,5⟩, ⟨21,5⟩, ⟨35,3⟩, ⟨32,3⟩], fun v => .vsubs (.ofNat 5 (v 0)) (.ofNat 5 (v 1)) (.ofNat 5 (v 2)) (.ofNat 3 (v 3)) (.ofNat 3 (v 4))⟩
def rowVabsd : Row := ⟨2, 0x30, (some 15), [], [⟨0,5⟩, ⟨16,5⟩, ⟨21,5⟩, ⟨35,3⟩, ⟨32,3⟩], fun v => .vabsd (.ofNat 5 (v 0)) (.ofNat 5 (v 1)) (.ofNat 5 (v 2)) (.ofNat 3 (v 3)) (.ofNat 3 (v 4))⟩
def rowVmov : Row := ⟨2, 0x31, (some 0), [], [⟨0,5⟩, ⟨16,5⟩, ⟨32,3⟩], fun v => .vmov (.ofNat 5 (v 0)) (.ofNat 5 (v 1)) (.ofNat 3 (v 2))⟩
def rowVneg : Row := ⟨2, 0x31, (some 1), [], [⟨0,5⟩, ⟨16,5⟩, ⟨32,3⟩], fun v => .vneg (.ofNat 5 (v 0)) (.ofNat 5 (v 1)) (.ofNat 3 (v 2))⟩
def rowVabs : Row := ⟨2, 0x31, (some 2), [], [⟨0,5⟩, ⟨16,5⟩, ⟨32,3⟩], fun v => .vabs (.ofNat 5 (v 0)) (.ofNat 5 (v 1)) (.ofNat 3 (v 2))⟩
def rowVnot : Row := ⟨2, 0x31, (some 3), [], [⟨0,5⟩, ⟨16,5⟩, ⟨32,3⟩], fun v => .vnot (.ofNat 5 (v 0)) (.ofNat 5 (v 1)) (.ofNat 3 (v 2))⟩
def rowVclass : Row := ⟨2, 0x31, (some 4), [], [⟨0,5⟩, ⟨16,5⟩, ⟨32,3⟩], fun v => .vclass (.ofNat 5 (v 0)) (.ofNat 5 (v 1)) (.ofNat 3 (v 2))⟩
def rowViota : Row := ⟨2, 0x31, (some 5), [], [⟨0,5⟩, ⟨38,5⟩, ⟨35,3⟩, ⟨32,3⟩], fun v => .viota (.ofNat 5 (v 0)) (.ofNat 5 (v 1)) (.ofNat 3 (v 2)) (.ofNat 3 (v 3))⟩
def rowVbcast : Row := ⟨2, 0x31, (some 6), [], [⟨0,5⟩, ⟨16,5⟩, ⟨38,5⟩, ⟨32,3⟩], fun v => .vbcast (.ofNat 5 (v 0)) (.ofNat 5 (v 1)) (.ofNat 5 (v 2)) (.ofNat 3 (v 3))⟩
def rowVrcp : Row := ⟨2, 0x31, (some 7), [], [⟨0,5⟩, ⟨16,5⟩, ⟨35,3⟩, ⟨32,3⟩], fun v => .vrcp (.ofNat 5 (v 0)) (.ofNat 5 (v 1)) (.ofNat 3 (v 2)) (.ofNat 3 (v 3))⟩
def rowVrsqrt : Row := ⟨2, 0x31, (some 8), [], [⟨0,5⟩, ⟨16,5⟩, ⟨35,3⟩, ⟨32,3⟩], fun v => .vrsqrt (.ofNat 5 (v 0)) (.ofNat 5 (v 1)) (.ofNat 3 (v 2)) (.ofNat 3 (v 3))⟩
def rowVsqrt : Row := ⟨2, 0x31, (some 9), [], [⟨0,5⟩, ⟨16,5⟩, ⟨35,3⟩, ⟨32,3⟩], fun v => .vsqrt (.ofNat 5 (v 0)) (.ofNat 5 (v 1)) (.ofNat 3 (v 2)) (.ofNat 3 (v 3))⟩
def rowVfma : Row := ⟨2, 0x32, (some 0), [], [⟨0,5⟩, ⟨16,5⟩, ⟨21,5⟩, ⟨38,5⟩, ⟨35,3⟩, ⟨32,3⟩], fun v => .vfma (.ofNat 5 (v 0)) (.ofNat 5 (v 1)) (.ofNat 5 (v 2)) (.ofNat 5 (v 3)) (.ofNat 3 (v 4)) (.ofNat 3 (v 5))⟩
def rowVfms : Row := ⟨2, 0x32, (some 1), [], [⟨0,5⟩, ⟨16,5⟩, ⟨21,5⟩, ⟨38,5⟩, ⟨35,3⟩, ⟨32,3⟩], fun v => .vfms (.ofNat 5 (v 0)) (.ofNat 5 (v 1)) (.ofNat 5 (v 2)) (.ofNat 5 (v 3)) (.ofNat 3 (v 4)) (.ofNat 3 (v 5))⟩
def rowVfnma : Row := ⟨2, 0x32, (some 2), [], [⟨0,5⟩, ⟨16,5⟩, ⟨21,5⟩, ⟨38,5⟩, ⟨35,3⟩, ⟨32,3⟩], fun v => .vfnma (.ofNat 5 (v 0)) (.ofNat 5 (v 1)) (.ofNat 5 (v 2)) (.ofNat 5 (v 3)) (.ofNat 3 (v 4)) (.ofNat 3 (v 5))⟩
def rowVsel : Row := ⟨2, 0x32, (some 3), [], [⟨0,5⟩, ⟨16,5⟩, ⟨21,5⟩, ⟨32,3⟩], fun v => .vsel (.ofNat 5 (v 0)) (.ofNat 5 (v 1)) (.ofNat 5 (v 2)) (.ofNat 3 (v 3))⟩
def rowVceq : Row := ⟨2, 0x33, (some 0), [], [⟨0,3⟩, ⟨16,5⟩, ⟨21,5⟩, ⟨32,3⟩], fun v => .vceq (.ofNat 3 (v 0)) (.ofNat 5 (v 1)) (.ofNat 5 (v 2)) (.ofNat 3 (v 3))⟩
def rowVcne : Row := ⟨2, 0x33, (some 1), [], [⟨0,3⟩, ⟨16,5⟩, ⟨21,5⟩, ⟨32,3⟩], fun v => .vcne (.ofNat 3 (v 0)) (.ofNat 5 (v 1)) (.ofNat 5 (v 2)) (.ofNat 3 (v 3))⟩
def rowVclt : Row := ⟨2, 0x33, (some 2), [], [⟨0,3⟩, ⟨16,5⟩, ⟨21,5⟩, ⟨32,3⟩], fun v => .vclt (.ofNat 3 (v 0)) (.ofNat 5 (v 1)) (.ofNat 5 (v 2)) (.ofNat 3 (v 3))⟩
def rowVcle : Row := ⟨2, 0x33, (some 3), [], [⟨0,3⟩, ⟨16,5⟩, ⟨21,5⟩, ⟨32,3⟩], fun v => .vcle (.ofNat 3 (v 0)) (.ofNat 5 (v 1)) (.ofNat 5 (v 2)) (.ofNat 3 (v 3))⟩
def rowVcun : Row := ⟨2, 0x33, (some 4), [], [⟨0,3⟩, ⟨16,5⟩, ⟨21,5⟩, ⟨32,3⟩], fun v => .vcun (.ofNat 3 (v 0)) (.ofNat 5 (v 1)) (.ofNat 5 (v 2)) (.ofNat 3 (v 3))⟩
def rowVclassm : Row := ⟨2, 0x33, (some 5), [], [⟨0,3⟩, ⟨16,5⟩, ⟨38,10⟩, ⟨32,3⟩], fun v => .vclassm (.ofNat 3 (v 0)) (.ofNat 5 (v 1)) (.ofNat 10 (v 2)) (.ofNat 3 (v 3))⟩
def rowVcvt : Row := ⟨2, 0x34, (some 0), [], [⟨0,5⟩, ⟨16,5⟩, ⟨43,4⟩, ⟨38,5⟩, ⟨35,3⟩, ⟨32,3⟩], fun v => .vcvt (.ofNat 5 (v 0)) (.ofNat 5 (v 1)) (.ofNat 4 (v 2)) (.ofNat 5 (v 3)) (.ofNat 3 (v 4)) (.ofNat 3 (v 5))⟩
def rowVrnd : Row := ⟨2, 0x34, (some 1), [], [⟨0,5⟩, ⟨16,5⟩, ⟨35,3⟩, ⟨32,3⟩], fun v => .vrnd (.ofNat 5 (v 0)) (.ofNat 5 (v 1)) (.ofNat 3 (v 2)) (.ofNat 3 (v 3))⟩
def rowVtag : Row := ⟨2, 0x34, (some 2), [], [⟨0,5⟩, ⟨16,5⟩, ⟨38,5⟩, ⟨32,3⟩], fun v => .vtag (.ofNat 5 (v 0)) (.ofNat 5 (v 1)) (.ofNat 5 (v 2)) (.ofNat 3 (v 3))⟩
def rowVpack : Row := ⟨2, 0x34, (some 3), [], [⟨0,5⟩, ⟨16,5⟩, ⟨21,5⟩, ⟨38,5⟩, ⟨35,3⟩, ⟨32,3⟩], fun v => .vpack (.ofNat 5 (v 0)) (.ofNat 5 (v 1)) (.ofNat 5 (v 2)) (.ofNat 5 (v 3)) (.ofNat 3 (v 4)) (.ofNat 3 (v 5))⟩
def rowVunpack : Row := ⟨2, 0x34, (some 4), [], [⟨0,5⟩, ⟨16,5⟩, ⟨38,5⟩, ⟨35,3⟩, ⟨32,3⟩], fun v => .vunpack (.ofNat 5 (v 0)) (.ofNat 5 (v 1)) (.ofNat 5 (v 2)) (.ofNat 3 (v 3)) (.ofNat 3 (v 4))⟩
def rowVredsum : Row := ⟨2, 0x35, (some 0), [], [⟨0,5⟩, ⟨16,5⟩, ⟨35,3⟩, ⟨32,3⟩], fun v => .vredsum (.ofNat 5 (v 0)) (.ofNat 5 (v 1)) (.ofNat 3 (v 2)) (.ofNat 3 (v 3))⟩
def rowVredmax : Row := ⟨2, 0x35, (some 1), [], [⟨0,5⟩, ⟨16,5⟩, ⟨32,3⟩], fun v => .vredmax (.ofNat 5 (v 0)) (.ofNat 5 (v 1)) (.ofNat 3 (v 2))⟩
def rowVredmin : Row := ⟨2, 0x35, (some 2), [], [⟨0,5⟩, ⟨16,5⟩, ⟨32,3⟩], fun v => .vredmin (.ofNat 5 (v 0)) (.ofNat 5 (v 1)) (.ofNat 3 (v 2))⟩
def rowVperm : Row := ⟨2, 0x35, (some 3), [], [⟨0,5⟩, ⟨16,5⟩, ⟨21,5⟩, ⟨32,3⟩], fun v => .vperm (.ofNat 5 (v 0)) (.ofNat 5 (v 1)) (.ofNat 5 (v 2)) (.ofNat 3 (v 3))⟩
def rowVextr : Row := ⟨2, 0x35, (some 4), [], [⟨0,5⟩, ⟨16,5⟩, ⟨21,5⟩], fun v => .vextr (.ofNat 5 (v 0)) (.ofNat 5 (v 1)) (.ofNat 5 (v 2))⟩
def rowVins : Row := ⟨2, 0x35, (some 5), [], [⟨0,5⟩, ⟨16,5⟩, ⟨21,5⟩], fun v => .vins (.ofNat 5 (v 0)) (.ofNat 5 (v 1)) (.ofNat 5 (v 2))⟩
def rowVld : Row := ⟨2, 0x36, (some 0), [], [⟨0,5⟩, ⟨16,5⟩, ⟨21,5⟩, ⟨38,5⟩, ⟨32,3⟩], fun v => .vld (.ofNat 5 (v 0)) (.ofNat 5 (v 1)) (.ofNat 5 (v 2)) (.ofNat 5 (v 3)) (.ofNat 3 (v 4))⟩
def rowVst : Row := ⟨2, 0x36, (some 1), [], [⟨0,5⟩, ⟨16,5⟩, ⟨21,5⟩, ⟨32,3⟩], fun v => .vst (.ofNat 5 (v 0)) (.ofNat 5 (v 1)) (.ofNat 5 (v 2)) (.ofNat 3 (v 3))⟩
def rowVgath : Row := ⟨2, 0x36, (some 2), [], [⟨0,5⟩, ⟨16,5⟩, ⟨21,5⟩, ⟨43,4⟩, ⟨38,5⟩, ⟨32,3⟩], fun v => .vgath (.ofNat 5 (v 0)) (.ofNat 5 (v 1)) (.ofNat 5 (v 2)) (.ofNat 4 (v 3)) (.ofNat 5 (v 4)) (.ofNat 3 (v 5))⟩
def rowVscat : Row := ⟨2, 0x36, (some 3), [], [⟨38,5⟩, ⟨16,5⟩, ⟨21,5⟩, ⟨43,4⟩, ⟨32,3⟩], fun v => .vscat (.ofNat 5 (v 0)) (.ofNat 5 (v 1)) (.ofNat 5 (v 2)) (.ofNat 4 (v 3)) (.ofNat 3 (v 4))⟩
def rowSbind : Row := ⟨2, 0x37, (some 0), [], [⟨3,2⟩, ⟨0,3⟩, ⟨16,5⟩, ⟨21,5⟩], fun v => .sbind (.ofNat 2 (v 0)) (.ofNat 3 (v 1)) (.ofNat 5 (v 2)) (.ofNat 5 (v 3))⟩
def rowSpos : Row := ⟨2, 0x37, (some 1), [], [⟨0,3⟩, ⟨16,5⟩], fun v => .spos (.ofNat 3 (v 0)) (.ofNat 5 (v 1))⟩
def rowSget : Row := ⟨2, 0x37, (some 2), [], [⟨0,5⟩, ⟨16,3⟩], fun v => .sget (.ofNat 5 (v 0)) (.ofNat 3 (v 1))⟩
def rowVexp2f : Row := ⟨2, 0x38, (some 0), [], [⟨0,5⟩, ⟨16,5⟩, ⟨35,3⟩, ⟨32,3⟩], fun v => .vexp2f (.ofNat 5 (v 0)) (.ofNat 5 (v 1)) (.ofNat 3 (v 2)) (.ofNat 3 (v 3))⟩
def rowVlog2f : Row := ⟨2, 0x38, (some 1), [], [⟨0,5⟩, ⟨16,5⟩, ⟨35,3⟩, ⟨32,3⟩], fun v => .vlog2f (.ofNat 5 (v 0)) (.ofNat 5 (v 1)) (.ofNat 3 (v 2)) (.ofNat 3 (v 3))⟩
def rowVtanh : Row := ⟨2, 0x38, (some 2), [], [⟨0,5⟩, ⟨16,5⟩, ⟨35,3⟩, ⟨32,3⟩], fun v => .vtanh (.ofNat 5 (v 0)) (.ofNat 5 (v 1)) (.ofNat 3 (v 2)) (.ofNat 3 (v 3))⟩
def rowVtopk : Row := ⟨2, 0x39, (some 0), [], [⟨0,5⟩, ⟨16,5⟩, ⟨21,5⟩, ⟨38,10⟩, ⟨32,3⟩], fun v => .vtopk (.ofNat 5 (v 0)) (.ofNat 5 (v 1)) (.ofNat 5 (v 2)) (.ofNat 10 (v 3)) (.ofNat 3 (v 4))⟩
def rowVtopknz : Row := ⟨2, 0x39, (some 1), [], [⟨0,5⟩, ⟨16,5⟩, ⟨21,5⟩, ⟨38,10⟩, ⟨32,3⟩], fun v => .vtopknz (.ofNat 5 (v 0)) (.ofNat 5 (v 1)) (.ofNat 5 (v 2)) (.ofNat 10 (v 3)) (.ofNat 3 (v 4))⟩
def rowPark : Row := ⟨2, 0x3A, (some 0), [], [⟨0,6⟩, ⟨16,5⟩, ⟨21,5⟩, ⟨38,10⟩], fun v => .park (.ofNat 6 (v 0)) (.ofNat 5 (v 1)) (.ofNat 5 (v 2)) (.ofNat 10 (v 3))⟩
def rowUnpark : Row := ⟨2, 0x3A, (some 1), [], [⟨0,6⟩, ⟨16,5⟩, ⟨21,5⟩, ⟨38,10⟩], fun v => .unpark (.ofNat 6 (v 0)) (.ofNat 5 (v 1)) (.ofNat 5 (v 2)) (.ofNat 10 (v 3))⟩
def rowWload : Row := ⟨2, 0x40, (some 0), [], [⟨0,3⟩, ⟨16,5⟩], fun v => .wload (.ofNat 3 (v 0)) (.ofNat 5 (v 1))⟩
def rowMma : Row := ⟨2, 0x40, (some 1), [], [⟨0,3⟩, ⟨16,5⟩, ⟨38,10⟩, ⟨36,2⟩], fun v => .mma (.ofNat 3 (v 0)) (.ofNat 5 (v 1)) (.ofNat 10 (v 2)) (.ofNat 2 (v 3))⟩
def rowMmasw : Row := ⟨2, 0x40, (some 2), [], [⟨0,3⟩, ⟨16,5⟩, ⟨38,10⟩, ⟨36,2⟩], fun v => .mmasw (.ofNat 3 (v 0)) (.ofNat 5 (v 1)) (.ofNat 10 (v 2)) (.ofNat 2 (v 3))⟩
def rowAccz : Row := ⟨2, 0x40, (some 3), [], [⟨16,10⟩, ⟨38,10⟩], fun v => .accz (.ofNat 10 (v 0)) (.ofNat 10 (v 1))⟩
def rowAccrd : Row := ⟨2, 0x40, (some 4), [], [⟨0,3⟩, ⟨38,10⟩, ⟨36,2⟩, ⟨35,1⟩, ⟨33,2⟩], fun v => .accrd (.ofNat 3 (v 0)) (.ofNat 10 (v 1)) (.ofNat 2 (v 2)) (.ofNat 1 (v 3)) (.ofNat 2 (v 4))⟩
def rowAccwr : Row := ⟨2, 0x40, (some 5), [], [⟨0,3⟩, ⟨38,10⟩, ⟨36,2⟩], fun v => .accwr (.ofNat 3 (v 0)) (.ofNat 10 (v 1)) (.ofNat 2 (v 2))⟩
def rowAcccp : Row := ⟨2, 0x40, (some 6), [], [⟨0,6⟩, ⟨16,10⟩, ⟨38,10⟩], fun v => .acccp (.ofNat 6 (v 0)) (.ofNat 10 (v 1)) (.ofNat 10 (v 2))⟩
def rowTload : Row := ⟨2, 0x40, (some 7), [], [⟨0,3⟩, ⟨16,5⟩, ⟨21,5⟩, ⟨32,10⟩], fun v => .tload (.ofNat 3 (v 0)) (.ofNat 5 (v 1)) (.ofNat 5 (v 2)) (.ofNat 10 (v 3))⟩
def rowTstore : Row := ⟨2, 0x40, (some 8), [], [⟨0,3⟩, ⟨16,5⟩, ⟨21,5⟩, ⟨47,1⟩, ⟨42,5⟩, ⟨32,10⟩], fun v => .tstore (.ofNat 3 (v 0)) (.ofNat 5 (v 1)) (.ofNat 5 (v 2)) (.ofNat 1 (v 3)) (.ofNat 5 (v 4)) (.ofNat 10 (v 5))⟩
def rowTtrans : Row := ⟨2, 0x40, (some 9), [], [⟨0,3⟩, ⟨16,3⟩], fun v => .ttrans (.ofNat 3 (v 0)) (.ofNat 3 (v 1))⟩
def rowChadd : Row := ⟨1, 0x44, (some 0), [], [⟨0,3⟩, ⟨16,3⟩, ⟨21,3⟩], fun v => .chadd (.ofNat 3 (v 0)) (.ofNat 3 (v 1)) (.ofNat 3 (v 2))⟩
def rowChsub : Row := ⟨1, 0x44, (some 1), [], [⟨0,3⟩, ⟨16,3⟩, ⟨21,3⟩], fun v => .chsub (.ofNat 3 (v 0)) (.ofNat 3 (v 1)) (.ofNat 3 (v 2))⟩
def rowChmul : Row := ⟨1, 0x44, (some 2), [], [⟨0,3⟩, ⟨16,3⟩, ⟨21,3⟩], fun v => .chmul (.ofNat 3 (v 0)) (.ofNat 3 (v 1)) (.ofNat 3 (v 2))⟩
def rowChcomp : Row := ⟨1, 0x44, (some 3), [], [⟨0,3⟩, ⟨16,3⟩, ⟨21,3⟩], fun v => .chcomp (.ofNat 3 (v 0)) (.ofNat 3 (v 1)) (.ofNat 3 (v 2))⟩
def rowChdiff : Row := ⟨1, 0x44, (some 4), [], [⟨0,3⟩, ⟨16,3⟩], fun v => .chdiff (.ofNat 3 (v 0)) (.ofNat 3 (v 1))⟩
def rowChint : Row := ⟨1, 0x44, (some 5), [], [⟨0,3⟩, ⟨16,3⟩], fun v => .chint (.ofNat 3 (v 0)) (.ofNat 3 (v 1))⟩
def rowChmov : Row := ⟨1, 0x44, (some 6), [], [⟨0,3⟩, ⟨16,3⟩], fun v => .chmov (.ofNat 3 (v 0)) (.ofNat 3 (v 1))⟩
def rowChfree : Row := ⟨1, 0x44, (some 7), [], [⟨0,3⟩], fun v => .chfree (.ofNat 3 (v 0))⟩
def rowChlen : Row := ⟨1, 0x44, (some 8), [], [⟨0,5⟩, ⟨16,3⟩], fun v => .chlen (.ofNat 5 (v 0)) (.ofNat 3 (v 1))⟩
def rowChnorm : Row := ⟨1, 0x44, (some 9), [], [⟨0,5⟩, ⟨16,3⟩], fun v => .chnorm (.ofNat 5 (v 0)) (.ofNat 3 (v 1))⟩
def rowChtrunc : Row := ⟨1, 0x44, (some 10), [], [⟨0,3⟩, ⟨16,3⟩, ⟨21,5⟩], fun v => .chtrunc (.ofNat 3 (v 0)) (.ofNat 3 (v 1)) (.ofNat 5 (v 2))⟩
def rowChfit : Row := ⟨2, 0x45, (some 0), [], [⟨0,3⟩, ⟨16,5⟩, ⟨21,5⟩, ⟨32,13⟩], fun v => .chfit (.ofNat 3 (v 0)) (.ofNat 5 (v 1)) (.ofNat 5 (v 2)) (.ofNat 13 (v 3))⟩
def rowCheval : Row := ⟨2, 0x45, (some 1), [], [⟨0,5⟩, ⟨16,3⟩, ⟨21,5⟩], fun v => .cheval (.ofNat 5 (v 0)) (.ofNat 3 (v 1)) (.ofNat 5 (v 2))⟩
def rowChroot : Row := ⟨2, 0x45, (some 2), [], [⟨0,5⟩, ⟨16,3⟩, ⟨21,5⟩, ⟨32,12⟩], fun v => .chroot (.ofNat 5 (v 0)) (.ofNat 3 (v 1)) (.ofNat 5 (v 2)) (.ofNat 12 (v 3))⟩
def rowChconst : Row := ⟨2, 0x45, (some 3), [], [⟨0,3⟩, ⟨16,5⟩, ⟨21,5⟩, ⟨32,5⟩], fun v => .chconst (.ofNat 3 (v 0)) (.ofNat 5 (v 1)) (.ofNat 5 (v 2)) (.ofNat 5 (v 3))⟩
def rowChx : Row := ⟨2, 0x45, (some 4), [], [⟨0,3⟩, ⟨16,5⟩, ⟨21,5⟩], fun v => .chx (.ofNat 3 (v 0)) (.ofNat 5 (v 1)) (.ofNat 5 (v 2))⟩
def rowChld : Row := ⟨2, 0x45, (some 5), [], [⟨0,3⟩, ⟨16,5⟩, ⟨21,5⟩], fun v => .chld (.ofNat 3 (v 0)) (.ofNat 5 (v 1)) (.ofNat 5 (v 2))⟩
def rowChst : Row := ⟨2, 0x45, (some 6), [], [⟨0,3⟩, ⟨16,5⟩, ⟨21,5⟩], fun v => .chst (.ofNat 3 (v 0)) (.ofNat 5 (v 1)) (.ofNat 5 (v 2))⟩
def rowChscal : Row := ⟨2, 0x45, (some 7), [], [⟨0,3⟩, ⟨16,3⟩, ⟨21,5⟩], fun v => .chscal (.ofNat 3 (v 0)) (.ofNat 3 (v 1)) (.ofNat 5 (v 2))⟩
def rowCpy : Row := ⟨3, 0x48, (some 0), [], [⟨5,1⟩, ⟨16,5⟩, ⟨21,5⟩, ⟨32,16⟩, ⟨48,16⟩], fun v => .cpy (.ofNat 1 (v 0)) (.ofNat 5 (v 1)) (.ofNat 5 (v 2)) (.ofNat 16 (v 3)) (.ofNat 16 (v 4))⟩
def rowCpym : Row := ⟨3, 0x48, (some 1), [], [⟨5,1⟩, ⟨0,3⟩, ⟨16,5⟩, ⟨21,5⟩, ⟨32,16⟩, ⟨54,10⟩, ⟨52,2⟩, ⟨51,1⟩], fun v => .cpym (.ofNat 1 (v 0)) (.ofNat 3 (v 1)) (.ofNat 5 (v 2)) (.ofNat 5 (v 3)) (.ofNat 16 (v 4)) (.ofNat 10 (v 5)) (.ofNat 2 (v 6)) (.ofNat 1 (v 7))⟩
def rowCpyq : Row := ⟨3, 0x48, (some 2), [], [⟨5,1⟩, ⟨16,5⟩, ⟨21,5⟩, ⟨32,16⟩, ⟨48,16⟩], fun v => .cpyq (.ofNat 1 (v 0)) (.ofNat 5 (v 1)) (.ofNat 5 (v 2)) (.ofNat 16 (v 3)) (.ofNat 16 (v 4))⟩
def rowIgather : Row := ⟨3, 0x49, (some 0), [], [⟨4,1⟩, ⟨0,4⟩, ⟨16,5⟩, ⟨21,5⟩, ⟨37,5⟩, ⟨32,5⟩, ⟨48,10⟩], fun v => .igather (.ofNat 1 (v 0)) (.ofNat 4 (v 1)) (.ofNat 5 (v 2)) (.ofNat 5 (v 3)) (.ofNat 5 (v 4)) (.ofNat 5 (v 5)) (.ofNat 10 (v 6))⟩
def rowIscatter : Row := ⟨3, 0x49, (some 1), [], [⟨4,1⟩, ⟨0,4⟩, ⟨16,5⟩, ⟨21,5⟩, ⟨37,5⟩, ⟨32,5⟩, ⟨48,10⟩], fun v => .iscatter (.ofNat 1 (v 0)) (.ofNat 4 (v 1)) (.ofNat 5 (v 2)) (.ofNat 5 (v 3)) (.ofNat 5 (v 4)) (.ofNat 5 (v 5)) (.ofNat 10 (v 6))⟩
def rowEvwait : Row := ⟨1, 0x4A, (some 0), [], [⟨0,4⟩, ⟨16,5⟩], fun v => .evwait (.ofNat 4 (v 0)) (.ofNat 5 (v 1))⟩
def rowEvsig : Row := ⟨1, 0x4A, (some 1), [], [⟨0,4⟩, ⟨16,5⟩], fun v => .evsig (.ofNat 4 (v 0)) (.ofNat 5 (v 1))⟩
def rowCbar : Row := ⟨1, 0x4A, (some 2), [], [⟨16,5⟩], fun v => .cbar (.ofNat 5 (v 0))⟩
def rowWkstart : Row := ⟨2, 0x4B, (some 0), [], [⟨0,5⟩, ⟨16,5⟩, ⟨21,5⟩, ⟨32,16⟩], fun v => .wkstart (.ofNat 5 (v 0)) (.ofNat 5 (v 1)) (.ofNat 5 (v 2)) (.ofNat 16 (v 3))⟩
def rowWkstat : Row := ⟨2, 0x4B, (some 1), [], [⟨0,5⟩, ⟨16,5⟩, ⟨32,2⟩, ⟨34,1⟩], fun v => .wkstat (.ofNat 5 (v 0)) (.ofNat 5 (v 1)) (.ofNat 2 (v 2)) (.ofNat 1 (v 3))⟩
def rowStvec : Row := ⟨2, 0x50, (some 0), [], [⟨0,5⟩, ⟨16,5⟩, ⟨32,16⟩], fun v => .stvec (.ofNat 5 (v 0)) (.ofNat 5 (v 1)) (.ofNat 16 (v 2))⟩
def rowLdnear : Row := ⟨2, 0x50, (some 1), [], [⟨5,1⟩, ⟨0,5⟩, ⟨16,5⟩, ⟨21,5⟩, ⟨32,16⟩], fun v => .ldnear (.ofNat 1 (v 0)) (.ofNat 5 (v 1)) (.ofNat 5 (v 2)) (.ofNat 5 (v 3)) (.ofNat 16 (v 4))⟩
def rowDelvec : Row := ⟨2, 0x50, (some 2), [], [⟨0,5⟩, ⟨21,5⟩, ⟨32,16⟩], fun v => .delvec (.ofNat 5 (v 0)) (.ofNat 5 (v 1)) (.ofNat 16 (v 2))⟩
def rowIxstamp : Row := ⟨2, 0x50, (some 3), [], [⟨0,5⟩, ⟨32,16⟩], fun v => .ixstamp (.ofNat 5 (v 0)) (.ofNat 16 (v 1))⟩
def rowNsubmit : Row := ⟨2, 0x51, (some 0), [], [⟨0,5⟩, ⟨16,5⟩, ⟨32,1⟩], fun v => .nsubmit (.ofNat 5 (v 0)) (.ofNat 5 (v 1)) (.ofNat 1 (v 2))⟩
def rowNdone : Row := ⟨2, 0x51, (some 1), [(⟨32,1⟩, 0)], [⟨16,5⟩], fun v => .ndone (.ofNat 5 (v 0))⟩
def rowNdoneQ : Row := ⟨2, 0x51, (some 1), [(⟨32,1⟩, 1)], [⟨0,5⟩, ⟨16,5⟩, ⟨33,1⟩], fun v => .ndoneQ (.ofNat 5 (v 0)) (.ofNat 5 (v 1)) (.ofNat 1 (v 2))⟩
def rowNarm : Row := ⟨2, 0x51, (some 2), [(⟨32,1⟩, 0)], [⟨16,5⟩], fun v => .narm (.ofNat 5 (v 0))⟩
def rowNarmEdge : Row := ⟨2, 0x51, (some 2), [(⟨32,1⟩, 1)], [⟨0,5⟩, ⟨16,5⟩, ⟨21,5⟩], fun v => .narmEdge (.ofNat 5 (v 0)) (.ofNat 5 (v 1)) (.ofNat 5 (v 2))⟩
def rowCwait : Row := ⟨2, 0x58, (some 0), [], [⟨0,5⟩, ⟨16,5⟩, ⟨32,16⟩], fun v => .cwait (.ofNat 5 (v 0)) (.ofNat 5 (v 1)) (.ofNat 16 (v 2))⟩
def rowCancel : Row := ⟨2, 0x58, (some 1), [], [⟨0,5⟩, ⟨16,5⟩], fun v => .cancel (.ofNat 5 (v 0)) (.ofNat 5 (v 1))⟩
def rowLaunch : Row := ⟨2, 0x58, (some 2), [], [⟨0,5⟩, ⟨16,5⟩], fun v => .launch (.ofNat 5 (v 0)) (.ofNat 5 (v 1))⟩
def rowBarrive : Row := ⟨2, 0x59, (some 0), [], [⟨0,5⟩, ⟨16,5⟩, ⟨32,16⟩], fun v => .barrive (.ofNat 5 (v 0)) (.ofNat 5 (v 1)) (.ofNat 16 (v 2))⟩
def rowBwait : Row := ⟨2, 0x59, (some 1), [], [⟨16,5⟩, ⟨32,16⟩], fun v => .bwait (.ofNat 5 (v 0)) (.ofNat 16 (v 1))⟩
def rowBsync : Row := ⟨2, 0x59, (some 2), [], [⟨0,5⟩, ⟨16,5⟩, ⟨32,16⟩], fun v => .bsync (.ofNat 5 (v 0)) (.ofNat 5 (v 1)) (.ofNat 16 (v 2))⟩
def rowSlotsend : Row := ⟨2, 0x59, (some 3), [], [⟨0,5⟩, ⟨16,5⟩, ⟨21,5⟩, ⟨32,12⟩], fun v => .slotsend (.ofNat 5 (v 0)) (.ofNat 5 (v 1)) (.ofNat 5 (v 2)) (.ofNat 12 (v 3))⟩
def rowSlotwait : Row := ⟨2, 0x59, (some 4), [], [⟨0,5⟩, ⟨32,12⟩], fun v => .slotwait (.ofNat 5 (v 0)) (.ofNat 12 (v 1))⟩
def rowSeal : Row := ⟨2, 0x5A, (some 0), [], [⟨0,5⟩, ⟨16,5⟩, ⟨21,5⟩], fun v => .seal (.ofNat 5 (v 0)) (.ofNat 5 (v 1)) (.ofNat 5 (v 2))⟩
def rowReconf : Row := ⟨2, 0x60, (some 0), [], [⟨0,5⟩, ⟨32,8⟩], fun v => .reconf (.ofNat 5 (v 0)) (.ofNat 8 (v 1))⟩
def rowTgen : Row := ⟨2, 0x60, (some 1), [], [⟨0,5⟩], fun v => .tgen (.ofNat 5 (v 0))⟩
def rowGbar : Row := ⟨2, 0x60, (some 2), [], [⟨0,5⟩, ⟨16,5⟩], fun v => .gbar (.ofNat 5 (v 0)) (.ofNat 5 (v 1))⟩
def rowAbort : Row := ⟨2, 0x60, (some 3), [], [⟨16,5⟩], fun v => .abort (.ofNat 5 (v 0))⟩
def rowStmc : Row := ⟨2, 0x60, (some 4), [], [⟨16,5⟩, ⟨21,5⟩, ⟨32,3⟩], fun v => .stmc (.ofNat 5 (v 0)) (.ofNat 5 (v 1)) (.ofNat 3 (v 2))⟩
def rowRkreg : Row := ⟨2, 0x60, (some 5), [], [⟨0,5⟩, ⟨16,5⟩, ⟨21,5⟩, ⟨32,2⟩, ⟨34,3⟩], fun v => .rkreg (.ofNat 5 (v 0)) (.ofNat 5 (v 1)) (.ofNat 5 (v 2)) (.ofNat 2 (v 3)) (.ofNat 3 (v 4))⟩
def rowRkrevoke : Row := ⟨2, 0x60, (some 6), [], [⟨0,5⟩, ⟨16,5⟩], fun v => .rkrevoke (.ofNat 5 (v 0)) (.ofNat 5 (v 1))⟩


def coreRows0 : List Row :=
  [rowNop, rowHend, rowYield, rowVsync, rowUiret, rowEret, rowIfence, rowShfence,
   rowXfence, rowHalt, rowSnap, rowBreak, rowWait, rowHstart, rowHjoin, rowHstat]
def coreRows1 : List Row :=
  [rowHkill, rowTrap, rowSyscall, rowMovfc, rowMovtc, rowSavectx, rowRestctx, rowBeq,
   rowBne, rowBlt, rowBge, rowBltu, rowBgeu, rowBr, rowCall, rowJmpr]
def coreRows2 : List Row :=
  [rowCallr, rowRet, rowVloop, rowAdd, rowSub, rowMul, rowMulh, rowMulhu,
   rowDiv, rowDivu, rowRem, rowRemu, rowAnd, rowOr, rowXor, rowAndn]
def coreRows3 : List Row :=
  [rowShl, rowShr, rowSra, rowRotr, rowMin, rowMax, rowMinu, rowMaxu,
   rowSeq, rowSne, rowSlt, rowSltu, rowSle, rowSleu, rowAddi, rowAndi]
def coreRows4 : List Row :=
  [rowOri, rowXori, rowShli, rowShri, rowSrai, rowRotri, rowSlti, rowSltui,
   rowMuli, rowClz, rowCtz, rowPopc, rowSextb, rowSexth, rowSextw, rowZextb]
def coreRows5 : List Row :=
  [rowZexth, rowZextw, rowBrev, rowBswap, rowLdi, rowLdih, rowLdipc, rowSel,
   rowBext, rowBins, rowSfadd, rowSfsub, rowSfmul, rowSfdiv, rowSfmin, rowSfmax]
def coreRows6 : List Row :=
  [rowSfsqrt, rowSfeq, rowSflt, rowSfle, rowSffma, rowSfcvt, rowSfclass, rowKlim,
   rowKset, rowKadv, rowKmask, rowKlock, rowKopen, rowKinfo, rowKstrip, rowKcopy]
def coreRows7 : List Row :=
  [rowKlimi, rowKadvi, rowKmaski, rowLdb, rowLdh, rowLdw, rowLdd, rowLdbs,
   rowLdhs, rowLdws, rowLdc, rowStb, rowSth, rowStw, rowStd, rowStc]
def coreRows8 : List Row :=
  [rowLdbx, rowLdhx, rowLdwx, rowLddx, rowStbx, rowSthx, rowStwx, rowStdx,
   rowLdm, rowStm, rowAmoadd, rowAmoand, rowAmoor, rowAmoxor, rowAmoswap, rowAmomin]
def coreRows9 : List Row :=
  [rowAmomax, rowAmominu, rowAmomaxu, rowCas, rowCas2, rowLdaq, rowStrl, rowFence,
   rowVadd, rowVsub, rowVmul, rowVmin, rowVmax, rowVand, rowVor, rowVxor]
def coreRows10 : List Row :=
  [rowVandn, rowVshl, rowVshr, rowVsra, rowVscaleb, rowVadds, rowVsubs, rowVabsd,
   rowVmov, rowVneg, rowVabs, rowVnot, rowVclass, rowViota, rowVbcast, rowVrcp]
def coreRows11 : List Row :=
  [rowVrsqrt, rowVsqrt, rowVfma, rowVfms, rowVfnma, rowVsel, rowVceq, rowVcne,
   rowVclt, rowVcle, rowVcun, rowVclassm, rowVcvt, rowVrnd, rowVtag, rowVpack]
def coreRows12 : List Row :=
  [rowVunpack, rowVredsum, rowVredmax, rowVredmin, rowVperm, rowVextr, rowVins, rowVld,
   rowVst, rowVgath, rowVscat, rowSbind, rowSpos, rowSget, rowVexp2f, rowVlog2f]
def coreRows13 : List Row :=
  [rowVtanh, rowVtopk, rowVtopknz, rowPark, rowUnpark, rowWload, rowMma, rowMmasw,
   rowAccz, rowAccrd, rowAccwr, rowAcccp, rowTload, rowTstore, rowTtrans, rowChadd]
def coreRows14 : List Row :=
  [rowChsub, rowChmul, rowChcomp, rowChdiff, rowChint, rowChmov, rowChfree, rowChlen,
   rowChnorm, rowChtrunc, rowChfit, rowCheval, rowChroot, rowChconst, rowChx, rowChld]
def coreRows15 : List Row :=
  [rowChst, rowChscal, rowCpy, rowCpym, rowCpyq, rowIgather, rowIscatter, rowEvwait,
   rowEvsig, rowCbar, rowWkstart, rowWkstat, rowStvec, rowLdnear, rowDelvec, rowIxstamp]
def coreRows16 : List Row :=
  [rowNsubmit, rowNdone, rowNdoneQ, rowNarm, rowNarmEdge, rowCwait, rowCancel, rowLaunch,
   rowBarrive, rowBwait, rowBsync, rowSlotsend, rowSlotwait, rowSeal, rowReconf, rowTgen]
def coreRows17 : List Row :=
  [rowGbar, rowAbort, rowStmc, rowRkreg, rowRkrevoke]
def coreRows : List Row :=
  coreRows0 ++ coreRows1 ++ coreRows2 ++ coreRows3 ++ coreRows4 ++ coreRows5 ++ coreRows6 ++ coreRows7 ++ coreRows8 ++ coreRows9 ++ coreRows10 ++ coreRows11 ++ coreRows12 ++ coreRows13 ++ coreRows14 ++ coreRows15 ++ coreRows16 ++ coreRows17

/-- What decoding a core word gives: an instruction, or the subcode of ILLEGAL_OP (R81). -/
inductive Decoded where
  | instr (i : Instr)
  | illegal (subcode : Nat)
  deriving DecidableEq, Repr

/-- R81, R82. The instruction of a core word, or the subcode of ILLEGAL_OP: 1 major reserved, 2 minor not assigned, 3 TL
not the form of the major, 4 a reserved field nonzero. -/
def decodeCore (w : Nat) : Decoded :=
  match coreRows.filter (fun r => r.major == fieldOp.get w) with
  | [] => .illegal 1
  | r0 :: _ =>
    match coreRows.filter (fun r => r.major == fieldOp.get w && r.minorIs w) with
    | [] => .illegal 2
    | r1 :: rs =>
      if r0.form ≠ fieldTL.get w then .illegal 3
      else
        match (r1 :: rs).find? (·.fits w) with
        | none => .illegal 4
        | some r => if (r.instr (r.values w)).wf then .instr (r.instr (r.values w)) else .illegal 4

/-- One row of R277: opcode, operand fields, constructor. -/
structure WalkRow where
  op : Nat
  args : List Field
  make : (Nat → Nat) → Instr

/-- R276. The opcode field of a walker word. -/
def fieldWOp : Field := ⟨26, 6⟩

/-- The walker word of a row with the given operand values. -/
def WalkRow.pack (r : WalkRow) (vs : List Nat) : Nat := packFields ((fieldWOp, r.op) :: r.args.zip vs)

/-- The operand values of a walker word. -/
def WalkRow.values (r : WalkRow) (w : Nat) : List Nat := r.args.map (·.get w)

/-- R276. A walker word fits a row when its opcode matches and every unused field is zero. -/
def WalkRow.fits (r : WalkRow) (w : Nat) : Bool := r.pack (r.values w) == w

/-- The instruction a walker row reads from a list of operand values. -/
def WalkRow.instr (r : WalkRow) (vs : List Nat) : Instr := r.make (fun k => vs.getD k 0)

def rowWnop : WalkRow := ⟨0x00, [], fun _ => .wnop⟩
def rowWadd : WalkRow := ⟨0x01, [⟨22,4⟩, ⟨18,4⟩, ⟨14,4⟩], fun v => .wadd (.ofNat 4 (v 0)) (.ofNat 4 (v 1)) (.ofNat 4 (v 2))⟩
def rowWsub : WalkRow := ⟨0x02, [⟨22,4⟩, ⟨18,4⟩, ⟨14,4⟩], fun v => .wsub (.ofNat 4 (v 0)) (.ofNat 4 (v 1)) (.ofNat 4 (v 2))⟩
def rowWand : WalkRow := ⟨0x03, [⟨22,4⟩, ⟨18,4⟩, ⟨14,4⟩], fun v => .wand (.ofNat 4 (v 0)) (.ofNat 4 (v 1)) (.ofNat 4 (v 2))⟩
def rowWor : WalkRow := ⟨0x04, [⟨22,4⟩, ⟨18,4⟩, ⟨14,4⟩], fun v => .wor (.ofNat 4 (v 0)) (.ofNat 4 (v 1)) (.ofNat 4 (v 2))⟩
def rowWxor : WalkRow := ⟨0x05, [⟨22,4⟩, ⟨18,4⟩, ⟨14,4⟩], fun v => .wxor (.ofNat 4 (v 0)) (.ofNat 4 (v 1)) (.ofNat 4 (v 2))⟩
def rowWshl : WalkRow := ⟨0x06, [⟨22,4⟩, ⟨18,4⟩, ⟨14,4⟩], fun v => .wshl (.ofNat 4 (v 0)) (.ofNat 4 (v 1)) (.ofNat 4 (v 2))⟩
def rowWshr : WalkRow := ⟨0x07, [⟨22,4⟩, ⟨18,4⟩, ⟨14,4⟩], fun v => .wshr (.ofNat 4 (v 0)) (.ofNat 4 (v 1)) (.ofNat 4 (v 2))⟩
def rowWaddi : WalkRow := ⟨0x08, [⟨22,4⟩, ⟨18,4⟩, ⟨0,14⟩], fun v => .waddi (.ofNat 4 (v 0)) (.ofNat 4 (v 1)) (.ofNat 14 (v 2))⟩
def rowWmuli : WalkRow := ⟨0x09, [⟨22,4⟩, ⟨18,4⟩, ⟨0,14⟩], fun v => .wmuli (.ofNat 4 (v 0)) (.ofNat 4 (v 1)) (.ofNat 14 (v 2))⟩
def rowWldi : WalkRow := ⟨0x0A, [⟨22,4⟩, ⟨0,18⟩], fun v => .wldi (.ofNat 4 (v 0)) (.ofNat 18 (v 1))⟩
def rowWldB : WalkRow := ⟨0x0B, [⟨22,4⟩, ⟨18,4⟩, ⟨14,2⟩, ⟨0,14⟩], fun v => .wldB (.ofNat 4 (v 0)) (.ofNat 4 (v 1)) (.ofNat 2 (v 2)) (.ofNat 14 (v 3))⟩
def rowWldH : WalkRow := ⟨0x0C, [⟨22,4⟩, ⟨18,4⟩, ⟨14,2⟩, ⟨0,14⟩], fun v => .wldH (.ofNat 4 (v 0)) (.ofNat 4 (v 1)) (.ofNat 2 (v 2)) (.ofNat 14 (v 3))⟩
def rowWldW : WalkRow := ⟨0x0D, [⟨22,4⟩, ⟨18,4⟩, ⟨14,2⟩, ⟨0,14⟩], fun v => .wldW (.ofNat 4 (v 0)) (.ofNat 4 (v 1)) (.ofNat 2 (v 2)) (.ofNat 14 (v 3))⟩
def rowWldD : WalkRow := ⟨0x0E, [⟨22,4⟩, ⟨18,4⟩, ⟨14,2⟩, ⟨0,14⟩], fun v => .wldD (.ofNat 4 (v 0)) (.ofNat 4 (v 1)) (.ofNat 2 (v 2)) (.ofNat 14 (v 3))⟩
def rowWstB : WalkRow := ⟨0x0F, [⟨22,4⟩, ⟨18,4⟩, ⟨14,2⟩, ⟨0,14⟩], fun v => .wstB (.ofNat 4 (v 0)) (.ofNat 4 (v 1)) (.ofNat 2 (v 2)) (.ofNat 14 (v 3))⟩
def rowWstH : WalkRow := ⟨0x10, [⟨22,4⟩, ⟨18,4⟩, ⟨14,2⟩, ⟨0,14⟩], fun v => .wstH (.ofNat 4 (v 0)) (.ofNat 4 (v 1)) (.ofNat 2 (v 2)) (.ofNat 14 (v 3))⟩
def rowWstW : WalkRow := ⟨0x11, [⟨22,4⟩, ⟨18,4⟩, ⟨14,2⟩, ⟨0,14⟩], fun v => .wstW (.ofNat 4 (v 0)) (.ofNat 4 (v 1)) (.ofNat 2 (v 2)) (.ofNat 14 (v 3))⟩
def rowWstD : WalkRow := ⟨0x12, [⟨22,4⟩, ⟨18,4⟩, ⟨14,2⟩, ⟨0,14⟩], fun v => .wstD (.ofNat 4 (v 0)) (.ofNat 4 (v 1)) (.ofNat 2 (v 2)) (.ofNat 14 (v 3))⟩
def rowWflt : WalkRow := ⟨0x13, [⟨22,4⟩, ⟨18,4⟩, ⟨14,4⟩], fun v => .wflt (.ofNat 4 (v 0)) (.ofNat 4 (v 1)) (.ofNat 4 (v 2))⟩
def rowWfle : WalkRow := ⟨0x14, [⟨22,4⟩, ⟨18,4⟩, ⟨14,4⟩], fun v => .wfle (.ofNat 4 (v 0)) (.ofNat 4 (v 1)) (.ofNat 4 (v 2))⟩
def rowWbeq : WalkRow := ⟨0x15, [⟨18,4⟩, ⟨14,4⟩, ⟨0,14⟩], fun v => .wbeq (.ofNat 4 (v 0)) (.ofNat 4 (v 1)) (.ofNat 14 (v 2))⟩
def rowWbne : WalkRow := ⟨0x16, [⟨18,4⟩, ⟨14,4⟩, ⟨0,14⟩], fun v => .wbne (.ofNat 4 (v 0)) (.ofNat 4 (v 1)) (.ofNat 14 (v 2))⟩
def rowWbltu : WalkRow := ⟨0x17, [⟨18,4⟩, ⟨14,4⟩, ⟨0,14⟩], fun v => .wbltu (.ofNat 4 (v 0)) (.ofNat 4 (v 1)) (.ofNat 14 (v 2))⟩
def rowWj : WalkRow := ⟨0x18, [⟨0,14⟩], fun v => .wj (.ofNat 14 (v 0))⟩
def rowWdinit : WalkRow := ⟨0x19, [], fun _ => .wdinit⟩
def rowWdabs : WalkRow := ⟨0x1A, [⟨18,4⟩], fun v => .wdabs (.ofNat 4 (v 0))⟩
def rowWdfin : WalkRow := ⟨0x1B, [⟨18,4⟩, ⟨14,2⟩, ⟨0,14⟩], fun v => .wdfin (.ofNat 4 (v 0)) (.ofNat 2 (v 1)) (.ofNat 14 (v 2))⟩
def rowWzrow : WalkRow := ⟨0x1C, [], fun _ => .wzrow⟩
def rowWrins : WalkRow := ⟨0x1D, [⟨22,4⟩, ⟨18,4⟩, ⟨14,2⟩, ⟨0,14⟩], fun v => .wrins (.ofNat 4 (v 0)) (.ofNat 4 (v 1)) (.ofNat 2 (v 2)) (.ofNat 14 (v 3))⟩
def rowWemit : WalkRow := ⟨0x1E, [⟨18,4⟩, ⟨14,2⟩, ⟨0,14⟩], fun v => .wemit (.ofNat 4 (v 0)) (.ofNat 2 (v 1)) (.ofNat 14 (v 2))⟩
def rowWsig : WalkRow := ⟨0x1F, [⟨0,4⟩], fun v => .wsig (.ofNat 4 (v 0))⟩
def rowWend : WalkRow := ⟨0x20, [⟨18,4⟩], fun v => .wend (.ofNat 4 (v 0))⟩

def walkRows0 : List WalkRow :=
  [rowWnop, rowWadd, rowWsub, rowWand, rowWor, rowWxor, rowWshl, rowWshr,
   rowWaddi, rowWmuli, rowWldi, rowWldB, rowWldH, rowWldW, rowWldD, rowWstB,
   rowWstH, rowWstW, rowWstD, rowWflt, rowWfle, rowWbeq, rowWbne, rowWbltu,
   rowWj, rowWdinit, rowWdabs, rowWdfin, rowWzrow, rowWrins, rowWemit, rowWsig,
   rowWend]
def walkRows : List WalkRow :=
  walkRows0

/-- R277. The instruction of a walker word; none faults with ILLEGAL_OP. -/
def decodeWalk (w : Nat) : Option Instr :=
  match walkRows.find? (·.fits w) with
  | some r => some (r.instr (r.values w))
  | none => none

/-- The length of a core word in bits: a head and TL halfwords (R64, R65). -/
def coreBits (w : Nat) : Nat := 16 * (1 + fieldTL.get w)

/-- The instruction our decoders read from `nbits` bits of value `w`: a core word of its own length where that decodes, else
a walker word of 32 bits, else none. -/
def decodeTableWord (nbits w : Nat) : Option Instr :=
  let walk := if nbits = 32 then decodeWalk w else none
  if coreBits w = nbits then
    match decodeCore w with
    | .instr i => some i
    | .illegal _ => walk
  else walk

/-- Where an instruction is encoded: a row of the core's tables or of the walker's, with its operand values. -/
inductive Coding where
  | core (r : Row) (vs : List Nat)
  | walk (r : WalkRow) (vs : List Nat)

/-- The row and the operand values of an instruction; none for the steps without an encoding. -/
def Instr.coding : Instr → Option Coding
  | .nop => some (.core rowNop [])
  | .hend => some (.core rowHend [])
  | .yield => some (.core rowYield [])
  | .vsync => some (.core rowVsync [])
  | .uiret => some (.core rowUiret [])
  | .eret => some (.core rowEret [])
  | .ifence => some (.core rowIfence [])
  | .shfence => some (.core rowShfence [])
  | .xfence => some (.core rowXfence [])
  | .halt => some (.core rowHalt [])
  | .snap => some (.core rowSnap [])
  | .break_ => some (.core rowBreak [])
  | .wait_ ld st cp tl => some (.core rowWait [ld.toNat, st.toNat, cp.toNat, tl.toNat])
  | .hstart slot a b off => some (.core rowHstart [slot.toNat, a.toNat, b.toNat, off.toNat])
  | .hjoin d slot => some (.core rowHjoin [d.toNat, slot.toNat])
  | .hstat d slot => some (.core rowHstat [d.toNat, slot.toNat])
  | .hkill slot => some (.core rowHkill [slot.toNat])
  | .trap imm => some (.core rowTrap [imm.toNat])
  | .syscall imm => some (.core rowSyscall [imm.toNat])
  | .movfc d cr => some (.core rowMovfc [d.toNat, cr.toNat])
  | .movtc a cr => some (.core rowMovtc [a.toNat, cr.toNat])
  | .savectx x a cls => some (.core rowSavectx [x.toNat, a.toNat, cls.toNat])
  | .restctx x a cls => some (.core rowRestctx [x.toNat, a.toNat, cls.toNat])
  | .beq a b off => some (.core rowBeq [a.toNat, b.toNat, off.toNat])
  | .bne a b off => some (.core rowBne [a.toNat, b.toNat, off.toNat])
  | .blt a b off => some (.core rowBlt [a.toNat, b.toNat, off.toNat])
  | .bge a b off => some (.core rowBge [a.toNat, b.toNat, off.toNat])
  | .bltu a b off => some (.core rowBltu [a.toNat, b.toNat, off.toNat])
  | .bgeu a b off => some (.core rowBgeu [a.toNat, b.toNat, off.toNat])
  | .br off => some (.core rowBr [off.toNat])
  | .call d off => some (.core rowCall [d.toNat, off.toNat])
  | .jmpr a => some (.core rowJmpr [a.toNat])
  | .callr d a => some (.core rowCallr [d.toNat, a.toNat])
  | .ret a => some (.core rowRet [a.toNat])
  | .vloop u k a n => some (.core rowVloop [u.toNat, k.toNat, a.toNat, n.toNat])
  | .add d a b => some (.core rowAdd [d.toNat, a.toNat, b.toNat])
  | .sub d a b => some (.core rowSub [d.toNat, a.toNat, b.toNat])
  | .mul d a b => some (.core rowMul [d.toNat, a.toNat, b.toNat])
  | .mulh d a b => some (.core rowMulh [d.toNat, a.toNat, b.toNat])
  | .mulhu d a b => some (.core rowMulhu [d.toNat, a.toNat, b.toNat])
  | .div d a b => some (.core rowDiv [d.toNat, a.toNat, b.toNat])
  | .divu d a b => some (.core rowDivu [d.toNat, a.toNat, b.toNat])
  | .rem d a b => some (.core rowRem [d.toNat, a.toNat, b.toNat])
  | .remu d a b => some (.core rowRemu [d.toNat, a.toNat, b.toNat])
  | .and_ d a b => some (.core rowAnd [d.toNat, a.toNat, b.toNat])
  | .or_ d a b => some (.core rowOr [d.toNat, a.toNat, b.toNat])
  | .xor_ d a b => some (.core rowXor [d.toNat, a.toNat, b.toNat])
  | .andn d a b => some (.core rowAndn [d.toNat, a.toNat, b.toNat])
  | .shl d a b => some (.core rowShl [d.toNat, a.toNat, b.toNat])
  | .shr d a b => some (.core rowShr [d.toNat, a.toNat, b.toNat])
  | .sra d a b => some (.core rowSra [d.toNat, a.toNat, b.toNat])
  | .rotr d a b => some (.core rowRotr [d.toNat, a.toNat, b.toNat])
  | .min_ d a b => some (.core rowMin [d.toNat, a.toNat, b.toNat])
  | .max_ d a b => some (.core rowMax [d.toNat, a.toNat, b.toNat])
  | .minu d a b => some (.core rowMinu [d.toNat, a.toNat, b.toNat])
  | .maxu d a b => some (.core rowMaxu [d.toNat, a.toNat, b.toNat])
  | .seq d a b => some (.core rowSeq [d.toNat, a.toNat, b.toNat])
  | .sne d a b => some (.core rowSne [d.toNat, a.toNat, b.toNat])
  | .slt d a b => some (.core rowSlt [d.toNat, a.toNat, b.toNat])
  | .sltu d a b => some (.core rowSltu [d.toNat, a.toNat, b.toNat])
  | .sle d a b => some (.core rowSle [d.toNat, a.toNat, b.toNat])
  | .sleu d a b => some (.core rowSleu [d.toNat, a.toNat, b.toNat])
  | .addi d a imm => some (.core rowAddi [d.toNat, a.toNat, imm.toNat])
  | .andi d a imm => some (.core rowAndi [d.toNat, a.toNat, imm.toNat])
  | .ori d a imm => some (.core rowOri [d.toNat, a.toNat, imm.toNat])
  | .xori d a imm => some (.core rowXori [d.toNat, a.toNat, imm.toNat])
  | .shli d a imm => some (.core rowShli [d.toNat, a.toNat, imm.toNat])
  | .shri d a imm => some (.core rowShri [d.toNat, a.toNat, imm.toNat])
  | .srai d a imm => some (.core rowSrai [d.toNat, a.toNat, imm.toNat])
  | .rotri d a imm => some (.core rowRotri [d.toNat, a.toNat, imm.toNat])
  | .slti d a imm => some (.core rowSlti [d.toNat, a.toNat, imm.toNat])
  | .sltui d a imm => some (.core rowSltui [d.toNat, a.toNat, imm.toNat])
  | .muli d a imm => some (.core rowMuli [d.toNat, a.toNat, imm.toNat])
  | .clz d a => some (.core rowClz [d.toNat, a.toNat])
  | .ctz d a => some (.core rowCtz [d.toNat, a.toNat])
  | .popc d a => some (.core rowPopc [d.toNat, a.toNat])
  | .sextb d a => some (.core rowSextb [d.toNat, a.toNat])
  | .sexth d a => some (.core rowSexth [d.toNat, a.toNat])
  | .sextw d a => some (.core rowSextw [d.toNat, a.toNat])
  | .zextb d a => some (.core rowZextb [d.toNat, a.toNat])
  | .zexth d a => some (.core rowZexth [d.toNat, a.toNat])
  | .zextw d a => some (.core rowZextw [d.toNat, a.toNat])
  | .brev d a => some (.core rowBrev [d.toNat, a.toNat])
  | .bswap d a => some (.core rowBswap [d.toNat, a.toNat])
  | .ldi d k => some (.core rowLdi [d.toNat, k.toNat])
  | .ldih d a k => some (.core rowLdih [d.toNat, a.toNat, k.toNat])
  | .ldipc d k => some (.core rowLdipc [d.toNat, k.toNat])
  | .sel d a b c => some (.core rowSel [d.toNat, a.toNat, b.toNat, c.toNat])
  | .bext d a pos lenm s => some (.core rowBext [d.toNat, a.toNat, pos.toNat, lenm.toNat, s.toNat])
  | .bins d a b pos lenm => some (.core rowBins [d.toNat, a.toNat, b.toNat, pos.toNat, lenm.toNat])
  | .sfadd w d a b => some (.core rowSfadd [w.toNat, d.toNat, a.toNat, b.toNat])
  | .sfsub w d a b => some (.core rowSfsub [w.toNat, d.toNat, a.toNat, b.toNat])
  | .sfmul w d a b => some (.core rowSfmul [w.toNat, d.toNat, a.toNat, b.toNat])
  | .sfdiv w d a b => some (.core rowSfdiv [w.toNat, d.toNat, a.toNat, b.toNat])
  | .sfmin w d a b => some (.core rowSfmin [w.toNat, d.toNat, a.toNat, b.toNat])
  | .sfmax w d a b => some (.core rowSfmax [w.toNat, d.toNat, a.toNat, b.toNat])
  | .sfsqrt w d a => some (.core rowSfsqrt [w.toNat, d.toNat, a.toNat])
  | .sfeq w d a b => some (.core rowSfeq [w.toNat, d.toNat, a.toNat, b.toNat])
  | .sflt w d a b => some (.core rowSflt [w.toNat, d.toNat, a.toNat, b.toNat])
  | .sfle w d a b => some (.core rowSfle [w.toNat, d.toNat, a.toNat, b.toNat])
  | .sffma d a b c w => some (.core rowSffma [d.toNat, a.toNat, b.toNat, c.toNat, w.toNat])
  | .sfcvt d a src dst rnd => some (.core rowSfcvt [d.toNat, a.toNat, src.toNat, dst.toNat, rnd.toNat])
  | .sfclass d a w => some (.core rowSfclass [d.toNat, a.toNat, w.toNat])
  | .klim d a b => some (.core rowKlim [d.toNat, a.toNat, b.toNat])
  | .kset d a b => some (.core rowKset [d.toNat, a.toNat, b.toNat])
  | .kadv d a b => some (.core rowKadv [d.toNat, a.toNat, b.toNat])
  | .kmask d a b => some (.core rowKmask [d.toNat, a.toNat, b.toNat])
  | .klock d a b => some (.core rowKlock [d.toNat, a.toNat, b.toNat])
  | .kopen d a b => some (.core rowKopen [d.toNat, a.toNat, b.toNat])
  | .kinfo d a fsel => some (.core rowKinfo [d.toNat, a.toNat, fsel.toNat])
  | .kstrip d a => some (.core rowKstrip [d.toNat, a.toNat])
  | .kcopy d a => some (.core rowKcopy [d.toNat, a.toNat])
  | .klimi d a imm => some (.core rowKlimi [d.toNat, a.toNat, imm.toNat])
  | .kadvi d a imm => some (.core rowKadvi [d.toNat, a.toNat, imm.toNat])
  | .kmaski d a imm => some (.core rowKmaski [d.toNat, a.toNat, imm.toNat])
  | .ldb d a disp => some (.core rowLdb [d.toNat, a.toNat, disp.toNat])
  | .ldh d a disp => some (.core rowLdh [d.toNat, a.toNat, disp.toNat])
  | .ldw d a disp => some (.core rowLdw [d.toNat, a.toNat, disp.toNat])
  | .ldd d a disp => some (.core rowLdd [d.toNat, a.toNat, disp.toNat])
  | .ldbs d a disp => some (.core rowLdbs [d.toNat, a.toNat, disp.toNat])
  | .ldhs d a disp => some (.core rowLdhs [d.toNat, a.toNat, disp.toNat])
  | .ldws d a disp => some (.core rowLdws [d.toNat, a.toNat, disp.toNat])
  | .ldc d a disp => some (.core rowLdc [d.toNat, a.toNat, disp.toNat])
  | .stb b a disp => some (.core rowStb [b.toNat, a.toNat, disp.toNat])
  | .sth b a disp => some (.core rowSth [b.toNat, a.toNat, disp.toNat])
  | .stw b a disp => some (.core rowStw [b.toNat, a.toNat, disp.toNat])
  | .std b a disp => some (.core rowStd [b.toNat, a.toNat, disp.toNat])
  | .stc b a disp => some (.core rowStc [b.toNat, a.toNat, disp.toNat])
  | .ldbx d a b => some (.core rowLdbx [d.toNat, a.toNat, b.toNat])
  | .ldhx d a b => some (.core rowLdhx [d.toNat, a.toNat, b.toNat])
  | .ldwx d a b => some (.core rowLdwx [d.toNat, a.toNat, b.toNat])
  | .lddx d a b => some (.core rowLddx [d.toNat, a.toNat, b.toNat])
  | .stbx c a b => some (.core rowStbx [c.toNat, a.toNat, b.toNat])
  | .sthx c a b => some (.core rowSthx [c.toNat, a.toNat, b.toNat])
  | .stwx c a b => some (.core rowStwx [c.toNat, a.toNat, b.toNat])
  | .stdx c a b => some (.core rowStdx [c.toNat, a.toNat, b.toNat])
  | .ldm f l a disp => some (.core rowLdm [f.toNat, l.toNat, a.toNat, disp.toNat])
  | .stm f l a disp => some (.core rowStm [f.toNat, l.toNat, a.toNat, disp.toNat])
  | .amoadd d a b scope order size => some (.core rowAmoadd [d.toNat, a.toNat, b.toNat, scope.toNat, order.toNat, size.toNat])
  | .amoand d a b scope order size => some (.core rowAmoand [d.toNat, a.toNat, b.toNat, scope.toNat, order.toNat, size.toNat])
  | .amoor d a b scope order size => some (.core rowAmoor [d.toNat, a.toNat, b.toNat, scope.toNat, order.toNat, size.toNat])
  | .amoxor d a b scope order size => some (.core rowAmoxor [d.toNat, a.toNat, b.toNat, scope.toNat, order.toNat, size.toNat])
  | .amoswap d a b scope order size => some (.core rowAmoswap [d.toNat, a.toNat, b.toNat, scope.toNat, order.toNat, size.toNat])
  | .amomin d a b scope order size => some (.core rowAmomin [d.toNat, a.toNat, b.toNat, scope.toNat, order.toNat, size.toNat])
  | .amomax d a b scope order size => some (.core rowAmomax [d.toNat, a.toNat, b.toNat, scope.toNat, order.toNat, size.toNat])
  | .amominu d a b scope order size => some (.core rowAmominu [d.toNat, a.toNat, b.toNat, scope.toNat, order.toNat, size.toNat])
  | .amomaxu d a b scope order size => some (.core rowAmomaxu [d.toNat, a.toNat, b.toNat, scope.toNat, order.toNat, size.toNat])
  | .cas d a b scope order size facq c => some (.core rowCas [d.toNat, a.toNat, b.toNat, scope.toNat, order.toNat, size.toNat, facq.toNat, c.toNat])
  | .cas2 d a b scope order facq c => some (.core rowCas2 [d.toNat, a.toNat, b.toNat, scope.toNat, order.toNat, facq.toNat, c.toNat])
  | .ldaq d a scope order size => some (.core rowLdaq [d.toNat, a.toNat, scope.toNat, order.toNat, size.toNat])
  | .strl b a scope order size => some (.core rowStrl [b.toNat, a.toNat, scope.toNat, order.toNat, size.toNat])
  | .fence scope kind => some (.core rowFence [scope.toNat, kind.toNat])
  | .vadd d a b rm m => some (.core rowVadd [d.toNat, a.toNat, b.toNat, rm.toNat, m.toNat])
  | .vsub d a b rm m => some (.core rowVsub [d.toNat, a.toNat, b.toNat, rm.toNat, m.toNat])
  | .vmul d a b rm m => some (.core rowVmul [d.toNat, a.toNat, b.toNat, rm.toNat, m.toNat])
  | .vmin d a b rm m => some (.core rowVmin [d.toNat, a.toNat, b.toNat, rm.toNat, m.toNat])
  | .vmax d a b rm m => some (.core rowVmax [d.toNat, a.toNat, b.toNat, rm.toNat, m.toNat])
  | .vand d a b m => some (.core rowVand [d.toNat, a.toNat, b.toNat, m.toNat])
  | .vor d a b m => some (.core rowVor [d.toNat, a.toNat, b.toNat, m.toNat])
  | .vxor d a b m => some (.core rowVxor [d.toNat, a.toNat, b.toNat, m.toNat])
  | .vandn d a b m => some (.core rowVandn [d.toNat, a.toNat, b.toNat, m.toNat])
  | .vshl d a b m => some (.core rowVshl [d.toNat, a.toNat, b.toNat, m.toNat])
  | .vshr d a b m => some (.core rowVshr [d.toNat, a.toNat, b.toNat, m.toNat])
  | .vsra d a b m => some (.core rowVsra [d.toNat, a.toNat, b.toNat, m.toNat])
  | .vscaleb d a b rm m => some (.core rowVscaleb [d.toNat, a.toNat, b.toNat, rm.toNat, m.toNat])
  | .vadds d a b rm m => some (.core rowVadds [d.toNat, a.toNat, b.toNat, rm.toNat, m.toNat])
  | .vsubs d a b rm m => some (.core rowVsubs [d.toNat, a.toNat, b.toNat, rm.toNat, m.toNat])
  | .vabsd d a b rm m => some (.core rowVabsd [d.toNat, a.toNat, b.toNat, rm.toNat, m.toNat])
  | .vmov d a m => some (.core rowVmov [d.toNat, a.toNat, m.toNat])
  | .vneg d a m => some (.core rowVneg [d.toNat, a.toNat, m.toNat])
  | .vabs d a m => some (.core rowVabs [d.toNat, a.toNat, m.toNat])
  | .vnot d a m => some (.core rowVnot [d.toNat, a.toNat, m.toNat])
  | .vclass d a m => some (.core rowVclass [d.toNat, a.toNat, m.toNat])
  | .viota d tag rm m => some (.core rowViota [d.toNat, tag.toNat, rm.toNat, m.toNat])
  | .vbcast d a tag m => some (.core rowVbcast [d.toNat, a.toNat, tag.toNat, m.toNat])
  | .vrcp d a rm m => some (.core rowVrcp [d.toNat, a.toNat, rm.toNat, m.toNat])
  | .vrsqrt d a rm m => some (.core rowVrsqrt [d.toNat, a.toNat, rm.toNat, m.toNat])
  | .vsqrt d a rm m => some (.core rowVsqrt [d.toNat, a.toNat, rm.toNat, m.toNat])
  | .vfma d a b c rm m => some (.core rowVfma [d.toNat, a.toNat, b.toNat, c.toNat, rm.toNat, m.toNat])
  | .vfms d a b c rm m => some (.core rowVfms [d.toNat, a.toNat, b.toNat, c.toNat, rm.toNat, m.toNat])
  | .vfnma d a b c rm m => some (.core rowVfnma [d.toNat, a.toNat, b.toNat, c.toNat, rm.toNat, m.toNat])
  | .vsel d a b m => some (.core rowVsel [d.toNat, a.toNat, b.toNat, m.toNat])
  | .vceq q a b m => some (.core rowVceq [q.toNat, a.toNat, b.toNat, m.toNat])
  | .vcne q a b m => some (.core rowVcne [q.toNat, a.toNat, b.toNat, m.toNat])
  | .vclt q a b m => some (.core rowVclt [q.toNat, a.toNat, b.toNat, m.toNat])
  | .vcle q a b m => some (.core rowVcle [q.toNat, a.toNat, b.toNat, m.toNat])
  | .vcun q a b m => some (.core rowVcun [q.toNat, a.toNat, b.toNat, m.toNat])
  | .vclassm q a cls m => some (.core rowVclassm [q.toNat, a.toNat, cls.toNat, m.toNat])
  | .vcvt d a p tag rm m => some (.core rowVcvt [d.toNat, a.toNat, p.toNat, tag.toNat, rm.toNat, m.toNat])
  | .vrnd d a rm m => some (.core rowVrnd [d.toNat, a.toNat, rm.toNat, m.toNat])
  | .vtag d a tag m => some (.core rowVtag [d.toNat, a.toNat, tag.toNat, m.toNat])
  | .vpack d a b tag rm m => some (.core rowVpack [d.toNat, a.toNat, b.toNat, tag.toNat, rm.toNat, m.toNat])
  | .vunpack d a tag rm m => some (.core rowVunpack [d.toNat, a.toNat, tag.toNat, rm.toNat, m.toNat])
  | .vredsum d a rm m => some (.core rowVredsum [d.toNat, a.toNat, rm.toNat, m.toNat])
  | .vredmax d a m => some (.core rowVredmax [d.toNat, a.toNat, m.toNat])
  | .vredmin d a m => some (.core rowVredmin [d.toNat, a.toNat, m.toNat])
  | .vperm d a b m => some (.core rowVperm [d.toNat, a.toNat, b.toNat, m.toNat])
  | .vextr d a b => some (.core rowVextr [d.toNat, a.toNat, b.toNat])
  | .vins d a b => some (.core rowVins [d.toNat, a.toNat, b.toNat])
  | .vld d a b tag m => some (.core rowVld [d.toNat, a.toNat, b.toNat, tag.toNat, m.toNat])
  | .vst c a b m => some (.core rowVst [c.toNat, a.toNat, b.toNat, m.toNat])
  | .vgath d a b p tag m => some (.core rowVgath [d.toNat, a.toNat, b.toNat, p.toNat, tag.toNat, m.toNat])
  | .vscat c a b p m => some (.core rowVscat [c.toNat, a.toNat, b.toNat, p.toNat, m.toNat])
  | .sbind mode s a b => some (.core rowSbind [mode.toNat, s.toNat, a.toNat, b.toNat])
  | .spos s a => some (.core rowSpos [s.toNat, a.toNat])
  | .sget d s => some (.core rowSget [d.toNat, s.toNat])
  | .vexp2f d a rm m => some (.core rowVexp2f [d.toNat, a.toNat, rm.toNat, m.toNat])
  | .vlog2f d a rm m => some (.core rowVlog2f [d.toNat, a.toNat, rm.toNat, m.toNat])
  | .vtanh d a rm m => some (.core rowVtanh [d.toNat, a.toNat, rm.toNat, m.toNat])
  | .vtopk d a c k m => some (.core rowVtopk [d.toNat, a.toNat, c.toNat, k.toNat, m.toNat])
  | .vtopknz d a c k m => some (.core rowVtopknz [d.toNat, a.toNat, c.toNat, k.toNat, m.toNat])
  | .park x a b rb => some (.core rowPark [x.toNat, a.toNat, b.toNat, rb.toNat])
  | .unpark x a b rb => some (.core rowUnpark [x.toNat, a.toNat, b.toNat, rb.toNat])
  | .wload t a => some (.core rowWload [t.toNat, a.toNat])
  | .mma t a rb cq => some (.core rowMma [t.toNat, a.toNat, rb.toNat, cq.toNat])
  | .mmasw t a rb cq => some (.core rowMmasw [t.toNat, a.toNat, rb.toNat, cq.toNat])
  | .accz nm rb => some (.core rowAccz [nm.toNat, rb.toNat])
  | .accrd t rb cq sat pr => some (.core rowAccrd [t.toNat, rb.toNat, cq.toNat, sat.toNat, pr.toNat])
  | .accwr t rb cq => some (.core rowAccwr [t.toNat, rb.toNat, cq.toNat])
  | .acccp nm rs rd => some (.core rowAcccp [nm.toNat, rs.toNat, rd.toNat])
  | .tload t a b stride => some (.core rowTload [t.toNat, a.toNat, b.toNat, stride.toNat])
  | .tstore t a b cvt fmt stride => some (.core rowTstore [t.toNat, a.toNat, b.toNat, cvt.toNat, fmt.toNat, stride.toNat])
  | .ttrans d s => some (.core rowTtrans [d.toNat, s.toNat])
  | .chadd d a b => some (.core rowChadd [d.toNat, a.toNat, b.toNat])
  | .chsub d a b => some (.core rowChsub [d.toNat, a.toNat, b.toNat])
  | .chmul d a b => some (.core rowChmul [d.toNat, a.toNat, b.toNat])
  | .chcomp d a b => some (.core rowChcomp [d.toNat, a.toNat, b.toNat])
  | .chdiff d a => some (.core rowChdiff [d.toNat, a.toNat])
  | .chint d a => some (.core rowChint [d.toNat, a.toNat])
  | .chmov d a => some (.core rowChmov [d.toNat, a.toNat])
  | .chfree d => some (.core rowChfree [d.toNat])
  | .chlen d a => some (.core rowChlen [d.toNat, a.toNat])
  | .chnorm d a => some (.core rowChnorm [d.toNat, a.toNat])
  | .chtrunc d a b => some (.core rowChtrunc [d.toNat, a.toNat, b.toNat])
  | .chfit d a b n => some (.core rowChfit [d.toNat, a.toNat, b.toNat, n.toNat])
  | .cheval d a b => some (.core rowCheval [d.toNat, a.toNat, b.toNat])
  | .chroot d a b k => some (.core rowChroot [d.toNat, a.toNat, b.toNat, k.toNat])
  | .chconst d a b c => some (.core rowChconst [d.toNat, a.toNat, b.toNat, c.toNat])
  | .chx d a b => some (.core rowChx [d.toNat, a.toNat, b.toNat])
  | .chld d a b => some (.core rowChld [d.toNat, a.toNat, b.toNat])
  | .chst s a b => some (.core rowChst [s.toNat, a.toNat, b.toNat])
  | .chscal d a b => some (.core rowChscal [d.toNat, a.toNat, b.toNat])
  | .cpy ui a b srec drec => some (.core rowCpy [ui.toNat, a.toNat, b.toNat, srec.toNat, drec.toNat])
  | .cpym ui t a b srec rb cq sw => some (.core rowCpym [ui.toNat, t.toNat, a.toNat, b.toNat, srec.toNat, rb.toNat, cq.toNat, sw.toNat])
  | .cpyq ui a b srec drec => some (.core rowCpyq [ui.toNat, a.toNat, b.toNat, srec.toNat, drec.toNat])
  | .igather i64 ev t ix n p ru => some (.core rowIgather [i64.toNat, ev.toNat, t.toNat, ix.toNat, n.toNat, p.toNat, ru.toNat])
  | .iscatter i64 ev t ix n p ru => some (.core rowIscatter [i64.toNat, ev.toNat, t.toNat, ix.toNat, n.toNat, p.toNat, ru.toNat])
  | .evwait ev a => some (.core rowEvwait [ev.toNat, a.toNat])
  | .evsig ev a => some (.core rowEvsig [ev.toNat, a.toNat])
  | .cbar a => some (.core rowCbar [a.toNat])
  | .wkstart d a b obj => some (.core rowWkstart [d.toNat, a.toNat, b.toNat, obj.toNat])
  | .wkstat d a fsel rel => some (.core rowWkstat [d.toNat, a.toNat, fsel.toNat, rel.toNat])
  | .stvec d a ix => some (.core rowStvec [d.toNat, a.toNat, ix.toNat])
  | .ldnear exact d a b ix => some (.core rowLdnear [exact.toNat, d.toNat, a.toNat, b.toNat, ix.toNat])
  | .delvec d b ix => some (.core rowDelvec [d.toNat, b.toNat, ix.toNat])
  | .ixstamp d ix => some (.core rowIxstamp [d.toNat, ix.toNat])
  | .nsubmit d a arm => some (.core rowNsubmit [d.toNat, a.toNat, arm.toNat])
  | .ndone a => some (.core rowNdone [a.toNat])
  | .ndoneQ d a rel => some (.core rowNdoneQ [d.toNat, a.toNat, rel.toNat])
  | .narm a => some (.core rowNarm [a.toNat])
  | .narmEdge d a b => some (.core rowNarmEdge [d.toNat, a.toNat, b.toNat])
  | .cwait d a n => some (.core rowCwait [d.toNat, a.toNat, n.toNat])
  | .cancel d a => some (.core rowCancel [d.toNat, a.toNat])
  | .launch d a => some (.core rowLaunch [d.toNat, a.toNat])
  | .barrive d a ix => some (.core rowBarrive [d.toNat, a.toNat, ix.toNat])
  | .bwait a ix => some (.core rowBwait [a.toNat, ix.toNat])
  | .bsync d a ix => some (.core rowBsync [d.toNat, a.toNat, ix.toNat])
  | .slotsend c a b slot => some (.core rowSlotsend [c.toNat, a.toNat, b.toNat, slot.toNat])
  | .slotwait d slot => some (.core rowSlotwait [d.toNat, slot.toNat])
  | .seal d a b => some (.core rowSeal [d.toNat, a.toNat, b.toNat])
  | .reconf d plan => some (.core rowReconf [d.toNat, plan.toNat])
  | .tgen d => some (.core rowTgen [d.toNat])
  | .gbar d a => some (.core rowGbar [d.toNat, a.toNat])
  | .abort a => some (.core rowAbort [a.toNat])
  | .stmc a b scope => some (.core rowStmc [a.toNat, b.toNat, scope.toNat])
  | .rkreg d a b kind rights => some (.core rowRkreg [d.toNat, a.toNat, b.toNat, kind.toNat, rights.toNat])
  | .rkrevoke d a => some (.core rowRkrevoke [d.toNat, a.toNat])
  | .wnop => some (.walk rowWnop [])
  | .wadd d a b => some (.walk rowWadd [d.toNat, a.toNat, b.toNat])
  | .wsub d a b => some (.walk rowWsub [d.toNat, a.toNat, b.toNat])
  | .wand d a b => some (.walk rowWand [d.toNat, a.toNat, b.toNat])
  | .wor d a b => some (.walk rowWor [d.toNat, a.toNat, b.toNat])
  | .wxor d a b => some (.walk rowWxor [d.toNat, a.toNat, b.toNat])
  | .wshl d a b => some (.walk rowWshl [d.toNat, a.toNat, b.toNat])
  | .wshr d a b => some (.walk rowWshr [d.toNat, a.toNat, b.toNat])
  | .waddi d a i => some (.walk rowWaddi [d.toNat, a.toNat, i.toNat])
  | .wmuli d a i => some (.walk rowWmuli [d.toNat, a.toNat, i.toNat])
  | .wldi d i => some (.walk rowWldi [d.toNat, i.toNat])
  | .wldB d a c i => some (.walk rowWldB [d.toNat, a.toNat, c.toNat, i.toNat])
  | .wldH d a c i => some (.walk rowWldH [d.toNat, a.toNat, c.toNat, i.toNat])
  | .wldW d a c i => some (.walk rowWldW [d.toNat, a.toNat, c.toNat, i.toNat])
  | .wldD d a c i => some (.walk rowWldD [d.toNat, a.toNat, c.toNat, i.toNat])
  | .wstB d a c i => some (.walk rowWstB [d.toNat, a.toNat, c.toNat, i.toNat])
  | .wstH d a c i => some (.walk rowWstH [d.toNat, a.toNat, c.toNat, i.toNat])
  | .wstW d a c i => some (.walk rowWstW [d.toNat, a.toNat, c.toNat, i.toNat])
  | .wstD d a c i => some (.walk rowWstD [d.toNat, a.toNat, c.toNat, i.toNat])
  | .wflt d a b => some (.walk rowWflt [d.toNat, a.toNat, b.toNat])
  | .wfle d a b => some (.walk rowWfle [d.toNat, a.toNat, b.toNat])
  | .wbeq a b i => some (.walk rowWbeq [a.toNat, b.toNat, i.toNat])
  | .wbne a b i => some (.walk rowWbne [a.toNat, b.toNat, i.toNat])
  | .wbltu a b i => some (.walk rowWbltu [a.toNat, b.toNat, i.toNat])
  | .wj i => some (.walk rowWj [i.toNat])
  | .wdinit => some (.walk rowWdinit [])
  | .wdabs a => some (.walk rowWdabs [a.toNat])
  | .wdfin a c i => some (.walk rowWdfin [a.toNat, c.toNat, i.toNat])
  | .wzrow => some (.walk rowWzrow [])
  | .wrins d a s i => some (.walk rowWrins [d.toNat, a.toNat, s.toNat, i.toNat])
  | .wemit a c i => some (.walk rowWemit [a.toNat, c.toNat, i.toNat])
  | .wsig e => some (.walk rowWsig [e.toNat])
  | .wend a => some (.walk rowWend [a.toNat])
  | .walkStepLimit _ _ | .digestBlockCompress _ _ | .vsqctlDiscard | .mxctlDiscard | .cpctlDiscard | .xlinvPage _
  | .xlinvDomain _ | .xlinvAll _ | .domainWrite _ | .rndWrite _ | .flagsWrite _ | .flagsRead _ | .fntolWrite _
  | .fnstatRead _ | .dtermClear _ | .vdctlRst _ | .vdirq _ | .jsgo _ _ | .irqstatClear _ _ | .lntrig _ _ | .lnres _ _
  | .atgo _ _ | .hostRegisterWrite _ _ _ | .packageReset | .stackWake | .opticalEngineWake | .dieRailWake
  | .securityProcessorBoot _ | .decsynLinkTrain | .bypass | .idcode | .samplePreload | .extest | .arrayWake _
  | .arraySleep _ | .launchItemStart _ | .takeDeferredTrap _ | .enterUserHandler _ | .mailboxDeposit _ _
  | .spillDelivery _ | .rucksackDelivery _ _ _ | .loadComplete _ _ _ | .storePerformed _ _ | .remoteRefusal _ _ _
  | .translationWalk _ _ _ | .sequencerExecute _ | .vloopReplay _ | .matrixOpStart _ | .matrixOpComplete _
  | .functionOpComplete _ | .copyStart _ | .copyComplete _ _ | .copyFail _ _ | .indirectPostStart _
  | .indirectPostComplete _ _ | .indirectPostFail _ _ | .preemption _ | .nodeAgeing _ _ | .nodePlaceAffinity _ _
  | .nodeSteal _ _ | .gangReserveBegin _ _ _ | .gangCommit _ _ | .gangReserveFail _ _ | .gangBackoffExpiry _ _
  | .gangDrainStart _ _ _ | .drainCoreReserve _ _ | .nodeCompletion _ _ | .nodeFail _ _ | .rambleAdmit _ _
  | .rambleSearch _ _ | .rambleReply _ _ | .rambleFail _ _ | .rambleHeldReplyDelivery _ | .sliceRelease _ _
  | .sliceDispatch _ | .sliceBudgetExpiry _ | .sliceGraceExpiry _ | .deadlineMiss _ _ | .generationComplete _
  | .slotTransferStart _ | .lateLaneStart _ | .slotBeatLand _ | .uncorrectableError _ | .terminationDone _
  | .lanternCoreCapture _ | .lanternCaptureComplete | .sealDigestDone _ | .attestationDone _ | .flitReceive _ _
  | .idleFlit _ | .linkFailTimeout _ | .forwardRequest _ | .inboundRequestAdmit _ | .gbarEpisodeComplete _
  | .gbarRelease _ _ | .reconfAllArrived _ | .reconfSwitch _ | .portTrainTimeout _ | .reconfCommit _ | .reconfFail _
  | .abortTokenBroadcast _ | .reservedMajorIssue _ | .sequentialLineEntry _ | .debuggerResume _
  | .hostMemoryWindowAccess _ _ _ _ _ | .perBankRefresh _ | .stackTemperatureReport _ _ | .portTrainingComplete _
  | .keptReplyExpiry _ | .groupArrivalReceive _ _ _ | .abortTokenArrival _ _ _ _ => none

/-- R64 to R66, R276. The word of an instruction: `g` is the G bit of a core instruction's head. -/
def encode (g : Bool) (i : Instr) : Option Nat :=
  match i.coding with
  | some (.core r vs) => some (r.pack g.toNat vs)
  | some (.walk r vs) => some (r.pack vs)
  | none => none

/-- The length in bits of an instruction's words: a core instruction's form, 32 for a walker instruction, 0 for a step
without an encoding. -/
def Instr.bits (i : Instr) : Nat :=
  match i.coding with
  | some (.core r _) => 16 * (1 + r.form)
  | some (.walk _ _) => 32
  | none => 0

end

end Sys2Proof
end

