-- ==== Sys2Proof/Machine/Groups.lean ====
section
/-!
DEFINITION. Issue groups (R73 to R78): the slot class of a major, the registers an instruction reads and writes, which
instructions must end a group, and the one decode fault a group reports (R81, R82).
-/

namespace Sys2Proof.Machine

/-- R75. The registers whose reads and writes within a group are compared. -/
inductive RegRef where
  | g (n : Nat)
  | v (n : Nat)
  | q (n : Nat)
  | t (n : Nat)
  | fn (n : Nat)
  | s (n : Nat)
  | cr (n : Nat)
  deriving DecidableEq, Repr

/-- R75. A capability register; g0 never counts. -/
def gRef (n : BitVec 5) : List RegRef := if n = 0 then [] else [.g n.toNat]
/-- R140. The registers g[f] to g[l] of LDM and STM. -/
def gRange (f l : BitVec 5) : List RegRef :=
  ((List.range 32).filter (fun n => decide (f.toNat ≤ n) && decide (n ≤ l.toNat) && decide (n ≠ 0))).map .g
/-- R274. The four window capabilities of WKSTART. -/
def gFour (a : BitVec 5) : List RegRef := gRef a ++ gRef (a + 1) ++ gRef (a + 2) ++ gRef (a + 3)
/-- R158. A vector operand code: a register, or a stream. -/
def vRef (c : BitVec 5) : List RegRef := if c.toNat < 16 then [.v c.toNat] else [.s (c.toNat - 16)]
/-- R166, R173. The implicit second destination v[D+1]. -/
def vNext (c : BitVec 5) : List RegRef := [.v (c.toNat + 1)]
/-- R144. A mask; q0 is never written. -/
def qRef (q : BitVec 3) : List RegRef := if q = 0 then [] else [.q q.toNat]
/-- R171, R148. A stream. -/
def sRef (s : BitVec 3) : List RegRef := [.s s.toNat]
/-- R246. The tile that a PARK or UNPARK names, with its TSHAPE. -/
def parkRef (x : BitVec 6) : List RegRef := if x.toNat < 8 then [.t x.toNat, .cr (0x20 + x.toNat)] else []

/-- R75, R87. The registers an instruction reads, implicit ones included. -/
def Instr.reads : Instr → List RegRef
  | .hend => gRef (1 : BitVec 5)
  | .uiret => gRef (30 : BitVec 5)
  | .hstart _ a b _ | .beq a b _ | .bne a b _ | .blt a b _ | .bge a b _ | .bltu a b _ | .bgeu a b _ | .add _ a b
  | .sub _ a b | .mul _ a b | .mulh _ a b | .mulhu _ a b | .div _ a b | .divu _ a b | .rem _ a b | .remu _ a b
  | .and_ _ a b | .or_ _ a b | .xor_ _ a b | .andn _ a b | .shl _ a b | .shr _ a b | .sra _ a b | .rotr _ a b
  | .min_ _ a b | .max_ _ a b | .minu _ a b | .maxu _ a b | .seq _ a b | .sne _ a b | .slt _ a b | .sltu _ a b
  | .sle _ a b | .sleu _ a b | .bins _ a b _ _ | .sfadd _ _ a b | .sfsub _ _ a b | .sfmul _ _ a b
  | .sfdiv _ _ a b | .sfmin _ _ a b | .sfmax _ _ a b | .sfeq _ _ a b | .sflt _ _ a b | .sfle _ _ a b
  | .klim _ a b | .kset _ a b | .kadv _ a b | .kmask _ a b | .klock _ a b | .kopen _ a b | .stb b a _
  | .sth b a _ | .stw b a _ | .std b a _ | .stc b a _ | .ldbx _ a b | .ldhx _ a b | .ldwx _ a b | .lddx _ a b
  | .amoadd _ a b _ _ _ | .amoand _ a b _ _ _ | .amoor _ a b _ _ _ | .amoxor _ a b _ _ _ | .amoswap _ a b _ _ _
  | .amomin _ a b _ _ _ | .amomax _ a b _ _ _ | .amominu _ a b _ _ _ | .amomaxu _ a b _ _ _ | .strl b a _ _ _
  | .unpark _ a b _ | .chfit _ a b _ | .chx _ a b | .chld _ a b | .cpy _ a b _ _ | .cpyq _ a b _ _
  | .ldnear _ _ a b _ | .narmEdge _ a b | .seal _ a b | .rkreg _ a b _ _ => gRef a ++ gRef b
  | .movfc _ cr => [.cr cr.toNat]
  | .movtc a _ | .savectx _ a _ | .restctx _ a _ | .jmpr a | .callr _ a | .ret a | .vloop _ _ a _ | .addi _ a _
  | .andi _ a _ | .ori _ a _ | .xori _ a _ | .shli _ a _ | .shri _ a _ | .srai _ a _ | .rotri _ a _
  | .slti _ a _ | .sltui _ a _ | .muli _ a _ | .clz _ a | .ctz _ a | .popc _ a | .sextb _ a | .sexth _ a
  | .sextw _ a | .zextb _ a | .zexth _ a | .zextw _ a | .brev _ a | .bswap _ a | .ldih _ a _ | .bext _ a _ _ _
  | .sfsqrt _ _ a | .sfcvt _ a _ _ _ | .sfclass _ a _ | .kinfo _ a _ | .kstrip _ a | .kcopy _ a | .klimi _ a _
  | .kadvi _ a _ | .kmaski _ a _ | .ldb _ a _ | .ldh _ a _ | .ldw _ a _ | .ldd _ a _ | .ldbs _ a _ | .ldhs _ a _
  | .ldws _ a _ | .ldc _ a _ | .ldm _ _ a _ | .ldaq _ a _ _ _ | .evwait _ a | .evsig _ a | .cbar a
  | .wkstat _ a _ _ | .stvec _ a _ | .nsubmit _ a _ | .ndone a | .ndoneQ _ a _ | .narm a | .cwait _ a _
  | .cancel _ a | .launch _ a | .barrive _ a _ | .bwait a _ | .bsync _ a _ | .abort a | .rkrevoke _ a => gRef a
  | .sel _ a b c | .sffma _ a b c _ | .stbx c a b | .sthx c a b | .stwx c a b | .stdx c a b
  | .cas _ a b _ _ _ _ c | .cas2 _ a b _ _ _ c | .chconst _ a b c | .slotsend c a b _ => gRef a ++ gRef b ++ gRef c
  | .stm f l a _ => gRef a ++ gRange f l
  | .vadd _ a b _ m | .vsub _ a b _ m | .vmul _ a b _ m | .vmin _ a b _ m | .vmax _ a b _ m | .vand _ a b m
  | .vor _ a b m | .vxor _ a b m | .vandn _ a b m | .vshl _ a b m | .vshr _ a b m | .vsra _ a b m
  | .vscaleb _ a b _ m | .vadds _ a b _ m | .vsubs _ a b _ m | .vabsd _ a b _ m | .vsel _ a b m | .vceq _ a b m
  | .vcne _ a b m | .vclt _ a b m | .vcle _ a b m | .vcun _ a b m | .vpack _ a b _ _ m | .vperm _ a b m => vRef a ++ vRef b ++ qRef m
  | .vmov _ a m | .vneg _ a m | .vabs _ a m | .vnot _ a m | .vclass _ a m | .vrcp _ a _ m | .vrsqrt _ a _ m
  | .vsqrt _ a _ m | .vclassm _ a _ m | .vcvt _ a _ _ _ m | .vrnd _ a _ m | .vtag _ a _ m | .vunpack _ a _ _ m
  | .vredsum _ a _ m | .vredmax _ a m | .vredmin _ a m | .vexp2f _ a _ m | .vlog2f _ a _ m | .vtanh _ a _ m
  | .vtopk _ a _ _ m | .vtopknz _ a _ _ m => vRef a ++ qRef m
  | .viota _ _ _ m => qRef m
  | .vbcast _ a _ m => gRef a ++ qRef m
  | .vfma _ a b c _ m | .vfms _ a b c _ m | .vfnma _ a b c _ m => vRef a ++ vRef b ++ vRef c ++ qRef m
  | .vextr _ a b => vRef a ++ gRef b
  | .vins d a b => gRef a ++ gRef b ++ vRef d
  | .vld _ a b _ m => gRef a ++ gRef b ++ qRef m
  | .vst c a b m => vRef c ++ gRef a ++ gRef b ++ qRef m
  | .vgath _ a b _ _ m => gRef a ++ vRef b ++ qRef m
  | .vscat c a b _ m => gRef a ++ vRef b ++ vRef c ++ qRef m
  | .sbind _ s a b => gRef a ++ gRef b ++ [.s s.toNat]
  | .spos s a => gRef a ++ [.s s.toNat]
  | .sget _ s => [.s s.toNat]
  | .park x a b _ => gRef a ++ gRef b ++ parkRef x
  | .wload t a | .mma t a _ _ | .mmasw t a _ _ => [.t t.toNat] ++ [.cr (0x20 + t.toNat)] ++ gRef a
  | .accrd t _ _ _ _ => [.cr (0x20 + t.toNat)]
  | .accwr t _ _ => [.t t.toNat] ++ [.cr (0x20 + t.toNat)]
  | .tload t a b _ | .cpym _ t a b _ _ _ _ => gRef a ++ gRef b ++ [.cr (0x20 + t.toNat)]
  | .tstore t a b _ _ _ => [.t t.toNat] ++ [.cr (0x20 + t.toNat)] ++ gRef a ++ gRef b
  | .ttrans d s => [.t s.toNat] ++ [.cr (0x20 + s.toNat)] ++ [.cr (0x20 + d.toNat)]
  | .chadd _ a b | .chsub _ a b | .chmul _ a b | .chcomp _ a b => [.fn a.toNat] ++ [.fn b.toNat]
  | .chdiff _ a | .chint _ a | .chmov _ a | .chlen _ a | .chnorm _ a => [.fn a.toNat]
  | .chtrunc _ a b | .cheval _ a b | .chroot _ a b _ | .chscal _ a b => [.fn a.toNat] ++ gRef b
  | .chst s a b => [.fn s.toNat] ++ gRef a ++ gRef b
  | .igather _ _ t ix n p _ | .iscatter _ _ t ix n p _ => gRef t ++ gRef ix ++ gRef n ++ gRef p
  | .wkstart _ a b _ => gRef b ++ gFour a
  | .delvec _ b _ => gRef b
  | .reconf _ _ => [.cr 64, .cr 65]
  | .tgen _ => [.cr 65]
  | .gbar _ a => gRef a ++ [.cr 64] ++ [.cr 65]
  | .stmc a b _ => gRef a ++ gRef b ++ [.cr 64] ++ [.cr 65]
  | .nop | .yield | .vsync | .eret | .ifence | .shfence | .xfence | .halt | .snap | .break_ | .wait_ _ _ _ _
  | .hjoin _ _ | .hstat _ _ | .hkill _ | .trap _ | .syscall _ | .br _ | .call _ _ | .ldi _ _ | .ldipc _ _
  | .fence _ _ | .accz _ _ | .acccp _ _ _ | .chfree _ | .ixstamp _ _ | .slotwait _ _ | .wnop | .wadd _ _ _
  | .wsub _ _ _ | .wand _ _ _ | .wor _ _ _ | .wxor _ _ _ | .wshl _ _ _ | .wshr _ _ _ | .waddi _ _ _ | .wmuli _ _ _
  | .wldi _ _ | .wldB _ _ _ _ | .wldH _ _ _ _ | .wldW _ _ _ _ | .wldD _ _ _ _ | .wstB _ _ _ _ | .wstH _ _ _ _
  | .wstW _ _ _ _ | .wstD _ _ _ _ | .wflt _ _ _ | .wfle _ _ _ | .wbeq _ _ _ | .wbne _ _ _ | .wbltu _ _ _ | .wj _
  | .wdinit | .wdabs _ | .wdfin _ _ _ | .wzrow | .wrins _ _ _ _ | .wemit _ _ _ | .wsig _ | .wend _
  | .walkStepLimit _ _ | .digestBlockCompress _ _ | .vsqctlDiscard | .mxctlDiscard | .cpctlDiscard | .xlinvPage _
  | .xlinvDomain _ | .xlinvAll _ | .domainWrite _ | .rndWrite _ | .flagsWrite _ | .flagsRead _ | .fntolWrite _
  | .fnstatRead _ | .dtermClear _ | .vdctlRst _ | .vdirq _ | .jsgo _ _ | .irqstatClear _ _ | .lntrig _ _
  | .lnres _ _ | .atgo _ _ | .hostRegisterWrite _ _ _ | .packageReset | .stackWake | .opticalEngineWake
  | .dieRailWake | .securityProcessorBoot _ | .decsynLinkTrain | .bypass | .idcode | .samplePreload | .extest
  | .arrayWake _ | .arraySleep _ | .launchItemStart _ | .takeDeferredTrap _ | .enterUserHandler _
  | .mailboxDeposit _ _ | .spillDelivery _ | .rucksackDelivery _ _ _ | .loadComplete _ _ _ | .storePerformed _ _
  | .remoteRefusal _ _ _ | .translationWalk _ _ _ | .sequencerExecute _ | .vloopReplay _ | .matrixOpStart _
  | .matrixOpComplete _ | .functionOpComplete _ | .copyStart _ | .copyComplete _ _ | .copyFail _ _
  | .indirectPostStart _ | .indirectPostComplete _ _ | .indirectPostFail _ _ | .preemption _ | .nodeAgeing _ _
  | .nodePlaceAffinity _ _ | .nodeSteal _ _ | .gangReserveBegin _ _ _ | .gangCommit _ _ | .gangReserveFail _ _
  | .gangBackoffExpiry _ _ | .gangDrainStart _ _ _ | .drainCoreReserve _ _ | .nodeCompletion _ _ | .nodeFail _ _
  | .rambleAdmit _ _ | .rambleSearch _ _ | .rambleReply _ _ | .rambleFail _ _ | .rambleHeldReplyDelivery _
  | .sliceRelease _ _ | .sliceDispatch _ | .sliceBudgetExpiry _ | .sliceGraceExpiry _ | .deadlineMiss _ _
  | .generationComplete _ | .slotTransferStart _ | .lateLaneStart _ | .slotBeatLand _ | .uncorrectableError _
  | .terminationDone _ | .lanternCoreCapture _ | .lanternCaptureComplete | .sealDigestDone _ | .attestationDone _
  | .flitReceive _ _ | .idleFlit _ | .linkFailTimeout _ | .forwardRequest _ | .inboundRequestAdmit _
  | .gbarEpisodeComplete _ | .gbarRelease _ _ | .reconfAllArrived _ | .reconfSwitch _ | .portTrainTimeout _
  | .reconfCommit _ | .reconfFail _ | .abortTokenBroadcast _ | .reservedMajorIssue _ | .sequentialLineEntry _
  | .debuggerResume _ | .hostMemoryWindowAccess _ _ _ _ _ | .perBankRefresh _ | .stackTemperatureReport _ _
  | .portTrainingComplete _ | .keptReplyExpiry _ | .groupArrivalReceive _ _ _ | .abortTokenArrival _ _ _ _ => []

/-- R75, R87. The registers an instruction writes, implicit ones included. -/
def Instr.writes : Instr → List RegRef
  | .hjoin d _ | .hstat d _ | .movfc d _ | .call d _ | .callr d _ | .add d _ _ | .sub d _ _ | .mul d _ _
  | .mulh d _ _ | .mulhu d _ _ | .div d _ _ | .divu d _ _ | .rem d _ _ | .remu d _ _ | .and_ d _ _ | .or_ d _ _
  | .xor_ d _ _ | .andn d _ _ | .shl d _ _ | .shr d _ _ | .sra d _ _ | .rotr d _ _ | .min_ d _ _ | .max_ d _ _
  | .minu d _ _ | .maxu d _ _ | .seq d _ _ | .sne d _ _ | .slt d _ _ | .sltu d _ _ | .sle d _ _ | .sleu d _ _
  | .addi d _ _ | .andi d _ _ | .ori d _ _ | .xori d _ _ | .shli d _ _ | .shri d _ _ | .srai d _ _
  | .rotri d _ _ | .slti d _ _ | .sltui d _ _ | .muli d _ _ | .clz d _ | .ctz d _ | .popc d _ | .sextb d _
  | .sexth d _ | .sextw d _ | .zextb d _ | .zexth d _ | .zextw d _ | .brev d _ | .bswap d _ | .ldi d _
  | .ldih d _ _ | .ldipc d _ | .sel d _ _ _ | .bext d _ _ _ _ | .bins d _ _ _ _ | .sfadd _ d _ _
  | .sfsub _ d _ _ | .sfmul _ d _ _ | .sfdiv _ d _ _ | .sfmin _ d _ _ | .sfmax _ d _ _ | .sfsqrt _ d _
  | .sfeq _ d _ _ | .sflt _ d _ _ | .sfle _ d _ _ | .sffma d _ _ _ _ | .sfcvt d _ _ _ _ | .sfclass d _ _
  | .klim d _ _ | .kset d _ _ | .kadv d _ _ | .kmask d _ _ | .klock d _ _ | .kopen d _ _ | .kinfo d _ _
  | .kstrip d _ | .kcopy d _ | .klimi d _ _ | .kadvi d _ _ | .kmaski d _ _ | .ldb d _ _ | .ldh d _ _
  | .ldw d _ _ | .ldd d _ _ | .ldbs d _ _ | .ldhs d _ _ | .ldws d _ _ | .ldc d _ _ | .ldbx d _ _ | .ldhx d _ _
  | .ldwx d _ _ | .lddx d _ _ | .amoadd d _ _ _ _ _ | .amoand d _ _ _ _ _ | .amoor d _ _ _ _ _
  | .amoxor d _ _ _ _ _ | .amoswap d _ _ _ _ _ | .amomin d _ _ _ _ _ | .amomax d _ _ _ _ _
  | .amominu d _ _ _ _ _ | .amomaxu d _ _ _ _ _ | .cas d _ _ _ _ _ _ _ | .cas2 d _ _ _ _ _ _ | .ldaq d _ _ _ _
  | .vextr d _ _ | .chlen d _ | .chnorm d _ | .cheval d _ _ | .chroot d _ _ _ | .wkstart d _ _ _
  | .wkstat d _ _ _ | .stvec d _ _ | .ldnear _ d _ _ _ | .delvec d _ _ | .ixstamp d _ | .nsubmit d _ _
  | .ndoneQ d _ _ | .narmEdge d _ _ | .cwait d _ _ | .cancel d _ | .launch d _ | .barrive d _ _ | .bsync d _ _
  | .slotwait d _ | .seal d _ _ | .gbar d _ | .rkreg d _ _ _ _ | .rkrevoke d _ => gRef d
  | .movtc _ cr => [.cr cr.toNat]
  | .ldm f l _ _ => gRange f l
  | .vadd d _ _ _ _ | .vsub d _ _ _ _ | .vmul d _ _ _ _ | .vmin d _ _ _ _ | .vmax d _ _ _ _ | .vand d _ _ _
  | .vor d _ _ _ | .vxor d _ _ _ | .vandn d _ _ _ | .vshl d _ _ _ | .vshr d _ _ _ | .vsra d _ _ _
  | .vscaleb d _ _ _ _ | .vadds d _ _ _ _ | .vsubs d _ _ _ _ | .vabsd d _ _ _ _ | .vmov d _ _ | .vneg d _ _
  | .vabs d _ _ | .vnot d _ _ | .vclass d _ _ | .viota d _ _ _ | .vbcast d _ _ _ | .vrcp d _ _ _
  | .vrsqrt d _ _ _ | .vsqrt d _ _ _ | .vfma d _ _ _ _ _ | .vfms d _ _ _ _ _ | .vfnma d _ _ _ _ _
  | .vsel d _ _ _ | .vcvt d _ _ _ _ _ | .vrnd d _ _ _ | .vtag d _ _ _ | .vpack d _ _ _ _ _ | .vredsum d _ _ _
  | .vredmax d _ _ | .vredmin d _ _ | .vperm d _ _ _ | .vins d _ _ | .vld d _ _ _ _ | .vgath d _ _ _ _ _
  | .vexp2f d _ _ _ | .vlog2f d _ _ _ | .vtanh d _ _ _ => vRef d
  | .vceq q _ _ _ | .vcne q _ _ _ | .vclt q _ _ _ | .vcle q _ _ _ | .vcun q _ _ _ | .vclassm q _ _ _ => qRef q
  | .vunpack d _ _ _ _ => vRef d ++ vNext d
  | .sbind _ s _ _ | .spos s _ => [.s s.toNat]
  | .sget d s => [.s s.toNat] ++ gRef d
  | .vtopk d _ c _ _ | .vtopknz d _ c _ _ => vRef d ++ vNext d ++ gRef c
  | .unpark x _ _ _ => parkRef x
  | .accrd t _ _ _ _ | .tload t _ _ _ | .cpym _ t _ _ _ _ _ _ => [.t t.toNat]
  | .ttrans d _ => [.t d.toNat] ++ [.cr (0x20 + d.toNat)]
  | .chadd d _ _ | .chsub d _ _ | .chmul d _ _ | .chcomp d _ _ | .chdiff d _ | .chint d _ | .chmov d _
  | .chfree d | .chtrunc d _ _ | .chfit d _ _ _ | .chconst d _ _ _ | .chx d _ _ | .chld d _ _ | .chscal d _ _ => [.fn d.toNat]
  | .tgen d => gRef d ++ [.cr 64]
  | .reconf d _ => gRef d ++ [.cr 65]
  | .nop | .hend | .yield | .vsync | .uiret | .eret | .ifence | .shfence | .xfence | .halt | .snap | .break_
  | .wait_ _ _ _ _ | .hstart _ _ _ _ | .hkill _ | .trap _ | .syscall _ | .savectx _ _ _ | .restctx _ _ _
  | .beq _ _ _ | .bne _ _ _ | .blt _ _ _ | .bge _ _ _ | .bltu _ _ _ | .bgeu _ _ _ | .br _ | .jmpr _ | .ret _
  | .vloop _ _ _ _ | .stb _ _ _ | .sth _ _ _ | .stw _ _ _ | .std _ _ _ | .stc _ _ _ | .stbx _ _ _ | .sthx _ _ _
  | .stwx _ _ _ | .stdx _ _ _ | .stm _ _ _ _ | .strl _ _ _ _ _ | .fence _ _ | .vst _ _ _ _ | .vscat _ _ _ _ _
  | .park _ _ _ _ | .wload _ _ | .mma _ _ _ _ | .mmasw _ _ _ _ | .accz _ _ | .accwr _ _ _ | .acccp _ _ _
  | .tstore _ _ _ _ _ _ | .chst _ _ _ | .cpy _ _ _ _ _ | .cpyq _ _ _ _ _ | .igather _ _ _ _ _ _ _
  | .iscatter _ _ _ _ _ _ _ | .evwait _ _ | .evsig _ _ | .cbar _ | .ndone _ | .narm _ | .bwait _ _
  | .slotsend _ _ _ _ | .abort _ | .stmc _ _ _ | .wnop | .wadd _ _ _ | .wsub _ _ _ | .wand _ _ _ | .wor _ _ _
  | .wxor _ _ _ | .wshl _ _ _ | .wshr _ _ _ | .waddi _ _ _ | .wmuli _ _ _ | .wldi _ _ | .wldB _ _ _ _
  | .wldH _ _ _ _ | .wldW _ _ _ _ | .wldD _ _ _ _ | .wstB _ _ _ _ | .wstH _ _ _ _ | .wstW _ _ _ _ | .wstD _ _ _ _
  | .wflt _ _ _ | .wfle _ _ _ | .wbeq _ _ _ | .wbne _ _ _ | .wbltu _ _ _ | .wj _ | .wdinit | .wdabs _ | .wdfin _ _ _
  | .wzrow | .wrins _ _ _ _ | .wemit _ _ _ | .wsig _ | .wend _ | .walkStepLimit _ _ | .digestBlockCompress _ _
  | .vsqctlDiscard | .mxctlDiscard | .cpctlDiscard | .xlinvPage _ | .xlinvDomain _ | .xlinvAll _ | .domainWrite _
  | .rndWrite _ | .flagsWrite _ | .flagsRead _ | .fntolWrite _ | .fnstatRead _ | .dtermClear _ | .vdctlRst _
  | .vdirq _ | .jsgo _ _ | .irqstatClear _ _ | .lntrig _ _ | .lnres _ _ | .atgo _ _ | .hostRegisterWrite _ _ _
  | .packageReset | .stackWake | .opticalEngineWake | .dieRailWake | .securityProcessorBoot _ | .decsynLinkTrain
  | .bypass | .idcode | .samplePreload | .extest | .arrayWake _ | .arraySleep _ | .launchItemStart _
  | .takeDeferredTrap _ | .enterUserHandler _ | .mailboxDeposit _ _ | .spillDelivery _ | .rucksackDelivery _ _ _
  | .loadComplete _ _ _ | .storePerformed _ _ | .remoteRefusal _ _ _ | .translationWalk _ _ _ | .sequencerExecute _
  | .vloopReplay _ | .matrixOpStart _ | .matrixOpComplete _ | .functionOpComplete _ | .copyStart _
  | .copyComplete _ _ | .copyFail _ _ | .indirectPostStart _ | .indirectPostComplete _ _ | .indirectPostFail _ _
  | .preemption _ | .nodeAgeing _ _ | .nodePlaceAffinity _ _ | .nodeSteal _ _ | .gangReserveBegin _ _ _
  | .gangCommit _ _ | .gangReserveFail _ _ | .gangBackoffExpiry _ _ | .gangDrainStart _ _ _ | .drainCoreReserve _ _
  | .nodeCompletion _ _ | .nodeFail _ _ | .rambleAdmit _ _ | .rambleSearch _ _ | .rambleReply _ _ | .rambleFail _ _
  | .rambleHeldReplyDelivery _ | .sliceRelease _ _ | .sliceDispatch _ | .sliceBudgetExpiry _ | .sliceGraceExpiry _
  | .deadlineMiss _ _ | .generationComplete _ | .slotTransferStart _ | .lateLaneStart _ | .slotBeatLand _
  | .uncorrectableError _ | .terminationDone _ | .lanternCoreCapture _ | .lanternCaptureComplete | .sealDigestDone _
  | .attestationDone _ | .flitReceive _ _ | .idleFlit _ | .linkFailTimeout _ | .forwardRequest _
  | .inboundRequestAdmit _ | .gbarEpisodeComplete _ | .gbarRelease _ _ | .reconfAllArrived _ | .reconfSwitch _
  | .portTrainTimeout _ | .reconfCommit _ | .reconfFail _ | .abortTokenBroadcast _ | .reservedMajorIssue _
  | .sequentialLineEntry _ | .debuggerResume _ | .hostMemoryWindowAccess _ _ _ _ _ | .perBankRefresh _
  | .stackTemperatureReport _ _ | .portTrainingComplete _ | .keptReplyExpiry _ | .groupArrivalReceive _ _ _
  | .abortTokenArrival _ _ _ _ => []

/-- R158. The rounding field of a vector instruction that rounds, if it has one. -/
def Instr.roundField : Instr → Option (BitVec 3)
  | .vadd _ _ _ r _ | .vsub _ _ _ r _ | .vmul _ _ _ r _ | .vmin _ _ _ r _ | .vmax _ _ _ r _ | .vscaleb _ _ _ r _
  | .vadds _ _ _ r _ | .vsubs _ _ _ r _ | .vabsd _ _ _ r _ | .viota _ _ r _ | .vrcp _ _ r _ | .vrsqrt _ _ r _ | .vsqrt _ _ r _
  | .vfma _ _ _ _ r _ | .vfms _ _ _ _ r _ | .vfnma _ _ _ _ r _ | .vcvt _ _ _ _ r _ | .vrnd _ _ r _ | .vpack _ _ _ _ r _
  | .vunpack _ _ _ r _ | .vredsum _ _ r _ | .vexp2f _ _ r _ | .vlog2f _ _ r _ | .vtanh _ _ r _ => some r
  | _ => none

/-- R230. The control registers by which an instruction finds an object: OTBASE and OTLIMIT. -/
def objectRegs : List RegRef := [.cr 0x820, .cr 0x821]

/-- R75. The control registers that an instruction reads by rule: RND where it rounds by it (R17) or captures it (R237), FNTOL at the
issue of a function instruction (R206), OTBASE and OTLIMIT where it names an object (R230), and the keys of an STMC (R416), all eight, as
which of them its address selects is not known when the group is decoded (DEDUCED, log 101). -/
def Instr.impliedReads : Instr → List RegRef
  | .cpy _ _ _ _ _ | .cpyq _ _ _ _ _ | .cpym _ _ _ _ _ _ _ _ => [.cr 2] ++ objectRegs
  | .sbind _ _ _ _ | .stvec _ _ _ | .ldnear _ _ _ _ _ | .delvec _ _ _ | .ixstamp _ _ | .wkstart _ _ _ _ | .barrive _ _ _
  | .bwait _ _ | .bsync _ _ _ | .slotsend _ _ _ _ | .slotwait _ _ => objectRegs
  | .stmc _ _ _ => (List.range 8).map (fun k => RegRef.cr (0x30 + k))
  | .chadd _ _ _ | .chsub _ _ _ | .chmul _ _ _ | .chcomp _ _ _ | .chdiff _ _ | .chint _ _ | .chmov _ _ | .chfree _ | .chlen _ _
  | .chnorm _ _ | .chtrunc _ _ _ | .chfit _ _ _ _ | .cheval _ _ _ | .chroot _ _ _ _ | .chconst _ _ _ _ | .chx _ _ _ | .chld _ _ _
  | .chst _ _ _ | .chscal _ _ _ => [.cr 0x29]
  | i => if Instr.roundField i = some 4 then [.cr 2] else []

/-- R75. Every use of a stream counts as both a read and a write of it. -/
def streamUses (l : List RegRef) : List RegRef :=
  l.filter (fun r => match r with
    | .s _ => true
    | _ => false)

/-- R75. All that an instruction reads, implied registers and the streams it writes among them. -/
def Instr.allReads (i : Instr) : List RegRef := Instr.reads i ++ Instr.impliedReads i ++ streamUses (Instr.writes i)
/-- R75. All that an instruction writes, streams it reads among them. -/
def Instr.allWrites (i : Instr) : List RegRef := Instr.writes i ++ streamUses (Instr.reads i)

/-- R76. The instructions that must end their group. -/
def Instr.endsGroup : Instr → Bool
  | .beq _ _ _ | .bne _ _ _ | .blt _ _ _ | .bge _ _ _ | .bltu _ _ _ | .bgeu _ _ _ | .br _ | .call _ _ | .jmpr _
  | .callr _ _ | .ret _ | .hend | .yield | .uiret | .eret | .halt | .break_ | .trap _ | .syscall _ => true
  | _ => false

/-- R104 to R106. The single instructions that only the control context issues. -/
def Instr.controlSingle : Instr → Bool
  | .vsync | .uiret | .hstart _ _ _ _ | .hjoin _ _ | .hstat _ _ | .hkill _ => true
  | _ => false

/-- R104, R108, R109. The instructions and register numbers that are privileged. -/
def Instr.needsPriv : Instr → Bool
  | .eret | .halt | .savectx _ _ _ | .restctx _ _ _ => true
  | .movfc _ cr => decide (0x800 ≤ cr.toNat)
  | .movtc _ cr => decide (0x800 ≤ cr.toNat)
  | _ => false

/-- R74. The slot classes. -/
inductive SlotClass where
  | scalar
  | memory
  | engine
  deriving DecidableEq, Repr

/-- R74. The slot class of a major. -/
def slotClass (major : Nat) : SlotClass :=
  if major = 0x0B then .engine
  else if major ≤ 0x19 then .scalar
  else if major ≤ 0x2B then .memory
  else .engine

/-- R78. The majors that a helper does not issue. -/
def controlMajor (m : Nat) : Bool :=
  decide (m = 0x0B) || (decide (0x30 ≤ m) && decide (m ≤ 0x3A)) || decide (m = 0x40) || decide (m = 0x44) ||
    decide (m = 0x45) || decide (m = 0x48)

/-- A member of a group: its word and what it decodes to. -/
structure Member where
  word : Nat
  dec : Decoded
  deriving DecidableEq, Repr

noncomputable section

/-- A member at head `i` of a line. -/
def memberAt (line : BitVec 512) (i : Nat) : Member := ⟨lineWord line i, decodeCore (lineWord line i)⟩

/-- R73. The heads of the group that starts at head `i`: at most `fuel` of them, up to the first with G = 1 or head H. -/
def groupHeads (line : BitVec 512) : Nat → Nat → List Nat
  | 0, _ => []
  | fuel + 1, i =>
    if lineHeads line < i then []
    else if half line i / 32768 = 1 then [i]
    else i :: groupHeads line fuel (i + 1)

/-- The instruction of a member; a member that decodes to none has no registers. -/
def Member.instr? (m : Member) : Option Instr :=
  match m.dec with
  | .instr i => some i
  | .illegal _ => none

/-- The major of a member. -/
def Member.major (m : Member) : Nat := fieldOp.get m.word

/-- R81, R82 step 2. The first member with a subcode 1 to 4, and its position. -/
def firstIllegal : List Member → Nat → Option (Nat × Nat)
  | [], _ => none
  | m :: ms, k =>
    match m.dec with
    | .illegal sub => some (sub, k)
    | .instr _ => firstIllegal ms (k + 1)

/-- R74. The first member whose slot class an earlier member has. -/
def firstSameClass : List Member → List SlotClass → Nat → Option Nat
  | [], _, _ => none
  | m :: ms, seen, k =>
    let c := slotClass m.major
    if seen.contains c then some k else firstSameClass ms (c :: seen) (k + 1)

/-- R75. The first member that reads or writes a register that an earlier member writes. -/
def firstConflict : List Instr → List RegRef → Nat → Option Nat
  | [], _, _ => none
  | i :: is, written, k =>
    if (Instr.allReads i ++ Instr.allWrites i).any (fun r => written.contains r) then some k
    else firstConflict is (written ++ Instr.allWrites i) (k + 1)

/-- R76. The first member, not the last, that must end its group. -/
def firstNotLast : List Instr → Nat → Option Nat
  | [], _ => none
  | [_], _ => none
  | i :: j :: is, k => if Instr.endsGroup i then some k else firstNotLast (j :: is) (k + 1)

/-- The first member that satisfies a condition. -/
def firstWhere (p : Member → Bool) : List Member → Nat → Option Nat
  | [], _ => none
  | m :: ms, k => if p m then some k else firstWhere p ms (k + 1)

/-- R81. The trap of a decode fault: TRAPPROG holds the subcode and the position, TRAPVAL the word. -/
def decodeTrap (cause : BitVec 8) (pc : Word) (sub pos word : Nat) : Trap :=
  ⟨cause, pc, w64 word, w64 (sub + 256 * pos)⟩

/-- R82. The decode fault that the group at a program counter reports, if any, for a helper or the control context and in
user or privileged mode. R81 gives a subcode for ILLEGAL_OP alone; for NOT_IN_HELPER and PRIV TRAPPROG[7:0] is 0 (DESIGN CHOICE,
log 10). -/
def groupFault (line : BitVec 512) (pc : Word) (helper priv : Bool) : Option Trap :=
  let heads := groupHeads line 4 (headIndex pc)
  let fourth := decide (heads.length = 4)
  let members := (heads.take 3).map (memberAt line)
  let instrs := members.filterMap Member.instr?
  let wordAt := fun k => (members.getD k ⟨0, .illegal 1⟩).word
  match firstIllegal members 0 with
  | some (sub, k) => some (decodeTrap Cause.illegalOp pc sub k (wordAt k))
  | none =>
    match firstSameClass members [] 0 with
    | some k => some (decodeTrap Cause.illegalOp pc 5 k (wordAt k))
    | none =>
      match firstConflict instrs [] 0 with
      | some k => some (decodeTrap Cause.illegalOp pc 6 k (wordAt k))
      | none =>
        let last := heads.getLastD 0
        if fourth then some (decodeTrap Cause.illegalOp pc 7 3 (lineWord line last))
        else if half line last / 32768 = 0 then
          some (decodeTrap Cause.illegalOp pc 7 (members.length - 1) (lineWord line last))
        else
          match firstNotLast instrs 0 with
          | some k => some (decodeTrap Cause.illegalOp pc 8 k (wordAt k))
          | none =>
            let ctl := fun (m : Member) => controlMajor m.major || (m.instr?.map Instr.controlSingle).getD false
            let prv := fun (m : Member) => (m.instr?.map Instr.needsPriv).getD false
            match if helper then firstWhere ctl members 0 else none with
            | some k => some (decodeTrap Cause.notInHelper pc 0 k (wordAt k))
            | none =>
              match if priv then none else firstWhere prv members 0 with
              | some k => some (decodeTrap Cause.priv pc 0 k (wordAt k))
              | none => none

/-- R73. The instructions of the group at a program counter. -/
def groupInstrs (line : BitVec 512) (pc : Word) : List Instr :=
  (((groupHeads line 4 (headIndex pc)).take 3).map (memberAt line)).filterMap Member.instr?

end

end Sys2Proof.Machine
end

