-- ==== Sys2Proof/Machine/Memory.lean ====
section
/-!
DEFINITION. Loads and stores (R133 to R141), the atomic, acquire, release and fence instructions (R304 to R308), and the
performing of issued accesses at their homes in the orders that R298 allows (LOAD_COMPLETE, STORE_PERFORMED, R97). An
instruction makes its checks and counts when it issues; its access is performed later, by an event.
-/

namespace Sys2Proof.Machine

/-! ## Issue -/

/-- The access reads a value into a register and counts in CNTS.LOAD (R97); the rest count in CNTS.STORE. -/
def MemKind.reads : MemKind → Bool
  | .load _ _ => true
  | .loadCap _ _ => true
  | .amo _ _ => true
  | .cas _ _ => true
  | .cas2 _ _ _ => true
  | .reply _ => true
  | .unit _ _ => true
  | .store => false
  | .storeCap => false
  | .ack => false
  | .fence _ => false

/-- The access writes its home. -/
def MemKind.writes : MemKind → Bool
  | .store => true
  | .storeCap => true
  | .amo _ _ => true
  | .cas _ _ => true
  | .cas2 _ _ _ => true
  | .ack => true
  | .unit _ m => m
  | .load _ _ => false
  | .loadCap _ _ => false
  | .reply _ => false
  | .fence _ => false

/-- An operation that a Ramble unit performs. -/
def MemKind.isUnit : MemKind → Bool
  | .unit _ _ => true
  | _ => false

/-- The register an access writes; g0 discards. -/
def MemKind.dest : MemKind → BitVec 5
  | .load d _ => d
  | .loadCap d _ => d
  | .amo d _ => d
  | .cas d _ => d
  | .cas2 d _ _ => d
  | .reply d => d
  | .unit d _ => d
  | .store => 0
  | .storeCap => 0
  | .ack => 0
  | .fence _ => 0

/-- R87. A context with a register awaiting a result; g0 never does. -/
def Ctx.await (c : Ctx) (d : BitVec 5) : Ctx := if d = 0 then c else { c with awaits := NSet.add c.awaits d.toNat }

/-- R97. A context with accesses issued: they join the pending ones under one issue number and count once in their class. -/
def Ctx.issue (c : Ctx) (ops : List PendOp) : Ctx :=
  match ops with
  | [] => c
  | op :: _ =>
    let c1 := ops.foldl (fun x o => x.await o.kind.dest) { c with pend := c.pend ++ ops, pendSeq := c.pendSeq + 1 }
    if op.kind.reads then { c1 with cntLoad := c1.cntLoad + 1 } else { c1 with cntStore := c1.cntStore + 1 }

/-- R132, R410. The device that a fabric address names to a context; 65,536, which is none, where a table entry is 0xFFFF. -/
def State.deviceOf (s : State) (c : CtxId) (a : Word) : Nat :=
  if s.hr && (s.ctx c).priv then
    let pod := s.main.read (s.hrbase.toNat + 2 * bits a 59 52) 2
    let board := s.main.read (s.hrbase.toNat + 512 + 2 * bits a 51 48) 2
    if pod = 0xFFFF ∨ board = 0xFFFF then 65536 else (pod + board + bits a 47 44) % 65536
  else bits a 59 44

/-- The place that an address of the translated space maps to for someone, whatever the access. -/
def State.placeOf (s : State) (who : Who) (va : Word) : Option Loc :=
  [Access.load, .store, .fetch].findSome? (fun k =>
    match s.walk who va k with
    | .ok l => some (Entry.place l.entry l.level va)
    | .error _ => none)

/-- R407, R408. The place of this package that a request under a key reaches; none where it is refused, and for a mailbox. -/
def State.keyPlace (s : State) (a : Word) (key : BitVec 32) : Option Loc :=
  let e := SMap.getD s.keys (bits (zext key) 9 0) Key.reset
  let off := bits a 34 0
  if !e.used || e.check.toNat != bits (zext key) 31 10 then none
  else if e.kind = 1 then some ⟨.spad e.core, off, off⟩
  else if e.kind = 0 then s.placeOf ⟨e.core, e.dom, false, e.xlbase⟩ (w64 (e.base + off))
  else none

/-- R399. The sequence number of the next request of the current context. -/
def State.nextTag (s : State) : Nat := SMap.getD s.myCore.tags s.cur.slot 0
/-- R399. The state after `n` requests of the current context. -/
def State.useTags (s : State) (n : Nat) : State :=
  if n = 0 then s else s.modMyCore (fun k => { k with tags := SMap.set k.tags s.cur.slot ((s.nextTag + n) % 65536) })

/-- An access of the current instruction, of order .rlx. -/
def State.pendOp (s : State) (k : MemKind) (p : Place) (size : Nat) (data : Reg) : PendOp :=
  let dev := match p with
    | .local _ => 65536
    | .remote a _ => s.deviceOf s.cur a
  { seq := s.me.pendSeq, head := s.me.pc, kind := k, home := p, size := size, data := data, scope := 0
    acq := false, rel := false, sc := false, swap := 0, early := none, bank := s.me.uia, dom := s.me.dom, ctx := s.cur, dev := dev
    own := dev == s.fabid.toNat
    at_ := match p with
      | .local l => some l
      | .remote _ _ => none
    tag := s.nextTag }

/-- R132, R399. The request that a context's access to another device forms; none for a local access. -/
def State.requestOf (s : State) (c : CtxId) (dst : Nat) (gen : BitVec 32) (op : PendOp) : Option Request :=
  let form := fun (a : Word) (key : BitVec 32) (kind : ReqKind) (expect : Reg) =>
    some ({ src := s.fabid.toNat, dst := dst, job := (s.core c.core).job, ctx := c, uid := (s.ctx c).uid, va := a
            tag := op.tag, gen := gen, key := key, core := bits a 43 35, off := bits a 34 0, kind := kind, size := op.size
            data := op.data.bits, expect := expect.bits, expectTag := expect.tag, ordered := op.acq || op.rel, via := 8 } : Request)
  match op.home, op.kind with
  | .remote a key, .load _ _ => form a key .load Reg.zero
  | .remote a key, .loadCap _ _ => form a key .load Reg.zero
  | .remote a key, .store => form a key .store Reg.zero
  | .remote a key, .storeCap => form a key .store Reg.zero
  | .remote a key, .amo _ f => form a key (.amo f) Reg.zero
  | .remote a key, .cas _ e => form a key .cas (Reg.plain e)
  | .remote a key, .cas2 _ e _ => form a key .cas2 e
  | _, _ => none

/-- R418. The device is in a RECONF that is not yet decided. -/
def State.reconfiguring (s : State) : Bool := s.jobs.any (fun p => p.2.reconf.isSome)

/-- R399, R418. Requests of this device that join the network interface's: those to other devices that are new in a RECONF are held
there. -/
def State.enqueue (s : State) (reqs : List Request) (hold : Bool) : State :=
  let stays := fun (r : Request) => hold && r.dst != s.fabid.toNat
  { s with inbound := s.inbound ++ reqs.filter (fun r => !stays r), heldReqs := s.heldReqs ++ reqs.filter stays }

/-- R97, R399. Accesses of the current instruction issued: those to other devices join the network interface's requests. -/
def State.issueOps (s : State) (ops : List PendOp) : State :=
  let reqs := ops.filterMap (fun o => match o.home with
    | .remote a _ => s.requestOf s.cur (s.deviceOf s.cur a) 0 o
    | .local _ => none)
  ((s.modMe (·.issue ops)).useTags reqs.length).enqueue reqs s.reconfiguring

/-- R399. A request is that of a context's access. -/
def requestFor (r : Request) (uid : Nat) (o : PendOp) : Bool :=
  r.uid == uid && r.tag == o.tag && (match o.home with
    | .remote a _ => r.va == a
    | .local _ => false)
/-- R399. The access's request, where it makes one, has left the device. -/
def State.sentOut (s : State) (uid : Nat) (o : PendOp) : Bool :=
  (s.inbound ++ s.heldReqs).all (fun r => !requestFor r uid o)

/-- R184, R298. An STC of the current context that is not yet performed will write a granule, and clear its mark. -/
def State.willClear (s : State) (sp : Space) (g : Nat) : Bool :=
  s.me.pend.any (fun o => match o.kind, o.home with
    | .storeCap, .local m => m.space == sp && decide (granule m.off = g)
    | _, _ => false)

/-- R184. `n` bytes at a place meet a mark that no earlier STC of the current context will clear. -/
def State.readsMarked (s : State) (l : Loc) (n : Nat) : Bool :=
  (s.memory l.space).poison.any (fun g => decide (g * 16 < l.off + n) && decide (l.off < g * 16 + 16) && !s.willClear l.space g)

/-- R184. A read of a marked granule is refused. -/
def State.checkPoison (s : State) (p : Place) (a : Word) (n : Nat) : Res Unit :=
  match p with
  | .local l => ensure (!s.readsMarked l n) Cause.poisonConsumed a
  | .remote _ _ => .ok ()

/-- R133 steps 2 to 5, then R184: where an access of the current context goes. -/
def State.locate (s : State) (a : Word) (n : Nat) (k : CapUse) : Res (State × Place) := do
  let (s1, p) ← s.resolve (s.who s.cur) a n k
  if k = .store then .ok (s1, p)
  else do
    s1.checkPoison p a n
    .ok (s1, p)

/-- R92, R133 step 1. The capability checks of an access through g[base], its value `v` where it stores one. The check of a stored
tagged value follows those of R92's table (DEDUCED, log 70). -/
def State.accessCap (s : State) (base : BitVec 5) (a : Word) (n : Nat) (k : CapUse) (v : Reg) : Res Unit := do
  checkCapRights (s.g base) s.me.dom s.me.priv k a
  ensure ((s.g base).covers a.toNat n) Cause.capBounds a
  ensure (decide (a.toNat % n = 0)) Cause.align a
  checkCapStore (s.g base) v a

/-- R133. The checks of an access through g[base], its value `v` where it stores one: the state and the place. -/
def State.access (s : State) (base : BitVec 5) (a : Word) (n : Nat) (k : CapUse) (v : Reg) : Chk (State × Place) :=
  s.check (do
    s.accessCap base a n k v
    s.locate a n k) (accessProg base k.writes 0 false)

/-- R291. The state on which an access that fails traps: its translation, once permitted, has set A and D. -/
def State.afterAccess (s : State) (base : BitVec 5) (a : Word) (n : Nat) (k : CapUse) (v : Reg) : State :=
  match s.accessCap base a n k v with
  | .ok () => s.touched (s.who s.cur) a k
  | .error _ => s

/-- R133, R291. An access's instruction: the effect where it passed its checks, else its trap. -/
def State.finishAccess (s : State) (base : BitVec 5) (a : Word) (n : Nat) (k : CapUse) (v : Reg) (r : Chk State) : Out :=
  s.finishOn (s.afterAccess base a n k v) r

/-- R137, R139. A load of `n` bytes from an address. -/
def State.load (s : State) (d base : BitVec 5) (a : Word) (n : Nat) (signed : Bool) : Out :=
  s.finishAccess base a n .load Reg.zero (do
    let (s1, p) ← s.access base a n .load Reg.zero
    .ok (s1.issueOps [s.pendOp (.load d signed) p n Reg.zero]).advance)

/-- R138, R139. A store of the low `n` bytes of g[b] to an address. -/
def State.store (s : State) (b base : BitVec 5) (a : Word) (n : Nat) : Out :=
  s.finishAccess base a n .store Reg.zero (do
    let (s1, p) ← s.access base a n .store Reg.zero
    .ok (s1.issueOps [s.pendOp .store p n (s.g b)]).advance)

/-- R137. LDB. -/
def execLdb (d a : BitVec 5) (disp : BitVec 16) (s : State) : Out := s.load d a (s.dispAddr a disp) 1 false
/-- R137. LDH. -/
def execLdh (d a : BitVec 5) (disp : BitVec 16) (s : State) : Out := s.load d a (s.dispAddr a disp) 2 false
/-- R137. LDW. -/
def execLdw (d a : BitVec 5) (disp : BitVec 16) (s : State) : Out := s.load d a (s.dispAddr a disp) 4 false
/-- R137. LDD. -/
def execLdd (d a : BitVec 5) (disp : BitVec 16) (s : State) : Out := s.load d a (s.dispAddr a disp) 8 false
/-- R137. LDBS. -/
def execLdbs (d a : BitVec 5) (disp : BitVec 16) (s : State) : Out := s.load d a (s.dispAddr a disp) 1 true
/-- R137. LDHS. -/
def execLdhs (d a : BitVec 5) (disp : BitVec 16) (s : State) : Out := s.load d a (s.dispAddr a disp) 2 true
/-- R137. LDWS. -/
def execLdws (d a : BitVec 5) (disp : BitVec 16) (s : State) : Out := s.load d a (s.dispAddr a disp) 4 true
/-- R137. LDC: the loaded tag is the granule's, where g[a] has LC. -/
def execLdc (d a : BitVec 5) (disp : BitVec 16) (s : State) : Out :=
  s.finishAccess a (s.dispAddr a disp) 16 .load Reg.zero (do
    let (s1, p) ← s.access a (s.dispAddr a disp) 16 .load Reg.zero
    .ok (s1.issueOps [s.pendOp (.loadCap d (s.g a).permLC) p 16 Reg.zero]).advance)
/-- R138. STB. -/
def execStb (b a : BitVec 5) (disp : BitVec 16) (s : State) : Out := s.store b a (s.dispAddr a disp) 1
/-- R138. STH. -/
def execSth (b a : BitVec 5) (disp : BitVec 16) (s : State) : Out := s.store b a (s.dispAddr a disp) 2
/-- R138. STW. -/
def execStw (b a : BitVec 5) (disp : BitVec 16) (s : State) : Out := s.store b a (s.dispAddr a disp) 4
/-- R138. STD. -/
def execStd (b a : BitVec 5) (disp : BitVec 16) (s : State) : Out := s.store b a (s.dispAddr a disp) 8
/-- R138. STC: the granule tag becomes that of g[b]. -/
def execStc (b a : BitVec 5) (disp : BitVec 16) (s : State) : Out :=
  s.finishAccess a (s.dispAddr a disp) 16 .store (s.g b) (do
    let (s1, p) ← s.access a (s.dispAddr a disp) 16 .store (s.g b)
    .ok (s1.issueOps [s.pendOp .storeCap p 16 (s.g b)]).advance)
/-- R139. LDBX. -/
def execLdbx (d a b : BitVec 5) (s : State) : Out := s.load d a (s.indexAddr a b 1) 1 false
/-- R139. LDHX. -/
def execLdhx (d a b : BitVec 5) (s : State) : Out := s.load d a (s.indexAddr a b 2) 2 false
/-- R139. LDWX. -/
def execLdwx (d a b : BitVec 5) (s : State) : Out := s.load d a (s.indexAddr a b 4) 4 false
/-- R139. LDDX. -/
def execLddx (d a b : BitVec 5) (s : State) : Out := s.load d a (s.indexAddr a b 8) 8 false
/-- R139. STBX. -/
def execStbx (c a b : BitVec 5) (s : State) : Out := s.store c a (s.indexAddr a b 1) 1
/-- R139. STHX. -/
def execSthx (c a b : BitVec 5) (s : State) : Out := s.store c a (s.indexAddr a b 2) 2
/-- R139. STWX. -/
def execStwx (c a b : BitVec 5) (s : State) : Out := s.store c a (s.indexAddr a b 4) 4
/-- R139. STDX. -/
def execStdx (c a b : BitVec 5) (s : State) : Out := s.store c a (s.indexAddr a b 8) 8

/-! ## Atomics, acquire, release, fences (R304 to R308) -/

/-- R299, R304. An access with an order field: 1 acquire, 2 release, 3 both, 4 .sc. -/
def PendOp.ordered (op : PendOp) (order : BitVec 3) (scope : BitVec 3) : PendOp :=
  { op with scope := scope, acq := order == 1 || order == 3 || order == 4, rel := order == 2 || order == 3 || order == 4
            sc := order == 4 }

/-- R306. A CAS or CAS2: an acquire with FACQ whatever the comparison gives; its order field is in force where it succeeds. -/
def PendOp.swapping (op : PendOp) (order scope : BitVec 3) (facq : BitVec 1) : PendOp :=
  { op with scope := scope, acq := facq == 1, swap := order }
/-- R299, R306. A CAS or CAS2 that succeeds acts by its order field; any other access stands. -/
def PendOp.swapped (op : PendOp) : PendOp :=
  { op with acq := op.acq || op.swap == 1 || op.swap == 3 || op.swap == 4
            rel := op.rel || op.swap == 2 || op.swap == 3 || op.swap == 4, sc := op.sc || op.swap == 4 }

/-- R304. Bytes of a size code. -/
def sizeBytes (size : BitVec 2) : Nat := if size = 0 then 4 else 8

/-- R294, R304. An ordered access through g[a] that host memory does not serve. -/
def State.orderedAccess (s : State) (a : BitVec 5) (n : Nat) (use : CapUse) (v : Reg) : Chk (State × Place) := do
  let (s1, p) ← s.access a (s.x a) n use v
  match p with
  | .local l =>
    s.need (decide (l.space ≠ .host)) Cause.illegalOperand (s.x a) s.openProg
    .ok (s1, p)
  | .remote _ _ => .ok (s1, p)

/-- R304 to R307. Issue an ordered access. -/
def State.issueOrdered (s : State) (a : BitVec 5) (n : Nat) (use : CapUse) (k : MemKind) (data v : Reg)
    (order scope : BitVec 3) : Out :=
  s.finishAccess a (s.x a) n use v (do
    let (s1, p) ← s.orderedAccess a n use v
    .ok (s1.issueOps [(s.pendOp k p n data).ordered order scope]).advance)

/-- R305. An AMO. -/
def State.issueAmo (s : State) (op : AmoOp) (d a b : BitVec 5) (scope order : BitVec 3) (size : BitVec 2) : Out :=
  s.issueOrdered a (sizeBytes size) .atomic (.amo d op) (s.g b) Reg.zero order scope

/-- R305. AMOADD. -/
def execAmoadd (d a b : BitVec 5) (scope order : BitVec 3) (size : BitVec 2) (s : State) : Out :=
  s.issueAmo .add d a b scope order size
/-- R305. AMOAND. -/
def execAmoand (d a b : BitVec 5) (scope order : BitVec 3) (size : BitVec 2) (s : State) : Out :=
  s.issueAmo .and d a b scope order size
/-- R305. AMOOR. -/
def execAmoor (d a b : BitVec 5) (scope order : BitVec 3) (size : BitVec 2) (s : State) : Out :=
  s.issueAmo .or d a b scope order size
/-- R305. AMOXOR. -/
def execAmoxor (d a b : BitVec 5) (scope order : BitVec 3) (size : BitVec 2) (s : State) : Out :=
  s.issueAmo .xor d a b scope order size
/-- R305. AMOSWAP. -/
def execAmoswap (d a b : BitVec 5) (scope order : BitVec 3) (size : BitVec 2) (s : State) : Out :=
  s.issueAmo .swap d a b scope order size
/-- R305. AMOMIN. -/
def execAmomin (d a b : BitVec 5) (scope order : BitVec 3) (size : BitVec 2) (s : State) : Out :=
  s.issueAmo .min d a b scope order size
/-- R305. AMOMAX. -/
def execAmomax (d a b : BitVec 5) (scope order : BitVec 3) (size : BitVec 2) (s : State) : Out :=
  s.issueAmo .max d a b scope order size
/-- R305. AMOMINU. -/
def execAmominu (d a b : BitVec 5) (scope order : BitVec 3) (size : BitVec 2) (s : State) : Out :=
  s.issueAmo .minu d a b scope order size
/-- R305. AMOMAXU. -/
def execAmomaxu (d a b : BitVec 5) (scope order : BitVec 3) (size : BitVec 2) (s : State) : Out :=
  s.issueAmo .maxu d a b scope order size

/-- R306. CAS; with FACQ its read is an acquire also where it fails. -/
def execCas (d a b : BitVec 5) (scope order : BitVec 3) (size : BitVec 2) (facq : BitVec 1) (c : BitVec 5) (s : State) :
    Out :=
  s.finishAccess a (s.x a) (sizeBytes size) .atomic Reg.zero (do
    let n := sizeBytes size
    let (s1, p) ← s.orderedAccess a n .atomic Reg.zero
    .ok (s1.issueOps [(s.pendOp (.cas d (s.x b)) p n (s.g c)).swapping order scope facq]).advance)
/-- R306. CAS2: the SC and G rules are checked for a tagged g[c], whether or not the comparison would succeed. -/
def execCas2 (d a b : BitVec 5) (scope order : BitVec 3) (facq : BitVec 1) (c : BitVec 5) (s : State) : Out :=
  s.finishAccess a (s.x a) 16 .atomic (s.g c) (do
    let (s1, p) ← s.orderedAccess a 16 .atomic (s.g c)
    .ok (s1.issueOps [(s.pendOp (.cas2 d (s.g b) (s.g a).permLC) p 16 (s.g c)).swapping order scope facq]).advance)
/-- R307. LDAQ: an acquire load, or an .sc read with order 4. -/
def execLdaq (d a : BitVec 5) (scope order : BitVec 3) (size : BitVec 2) (s : State) : Out :=
  s.issueOrdered a (sizeBytes size) .load (.load d false) Reg.zero Reg.zero (if order = 4 then 4 else 1) scope
/-- R307. STRL: a release store, or an .sc write with order 4. -/
def execStrl (b a : BitVec 5) (scope order : BitVec 3) (size : BitVec 2) (s : State) : Out :=
  s.issueOrdered a (sizeBytes size) .store .store (s.g b) Reg.zero (if order = 4 then 4 else 2) scope
/-- R308. FENCE: it stands between the accesses it orders; kind 4 holds the context until every earlier store is performed. -/
def execFence (scope kind : BitVec 3) (s : State) : Out :=
  let op := { s.pendOp (.fence kind) (.remote 0 0) 0 Reg.zero with scope := scope }
  let done := (s.modMe (fun c => if c.pend.isEmpty then c else { c with pend := c.pend ++ [op] })).advance
  .next (s.waitFor (kind != 4 || s.me.pend.all (fun o => !o.kind.writes || o.kind.isUnit)) done)

/-! ## Performing (R297, R298) -/

/-- R135, R298 case 1. Two accesses touch a common byte, or may: of another device this one knows no more than that both go there,
whatever window and key they name, and its requests are admitted there in issue order (R408). An access by a fabric address to this
device itself may touch any byte until its request is admitted (DEDUCED, log 100). -/
def PendOp.sameByte (x y : PendOp) : Bool :=
  match x.at_, y.at_ with
  | some a, some b => a.space == b.space && overlap a.off x.size b.off (b.off + y.size)
  | some _, none => y.own
  | none, some _ => x.own
  | none, none => x.dev == y.dev && decide (x.dev < 65536)

/-- The access is no fence. -/
def PendOp.isAccess (x : PendOp) : Bool := x.kind.reads || x.kind.writes

/-- R296. The agents of the package, and what reaches it from outside. -/
inductive Agent where
  | context (c : CtxId)
  /-- The engines of a core, acting for its control context. -/
  | engines (core : Nat)
  /-- The indirect copy engine, and a walker thread, of a cluster. -/
  | posts (cluster : Nat)
  | thread (cluster n : Nat)
  /-- A Ramble unit, two to a die, and a die's walker. -/
  | unit (n : Nat)
  | walker (die : Nat)
  /-- Inbound remote accesses, and those of the host link. -/
  | network
  | hostLink
  deriving DecidableEq, Repr

/-- The core, the cluster and the die of an agent, where it has one. -/
def Agent.core? : Agent → Option Nat
  | .context c => some c.core
  | .engines n => some n
  | _ => none
def Agent.cluster? : Agent → Option Nat
  | .posts n => some n
  | .thread n _ => some n
  | a => a.core?.map clusterOf
def Agent.die? : Agent → Option Nat
  | .unit n => some (n / 2)
  | .walker n => some n
  | a => a.cluster?.map (· / 10)

/-- R295, R406. An agent lies within a scope of a context. Scopes 5 to 7 reach the other devices of their sets, and all of this one. -/
def inScope (scope : BitVec 3) (c : CtxId) (b : Agent) : Bool :=
  let own := b == .context c || (c.slot == control && b == .engines c.core)
  match scope.toNat with
  | 0 => own
  | 1 => b.core? == some c.core
  | 2 => b.cluster? == some (clusterOf c.core)
  | 3 => b.die? == some (dieOf c.core)
  | _ => true

/-- R295, R298. An order at a scope is seen by an agent other than the context and its own engine operations: at every scope but .ctx
(observed_iff). As each access is performed for every agent at one moment (R297), the model keeps such an order towards them
all (DEDUCED, log 77). -/
def observed (scope : BitVec 3) : Bool := scope != 0

/-- R298 cases 1 to 4 and 6: Y, later in program order, is performed after X. -/
def PendOp.before (x y : PendOp) : Bool :=
  x.sameByte y || (x.kind.reads && y.kind.writes) || (x.acq && observed x.scope) || (y.rel && observed y.scope) ||
    (x.sc && y.sc && observed x.scope && observed y.scope)

/-- R298 case 5, R308. A fence between X and Y orders the pair. -/
def PendOp.fences (f x y : PendOp) : Bool :=
  match f.kind with
  | .fence k =>
    observed f.scope &&
      (match k.toNat with
        | 1 => x.kind.reads
        | 2 => y.kind.writes
        | 4 => true
        | _ => y.kind.writes || x.kind.reads)
  | _ => false

/-- R298. An access must wait for one of the earlier accesses. -/
def heldBack : List PendOp → PendOp → Bool
  | [], _ => false
  | x :: rest, y => (x.isAccess && (x.before y || rest.any (fun f => f.fences x y))) || heldBack rest y

/-- R298, R306. The `k`-th pending access of a context may be performed now; `swaps` says that, as a CAS, it would succeed. An earlier
CAS that waits may yet succeed. -/
def Ctx.mayPerform (c : Ctx) (k : Nat) (swaps : Bool) : Bool :=
  match c.pend.drop k with
  | [] => false
  | y :: _ => y.isAccess && !heldBack ((c.pend.take k).map (·.swapped)) (if swaps then y.swapped else y)

/-- R306. The `k`-th pending access of a context is a plain load that only the order of an earlier CAS holds back: it may be performed
ahead of that CAS, should it fail. -/
def Ctx.mayPrecede (c : Ctx) (k : Nat) : Bool :=
  match c.pend.drop k with
  | [] => false
  | y :: _ => y.early.isNone && !y.acq && (match y.kind with
      | .load _ _ => true
      | .loadCap _ _ => true
      | _ => false) && !heldBack (c.pend.take k) y

/-- Fences with nothing before them have no more to order. -/
def dropFences (l : List PendOp) : List PendOp := l.dropWhile (fun o => !o.isAccess)

/-- R100. The number under which a register of a bank is awaited: 32 more where it is now the shadow. -/
def Ctx.awaitKey (c : Ctx) (bank : Bool) (d : BitVec 5) : Nat := if bank = c.uia ∨ d.toNat < 24 then d.toNat else d.toNat + 32
/-- A register no longer awaits a result. -/
def Ctx.unawait (c : Ctx) (bank : Bool) (d : BitVec 5) : Ctx := { c with awaits := NSet.del c.awaits (c.awaitKey bank d) }

/-- R97. A context with its `k`-th pending access finished: the count falls when it was the last of its instruction, and its
register no longer awaits it. -/
def Ctx.finishOp (c : Ctx) (k : Nat) (op : PendOp) : Ctx :=
  let pend := c.pend.eraseIdx k
  let last := !(pend.any (fun o => o.isAccess && o.seq == op.seq))
  let c1 := { c with pend := dropFences pend }
  let c2 := if !last then c1 else if op.kind.reads then { c1 with cntLoad := c1.cntLoad - 1 }
    else { c1 with cntStore := c1.cntStore - 1 }
  c2.unawait op.bank op.kind.dest

/-- R100. A result delivered to a register of the bank in which its instruction named it. -/
def Ctx.deliver (c : Ctx) (bank : Bool) (d : BitVec 5) (r : Reg) : Ctx :=
  if bank = c.uia ∨ d.toNat < 24 then c.setReg d.toNat r
  else { c with shadow := SMap.set c.shadow d.toNat r }

/-- R100. A g result delivered in the bank its instruction named; the register no longer awaits it. -/
def Ctx.complete (c : Ctx) (bank : Bool) (d : BitVec 5) (r : Reg) : Ctx :=
  (c.deliver bank d r).unawait bank d

/-- R305. The operation of an AMO at a width of `n` bytes. -/
def amoApply (op : AmoOp) (n old b : Nat) : Nat :=
  let w := 8 * n
  let x := BitVec.ofNat w old
  let y := BitVec.ofNat w b
  (match op with
    | .add => x + y
    | .and => x &&& y
    | .or => x ||| y
    | .xor => x ^^^ y
    | .swap => y
    | .min => if x.slt y then x else y
    | .max => if x.slt y then y else x
    | .minu => if x.ult y then x else y
    | .maxu => if x.ult y then y else x).toNat

/-- R137. A loaded value, sign- or zero-extended. -/
def extend (n v : Nat) (signed : Bool) : Word := if signed then Int64.sextn (8 * n) (w64 v) else w64 v

/-- R137, R305 to R307. The effect of an access at its home: the state, and the value that its register receives. A load with an
acquire is an LDAQ, which clears the granule's tag. -/
def State.performAt (s : State) (l : Loc) (op : PendOp) : State × Reg :=
  let old := s.readAt l op.size
  match op.kind with
  | .load _ sgn =>
    (if op.acq then s.setMemory l.space ((s.memory l.space).setTag l.off false) else s, Reg.plain (extend op.size old sgn))
  | .loadCap _ lc => (s, Reg.loaded (BitVec.ofNat 128 old) (s.tagAt l && lc))
  | .store => (s.writeAt l op.size op.data.bits.toNat, Reg.zero)
  | .storeCap => (s.writeCapAt l op.data, Reg.zero)
  | .amo _ f => (s.writeAt l op.size (amoApply f op.size old (op.data.bits.toNat % 2 ^ (8 * op.size))), Reg.plain (w64 old))
  | .cas _ e =>
    (if old = e.toNat % 2 ^ (8 * op.size) then s.writeAt l op.size (op.data.bits.toNat % 2 ^ (8 * op.size)) else s,
      Reg.plain (w64 old))
  | .cas2 _ e lc =>
    (if old = e.bits.toNat ∧ s.tagAt l = e.tag then s.writeCapAt l op.data else s,
      Reg.loaded (BitVec.ofNat 128 old) (s.tagAt l && lc))
  | .reply _ => (s, op.data)
  | .unit _ _ => (s, Reg.zero)
  | .ack => (s, Reg.zero)
  | .fence _ => (s, Reg.zero)

/-- R389. A write to a sealed page is refused at the home. -/
def State.sealedAt (s : State) (l : Loc) : Bool := l.space == .main && NSet.has s.sealedPages (l.off / 65536)

/-- R416. A refused store of an STMC, noted with its member. -/
def Arrival.refused (a : Arrival) (op : PendOp) (cause : BitVec 8) : Option Arrival :=
  match a, op.home with
  | .stmc seq devs failed, .remote addr _ =>
    if seq = op.seq then (devs.idxOf? (bits addr 59 44)).map (fun i => .stmc seq devs (failed ++ [(i, cause)])) else none
  | _, _ => none

/-- R136. TRAPPROG of a refusal: the form 0b101 with the head of the refused instruction. -/
def refusalProg (head : Word) : Word := w64 (5 * 2 ^ 61 + head.toNat % 2 ^ 55)

/-- R136, R416. A refusal of an issued access: it is not performed, its register is no longer awaited, and a deferred trap becomes
pending, or, for a store of an STMC, the member is noted. -/
def Ctx.refuse (x : Ctx) (k : Nat) (op : PendOp) (cause : BitVec 8) (addr : Word) : Ctx :=
  let y := x.finishOp k op
  if x.arrivals.any (fun p => p.1 == op.head && (p.2.refused op cause).isSome) then
    { y with arrivals := x.arrivals.map (fun p => (p.1, if p.1 == op.head then (p.2.refused op cause).getD p.2 else p.2)) }
  else
    { y with deferred := y.deferred ++ [⟨.remote, op.seq, ⟨cause, 0, addr, refusalProg op.head⟩⟩] }

/-- R136. A refusal of an access that a context has issued. -/
def State.refuse (s : State) (c : CtxId) (k : Nat) (op : PendOp) (cause : BitVec 8) (addr : Word) : State :=
  s.modCtx c (fun x => x.refuse k op cause addr)

/-- R136. The value of a reply from another device for the register of an access; its tag is clear. -/
def PendOp.replyReg (op : PendOp) (reply : BitVec 128) : Reg :=
  match op.kind with
  | .loadCap _ _ => ⟨reply, false⟩
  | .cas2 _ _ _ => ⟨reply, false⟩
  | .load _ sgn => Reg.plain (extend op.size (reply.toNat % 2 ^ (8 * op.size)) sgn)
  | _ => Reg.plain (w64 (reply.toNat % 2 ^ (8 * op.size)))
/-- R97. A context whose `k`-th pending access, one to another device, is answered. -/
def Ctx.answer (x : Ctx) (k : Nat) (op : PendOp) (reply : BitVec 128) : Ctx :=
  (x.finishOp k op).deliver op.bank op.kind.dest (op.replyReg reply)

/-- R306. A CAS or CAS2 at a place would succeed now. -/
def State.swapsAt (s : State) (l : Loc) (op : PendOp) : Bool :=
  match op.kind with
  | .cas _ e => s.readAt l op.size == e.toNat % 2 ^ (8 * op.size)
  | .cas2 _ e _ => s.readAt l op.size == e.bits.toNat && s.tagAt l == e.tag
  | _ => true

/-- R306. A pending access would succeed as a CAS; of one to another device the model takes it that it will. -/
def State.swaps (s : State) (op : PendOp) : Bool :=
  match op.home with
  | .local l => s.swapsAt l op
  | .remote _ _ => true

/-- R306. A CAS or CAS2 has succeeded: what later reads took ahead of it does not hold, and they are performed again. -/
def Ctx.dropEarly (x : Ctx) (swapped : Bool) : Ctx :=
  if swapped then { x with pend := x.pend.map (fun o => { o with early := none }) } else x

/-- R184. A read meets a mark when it is performed: one that the granule took after the access had issued. The trap of the instruction
can then be taken at a group boundary alone, and has the form of a refusal (DEDUCED, log 71). -/
def State.meetsMark (s : State) (l : Loc) (op : PendOp) : Bool :=
  op.kind.reads && op.size != 0 && op.early.isNone && s.poisonAt l op.size

/-- R97. The `k`-th pending access of a context is performed; `reply` is what another device answers. -/
def State.performNow (s : State) (c : CtxId) (k : Nat) (reply : BitVec 128) : State :=
  match (s.ctx c).pend.drop k with
  | [] => s
  | op :: _ =>
      match op.home with
      | .local l =>
        if op.size != 0 && s.homeFenced l then s.refuse c k op Cause.linkDown (w64 l.va)
        else if op.kind.writes && op.size != 0 && s.sealedAt l then s.refuse c k op Cause.sealedWrite (w64 l.va)
        else if s.meetsMark l op then s.refuse c k op Cause.poisonConsumed (w64 l.va)
        else
          let (s1, r) := s.performAt l op
          s1.modCtx c (fun x => ((x.finishOp k op).dropEarly (op.swap != 0 && s.swapsAt l op)).deliver op.bank op.kind.dest
            (op.early.getD r))
      | .remote _ _ =>
        s.modCtx c (fun x => (x.answer k op reply).dropEarly (op.swap != 0))

/-- R97, R298. The `k`-th pending access of a context is performed, when it may be; one to another device once its request has
left. -/
def State.perform (s : State) (c : CtxId) (k : Nat) (reply : BitVec 128) : State :=
  let op? := ((s.ctx c).pend.drop k).head?
  if (s.ctx c).mayPerform k (op?.all s.swaps) && op?.all (s.sentOut (s.ctx c).uid) then s.performNow c k reply else s

/-- R306. A load of a context takes its value at its home ahead of an earlier CAS. -/
def State.precede (s : State) (c : CtxId) (k : Nat) : State :=
  match (s.ctx c).pend.drop k with
  | [] => s
  | op :: _ =>
    match op.home with
    | .local l =>
      if !(s.ctx c).mayPrecede k || s.homeFenced l || s.meetsMark l op then s
      else s.modCtx c (fun x => { x with pend := x.pend.modify k (fun o => { o with early := some (s.performAt l op).2 }) })
    | .remote _ _ => s

/-! ## Load and store multiple (R140, R141) -/

/-- R141. The resume count of an LDM or STM: honoured in the first group after ERET, at TRAPPC, with TRAPPROG[12] set. -/
def Ctx.resumeCount (c : Ctx) : Nat :=
  if c.resume = .active ∧ c.pc = c.trapPc ∧ c.trapProg.getLsbD 12 then bits c.trapProg 11 6 else 0

/-- R140. The elements from `k` on, `fuel` of them: the state, the accesses issued, and the trap that ended them, if any. -/
def State.multiple (s : State) (load : Bool) (f a : BitVec 5) (addr : Word) :
    Nat → Nat → List PendOp → State × List PendOp × Option Trap
  | 0, _, ops => (s, ops, none)
  | fuel + 1, k, ops =>
    let at_ := addr + w64 (8 * k)
    match s.locate at_ 8 (if load then .load else .store) with
    | .error e => (s.touched (s.who s.cur) at_ (if load then .load else .store), ops, some (e.trap s.me.pc (accessProg a (!load) k true)))
    | .ok (s1, p) =>
      let r : BitVec 5 := f + BitVec.ofNat 5 k
      let op := s.pendOp (if load then .load r false else .store) p 8 (if load then Reg.zero else s.g r)
      s1.multiple load f a addr fuel (k + 1) (ops ++ [op])

/-- R141. The elements before the one that traps are transferred at the trap: registers loaded, or stores performed. -/
def State.transferNow (s : State) (ops : List PendOp) : State :=
  let k := s.me.pend.length
  ops.foldl (fun t _ => t.performNow t.cur k 0) (s.modMe (·.issue ops))

/-- R140, R141. LDM and STM. Where an element traps and those before it must still wait for earlier accesses, the instruction waits. -/
def State.moveMultiple (s : State) (load : Bool) (f l a : BitVec 5) (disp : BitVec 16) : Out :=
  let n := l.toNat - f.toNat + 1
  let addr := s.dispAddr a disp
  let legal := decide (f ≠ 0) && decide (f.toNat ≤ l.toNat) &&
    !(load && decide (f.toNat ≤ a.toNat) && decide (a.toNat ≤ l.toNat))
  let use : CapUse := if load then .load else .store
  let checks : Chk Unit := do
    s.needOperand legal (w64 (f.toNat + l.toNat * 2 ^ 8))
    s.check (do
      checkCap (s.g a) s.me.dom s.me.priv use addr (8 * n) 8
      ensure (!isFabric addr) Cause.illegalOperand addr) (accessProg a (!load) 0 false)
  match checks with
  | .error t => .next (s.takeTrap s.cur t)
  | .ok () =>
    let k0 := s.me.resumeCount
    let (s1, ops, t) := s.multiple load f a addr (n - k0) k0 []
    match t with
    | none => .next (s1.modMe (·.issue ops)).advance
    | some t => .next (if ops.any (fun o => heldBack (s.me.pend.map (·.swapped)) o) then s.hold
        else (s1.transferNow ops).takeTrap s.cur t)

/-- R140. LDM. -/
def execLdm (f l a : BitVec 5) (disp : BitVec 16) (s : State) : Out := s.moveMultiple true f l a disp
/-- R140. STM. -/
def execStm (f l a : BitVec 5) (disp : BitVec 16) (s : State) : Out := s.moveMultiple false f l a disp

/-! ## Replies and completion -/

/-- The place of an operation that reaches no memory. -/
def nowhere : Loc := ⟨.main, 0, 0⟩

/-- R315, R361. An instruction that another unit has applied: it counts in LOAD until its reply is written. -/
def State.awaitReply (s : State) (d : BitVec 5) (w : Word) : State :=
  (s.modMe (·.issue [s.pendOp (.reply d) (.local nowhere) 0 (Reg.plain w)])).advance
/-- R315. The same without a reply: it counts in STORE. -/
def State.awaitAck (s : State) : State := (s.modMe (·.issue [s.pendOp .ack (.local nowhere) 0 Reg.zero])).advance

/-- The `k`-th pending access of a context reads; a Ramble unit's operation completes by the unit. -/
def State.pendReads (s : State) (c : CtxId) (k : Nat) : Bool :=
  ((s.ctx c).pend.drop k).head?.any (fun o => o.kind.reads && !o.kind.isUnit)
/-- The `k`-th pending access of a context writes and reads nothing. -/
def State.pendStores (s : State) (c : CtxId) (k : Nat) : Bool :=
  ((s.ctx c).pend.drop k).head?.any (fun o => o.kind.writes && !o.kind.reads)

/-- R97, R306. A load's value or reply is written to its register; a load that only an earlier CAS holds back takes its value. -/
def execLoadComplete (c : CtxId) (k : Nat) (reply : BitVec 128) (s : State) : Out :=
  .next (if !s.pendReads c k then s
    else if (s.ctx c).mayPrecede k && !(s.ctx c).mayPerform k true then s.precede c k
    else s.perform c k reply)
/-- R97. A store is performed at its home. -/
def execStorePerformed (c : CtxId) (k : Nat) (s : State) : Out :=
  .next (if s.pendStores c k then s.perform c k 0 else s)
/-- R290. The die walker translates an address for a context, setting A and D; a walk that fails changes nothing. -/
def execTranslationWalk (c : CtxId) (va : Word) (kind : Access) (s : State) : Out :=
  .next (match s.translate (s.who c) va kind with
    | .ok (s1, _, _) => s1
    | .error _ => s)

end Sys2Proof.Machine
end

