-- ==== Sys2Proof/Machine/Shapes.lean ====
section
/-!
DEFINITION. Object records (R230 to R233): the read of an entry of the object table through the core's shape-record cache,
SHAPE records and their form, the walk of a record (R148), and the bytes that elements occupy (R14).
-/

namespace Sys2Proof.Machine

/-! ## Bytes of elements (R14) -/

/-- The bytes that hold the bits of element `n` of an array: the offset of the first from the base, and their number. -/
def Elem.byteSpan (t : Elem) (n : Int) : Int × Nat :=
  let p := t.place n
  (p.byte + (p.bit / 8 : Nat), (p.bit + p.width - 1) / 8 - p.bit / 8 + 1)

/-! ## Object records (R230, R233) -/

/-- R230. The address of an entry of the object table. -/
def Core.recordAddr (c : Core) (idx : Nat) : Word := c.otbase + w64 (64 * idx)

/-- R230. On whose behalf a context's records are read: in its domain and XLBASE, with privilege 1. -/
def State.recordReader (s : State) (c : CtxId) : Who := { s.who c with priv := true }

/-- R230. An object record read from memory. -/
def State.fetchRecord (s : State) (who : Who) (idx : Nat) : Res (State × BitVec 512) := do
  let a := (s.core who.core).recordAddr idx
  match ← decodeRegion who.core a with
  | .translated =>
    let (s1, l, _) ← s.translate who a .load
    ensure (!s1.homeFenced l) Cause.linkDown a
    .ok (s1, BitVec.ofNat 512 (s1.readAt l 64))
  | _ => .error ⟨Cause.pageFault, a⟩

/-- R233. The record cache with an entry filled: of 64 entries, a free choice gives way. -/
def Core.fillRecord (c : Core) (dom idx : Nat) (r : BitVec 512) (pick : Nat) : Core :=
  let kept := if c.recCache.length < 64 then c.recCache else c.recCache.eraseIdx (pick % 64)
  { c with recCache := kept ++ [(c.otbase.toNat, idx, dom, r)] }

/-- R233. The record's cached copy when one is present, else its bytes, which fill the cache. -/
def State.record (s : State) (who : Who) (idx : Nat) : Res (State × BitVec 512) :=
  let c := s.core who.core
  match c.recCache.find? (fun e => e.1 == c.otbase.toNat && e.2.1 == idx && e.2.2.1 == who.dom.toNat) with
  | some e => .ok (s, e.2.2.2)
  | none => do
    let (s1, r) ← s.fetchRecord who idx
    .ok (s1.modCore who.core (fun k => k.fillRecord who.dom.toNat idx r (Config.freeEvict s.freeN)), r)

/-- R230, R238 check 1. The record of an index below OTLIMIT.COUNT; ILLEGAL_OPERAND with the index otherwise. -/
def State.recordOf (s : State) (who : Who) (idx : Nat) : Res (State × BitVec 512) := do
  ensure (decide (idx < (s.core who.core).otlimit)) Cause.illegalOperand (w64 idx)
  s.record who idx

/-- R233, R291. The state that the read of a record leaves, whatever check fails after it: A of its page set, the record cached. -/
def State.recordRead (s : State) (who : Who) (idx : Nat) : State :=
  match s.recordOf who idx with
  | .ok (s1, _) => s1
  | .error _ => if idx < (s.core who.core).otlimit then s.touched who ((s.core who.core).recordAddr idx) .load else s

/-- Bits [hi:lo] of a record. -/
def recBits (r : BitVec 512) (lo n : Nat) : Nat := r.toNat / 2 ^ lo % 2 ^ n
/-- R231. The KIND of a record. -/
def recKind (r : BitVec 512) : Nat := recBits r 0 8

/-! ## SHAPE records (R231, R232) -/

/-- R231. The element format of a record. -/
def ShapeRec.elem (r : ShapeRec) : Elem :=
  if r.matrix then ((elemOfMatrix r.fmt).map (·.1)).getD .int8 else (elemOfTag r.fmt).getD .int8

/-- R232. The format code is valid for FS. -/
def ShapeRec.fmtValid (r : ShapeRec) : Bool :=
  if r.matrix then (elemOfMatrix r.fmt).isSome else (elemOfTag r.fmt).isSome

/-- R146. The element count: the product of the extents. -/
def ShapeRec.count (r : ShapeRec) : Nat := (r.dims.map (·.1)).foldl (· * ·) 1

/-- The least and greatest element offsets of a walk. -/
def ShapeRec.range (r : ShapeRec) : Int × Int :=
  r.dims.foldl (fun p d =>
    let t : Int := ((d.1 : Int) - 1) * d.2
    (p.1 + min 0 t, p.2 + max 0 t)) (0, 0)

/-- R231. A dimension of a record's bytes: extent and stride. -/
def recDim (r : BitVec 512) (d : Nat) : Nat × Int :=
  (recBits r (128 + 64 * d) 32, (BitVec.ofNat 32 (recBits r (160 + 64 * d) 32)).toInt)

/-- R231. The fields of a record's bytes. -/
def shapeOf (r : BitVec 512) : ShapeRec :=
  { fmt := recBits r 8 5, matrix := r.getLsbD 13, rd := r.getLsbD 14, wr := r.getLsbD 15
    lo := (BitVec.ofNat 32 (recBits r 64 32)).toInt, hi := (BitVec.ofNat 32 (recBits r 96 32)).toInt
    dims := (List.range (recBits r 16 3 + 1)).map (recDim r) }

/-- R232. The record is a well-formed SHAPE record. -/
def shapeWellFormed (r : BitVec 512) : Bool :=
  let sh := shapeOf r
  let nd := recBits r 16 3
  let (lowElem, highElem) := sh.range
  let (low, _) := sh.elem.byteSpan lowElem
  let (high, n) := sh.elem.byteSpan highElem
  recKind r == 1 && recBits r 19 45 == 0 && decide (nd ≤ 5) && sh.fmtValid &&
    ((List.range 6).all (fun d =>
      if d ≤ nd then decide (1 ≤ (recDim r d).1) && decide ((recDim r d).1 ≤ 2 ^ 24) else recDim r d == (1, 0))) &&
    decide (sh.count ≤ 2 ^ 32 - 1) && decide (sh.lo < sh.hi) && decide (sh.lo ≤ low) && decide (high + n ≤ sh.hi)

/-- R232. The SHAPE record of an index: ILLEGAL_OPERAND with the index where it is none or not well formed. -/
def State.shape (s : State) (who : Who) (idx : Nat) : Res (State × ShapeRec) := do
  let (s1, r) ← s.recordOf who idx
  ensure (shapeWellFormed r) Cause.illegalOperand (w64 idx)
  .ok (s1, shapeOf r)

/-- R148. The element offset that an index vector names. -/
def elementAt : List Nat → List (Nat × Int) → Int
  | i :: is, d :: ds => i * d.2 + elementAt is ds
  | _, _ => 0

/-- R148, R232. The four dimensions that a stream walks: those of its record, then extent 1. -/
def ShapeRec.walk (r : ShapeRec) : List (Nat × Int) := r.dims ++ List.replicate (4 - r.dims.length) (1, 0)

/-- R148. The next index vector, dimension 0 innermost; the last dimension does not wrap. -/
def stepIndex : List Nat → List (Nat × Int) → List Nat
  | [], _ => []
  | i :: is, [] => (i + 1) :: is
  | [i], _ :: _ => [i + 1]
  | i :: j :: is, (n, _) :: ds => if i + 1 = n then 0 :: stepIndex (j :: is) ds else (i + 1) :: j :: is

/-- The index vector of walk position `p`; what is left goes to the last dimension. -/
def indexAt (p : Nat) : List (Nat × Int) → List Nat
  | [] => []
  | [_] => [p]
  | (n, _) :: ds => p % n :: indexAt (p / n) ds

/-- The element offset of walk position `p`. -/
def ShapeRec.element (r : ShapeRec) (p : Nat) : Int := elementAt (indexAt p r.dims) r.dims

/-- R232. The byte span of a record bound at an address, on unbounded integers. -/
def ShapeRec.span (r : ShapeRec) (addr : Word) : Int × Int := (addr.toNat + r.lo, addr.toNat + r.hi)

/-- R233. The context's shape-record cache is emptied. -/
def Core.dropRecords (c : Core) : Core := { c with recCache := [] }

end Sys2Proof.Machine
end

