-- ==== Sys2Proof/Machine/Transcendental.lean ====
section
/-!
DEFINITION. The transcendental functions of R172, rounded once from the exact value. The value is enclosed on integers scaled
by 2^512 with an error far below any distance to a rounding boundary; the exact cases are told apart beforehand, so
everything that reaches the enclosure is irrational and inexact.
-/

namespace Sys2Proof.Machine
namespace Transc

/-- The scale of the fixed-point numbers below. -/
def prec : Nat := 512
/-- One, scaled. -/
def one : Int := 2 ^ prec

/-- The product of two scaled numbers. -/
def mul (a b : Int) : Int := a * b / one

/-- Terms of z + z^3/3 + z^5/5 + ..., `fuel` of them, `p` being the current power and `z2` the square. -/
def atanhTerms (z2 : Int) : Nat → Int → Nat → Int
  | 0, _, _ => 0
  | fuel + 1, p, k => p / k + atanhTerms z2 fuel (mul p z2) (k + 2)

/-- atanh z for a scaled z of magnitude at most 1/3. -/
def atanh (z : Int) : Int := atanhTerms (mul z z) 180 z 1

/-- ln 2 = 2 atanh(1/3). -/
def ln2 : Int := 2 * atanh (one / 3)

/-- Terms of 1 + y + y^2/2 + ..., `t` being the current term. -/
def expTerms (y : Int) : Nat → Int → Nat → Int
  | 0, _, _ => 0
  | fuel + 1, t, k => t + expTerms y fuel (mul t y / k) (k + 1)

/-- e^y for a scaled y of magnitude at most 1. -/
def exp (y : Int) : Int := expTerms y 120 one 1

/-- A scaled positive result as a magnitude known from below: its leading part, exponent, and that something lies below. -/
def enclose (r : Int) : Nat × Int × Bool := (((r - 2 ^ 64) / 2 ^ 200).toNat, 200 - (prec : Int), true)

/-- A dyadic number, scaled; exact when its lowest bit lies above 2^-512. -/
def scale (m : Nat) (e : Int) : Int := if 0 ≤ e + prec then m * 2 ^ (e + prec).toNat else m / 2 ^ (-(e + prec)).toNat

end Transc

/-- `m * 2^e` lies below `2^k`. -/
def belowPow (m : Nat) (e k : Int) : Bool := gtScaled 1 k m e

/-- R172. 2^a for a in [-1, 1]. -/
def Fmt.exp2 (f : Fmt) (mode : Mode) (a : Val) : Nat × Flags :=
  match a with
  | .nan s => f.nanResult s
  | .inf _ => f.invalid
  | .fin n m e =>
    if m = 0 then f.round mode false false 1 0 false
    else if (Val.fin false 1 0).lt (.fin false m e) then f.invalid
    else if (Val.fin false 1 0).eq (.fin false m e) then f.round mode false false 1 (if n then -1 else 1) false
    else if belowPow m e (-80) then
      if n then f.round mode false false (2 ^ 70 - 1) (-70) true else f.round mode false false (2 ^ 70) (-70) true
    else
      let y := Transc.mul (Transc.scale m e) Transc.ln2
      let (q, k, st) := Transc.enclose (Transc.exp (if n then -y else y))
      f.round mode false false q k st

/-- R172. log2 a for a > 0. -/
def Fmt.log2 (f : Fmt) (mode : Mode) (a : Val) : Nat × Flags :=
  match a with
  | .nan s => f.nanResult s
  | .inf n => if n then f.invalid else f.infResult false false
  | .fin n m e =>
    if m = 0 then (if f.inf then f.infBits true else f.maxBits true, dz)
    else if n then f.invalid
    else
      let l := bitLen m - 1
      let k : Int := e + l
      if m = 2 ^ l then f.round mode false (decide (k < 0)) k.natAbs 0 false
      else
        let y := Transc.scale m (-(l : Int))
        let z := (y - Transc.one) * Transc.one / (y + Transc.one)
        let v := k * Transc.one + 2 * Transc.atanh z * Transc.one / Transc.ln2
        let (q, ex, st) := Transc.enclose v.natAbs
        f.round mode false (decide (v < 0)) q ex st

/-- R172. tanh a. -/
def Fmt.tanh (f : Fmt) (mode : Mode) (a : Val) : Nat × Flags :=
  match a with
  | .nan s => f.nanResult s
  | .inf n => f.round mode false n 1 0 false
  | .fin n m e =>
    if m = 0 then (f.put n 0, 0)
    else if belowPow m e (-80) then f.round mode false n (m * 2 ^ 80 - 1) (e - 80) true
    else if !belowPow m e 6 then f.round mode false n (2 ^ 80 - 1) (-80) true
    else
      let y := 2 * Transc.scale m e
      let k := y / Transc.ln2
      let ex := Transc.exp (y - k * Transc.ln2) * 2 ^ k.toNat
      let (q, kk, st) := Transc.enclose ((ex - Transc.one) * Transc.one / (ex + Transc.one))
      f.round mode false n q kk st

end Sys2Proof.Machine
end

