-- ==== Sys2Proof/Machine/VectorBase.lean ====
section
/-!
DEFINITION. The vector unit's registers, masks and streams (R142 to R149): lanes in the layout of R14, operands read from
registers or streams, destinations written by R145, and the checks of stream accesses.
-/

namespace Sys2Proof.Machine

/-! ## Lanes (R143) -/

/-- R143. Lanes of a tag; EMPTY has none. -/
def lanes (tag : Nat) : Nat :=
  match elemOfTag tag with
  | some t => match t.width with
    | 32 => 64
    | 16 => 128
    | 8 => 256
    | 6 => 320
    | _ => 512
  | none => 0

/-- The element format of a tag. -/
def tagElem (tag : Nat) : Elem := (elemOfTag tag).getD .int8

/-- R143. Tags of the float-arithmetic class. -/
def floatArith (t : Nat) : Bool := t == 1 || t == 2 || t == 3 || t == 15
/-- R143. Tags of the integer-arithmetic class. -/
def intArith (t : Nat) : Bool := t == 9 || t == 10 || t == 11 || t == 12
/-- R160. Arithmetic tags. -/
def arith (t : Nat) : Bool := floatArith t || intArith t
/-- Any tag but EMPTY. -/
def anyTag (t : Nat) : Bool := t != 0 && decide (t < 16)
/-- Tags of floating-point formats. -/
def floatTag (t : Nat) : Bool := anyTag t && (tagElem t).isFloat
/-- Tags of integer formats. -/
def intTag (t : Nat) : Bool := anyTag t && !(tagElem t).isFloat

/-- The bit of a register at which lane `i` of a tag begins (R14, R143). -/
def laneBit (tag i : Nat) : Nat := let p := (tagElem tag).place i; 8 * p.byte.toNat + p.bit

/-- R143. The lanes of a register's bits under a tag. -/
def splitLanes (tag : Nat) (b : Nat) : List Nat :=
  (List.range (lanes tag)).map (fun i => b / 2 ^ laneBit tag i % 2 ^ (tagElem tag).width)

/-- The bits of lanes from lane `i` on. -/
def joinFrom (tag : Nat) : List Nat → Nat → Nat
  | [], _ => 0
  | x :: xs, i => ((tagElem tag).pad x) * 2 ^ laneBit tag i + joinFrom tag xs (i + 1)
/-- R143. A register's bits from its lanes, padding zero. -/
def joinLanes (tag : Nat) (l : List Nat) : BitVec 2048 := BitVec.ofNat 2048 (joinFrom tag l 0)

/-- A vector register. -/
def Core.vreg (c : Core) (n : Nat) : VReg := SMap.getD c.v n VReg.empty
/-- A core with a vector register written. -/
def Core.setV (c : Core) (n : Nat) (r : VReg) : Core := { c with v := SMap.set c.v n r }
/-- A stream. -/
def Core.stream (c : Core) (n : Nat) : Stream := SMap.getD c.streams n Stream.unbound
/-- A core with a stream replaced. -/
def Core.setStream (c : Core) (n : Nat) (st : Stream) : Core := { c with streams := SMap.set c.streams n st }
/-- R144. A mask; q0 reads as all ones. -/
def Core.mask (c : Core) (n : Nat) : BitVec 512 := if n = 0 then BitVec.allOnes 512 else SMap.getD c.q n 0
/-- R144. A core with a mask written; q0 is never written. -/
def Core.setMask (c : Core) (n : Nat) (b : BitVec 512) : Core := if n = 0 then c else { c with q := SMap.set c.q n b }

/-- R158. The tag that an operand code shows: a register's, or the format of a stream's record. -/
def Core.tagOf (c : Core) (code : Nat) : Nat :=
  if code < 16 then (c.vreg code).tag
  else
    let st := c.stream (code - 16)
    if st.state = .unbound then 0 else st.shape.fmt

/-! ## Streams (R148) -/

/-- R148. The element that a stream's index vector names. -/
def Stream.element (st : Stream) : Int := elementAt st.idx st.shape.walk

/-- R148. The elements of the next `n` lanes, and the stream after them. -/
def takeSlice : Nat → Stream → List (Option Int) × Stream
  | 0, st => ([], st)
  | n + 1, st =>
    if st.pos < st.count then
      let (l, st') := takeSlice n { st with pos := st.pos + 1, idx := stepIndex st.idx st.shape.walk }
      (some st.element :: l, st')
    else
      let (l, st') := takeSlice n st
      (none :: l, st')

/-- A failed check at execution: cause, TRAPVAL, and the operand code of TRAPPROG[4:0] (R152). -/
structure VFail where
  cause : BitVec 8
  val : Word
  code : Nat
  deriving DecidableEq, Repr

/-- The result of a vector instruction's execution. -/
abbrev VRes (α : Type) := Except VFail α

/-- Fail at execution unless a condition holds. -/
def vneed (b : Bool) (cause : BitVec 8) (val : Word) (code : Nat) : VRes Unit :=
  if b then .ok () else .error ⟨cause, val, code⟩

/-- R169. The place of `n` bytes of the own scratchpad or the own cluster memory, by address; none outside both. -/
def ownPlace (core : Nat) (a : Int) (n : Nat) : Option Loc :=
  let s : Int := a - 0x7E00 * 2 ^ 48
  let m : Int := a - 0x7D00 * 2 ^ 48
  if 0 ≤ s ∧ s + n ≤ Config.spadBytes then some ⟨.spad core, s.toNat, a.toNat⟩
  else if 0 ≤ m ∧ m + n ≤ Config.cmemBytes then some ⟨.cmem (clusterOf core), m.toNat, a.toNat⟩
  else none

/-- The place of the bytes of element `n` of an array at an address, and their number. -/
def elemPlace (core : Nat) (base : Word) (t : Elem) (n : Int) : Option (Loc × Nat) :=
  let (b, k) := t.byteSpan n
  (ownPlace core (base.toNat + b) k).map (fun l => (l, k))

/-- The lowest of the bytes of `n` from an address on that a lock refuses. -/
def State.firstLocked (s : State) (core : Nat) (l : Loc) (n : Nat) (write : Bool) : Option Nat :=
  (List.range n).find? (fun k => s.locked core ⟨l.space, l.off + k, l.va + k⟩ 1 write)

/-- The lowest of the bytes of `n` from an address on that lies in a marked granule. -/
def State.firstPoisoned (s : State) (l : Loc) (n : Nat) : Option Nat :=
  (List.range n).find? (fun k => s.poisonAt ⟨l.space, l.off + k, l.va + k⟩ 1)

/-- The failing byte addresses of spans under a test of one span. -/
def failingBytes (test : Loc → Nat → Option Nat) (spans : List (Loc × Nat)) : List Nat :=
  spans.filterMap (fun p => (test p.1 p.2).map (fun k => p.1.va + k))

/-- The least of a list of numbers. -/
def least : List Nat → Option Nat
  | [] => none
  | x :: xs => match least xs with
    | none => some x
    | some y => some (min x y)

/-- Spans pass a test: the lowest failing byte is the TRAPVAL otherwise. -/
def spansPass (test : Loc → Nat → Option Nat) (cause : BitVec 8) (spans : List (Loc × Nat)) (code : Nat) : VRes Unit :=
  match least (failingBytes test spans) with
  | some a => .error ⟨cause, w64 a, code⟩
  | none => .ok ()

/-- R149. The spans of an access by the vector unit meet no lock. -/
def State.checkLocks (s : State) (core : Nat) (spans : List (Loc × Nat)) (write : Bool) (code : Nat) : VRes Unit :=
  spansPass (fun l n => s.firstLocked core l n write) Cause.rangeLocked spans code

/-- R152, R184. The spans that the vector unit reads meet no poison. No rule names the TRAPVAL: it is the lowest marked byte,
as R149 has it for a lock (DESIGN CHOICE, log 82). -/
def State.checkMarks (s : State) (spans : List (Loc × Nat)) (code : Nat) : VRes Unit :=
  spansPass s.firstPoisoned Cause.poisonConsumed spans code

/-- R14. The bytes that a write of element `n` touches: those of its bits, and up to the padding of its word for a 6-bit element. -/
def Elem.writeSpan (t : Elem) (n : Int) : Int × Nat :=
  let p := t.place n
  if p.width = 6 then (p.byte + (p.bit / 8 : Nat), 4 - p.bit / 8) else t.byteSpan n

/-- R14. The bytes that a write of an element touches with its value in them: padding bits become zero. -/
def Elem.replace (t : Elem) (n : Int) (old v : Nat) : Nat :=
  let p := t.place n
  let b := p.bit % 8
  let cur := old / 2 ^ b % 2 ^ p.width
  let r := old - cur * 2 ^ b + t.pad v * 2 ^ b
  if p.width = 6 then r % 2 ^ (30 - 8 * (p.bit / 8)) else r

/-- R14, R184. The bits that a write of element `n` of an array writes: its own, and the padding of a 6-bit word. -/
def elemBits (core : Nat) (base : Word) (t : Elem) (n : Int) : List BitSpan :=
  match elemPlace core base t n with
  | none => []
  | some (l, _) =>
    let p := t.place n
    ⟨l, p.bit % 8, p.width⟩ :: (if p.width = 6 then [⟨l, 30 - 8 * (p.bit / 8), 2⟩] else [])

/-- The bits of an element whose own bytes lie at a place. -/
def State.readElem (s : State) (l : Loc) (t : Elem) (n : Int) : Nat :=
  let p := t.place n
  s.readAt l (t.byteSpan n).2 / 2 ^ (p.bit % 8) % 2 ^ p.width

/-- R14, R169. An element whose own bytes lie at a place written: only its own bits change, and bits [31:30] of a 6-bit word become
zero. -/
def State.writeElem (s : State) (l : Loc) (t : Elem) (n : Int) (v : Nat) : State :=
  let k := (t.writeSpan n).2
  s.writeAt l k (t.replace n (s.readAt l k) v)

/-- A slice of a stream operand: its elements by lane and the stream after it. -/
structure Taken where
  code : Nat
  elems : List (Option Int)
  after : Stream
  deriving DecidableEq, Repr

/-- The places of the valid elements of a slice. -/
def Stream.spans (st : Stream) (core : Nat) (elems : List (Option Int)) : List (Loc × Nat) :=
  elems.filterMap (fun e => e.bind (elemPlace core st.cap.word st.shape.elem))

/-- R148, R149. The next slice of the stream that an operand code names, its locks checked. -/
def State.nextSlice (s : State) (core code : Nat) (write : Bool) : VRes Taken := do
  let st := (s.core core).stream (code - 16)
  vneed (st.state != .ended) Cause.shapeBounds (w64 code) code
  let (elems, after) := takeSlice (lanes st.shape.fmt) st
  s.checkLocks core (st.spans core elems) write code
  .ok ⟨code, elems, if after.pos = after.count then { after with state := .ended } else after⟩

/-- The slices that an instruction's operands take, in the order given; the flag says which are written. -/
def State.slices (s : State) (core : Nat) : List (Nat × Bool) → VRes (List Taken)
  | [] => .ok []
  | (code, w) :: rest =>
    if code < 16 then s.slices core rest
    else do
      let x ← s.nextSlice core code w
      let xs ← s.slices core rest
      .ok (x :: xs)

/-- The slice of a code. -/
def sliceOf (sl : List Taken) (code : Nat) : List (Option Int) :=
  match sl.find? (fun x => x.code == code) with
  | some x => x.elems
  | none => []

/-- R14, R148. The lanes of a source operand, padding ignored; invalid lanes read as zero bits. -/
def State.source (s : State) (core : Nat) (sl : List Taken) (code : Nat) : List Nat :=
  let c := s.core core
  if code < 16 then splitLanes (c.vreg code).tag (c.vreg code).bits.toNat
  else
    let st := c.stream (code - 16)
    let t := st.shape.elem
    (sliceOf sl code).map (fun e => match e with
      | none => 0
      | some n =>
        match elemPlace core st.cap.word t n with
        | some (l, _) => t.pad (s.readElem l t n)
        | none => 0)

/-- R144, R148. The valid lanes of an operand: all of a register's. -/
def validLanes (sl : List Taken) (code n : Nat) : List Bool :=
  if code < 16 then List.replicate n true else (sliceOf sl code).map Option.isSome

/-- Bit `i` of a mask for each of `n` lanes. -/
def maskLanes (q : BitVec 512) (n : Nat) : List Bool := (List.range n).map q.getLsbD

/-- R145. Lanes merged under the active ones. -/
def mergeLanes : List Bool → List Nat → List Nat → List Nat
  | a :: as, x :: xs, y :: ys => (if a then x else y) :: mergeLanes as xs ys
  | _, _, ys => ys

/-- R148. The elements of a stream destination written in its active lanes. -/
def State.writeSlice (s : State) (core : Nat) (st : Stream) : List (Option Int) → List Bool → List Nat → State
  | some n :: es, true :: as, x :: xs =>
    let t := st.shape.elem
    let s1 := match elemPlace core st.cap.word t n with
      | some (l, _) => s.writeElem l t n x
      | none => s
    s1.writeSlice core st es as xs
  | _ :: es, _ :: as, _ :: xs => s.writeSlice core st es as xs
  | _, _, _ => s

/-- R145. A destination written: a register merges under its old tag, a stream in its active lanes. -/
def State.writeDest (s : State) (core : Nat) (sl : List Taken) (code tag : Nat) (act : List Bool) (res : List Nat) :
    State :=
  if code < 16 then
    let old := (s.core core).vreg code
    let keep := if old.tag = tag then splitLanes tag old.bits.toNat else List.replicate (lanes tag) 0
    s.modCore core (fun c => c.setV code ⟨joinLanes tag (mergeLanes act res keep), tag⟩)
  else
    let st := (s.core core).stream (code - 16)
    let es := sliceOf sl code
    let written := (es.zip act).filterMap (fun p => if p.2 then p.1 else none)
    (s.writeSlice core st es act res).clearBits (written.flatMap (elemBits core st.cap.word st.shape.elem))

/-- R145, R148. Every stream that the instruction used moves past its slice. -/
def State.advanceStreams (s : State) (core : Nat) (sl : List Taken) : State :=
  sl.foldl (fun t x => t.modCore core (fun c => c.setStream (x.code - 16) x.after)) s

end Sys2Proof.Machine
end

