-- ==== Sys2Proof/Machine/MatrixBase.lean ====
section
/-!
DEFINITION. The matrix engine's state (R174 to R184): tile shapes and tile elements, the array's geometry and the implemented
combinations, accumulator rows, the block sum of R32, and the state that an instruction's checks at issue see (R185).
-/

namespace Sys2Proof.Machine

/-! ## Tile shapes (R175, R176) -/

/-- R175. The fields of a TSHAPE value. -/
structure TShape where
  rows : Nat
  cols : Nat
  sp : Nat
  fmt : Nat
  deriving DecidableEq, Repr

/-- R175. The fields of a TSHAPE word. -/
def tshapeOf (w : Word) : TShape := ⟨bits w 16 8, bits w 31 20, bits w 6 5, bits w 4 0⟩
/-- R175. The element format of a matrix format code, a ·S format as its base format. -/
def mxElem (fmt : Nat) : Elem := ((elemOfMatrix fmt).map (·.1)).getD .int8
/-- R29. The format is block-scaled. -/
def mxScaled (fmt : Nat) : Bool := ((elemOfMatrix fmt).map (·.2)).getD false
/-- R176. RowBytes of a format and a column count. -/
def rowBytes (fmt cols : Nat) : Nat := (mxElem fmt).arrayBytes cols
/-- R176. RowBytes of a shape. -/
def TShape.rowBytes (t : TShape) : Nat := Machine.rowBytes t.fmt t.cols
/-- R176. The shape is valid. -/
def TShape.valid (t : TShape) : Bool :=
  decide (1 ≤ t.rows) && decide (t.rows ≤ 256) && decide (1 ≤ t.cols) && decide (t.cols ≤ 2048) && decide (t.fmt ≤ 19) &&
    decide (t.rows * t.rowBytes ≤ 16384)
/-- R175. The N of a sparsity mode's N:24. -/
def sparseN (sp : Nat) : Nat := match sp with
  | 1 => 8
  | 2 => 4
  | _ => 2

/-- A tile register. -/
def Core.tile (c : Core) (n : Nat) : Tile := SMap.getD c.tiles n ⟨[], []⟩
/-- A core with a tile register replaced. -/
def Core.setTile (c : Core) (n : Nat) (t : Tile) : Core := { c with tiles := SMap.set c.tiles n t }
/-- R175. A TSHAPE register. -/
def Core.tshapeWord (c : Core) (n : Nat) : Word := SMap.getD c.tshape n 0

/-- R176. The element at a row and column of a tile. -/
def Tile.elem (t : Tile) (sh : TShape) (i c : Nat) : Nat :=
  let p := (mxElem sh.fmt).place c
  cellsRead t.data (i * sh.rowBytes + p.byte.toNat) p.bytes / 2 ^ p.bit % 2 ^ p.width
/-- R176. The elements of a row. -/
def Tile.row (t : Tile) (sh : TShape) (i : Nat) : List Nat := (List.range sh.cols).map (t.elem sh i)

/-- R14. The bytes of a row of elements, padding bits zero, as a number. -/
def rowImage (t : Elem) : List Nat → Nat → Nat
  | [], _ => 0
  | x :: xs, c => let p := t.place c; t.pad x * 2 ^ (8 * p.byte.toNat + p.bit) + rowImage t xs (c + 1)

/-- R176. A tile with a row of elements and its poison bit written. -/
def Tile.setRow (t : Tile) (sh : TShape) (i : Nat) (row : List Nat) (p : Bool) : Tile :=
  { data := cellsWrite t.data (i * sh.rowBytes) sh.rowBytes (rowImage (mxElem sh.fmt) row 0), poison := NSet.put t.poison i p }

/-- R183. Some of the rows 0 to n - 1 of a tile carry a poison bit. -/
def Tile.anyPoison (t : Tile) (n : Nat) : Bool := t.poison.any (fun i => decide (i < n))

/-! ## The array (R177, R180) -/

/-- R177. kmax and Ncol of a weight format; none for FP32. -/
def geometry (fmt : Nat) : Option (Nat × Nat) :=
  match fmt with
  | 0 => none
  | 1 => some (128, 32)
  | 2 | 3 | 9 => some (128, 64)
  | 8 | 12 | 13 | 17 | 19 => some (256, 128)
  | _ => some (128, 128)
/-- R177. The formats that may be sparse. -/
def sparseFmt (fmt : Nat) : Bool := [4, 5, 6, 7, 10, 11, 14, 15, 16, 18].contains fmt

/-- R180. The nine narrow float formats. -/
def narrowFloat (f : Nat) : Bool := [4, 5, 6, 7, 8, 14, 15, 16, 17].contains f
/-- R180. INT8, UINT8, INT4 and UINT4. -/
def narrowInt (f : Nat) : Bool := [10, 11, 12, 13].contains f
/-- R180. INT8·S and INT4·S. -/
def scaledInt (f : Nat) : Bool := [18, 19].contains f
/-- R180. The kind of an implemented combination of activation and weight formats. -/
def combination (a w : Nat) : Option AccKind :=
  if [1, 2, 3].contains a then (if w = a then some .fp else none)
  else if a = 9 then (if w = a then some .int else none)
  else if narrowFloat a then (if narrowFloat w then some .fp else none)
  else if narrowInt a then (if narrowInt w then some .int else if scaledInt w then some .fp else none)
  else if scaledInt a then (if narrowInt w || scaledInt w then some .fp else none)
  else none

/-- R178. The number of k-blocks of a depth. -/
def kBlocks (depth : Nat) : Nat := (depth + 127) / 128
/-- R179. The depth of a weight tile. -/
def TShape.depth (t : TShape) : Nat := if t.sp = 0 then t.rows else 24 * t.rows / sparseN t.sp

/-- The value of an element of a matrix format (R32). -/
def mxValue (fmt raw : Nat) : Val :=
  let t := mxElem fmt
  match t.fmt with
  | some f => f.value raw
  | none => let i := t.intVal raw; .fin (decide (i < 0)) i.natAbs 0

/-! ## The accumulator store (R181) -/

/-- An accumulator row. -/
def Core.accRow (c : Core) (r : Nat) : AccRow := SMap.getD c.acc r AccRow.zero
/-- A core with an accumulator row written. -/
def Core.setAcc (c : Core) (r : Nat) (a : AccRow) : Core := { c with acc := SMap.set c.acc r a }
/-- An element of an accumulator row. -/
def AccRow.elem (a : AccRow) (c : Nat) : BitVec 32 := SMap.getD a.elems c 0
/-- A row with an element written. -/
def AccRow.setElem (a : AccRow) (c : Nat) (v : BitVec 32) : AccRow := { a with elems := SMap.set a.elems c v }

/-! ## The block sum (R32 to R34) -/

/-- FP32. -/
def fp32 : Fmt := ⟨8, 23, 127, 0, true, .ieee⟩
/-- FP64. -/
def fp64 : Fmt := ⟨11, 52, 1023, 0, true, .ieee⟩

/-- A product of a block: special, or the exact signed value. -/
inductive Product where
  | nan (invalid : Bool)
  | inf (neg : Bool)
  | fin (neg : Bool) (m : Nat) (e : Int)
  deriving DecidableEq, Repr

/-- R32 step 1. The product of two values. -/
def product (a b : Val) : Product :=
  match a, b with
  | .nan x, .nan y => .nan (x || y)
  | .nan x, _ => .nan x
  | _, .nan y => .nan y
  | .inf x, .inf y => .inf (x != y)
  | .inf x, .fin n m _ => if m = 0 then .nan true else .inf (x != n)
  | .fin n m _, .inf y => if m = 0 then .nan true else .inf (n != y)
  | .fin n1 m1 e1, .fin n2 m2 e2 => .fin (n1 != n2) (m1 * m2) (e1 + e2)

/-- R32. The product of two integers: there is no -0 among them. -/
def Product.integer : Product → Product
  | .fin n m e => .fin (n && m != 0) m e
  | p => p

/-- The exact sum of finite products, as a signed number and an exponent. -/
def exactSum : List Product → Int × Int
  | [] => (0, 0)
  | .fin n m e :: ps =>
    let (v, e0) := exactSum ps
    let k := min e e0
    let x : Int := m * 2 ^ (e - k).toNat
    (v * 2 ^ (e0 - k).toNat + (if n then -x else x), k)
  | .nan _ :: ps => exactSum ps
  | .inf _ :: ps => exactSum ps

/-- R32 steps 1 and 2, R33. The rounded sum of a block; `full` says that the operation covers the whole block. -/
def blockSum (full : Bool) (ps : List Product) : Nat × Flags :=
  let isNan := ps.any (fun p => match p with
    | .nan _ => true
    | _ => false)
  let invalid := ps.any (fun p => p == .nan true)
  let posInf := ps.contains (.inf false)
  let negInf := ps.contains (.inf true)
  if isNan || (posInf && negInf) then (fp32.defaultNaN, if invalid || (posInf && negInf) then nv else 0)
  else if posInf || negInf then (fp32.infBits negInf, 0)
  else
    let (v, e) := exactSum ps
    if v = 0 then
      let allNeg := full && !ps.isEmpty && ps.all (fun p => match p with
        | .fin n m _ => n && m == 0
        | _ => false)
      (fp32.put allNeg 0, 0)
    else fp32.round .rne false (decide (v < 0)) v.natAbs e false

/-- R32 steps 3 to 5. One block added to an FP element. -/
def blockStep (scales : Option (Nat × Nat)) (acc : Nat) (p : Nat × Flags) : Nat × Flags :=
  let (t, f) := match scales with
    | none => p
    | some (sa, sw) =>
      let (sc, f1) := fp32.mul .rne (fp32.value sa) (fp32.value sw)
      let (t, f2) := fp32.mul .rne (fp32.value p.1) (fp32.value sc)
      (t, p.2 ||| f1 ||| f2)
  let (r, g) := fp32.add .rne false (fp32.value acc) (fp32.value t)
  (r, f ||| g)

/-- R182. A total clamped to INT32. -/
def clamp32 (i : Int) : Int := Elem.int32.clamp i

/-! ## What issue sees (R185) -/

/-- A latch as the checks at issue see it. -/
structure LatchView where
  loaded : Bool
  fmt : Nat
  sp : Nat
  depth : Nat
  cols : Nat
  deriving DecidableEq, Repr

/-- The view of a latch. -/
def Latch.view (l : Latch) : LatchView := ⟨l.loaded, l.fmt, l.sp, l.depth, l.cols⟩
/-- The view of an EMPTY latch. -/
def LatchView.empty : LatchView := ⟨false, 0, 0, 0, 0⟩

/-- R195. The view of a latch that a WLOAD of a tile leaves. -/
def TShape.latchView (t : TShape) : LatchView := ⟨true, t.fmt, t.sp, t.depth, t.cols⟩

/-- R178. ACTIVE and SHADOW after a queued operation. -/
def latchesAfter (p : LatchView × LatchView) (op : MxOp) : LatchView × LatchView :=
  match op.instr with
  | .wload _ _ => (p.1, (tshapeOf op.shapeX).latchView)
  | .mmasw _ _ _ _ => (p.2, LatchView.empty)
  | _ => p

/-- R185. ACTIVE and SHADOW as the queued operations will leave them. -/
def Core.latchViews (c : Core) : LatchView × LatchView := c.mxq.foldl latchesAfter (c.active.view, c.shadow.view)

/-- What an operation does to the KIND of a row (R181). -/
inductive KindEffect where
  | keep
  | put (k : AccKind)
  | copy (row : Nat)
  deriving DecidableEq, Repr

/-- R181. The KIND that an ACCWR of a format sets. -/
def classKind (fmt : Nat) : AccKind := if (mxElem fmt).isFloat then .fp else .int

/-- R197. The row count of an ACCZ, an ACCCP. -/
def countOf {n : Nat} (nm : BitVec n) : Nat := nm.toNat + 1

/-- R181. What a queued operation does to the KIND of row `r`. -/
def MxOp.kindEffect (op : MxOp) (r : Nat) : KindEffect :=
  let within := fun (lo n : Nat) => decide (lo ≤ r) && decide (r < lo + n)
  let rows := (tshapeOf op.shapeX).rows
  match op.instr with
  | .accz nm rb => if within rb.toNat (countOf nm) then .put .zero else .keep
  | .mma _ _ rb _ => if within rb.toNat rows then .put op.kind else .keep
  | .mmasw _ _ rb _ => if within rb.toNat rows then .put op.kind else .keep
  | .accwr _ rb _ => if within rb.toNat rows then .put (classKind (tshapeOf op.shapeX).fmt) else .keep
  | .acccp nm rs rd => if within rd.toNat (countOf nm) then .copy (rs.toNat + (r - rd.toNat)) else .keep
  | _ => .keep

/-- R185. The KIND of a row after queued operations, the last first. -/
def Core.kindAfter (c : Core) : List MxOp → Nat → AccKind
  | [], r => (c.accRow r).kind
  | op :: rest, r =>
    match op.kindEffect r with
    | .keep => c.kindAfter rest r
    | .put k => k
    | .copy src => c.kindAfter rest src

end Sys2Proof.Machine
end

