-- ==== Sys2Proof/Machine/Chebyshev.lean ====
section
/-!
DEFINITION. The mathematics of the function registers (R204 to R226): exact rationals, rounding to FP64, series operations,
truncation, the exact cosine sums of CHFIT, and the distinct roots of a series.
-/

namespace Sys2Proof.Machine

/-! ## Exact rationals -/

/-- A rational number. -/
structure Q where
  num : Int
  den : Nat
  deriving DecidableEq, Repr

namespace Q
/-- A quotient in lowest terms. -/
def mk' (n : Int) (d : Nat) : Q := let g := Nat.gcd n.natAbs d; if g = 0 then ⟨0, 1⟩ else ⟨n / (g : Int), d / g⟩
def ofInt (i : Int) : Q := ⟨i, 1⟩
def zero : Q := ⟨0, 1⟩
def add (a b : Q) : Q := mk' (a.num * b.den + b.num * a.den) (a.den * b.den)
def neg (a : Q) : Q := ⟨-a.num, a.den⟩
def sub (a b : Q) : Q := a.add b.neg
def mul (a b : Q) : Q := mk' (a.num * b.num) (a.den * b.den)
def inv (a : Q) : Q := ⟨if a.num < 0 then -(a.den : Int) else a.den, a.num.natAbs⟩
def div (a b : Q) : Q := a.mul b.inv
def abs (a : Q) : Q := ⟨a.num.natAbs, a.den⟩
def isZero (a : Q) : Bool := a.num == 0
def le (a b : Q) : Bool := decide (a.num * b.den ≤ b.num * a.den)
def lt (a b : Q) : Bool := decide (a.num * b.den < b.num * a.den)
/-- The sign: -1, 0 or 1. -/
def sign (a : Q) : Int := a.num.sign
def sum (l : List Q) : Q := l.foldl add zero
/-- `m * 2^e`. -/
def dyadic (m : Int) (e : Int) : Q := if 0 ≤ e then ⟨m * 2 ^ e.toNat, 1⟩ else mk' m (2 ^ (-e).toNat)
/-- The value of finite FP64 bits. -/
def ofBits (b : BitVec 64) : Q :=
  match fp64.value b.toNat with
  | .fin n m e => dyadic (if n then -(m : Int) else m) e
  | _ => zero
/-- R208. One rounding to FP64 in RNE; an exact zero is +0. -/
def round (a : Q) : Nat × Flags :=
  let n := a.num.natAbs
  let k := 60 + bitLen a.den - bitLen n
  fp64.round .rne false (decide (a.num < 0)) (n * 2 ^ k / a.den) (-(k : Int)) (decide (n * 2 ^ k % a.den ≠ 0))
end Q

/-- R204. FP64 bits are finite. -/
def finite64 (b : BitVec 64) : Bool :=
  match fp64.value b.toNat with
  | .fin _ _ _ => true
  | _ => false
/-- FP64 bits are negative. -/
def negative64 (b : BitVec 64) : Bool := b.getLsbD 63
/-- FP64 bits are a zero of a sign. -/
def zero64 (neg : Bool) (b : BitVec 64) : Bool := b == (if neg then BitVec.twoPow 64 63 else 0)
/-- R204. A domain is valid. -/
def domainValid (a b : BitVec 64) : Bool := finite64 a && finite64 b && (Q.ofBits a).lt (Q.ofBits b)

/-- R208. The result that NaN or infinite coefficients force: none if all are finite, else its flags. -/
def nonFinite (cs : List (BitVec 64)) : Option Flags :=
  if cs.all finite64 then none
  else some (if cs.any (fun c => match fp64.value c.toNat with
    | .nan sg => sg
    | .inf _ => true
    | .fin _ _ _ => false) then nv else 0)
/-- R208. The flags of a NaN scalar; none if it is no NaN. -/
def nanScalar (x : BitVec 64) : Option Flags :=
  match fp64.value x.toNat with
  | .nan sg => some (if sg then nv else 0)
  | _ => none

/-! ## Truncation (R209) -/

/-- The reversed list with its head dropped while what is dropped stays within a limit; one element stays. -/
def dropWithin (limit : Q) : Q → List (BitVec 64) → List (BitVec 64)
  | _, [] => []
  | _, [c] => [c]
  | acc, c :: c' :: cs =>
    let s := acc.add (Q.ofBits c).abs
    if s.le limit then dropWithin limit s (c' :: cs) else c :: c' :: cs

/-- The reversed list from its first infinite element on. -/
def fromInfinite : List (BitVec 64) → List (BitVec 64)
  | [] => []
  | c :: cs => if finite64 c then fromInfinite cs else c :: cs

/-- R209. The rounded coefficients truncated with a tolerance. -/
def truncate (cs : List (BitVec 64)) (tol : BitVec 64) : List (BitVec 64) :=
  if cs.all finite64 then
    let s := Q.sum (cs.map (fun c => (Q.ofBits c).abs))
    (dropWithin ((Q.ofBits tol).mul s) Q.zero cs.reverse).reverse
  else if tol = 0 then (cs.reverse.dropWhile (fun c => zero64 true c || zero64 false c)).reverse
  else (fromInfinite cs.reverse).reverse

/-! ## Series (R219 to R221) -/

/-- An exact coefficient, and whether its exact terms are all -0 (R219). -/
structure Coeff where
  q : Q
  negZero : Bool
  deriving DecidableEq, Repr

/-- R208, R219. A coefficient rounded. -/
def Coeff.round (c : Coeff) : Nat × Flags :=
  if c.q.isZero && c.negZero then (fp64.put true 0, 0) else c.q.round

/-- The sum of exact terms, each with whether it is -0. -/
def sumTerms (ts : List Coeff) : Coeff := ⟨Q.sum (ts.map (·.q)), !ts.isEmpty && ts.all (fun t => t.q.isZero && t.negZero)⟩

/-- A coefficient of a list; a missing one counts as +0. -/
def coeffAt (cs : List (BitVec 64)) (k : Nat) : BitVec 64 := cs.getD k 0
/-- A stored coefficient as an exact term. -/
def termOf (b : BitVec 64) : Coeff := ⟨Q.ofBits b, negative64 b⟩

/-- R219. CHADD and CHSUB. -/
def seriesAdd (sub : Bool) (a b : List (BitVec 64)) : List Coeff :=
  (List.range (max a.length b.length)).map (fun k =>
    let y := termOf (coeffAt b k)
    sumTerms [termOf (coeffAt a k), if sub then ⟨y.q.neg, !y.negZero⟩ else y])

/-- R219. CHSCAL. -/
def seriesScale (a : List (BitVec 64)) (s : BitVec 64) : List Coeff :=
  a.map (fun c => ⟨(Q.ofBits c).mul (Q.ofBits s), negative64 c != negative64 s⟩)

/-- R219. The terms of coefficient `k` of a product: the pairs with i + j = k and those with |i - j| = k. -/
def productTerms (a b : List (BitVec 64)) (k : Nat) : List Coeff :=
  (List.range a.length).flatMap (fun i =>
    let js := (if i ≤ k then [k - i] else []) ++ (if k = 0 then [i] else (if k ≤ i then [i - k] else []) ++ [i + k])
    (js.filter (fun j => decide (j < b.length))).map (fun j =>
      ⟨((Q.ofBits (coeffAt a i)).mul (Q.ofBits (coeffAt b j))).div (Q.ofInt 2),
        negative64 (coeffAt a i) != negative64 (coeffAt b j)⟩))
/-- R219. CHMUL. -/
def seriesMul (a b : List (BitVec 64)) : List Coeff :=
  (List.range (a.length + b.length - 1)).map (fun k => sumTerms (productTerms a b k))

/-- The product of two exact series. -/
def qSeriesMul (a b : List Q) : List Q :=
  (List.range (a.length + b.length - 1)).map (fun k =>
    Q.sum ((List.range a.length).map (fun i =>
      let js := (if i ≤ k then [k - i] else []) ++ (if k = 0 then [i] else (if k ≤ i then [i - k] else []) ++ [i + k])
      ((a.getD i Q.zero).mul (Q.sum (js.map (fun j => b.getD j Q.zero)))).div (Q.ofInt 2))))
/-- x + f * y of exact series. -/
def qSeriesAdd (x y : List Q) (f : Int) : List Q :=
  (List.range (max x.length y.length)).map (fun k => (x.getD k Q.zero).add ((Q.ofInt f).mul (y.getD k Q.zero)))

/-- R220. Clenshaw's recurrence over exact series, the coefficients from the last down. -/
def composeFrom (u : List Q) : List Q → List Q → List Q → List Q × List Q
  | [], y1, y2 => (y1, y2)
  | c :: cs, y1, y2 => composeFrom u cs (qSeriesAdd (qSeriesAdd [c] (qSeriesMul u y1) 2) y2 (-1)) y1
/-- R220. The series of A's series at u, of a given length. -/
def seriesCompose (a u : List Q) (m : Nat) : List Q :=
  let (y1, y2) := composeFrom u a.tail.reverse [Q.zero] [Q.zero]
  let r := qSeriesAdd (qSeriesAdd [a.headD Q.zero] (qSeriesMul u y1) 1) y2 (-1)
  (List.range m).map (fun k => r.getD k Q.zero)

/-- R221. e_0, e_1, ... from e_k and e_(k+1). -/
def derivList (c : List Q) : Nat → List Q → List Q
  | 0, acc => acc
  | k + 1, acc =>
    derivList c k (((acc.getD 1 Q.zero).add ((Q.ofInt (2 * ((k : Int) + 1))).mul (c.getD (k + 1) Q.zero))) :: acc)
/-- R221. CHDIFF, `h` being half the domain's length. -/
def seriesDiff (c : List Q) (h : Q) : List Q :=
  let n := c.length
  if n ≤ 1 then [Q.zero]
  else
    let e := derivList c (n - 1) [Q.zero, Q.zero]
    (List.range (n - 1)).map (fun k => (e.getD k Q.zero).div (if k = 0 then (Q.ofInt 2).mul h else h))
/-- R221. CHINT. -/
def seriesInt (c : List Q) (h : Q) : List Q :=
  let at_ := fun k => c.getD k Q.zero
  let b := (List.range c.length).map (fun i =>
    let k := i + 1
    if k = 1 then (h.mul (((Q.ofInt 2).mul (at_ 0)).sub (at_ 2))).div (Q.ofInt 2)
    else (h.mul ((at_ (k - 1)).sub (at_ (k + 1)))).div (Q.ofInt (2 * k)))
  let b0 := Q.sum ((List.range b.length).map (fun i => if i % 2 = 0 then b.getD i Q.zero else (b.getD i Q.zero).neg))
  b0 :: b

/-- R204, R225. The exact value of a series at t, the coefficients from the last down. -/
def clenshaw (t : Q) : List Q → Q → Q → Q × Q
  | [], b1, b2 => (b1, b2)
  | c :: cs, b1, b2 => clenshaw t cs ((c.add (((Q.ofInt 2).mul t).mul b1)).sub b2) b1
/-- R204. The exact value of a series at t. -/
def seriesAt (c : List Q) (t : Q) : Q :=
  let (b1, b2) := clenshaw t c.tail.reverse Q.zero Q.zero
  ((c.headD Q.zero).add (t.mul b1)).sub b2

/-! ## The exact cosine sums of CHFIT (R224) -/

namespace Fit
/-- The primes that divide m. -/
def primesOf (m : Nat) : List Nat :=
  (List.range (m + 1)).filter (fun p =>
    decide (2 ≤ p) && decide (m % p = 0) && (List.range p).all (fun d => decide (d < 2) || decide (p % d ≠ 0)))
/-- The Möbius function. -/
def mobius (m : Nat) : Int :=
  let ps := primesOf m
  if ps.any (fun p => decide (m % (p * p) = 0)) then 0 else if ps.length % 2 = 0 then 1 else -1
/-- Euler's function. -/
def totient (m : Nat) : Nat := ((List.range m).filter (fun k => decide (Nat.gcd k m = 1))).length

/-- The coefficients, of the powers of a primitive m-th root of unity, of the sum of a_j (z^p + z^-p) over terms (a, p). -/
def cyclic (m : Nat) (terms : List (Int × Nat)) : List Int :=
  (List.range m).map (fun i => (terms.map (fun t =>
    (if t.2 % m = i then t.1 else 0) + (if (m - t.2 % m) % m = i then t.1 else 0))).foldl (· + ·) 0)

/-- A combination of powers of a primitive m-th root of unity vanishes: its product with x^(m/p) - 1 for each prime p of m
vanishes modulo x^m - 1. -/
def vanishes (m : Nat) (v : List Int) : Bool :=
  let w := (primesOf m).foldl (fun (u : List Int) p =>
    let k := m / p
    (List.range m).map (fun i => u.getD ((i + m - k) % m) 0 - u.getD i 0)) v
  w.all (· == 0)

/-- The mean of a combination over its conjugates: its value, if that is rational. -/
def meanValue (m : Nat) (v : List Int) : Q :=
  Q.sum ((List.range m).map (fun k =>
    let d := m / Nat.gcd k m
    Q.mk' (v.getD k 0 * mobius d) (totient d)))

/-- The rational value of a combination, if it is rational. -/
def rational? (m : Nat) (v : List Int) : Option Q :=
  let r := meanValue m v
  let w := (List.range m).map (fun k => v.getD k 0 * r.den - (if k = 0 then r.num else 0))
  if vanishes m w then some r else none

/-- atan(1/x) scaled by `one`, terms from k on. -/
def atanTerms (one x : Int) : Nat → Int → Int → Int
  | 0, _, _ => 0
  | fuel + 1, p, k => if p = 0 then 0 else p / k - atanTerms one x fuel (p / (x * x)) (k + 2)
/-- Pi scaled by 2^prec. -/
def piScaled (prec : Nat) : Int :=
  let one : Int := 2 ^ prec
  16 * atanTerms one 5 prec (one / 5) 1 - 4 * atanTerms one 239 prec (one / 239) 1
/-- The cosine series of a scaled angle. -/
def cosTerms (one y2 : Int) : Nat → Int → Int → Int
  | 0, _, _ => 0
  | fuel + 1, t, k => if t = 0 then 0 else t + cosTerms one y2 fuel (-(t * y2 / one) / ((k + 1) * (k + 2))) (k + 2)
/-- cos(pi p / n) scaled by 2^prec, within 2^40. -/
def cosScaled (prec p n : Nat) : Int :=
  let one : Int := 2 ^ prec
  let y := piScaled prec * (p % (2 * n) : Nat) / n
  cosTerms one (y * y / one) (prec + 64) one 0

/-- An irrational value scale * sum of a_j cos(pi p_j / n) rounded: enclosures of doubled precision until both ends round
alike. -/
def roundIrrational (scale : Q) (n : Nat) (terms : List (Int × Nat)) : Nat → Nat → Nat × Flags
  | 0, prec => (scale.mul (Q.mk' ((terms.map (fun t => t.1 * cosScaled prec t.2 n)).foldl (· + ·) 0) (2 ^ prec))).round
  | fuel + 1, prec =>
    let v := (terms.map (fun t => t.1 * cosScaled prec t.2 n)).foldl (· + ·) 0
    let e : Int := ((terms.map (fun t => t.1.natAbs)).foldl (· + ·) 0 * 2 ^ 40 : Nat)
    let lo := (scale.mul (Q.mk' (v - e) (2 ^ prec))).round
    let hi := (scale.mul (Q.mk' (v + e) (2 ^ prec))).round
    if lo = hi then lo else roundIrrational scale n terms fuel (2 * prec)

/-- R224. Coefficient `k` of the fit of samples, n - 1 = `d`, rounded. -/
def coeff (d : Nat) (samples : List Q) (k : Nat) : Nat × Flags :=
  let common := samples.foldl (fun a s => Nat.lcm a s.den) 1
  let terms := (List.range (d + 1)).map (fun j =>
    let s := samples.getD j Q.zero
    let v : Int := if j = 0 ∨ j = d then 1 else 2
    (v * (s.num * ((common / s.den : Nat) : Int)), k * (d - j)))
  let w : Int := if k = 0 ∨ k = d then 1 else 2
  -- v_j is halved, so scale is w / (2 d common)
  let scale := Q.mk' w (2 * d * common)
  match rational? (2 * d) (cyclic (2 * d) terms) with
  | some r => (scale.mul (r.div (Q.ofInt 2))).round
  | none => roundIrrational scale d terms 24 256
end Fit

/-! ## Roots (R226) -/

namespace Roots
/-- A polynomial, lowest power first, without leading zeros. -/
def trim (p : List Q) : List Q := (p.reverse.dropWhile Q.isZero).reverse
/-- The value at a point. -/
def eval (p : List Q) (x : Q) : Q := p.foldr (fun c acc => c.add (x.mul acc)) Q.zero
/-- The derivative. -/
def deriv (p : List Q) : List Q := ((List.range p.length).map (fun (i : Nat) => (Q.ofInt i).mul (p.getD i Q.zero))).tail
/-- One step of long division: the remainder's leading term removed. -/
def reduceOnce (a b : List Q) : Q × List Q :=
  let f := (a.getLastD Q.zero).div (b.getLastD (Q.ofInt 1))
  let s := a.length - b.length
  (f, (List.range (a.length - 1)).map (fun i =>
    (a.getD i Q.zero).sub (if s ≤ i then f.mul (b.getD (i - s) Q.zero) else Q.zero)))
/-- Division with remainder, the quotient's coefficients from the highest down. -/
def divide (b : List Q) : Nat → List Q → List Q × List Q
  | 0, a => ([], a)
  | fuel + 1, a =>
    if a.length < b.length then ([], a)
    else
      let (f, r) := reduceOnce a b
      let (q, r') := divide b fuel r
      (f :: q, r')
/-- The remainder. -/
def remainder (a b : List Q) : List Q := trim (divide b (a.length + 1) a).2
/-- The quotient. -/
def quotient (a b : List Q) : List Q := (divide b (a.length + 1) a).1.reverse
/-- The greatest common divisor. -/
def gcd : Nat → List Q → List Q → List Q
  | 0, a, _ => a
  | fuel + 1, a, b => if b.isEmpty then a else gcd fuel b (remainder a b)
/-- Sturm's chain from two polynomials on. -/
def chain : Nat → List Q → List Q → List (List Q)
  | 0, a, _ => [a]
  | fuel + 1, a, b => if b.isEmpty then [a] else a :: chain fuel b ((remainder a b).map Q.neg)
/-- Sign changes of a list of signs, zeros left out. -/
def changes : List Int → Nat
  | [] => 0
  | [_] => 0
  | x :: y :: l => (if x = y then 0 else 1) + changes (y :: l)
/-- Sign changes of a chain at a point. -/
def variations (ch : List (List Q)) (x : Q) : Nat := changes ((ch.map (fun p => (eval p x).sign)).filter (· != 0))
/-- T_k by powers, from T_(k-1) and T_k on: the sum of c_k T_k. -/
def powerBasis : List Q → List Q → List Q → List Q
  | [], _, _ => []
  | c :: cs, t0, t1 =>
    qSeriesAdd (t0.map c.mul) (powerBasis cs t1 (qSeriesAdd (Q.zero :: t1.map (Q.ofInt 2).mul) t0 (-1))) 1

/-- A series' distinct roots: its square-free polynomial and its Sturm chain. -/
structure Solver where
  poly : List Q
  chain : List (List Q)
  deriving DecidableEq, Repr

/-- The solver of a series. -/
def solver (c : List Q) : Solver :=
  let p := trim (powerBasis c [Q.ofInt 1] [Q.zero, Q.ofInt 1])
  let q := quotient p (gcd p.length p (deriv p))
  ⟨q, chain q.length q (deriv q)⟩

/-- The number of distinct roots in [-1, t]. -/
def Solver.upTo (s : Solver) (t : Q) : Nat :=
  if t.lt (Q.ofInt (-1)) then 0
  else variations s.chain (Q.ofInt (-1)) - variations s.chain t + (if (eval s.poly (Q.ofInt (-1))).isZero then 1 else 0)
/-- The number of distinct roots in [-1, 1]. -/
def Solver.count (s : Solver) : Nat := s.upTo (Q.ofInt 1)

/-- FP64 values in order, by a signed key. -/
def keyOf (b : BitVec 64) : Int := if negative64 b then -((b.toNat % 2 ^ 63 : Nat) : Int) else b.toNat
/-- The value of a key. -/
def ofKey (k : Int) : Q := let q := Q.ofBits (BitVec.ofNat 64 k.natAbs); if k < 0 then q.neg else q

/-- The greatest key below `hi` whose value is at most the root, by bisection; `below` tells whether a value is. -/
def search (below : Q → Bool) : Nat → Int → Int → Int
  | 0, lo, _ => lo
  | fuel + 1, lo, hi =>
    if hi ≤ lo + 1 then lo
    else
      let mid := (lo + hi) / 2
      if below (ofKey mid) then search below fuel mid hi else search below fuel lo mid

/-- A number on the same side as a root of every bound that a rounding meets between two neighbours, their midpoint and the
midpoints of the halves among them (R20): the root itself where a bisection meets it. -/
def standIn (isRoot below : Q → Bool) : Nat → Q → Q → Q
  | 0, lo, hi => (lo.add hi).div (Q.ofInt 2)
  | fuel + 1, lo, hi =>
    let mid := (lo.add hi).div (Q.ofInt 2)
    if isRoot mid then mid else if below mid then standIn isRoot below fuel mid hi else standIn isRoot below fuel lo mid

/-- R226. Root number `k` mapped to x and rounded once. -/
def Solver.rootX (s : Solver) (a b : BitVec 64) (k : Nat) : Nat × Flags :=
  let qa := Q.ofBits a
  let qb := Q.ofBits b
  let toT := fun (x : Q) => (((Q.ofInt 2).mul (x.sub qa)).div (qb.sub qa)).sub (Q.ofInt 1)
  -- x is at most the root: no more than k roots lie below x
  let below := fun (x : Q) =>
    let t := toT x
    decide (s.upTo t - (if (eval s.poly t).isZero then 1 else 0) ≤ k)
  let isRoot := fun (x : Q) => let t := toT x; (eval s.poly t).isZero && s.upTo t == k + 1
  let u := search below 66 (keyOf a) (keyOf b + 1)
  let x := ofKey u
  if isRoot x then x.round else (standIn isRoot below 2 x (ofKey (u + 1))).round
end Roots

end Sys2Proof.Machine
end

