-- ==== Sys2Proof/Machine/Matrix.lean ====
section
/-!
DEFINITION. The matrix instructions of major 0x40 (R185 to R203): the checks at issue, the queue, and the execution of each
operation. An instruction joins the engine's queue when it issues; its effect is applied when the engine completes it.
-/

namespace Sys2Proof.Machine

/-! ## Checks at issue (R186) -/

/-- A failed check at issue: TRAPPROG holds the check number in [7:0], or for R92 the register number in [4:0]. -/
structure MxFail where
  cause : BitVec 8
  val : Word
  low : Nat
  reg : Bool
  deriving DecidableEq, Repr

/-- The result of checks at issue. -/
abbrev MxChk (α : Type) := Except MxFail α

/-- ILLEGAL_OPERAND of a check unless a condition holds; TRAPVAL holds the instruction. -/
def mxNeed (b : Bool) (word : Word) (check : Nat) : MxChk Unit :=
  if b then .ok () else .error ⟨Cause.illegalOperand, word, check, false⟩

/-- A failed check as a trap at the head of the current instruction. -/
def State.mxTrap (s : State) (f : MxFail) : Trap :=
  s.trapHere f.cause f.val (if f.reg then s.regProg (BitVec.ofNat 5 f.low) else s.byteProg f.low)

/-- R92. A capability check's failure, naming its register. -/
def mxCap {α : Type} (r : Res α) (reg : BitVec 5) : MxChk α :=
  match r with
  | .ok a => .ok a
  | .error f => .error ⟨f.cause, f.val, reg.toNat, true⟩

/-- R186 checks 4 and 5. A memory range through a capability, aligned to 4, in the own scratchpad or, where allowed, the own
cluster memory. -/
def mxRange (r : Reg) (reg : BitVec 5) (dom : BitVec 6) (priv : Bool) (use : CapUse) (addr : Word) (n : Nat)
    (cluster : Bool) (word : Word) : MxChk Unit := do
  mxCap (checkCap r dom priv use addr n 4) reg
  mxNeed (match ownPlace 0 addr.toNat n with
    | some l => cluster || isOwnSpad (w64 l.va)
    | none => false) word 5

/-- R180. MATFMT. -/
def matFmt (a w sp : Nat) (conflict : Bool) : MxFail :=
  ⟨Cause.matFmt, w64 (a + w * 2 ^ 8 + sp * 2 ^ 16 + (if conflict then 2 ^ 24 else 0)), 3, false⟩

/-- R243. An unfinished CPYM whose follow-on MMA has not joined the queue targets a tile. -/
def Core.copyTargets (c : Core) (t : Nat) : Bool := c.copies.any (fun k => k.fn == 1 && k.tile == t)

/-- R186 check 1 and R243, for a named tile: its shape. That an unfinished CPYM targets the tile comes before an instruction's own checks of
its format, MATFMT of a WLOAD among them (R195) (DESIGN CHOICE, log 107). -/
def Core.namedTile (c : Core) (t : BitVec 3) (word : Word) : MxChk TShape := do
  let sh := tshapeOf (c.tshapeWord t.toNat)
  mxNeed sh.valid word 1
  mxNeed (!c.copyTargets t.toNat) word 2
  .ok sh

/-- Who issues a matrix operation: what R92 needs of its context. -/
structure MxWho where
  dom : BitVec 6
  priv : Bool
  deriving DecidableEq, Repr

/-- R195. The checks of WLOAD. -/
def wloadCheck (c : Core) (w : MxWho) (t : BitVec 3) (reg : BitVec 5) (a : Reg) (word : Word) : MxChk Unit := do
  let sh ← c.namedTile t word
  match geometry sh.fmt with
  | none => .error (matFmt 31 sh.fmt sh.sp false)
  | some (kmax, ncol) =>
    if sh.sp ≠ 0 ∧ !sparseFmt sh.fmt then .error (matFmt 31 sh.fmt sh.sp false)
    else do
      mxNeed (decide (sh.rows ≤ kmax) && decide (sh.cols ≤ ncol)) word 2
      mxNeed (sh.sp == 0 || (decide (t.toNat % 2 = 0) && decide (sh.rows % sparseN sh.sp = 0))) word 2
      mxNeed ((reg != 0) == mxScaled sh.fmt) word 2
      if reg = 0 then .ok ()
      else mxRange a reg w.dom w.priv .load a.word (4 * kBlocks sh.depth) false word

/-- R196. The checks of MMA and MMASW against the latch they use and the KINDs of the rows; the kind they give. -/
def mmaCheck (w : MxWho) (latch : LatchView) (kinds : Nat → AccKind) (sh : TShape) (reg : BitVec 5) (a : Reg)
    (rb : BitVec 10) (cq : BitVec 2) (word : Word) : MxChk AccKind := do
  mxNeed (latch.loaded && sh.sp == 0 && decide (sh.rows ≤ 128) && decide (sh.cols ≤ latch.depth) &&
    decide (rb.toNat + sh.rows ≤ 1024) && decide (32 * cq.toNat + latch.cols ≤ 128) && (reg != 0) == mxScaled sh.fmt) word 2
  match combination sh.fmt latch.fmt with
  | none => .error (matFmt sh.fmt latch.fmt latch.sp false)
  | some kind =>
    if (List.range sh.rows).any (fun i => let k := kinds (rb.toNat + i); k != .zero && k != kind) then
      .error (matFmt sh.fmt latch.fmt latch.sp true)
    else do
      if reg = 0 then .ok ()
      else mxRange a reg w.dom w.priv .load a.word (4 * sh.rows * kBlocks latch.depth) false word
      .ok kind

/-- R198, R199. The checks of ACCRD and ACCWR. -/
def accTileCheck (sh : TShape) (rb : BitVec 10) (cq : BitVec 2) (word : Word) : MxChk Unit :=
  mxNeed (sh.sp == 0 && decide (rb.toNat + sh.rows ≤ 1024) && decide (32 * cq.toNat + sh.cols ≤ 128)) word 2

/-- R201. The format that a TSTORE writes. -/
def storeFmt (sh : TShape) (cvt : BitVec 1) (fmt : BitVec 5) : Nat := if cvt = 1 then fmt.toNat else sh.fmt
/-- R201. The distance of rows in memory: RowBytes of the format moved where the stride field is 0. -/
def moveStride (fmt cols : Nat) (stride : BitVec 10) : Nat := if stride = 0 then rowBytes fmt cols else 16 * stride.toNat
/-- R201. The span of a tile's rows in memory. -/
def moveSpan (sh : TShape) (fmt : Nat) (stride : BitVec 10) : Nat :=
  (sh.rows - 1) * moveStride fmt sh.cols stride + rowBytes fmt sh.cols

/-- R202. The shape that TTRANS gives. -/
def TShape.transposed (t : TShape) : TShape := ⟨t.cols, t.rows, 0, t.fmt⟩
/-- R175. A shape as a TSHAPE word. -/
def TShape.word (t : TShape) : Word := w64 (t.fmt + t.sp * 2 ^ 5 + t.rows * 2 ^ 8 + t.cols * 2 ^ 20)

/-! ## Issue -/

/-- R191. The first matrix operation issued in a sleeping cluster raises the cluster's wake request. -/
def State.requestWake (s : State) (core : Nat) : State :=
  s.modCluster (clusterOf core) (fun c => if c.awake || c.wakeAt.isSome then c else { c with wakeAt := some s.cycle.toNat })

/-- R185, R188, R97. An operation joins the engine's queue: it takes its issue number and counts in CNTS.TILE. -/
def State.enqueueMx (s : State) (core : Nat) (op : MxOp) : State :=
  let s1 := s.modCore core (fun c => { c with mxq := c.mxq ++ [{ op with seq := c.mxIssued.toNat }], mxIssued := c.mxIssued + 1 })
  s1.modCtx ⟨core, control⟩ (fun c => { c with cntTile := c.cntTile + 1 })

/-- An operation of the current instruction, with what it captures at issue. -/
def State.mxOp (s : State) (i : Instr) (x a : Word) (ra rb rc : Reg) : MxOp :=
  { seq := 0, instr := i, head := s.me.pc, word := s.me.ir, shapeX := x, shapeA := a, a := ra, b := rb, c := rc
    tol := s.myCore.fntol, memSeq := s.me.pendSeq, bank := s.me.uia, kind := .zero, words := none
    started := false, follow := false, dom := s.me.dom }

/-- R246. While a PARK or UNPARK is held in the sequencer, matrix and function instructions are not ready. -/
def Core.parkHeld (c : Core) : Bool := decide (0 < c.parkBusy)

/-- The current context as an issuer. -/
def State.mxWho (s : State) : MxWho := ⟨s.me.dom, s.me.priv⟩

/-- R186. An instruction of the engine: check 0, its own checks, then what it does at issue. -/
def State.issueEngine (s : State) (check : MxChk State) : Out :=
  s.controlOnly (do
    s.need (!s.myCore.mxSusp) Cause.illegalOperand 0x818 (s.byteProg 0)
    if s.myCore.parkHeld then .ok s.hold
    else
      match check with
      | .ok t => .ok t.advance
      | .error f => .error (s.mxTrap f))

/-- A matrix operation joins the queue of the current core, waking the cluster's arrays. -/
def State.submitMx (s : State) (op : MxOp) : State := (s.requestWake s.cur.core).enqueueMx s.cur.core op

/-- The TSHAPE of a tile of the current core. -/
def State.shapeWord (s : State) (t : BitVec 3) : Word := s.myCore.tshapeWord t.toNat

/-- R195. WLOAD. -/
def execWload (t : BitVec 3) (a : BitVec 5) (s : State) : Out :=
  s.issueEngine (do
    wloadCheck s.myCore s.mxWho t a (s.g a) s.me.ir
    .ok (s.submitMx (s.mxOp (.wload t a) (s.shapeWord t) 0 (s.g a) Reg.zero Reg.zero)))

/-- R185. The KIND that a row will have. -/
def Core.kindView (c : Core) (r : Nat) : AccKind := c.kindAfter c.mxq.reverse r

/-- R196. MMA and MMASW, by the latch they use. -/
def State.issueMma (s : State) (i : Instr) (latch : LatchView) (t : BitVec 3) (a : BitVec 5) (rb : BitVec 10)
    (cq : BitVec 2) : Out :=
  s.issueEngine (do
    let sh ← s.myCore.namedTile t s.me.ir
    let kind ← mmaCheck s.mxWho latch s.myCore.kindView sh a (s.g a) rb cq s.me.ir
    .ok (s.submitMx { s.mxOp i (s.shapeWord t) 0 (s.g a) Reg.zero Reg.zero with kind := kind }))

/-- R196. MMA. -/
def execMma (t : BitVec 3) (a : BitVec 5) (rb : BitVec 10) (cq : BitVec 2) (s : State) : Out :=
  s.issueMma (.mma t a rb cq) s.myCore.latchViews.1 t a rb cq
/-- R196. MMASW. -/
def execMmasw (t : BitVec 3) (a : BitVec 5) (rb : BitVec 10) (cq : BitVec 2) (s : State) : Out :=
  s.issueMma (.mmasw t a rb cq) s.myCore.latchViews.2 t a rb cq

/-- R197. ACCZ. -/
def execAccz (nm rb : BitVec 10) (s : State) : Out :=
  s.issueEngine (do
    mxNeed (decide (rb.toNat + countOf nm ≤ 1024)) s.me.ir 2
    .ok (s.submitMx (s.mxOp (.accz nm rb) 0 0 Reg.zero Reg.zero Reg.zero)))
/-- R198. ACCRD. -/
def execAccrd (t : BitVec 3) (rb : BitVec 10) (cq : BitVec 2) (sat : BitVec 1) (pr : BitVec 2) (s : State) : Out :=
  s.issueEngine (do
    let sh ← s.myCore.namedTile t s.me.ir
    accTileCheck sh rb cq s.me.ir
    .ok (s.submitMx (s.mxOp (.accrd t rb cq sat pr) (s.shapeWord t) 0 Reg.zero Reg.zero Reg.zero)))
/-- R199. ACCWR. -/
def execAccwr (t : BitVec 3) (rb : BitVec 10) (cq : BitVec 2) (s : State) : Out :=
  s.issueEngine (do
    let sh ← s.myCore.namedTile t s.me.ir
    accTileCheck sh rb cq s.me.ir
    .ok (s.submitMx (s.mxOp (.accwr t rb cq) (s.shapeWord t) 0 Reg.zero Reg.zero Reg.zero)))
/-- R200. ACCCP. -/
def execAcccp (nm : BitVec 6) (rs rd : BitVec 10) (s : State) : Out :=
  s.issueEngine (do
    mxNeed (decide (rs.toNat + countOf nm ≤ 1024) && decide (rd.toNat + countOf nm ≤ 1024)) s.me.ir 2
    .ok (s.submitMx (s.mxOp (.acccp nm rs rd) 0 0 Reg.zero Reg.zero Reg.zero)))

/-- R201. The address of a TLOAD or TSTORE. -/
def moveAddr (a b : Reg) : Word := a.word + b.word
/-- R201. TLOAD. -/
def execTload (t : BitVec 3) (a b : BitVec 5) (stride : BitVec 10) (s : State) : Out :=
  s.issueEngine (do
    let sh ← s.myCore.namedTile t s.me.ir
    mxRange (s.g a) a s.me.dom s.me.priv .load (moveAddr (s.g a) (s.g b)) (moveSpan sh sh.fmt stride) true s.me.ir
    .ok (s.submitMx (s.mxOp (.tload t a b stride) (s.shapeWord t) 0 (s.g a) (s.g b) Reg.zero)))
/-- R201. TSTORE. -/
def execTstore (t : BitVec 3) (a b : BitVec 5) (cvt : BitVec 1) (fmt : BitVec 5) (stride : BitVec 10) (s : State) : Out :=
  s.issueEngine (do
    let sh ← s.myCore.namedTile t s.me.ir
    mxNeed (cvt == 0 || decide (fmt.toNat ≤ 13)) s.me.ir 2
    mxRange (s.g a) a s.me.dom s.me.priv .store (moveAddr (s.g a) (s.g b)) (moveSpan sh (storeFmt sh cvt fmt) stride) true
      s.me.ir
    .ok (s.submitMx (s.mxOp (.tstore t a b cvt fmt stride) (s.shapeWord t) 0 (s.g a) (s.g b) Reg.zero)))
/-- R202. TTRANS: TSHAPE of the destination is written at issue; the operation keeps what it was (R189). -/
def execTtrans (d t : BitVec 3) (s : State) : Out :=
  s.issueEngine (do
    let sh ← s.myCore.namedTile t s.me.ir
    mxNeed (d != t && sh.sp == 0 && decide (sh.cols ≤ 256) && sh.transposed.valid && !s.myCore.copyTargets d.toNat)
      s.me.ir 2
    let op := s.mxOp (.ttrans d t) sh.transposed.word (s.shapeWord t) Reg.zero Reg.zero (Reg.plain (s.shapeWord d))
    .ok ((s.submitMx op).modMyCore (fun c => { c with tshape := SMap.set c.tshape d.toNat sh.transposed.word })))

/-! ## Execution -/

/-- The result of an operation: the state and its flags, or the cause and TRAPVAL of R187. -/
abbrev MxRun := Except Fail (State × Flags)

/-- R187. Spans of the engine meet no lock; TRAPVAL holds the lowest failing byte address. -/
def State.mxLocks (s : State) (core : Nat) (spans : List (Int × Nat)) (write : Bool) : Res Unit :=
  let places := spans.filterMap (fun p => (ownPlace core p.1 p.2).map (fun l => (l, p.2)))
  match least (failingBytes (fun l n => s.firstLocked core l n write) places) with
  | some a => .error ⟨Cause.rangeLocked, w64 a⟩
  | none => .ok ()

/-- An FP32 scale at an index from an address, and whether its granules are marked. -/
def State.scaleAt (s : State) (core : Nat) (addr : Word) (i : Nat) : Nat × Bool :=
  match ownPlace core (addr.toNat + 4 * i : Nat) 4 with
  | some l => (s.readAt l 4, s.poisonAt l 4)
  | none => (0, false)

/-- R179. The metadata bytes of a sparse tile's rows. -/
def Tile.positions (t : Tile) (sh : TShape) : List (List Nat) :=
  (List.range sh.rows).map (fun p => (List.range sh.cols).map (fun j => cellsRead t.data (p * sh.cols + j) 1))

/-- R195. WLOAD in execution. Where its scales meet a lock and a position is invalid, the lock is reported (DESIGN CHOICE, log 106). -/
def State.runWload (s : State) (core : Nat) (op : MxOp) (t : BitVec 3) (reg : BitVec 5) : MxRun := do
  let c := s.core core
  let sh := tshapeOf op.shapeX
  let nb := kBlocks sh.depth
  let w := c.tile t.toNat
  let m := c.tile (t.toNat + 1)
  let pos := if sh.sp = 0 then [] else m.positions sh
  s.mxLocks core (if reg = 0 then [] else [(op.a.word.toNat, 4 * nb)]) false
  match (pos.flatten).findIdx? (fun x => decide (23 < x)) with
  | some o => .error ⟨Cause.illegalOperand, w64 o⟩
  | none =>
    let scales := if reg = 0 then [] else (List.range nb).map (s.scaleAt core op.a.word)
    let latch : Latch :=
      { loaded := true, fmt := sh.fmt, sp := sh.sp, rows := sh.rows, depth := sh.depth, cols := sh.cols
        w := (List.range sh.rows).map (w.row sh), meta_ := pos, scales := scales.map (fun x => BitVec.ofNat 32 x.1)
        poison := w.anyPoison sh.rows || (sh.sp != 0 && m.anyPoison sh.rows) || scales.any (·.2) }
    .ok (s.modCore core (fun c => { c with shadow := latch }), 0)

/-- R177, R179. Column `j` of a latch: the logical k and the bits of each weight. -/
def Latch.column (l : Latch) (j : Nat) : List (Nat × Nat) :=
  (List.range l.rows).map (fun p =>
    (if l.sp = 0 then p else 24 * (p / sparseN l.sp) + (l.meta_.getD p []).getD j 0, (l.w.getD p []).getD j 0))

/-- R196. The products of a block: logical k in the block and below the activation's columns. -/
def blockProducts (afmt wfmt : Nat) (arow : List Nat) (col : List (Nat × Nat)) (b : Nat) : List Product :=
  col.filterMap (fun (k, w) =>
    if k / 128 = b ∧ k < arow.length then
      let p := product (mxValue afmt (arow.getD k 0)) (mxValue wfmt w)
      some (if (mxElem afmt).isFloat || (mxElem wfmt).isFloat then p else p.integer)
    else none)

/-- R196. One accumulator element through blocks `b` on; `sa` and `sw` are the block's scales. -/
def mmaElement (kind : AccKind) (afmt : Nat) (l : Latch) (arow : List Nat) (sa sw : Nat → Option Nat)
    (col : List (Nat × Nat)) : Nat → Nat → Nat → Nat × Flags
  | 0, _, acc => (acc, 0)
  | n + 1, b, acc =>
    let ps := blockProducts afmt l.fmt arow col b
    if kind = .int then
      mmaElement kind afmt l arow sa sw col n (b + 1)
        (Elem.int32.ofInt (clamp32 (Elem.int32.intVal acc + (exactSum ps).1)))
    else
      let full := decide (128 * (b + 1) ≤ min l.depth arow.length)
      let scales := match sa b, sw b with
        | none, none => none
        | x, y => some (x.getD 0x3F800000, y.getD 0x3F800000)
      let (acc1, f) := blockStep scales acc (blockSum full ps)
      let (r, g) := mmaElement kind afmt l arow sa sw col n (b + 1) acc1
      (r, f ||| g)

/-- R196. The elements of one accumulator row, from column `j` of the latch on. -/
def mmaRow (kind : AccKind) (afmt : Nat) (l : Latch) (arow : List Nat) (sa sw : Nat → Option Nat) (c0 : Nat) :
    Nat → Nat → AccRow → AccRow × Flags
  | 0, _, r => (r, 0)
  | n + 1, j, r =>
    let (v, f) := mmaElement kind afmt l arow sa sw (l.column j) (kBlocks l.depth) 0 (r.elem (c0 + j)).toNat
    let (r1, g) := mmaRow kind afmt l arow sa sw c0 n (j + 1) (r.setElem (c0 + j) (BitVec.ofNat 32 v))
    (r1, f ||| g)

/-- R196. The rows of an MMA, from activation row `i` on. -/
def State.mmaRows (s : State) (core : Nat) (op : MxOp) (kind : AccKind) (l : Latch) (t : BitVec 3) (reg : BitVec 5)
    (rb c0 : Nat) : Nat → Nat → Core → Core × Flags
  | 0, _, c => (c, 0)
  | n + 1, i, c =>
    let sh := tshapeOf op.shapeX
    let tile := c.tile t.toNat
    let nb := kBlocks l.depth
    let scales := if reg = 0 then [] else (List.range nb).map (fun b => s.scaleAt core op.a.word (i * nb + b))
    let sa := fun b => if reg = 0 then none else some (scales.getD b (0, false)).1
    let sw := fun b => if l.scales.isEmpty then none else some (l.scales.getD b 0).toNat
    let old := c.accRow (rb + i)
    let (r, f) := mmaRow kind sh.fmt l (tile.row sh i) sa sw c0 l.cols 0 old
    let p := old.poison || NSet.has tile.poison i || l.poison || scales.any (·.2)
    let (c1, g) := s.mmaRows core op kind l t reg rb c0 n (i + 1) (c.setAcc (rb + i) { r with kind := kind, poison := p })
    (c1, f ||| g)

/-- R196. MMA and MMASW in execution. -/
def State.runMma (s : State) (core : Nat) (op : MxOp) (swap : Bool) (t : BitVec 3) (reg : BitVec 5) (rb : BitVec 10)
    (cq : BitVec 2) : MxRun := do
  let c := s.core core
  let sh := tshapeOf op.shapeX
  let l := if swap then c.shadow else c.active
  s.mxLocks core (if reg = 0 then [] else [(op.a.word.toNat, 4 * sh.rows * kBlocks l.depth)]) false
  let c1 := if swap then { c with active := c.shadow, shadow := Latch.empty } else c
  let kind := (combination sh.fmt l.fmt).getD .fp
  let (c2, f) := s.mmaRows core op kind l t reg rb.toNat (32 * cq.toNat) sh.rows 0 c1
  .ok (s.setCore core c2, f)

/-- A core with rows `lo` to `lo + n - 1` of the accumulator set by a function of the offset. -/
def Core.setRows (c : Core) (lo n : Nat) (f : Nat → AccRow) : Core :=
  (List.range n).foldl (fun k i => k.setAcc (lo + i) (f i)) c

/-- R197. ACCZ in execution. -/
def State.runAccz (s : State) (core : Nat) (nm rb : BitVec 10) : MxRun :=
  .ok (s.modCore core (fun c => c.setRows rb.toNat (countOf nm) (fun _ => AccRow.zero)), 0)

/-- R198. The rank of an accumulator value's magnitude: a NaN above every number. -/
def magnitude (kind : AccKind) (x : Nat) : Nat :=
  match kind with
  | .zero => 0
  | .fp => if 0x7F800000 < x % 2 ^ 31 then 2 ^ 32 else x % 2 ^ 31
  | .int => (Elem.int32.intVal x).natAbs

/-- R198. Whether pruning to `n` of 24 keeps column `c` of a row. -/
def keeps (kind : AccKind) (row : List Nat) (n c : Nat) : Bool :=
  let m := magnitude kind (row.getD c 0)
  let g := c / 24 * 24
  let ahead := (List.range 24).filter (fun k =>
    let o := g + k
    decide (o < row.length) && (decide (m < magnitude kind (row.getD o 0)) ||
      (decide (m = magnitude kind (row.getD o 0)) && decide (o < c))))
  decide (ahead.length < n)

/-- R198. One row read: conversion in RNE, pruned columns and ZERO rows giving zero bits. -/
def readRow (kind : AccKind) (t : Elem) (sat : Bool) (prune : Option Nat) (row : List Nat) : List (Nat × Flags) :=
  (List.range row.length).map (fun c =>
    let kept := match prune with
      | none => true
      | some n => keeps kind row n c
    if !kept || kind == .zero then (0, 0)
    else convert (if kind = .fp then .fp32 else .int32) t .rne sat (row.getD c 0))

/-- R198. ACCRD in execution. -/
def State.runAccrd (s : State) (core : Nat) (op : MxOp) (t : BitVec 3) (rb : BitVec 10) (cq : BitVec 2) (sat : BitVec 1)
    (pr : BitVec 2) : MxRun :=
  let sh := tshapeOf op.shapeX
  let prune := if pr = 0 then none else some (sparseN pr.toNat)
  let step := fun (p : Core × Flags) (i : Nat) =>
    let a := p.1.accRow (rb.toNat + i)
    let row := (List.range sh.cols).map (fun c => (a.elem (32 * cq.toNat + c)).toNat)
    let r := readRow a.kind (mxElem sh.fmt) (sat == 1) prune row
    (p.1.setTile t.toNat ((p.1.tile t.toNat).setRow sh i (r.map (·.1)) a.poison), p.2 ||| orFlags (r.map (·.2)))
  let (c, f) := (List.range sh.rows).foldl step (s.core core, 0)
  .ok (s.setCore core c, f)

/-- R199. One element of a tile as an accumulator element. -/
def toAcc (fmt raw : Nat) : Nat × Flags :=
  let t := mxElem fmt
  if fmt = 0 then (raw, 0) else convert t (if t.isFloat then .fp32 else .int32) .rne false raw

/-- R199. ACCWR in execution. -/
def State.runAccwr (s : State) (core : Nat) (op : MxOp) (t : BitVec 3) (rb : BitVec 10) (cq : BitVec 2) : MxRun :=
  let sh := tshapeOf op.shapeX
  let step := fun (p : Core × Flags) (i : Nat) =>
    let tile := p.1.tile t.toNat
    let vals := (tile.row sh i).map (toAcc sh.fmt)
    let old := p.1.accRow (rb.toNat + i)
    let filled := (List.range sh.cols).foldl
      (fun r c => r.setElem (32 * cq.toNat + c) (BitVec.ofNat 32 (vals.getD c (0, 0)).1)) old
    let pz := NSet.has tile.poison i
    (p.1.setAcc (rb.toNat + i)
      { filled with kind := classKind sh.fmt, poison := if sh.cols = 128 then pz else old.poison || pz },
      p.2 ||| orFlags (vals.map (·.2)))
  let (c, f) := (List.range sh.rows).foldl step (s.core core, 0)
  .ok (s.setCore core c, f)

/-- R200. ACCCP in execution: every source row is read first. -/
def State.runAcccp (s : State) (core : Nat) (nm : BitVec 6) (rs rd : BitVec 10) : MxRun :=
  let src := (s.core core)
  .ok (s.modCore core (fun c => c.setRows rd.toNat (countOf nm) (fun i => src.accRow (rs.toNat + i))), 0)

/-- The spans of a tile's rows in memory. -/
def rowSpans (addr : Word) (rows stride n : Nat) : List (Int × Nat) :=
  (List.range rows).map (fun i => ((addr.toNat + i * stride : Nat), n))

/-- R201. TLOAD in execution. -/
def State.runTload (s : State) (core : Nat) (op : MxOp) (t : BitVec 3) (stride : BitVec 10) : MxRun := do
  let sh := tshapeOf op.shapeX
  let addr := moveAddr op.a op.b
  let st := moveStride sh.fmt sh.cols stride
  s.mxLocks core (rowSpans addr sh.rows st sh.rowBytes) false
  let el := mxElem sh.fmt
  let step := fun (c : Core) (i : Nat) =>
    match ownPlace core (addr.toNat + i * st : Nat) sh.rowBytes with
    | none => c
    | some l =>
      let row := (List.range sh.cols).map (fun (k : Nat) =>
        let p := el.place k
        s.readAt ⟨l.space, l.off + p.byte.toNat, l.va⟩ p.bytes / 2 ^ p.bit % 2 ^ p.width)
      c.setTile t.toNat ((c.tile t.toNat).setRow sh i row (s.poisonAt l sh.rowBytes))
  .ok (s.setCore core ((List.range sh.rows).foldl step (s.core core)), 0)

/-- R184. The state with the poison mark set on every granule that a place touches. -/
def State.markGranules (s : State) (l : Loc) (n : Nat) : State :=
  (List.range ((l.off + n + 15) / 16 - l.off / 16)).foldl
    (fun t k => t.setMemory l.space ((t.memory l.space).setPoison (l.off / 16 * 16 + 16 * k) true)) s

/-- R201. One row of a TSTORE written: only the elements' bits change. -/
def State.storeRow (s : State) (core : Nat) (addr : Word) (t : Elem) : List Nat → Nat → State
  | [], _ => s
  | x :: xs, c =>
    let s1 := match elemPlace core addr t c with
      | some (l, _) => s.writeElem l t c x
      | none => s
    s1.storeRow core addr t xs (c + 1)

/-- R201. TSTORE in execution. Its rows are one write to R184 (DEDUCED, log 37): clean rows that cover a granule together clear its
mark. -/
def State.runTstore (s : State) (core : Nat) (op : MxOp) (t : BitVec 3) (cvt : BitVec 1) (fmt : BitVec 5)
    (stride : BitVec 10) : MxRun := do
  let sh := tshapeOf op.shapeX
  let out := storeFmt sh cvt fmt
  let addr := moveAddr op.a op.b
  let st := moveStride out sh.cols stride
  let n := rowBytes out sh.cols
  s.mxLocks core (rowSpans addr sh.rows st n) true
  let tile := (s.core core).tile t.toNat
  let el := mxElem out
  let rowOut := fun i => (tile.row sh i).map (fun x =>
    if cvt = 1 then convert (mxElem sh.fmt) el .rne false x else (x, 0))
  let rowAddr := fun (i : Nat) => addr + w64 (i * st)
  let s1 := (List.range sh.rows).foldl (fun u i => u.storeRow core (rowAddr i) el ((rowOut i).map (·.1)) 0) s
  let spans := fun (i : Nat) => (List.range sh.cols).filterMap (fun (c : Nat) => elemPlace core (rowAddr i) el c)
  let clean := (List.range sh.rows).filter (fun i => !NSet.has tile.poison i)
  let dirty := (List.range sh.rows).filter (fun i => NSet.has tile.poison i)
  let bitsOf := fun (i : Nat) => (List.range sh.cols).flatMap (fun (c : Nat) => elemBits core (rowAddr i) el c)
  let s2 := s1.clearBits (clean.flatMap bitsOf)
  let s3 := (dirty.flatMap spans).foldl (fun u p => u.markGranules p.1 p.2) s2
  .ok (s3, orFlags ((List.range sh.rows).flatMap (fun i => (rowOut i).map (·.2))))

/-- R202. TTRANS in execution. -/
def State.runTtrans (s : State) (core : Nat) (op : MxOp) (d t : BitVec 3) : MxRun :=
  let src := tshapeOf op.shapeA
  let dst := tshapeOf op.shapeX
  let tile := (s.core core).tile t.toNat
  let pz := tile.anyPoison src.rows
  let step := fun (c : Core) (i : Nat) =>
    c.setTile d.toNat ((c.tile d.toNat).setRow dst i ((List.range src.rows).map (fun r => tile.elem src r i)) pz)
  .ok (s.setCore core ((List.range src.cols).foldl step (s.core core)), 0)

/-- R203. The issue checks of a follow-on MMA, made where it stands in the queue. -/
def State.followCheck (s : State) (core : Nat) (op : MxOp) (swap : Bool) (reg : BitVec 5) (rb : BitVec 10)
    (cq : BitVec 2) : Res Unit :=
  let c := s.core core
  let x := s.ctx ⟨core, control⟩
  let l := if swap then c.shadow else c.active
  if !op.follow then .ok ()
  else
    match (do
      mxNeed (tshapeOf op.shapeX).valid op.word 1
      mmaCheck ⟨x.dom, x.priv⟩ l.view (fun r => (c.accRow r).kind) (tshapeOf op.shapeX) reg op.a rb cq op.word) with
    | .ok _ => .ok ()
    | .error f => .error ⟨f.cause, f.val⟩

/-- The execution of a matrix operation. -/
def State.runMatrix (s : State) (core : Nat) (op : MxOp) : MxRun :=
  match op.instr with
  | .wload t a => s.runWload core op t a
  | .mma t a rb cq => do
    s.followCheck core op false a rb cq
    s.runMma core op false t a rb cq
  | .mmasw t a rb cq => do
    s.followCheck core op true a rb cq
    s.runMma core op true t a rb cq
  | .accz nm rb => s.runAccz core nm rb
  | .accrd t rb cq sat pr => s.runAccrd core op t rb cq sat pr
  | .accwr t rb cq => s.runAccwr core op t rb cq
  | .acccp nm rs rd => s.runAcccp core nm rs rd
  | .tload t _ _ stride => s.runTload core op t stride
  | .tstore t _ _ cvt fmt stride => s.runTstore core op t cvt fmt stride
  | .ttrans d t => s.runTtrans core op d t
  | _ => .ok (s, 0)

/-! ## Events of the engine (R187, R190, R191) -/

/-- The operation belongs to major 0x40. -/
def MxOp.isMatrix (op : MxOp) : Bool :=
  match op.instr with
  | .wload _ _ | .mma _ _ _ _ | .mmasw _ _ _ _ | .accz _ _ | .accrd _ _ _ _ _ | .accwr _ _ _ | .acccp _ _ _
  | .tload _ _ _ _ | .tstore _ _ _ _ _ _ | .ttrans _ _ => true
  | _ => false

/-- R194, R217, R218. The FN of an engine operation, and for a function operation its place in TRAPPROG[39:36] (R213). -/
def MxOp.codes (op : MxOp) : Nat × Nat :=
  match op.instr with
  | .wload _ _ => (0, 0) | .mma _ _ _ _ => (1, 0) | .mmasw _ _ _ _ => (2, 0) | .accz _ _ => (3, 0)
  | .accrd _ _ _ _ _ => (4, 0) | .accwr _ _ _ => (5, 0) | .acccp _ _ _ => (6, 0) | .tload _ _ _ _ => (7, 0)
  | .tstore _ _ _ _ _ _ => (8, 0) | .ttrans _ _ => (9, 0)
  | .chadd _ _ _ => (0, 4) | .chsub _ _ _ => (1, 4) | .chmul _ _ _ => (2, 4) | .chcomp _ _ _ => (3, 4)
  | .chdiff _ _ => (4, 4) | .chint _ _ => (5, 4) | .chmov _ _ => (6, 4) | .chfree _ => (7, 4) | .chlen _ _ => (8, 4)
  | .chnorm _ _ => (9, 4) | .chtrunc _ _ _ => (10, 4)
  | .chfit _ _ _ _ => (0, 5) | .cheval _ _ _ => (1, 5) | .chroot _ _ _ _ => (2, 5) | .chconst _ _ _ _ => (3, 5)
  | .chx _ _ _ => (4, 5) | .chld _ _ _ => (5, 5) | .chst _ _ _ => (6, 5) | .chscal _ _ _ => (7, 5)
  | _ => (0, 0)

/-- R211. The g register that an engine operation writes; g0 for none. -/
def MxOp.gdest (op : MxOp) : BitVec 5 :=
  match op.instr with
  | .chlen d _ => d
  | .chnorm d _ => d
  | .cheval d _ _ => d
  | .chroot d _ _ _ => d
  | _ => 0

/-- R187, R213. The TRAPPROG of a failed operation. -/
def MxOp.trapProg (op : MxOp) (overflow : Bool) : Word :=
  w64 (4 * 2 ^ 61 + (if overflow then 2 ^ 40 else 0) + op.codes.2 * 2 ^ 36 + op.codes.1 * 2 ^ 32 + op.seq % 2 ^ 32)

/-- R187, R213. A failure in execution: the engine is suspended at the operation and a deferred trap becomes pending. -/
def State.failMx (s : State) (core : Nat) (op : MxOp) (f : Fail) (overflow : Bool) : State :=
  let s1 := s.modCore core (fun c => { c with
    mxSusp := true
    mxq := c.mxq.map (fun o => { o with started := false }) })
  let s2 := s1.modCtx ⟨core, control⟩ (fun c => c.unawait op.bank op.gdest)
  s2.defer ⟨core, control⟩ ⟨.matrix, op.seq, ⟨f.cause, 0, f.val, op.trapProg overflow⟩⟩

/-- R97, R188. The head of the queue has completed. -/
def State.retireMx (s : State) (core : Nat) : State :=
  (s.modCore core (fun c => { c with mxq := c.mxq.tail, mxDone := c.mxDone + 1 })).modCtx ⟨core, control⟩
    (fun c => { c with cntTile := c.cntTile - 1 })

/-- R193. An earlier access of the control context is still to be performed. -/
def State.olderPending (s : State) (core memSeq : Nat) : Bool :=
  (s.ctx ⟨core, control⟩).pend.any (fun o => o.isAccess && decide (o.seq < memSeq))

/-- The first operation not yet started is marked started. -/
def startFirst : List MxOp → List MxOp
  | [] => []
  | op :: rest => if op.started then op :: startFirst rest else { op with started := true } :: rest

/-- R190. What an engine operation uses: tiles it reads and writes, rows of the accumulator store, and a path to memory. -/
structure MxUse where
  tiles : List Nat
  written : List Nat
  rows : Nat × Nat
  putsRows : Bool
  memory : Bool
  deriving DecidableEq, Repr

/-- R190, R215. What an operation uses. -/
def MxOp.uses (op : MxOp) : MxUse :=
  let n := (tshapeOf op.shapeX).rows
  match op.instr with
  | .wload t a => ⟨t.toNat :: (if (tshapeOf op.shapeX).sp = 0 then [] else [t.toNat + 1]), [], (0, 0), false, a != 0⟩
  | .mma t a rb _ => ⟨[t.toNat], [], (rb.toNat, n), true, a != 0⟩
  | .mmasw t a rb _ => ⟨[t.toNat], [], (rb.toNat, n), true, a != 0⟩
  | .accz nm rb => ⟨[], [], (rb.toNat, countOf nm), true, false⟩
  | .accrd t rb _ _ _ => ⟨[], [t.toNat], (rb.toNat, n), false, false⟩
  | .accwr t rb _ => ⟨[t.toNat], [], (rb.toNat, n), true, false⟩
  | .acccp nm rs rd => ⟨[], [], (min rs.toNat rd.toNat, max rs.toNat rd.toNat + countOf nm - min rs.toNat rd.toNat), true, false⟩
  | .tload t _ _ _ => ⟨[], [t.toNat], (0, 0), false, true⟩
  | .tstore t _ _ _ _ _ => ⟨[t.toNat], [], (0, 0), false, true⟩
  | .ttrans d t => ⟨[t.toNat], [d.toNat], (0, 0), false, false⟩
  | .chfit _ _ _ _ | .chld _ _ _ | .chst _ _ _ => ⟨[], [], (0, 0), false, true⟩
  | _ => ⟨[], [], (0, 0), false, false⟩

/-- An MMA or MMASW; a WLOAD. -/
def MxOp.isMma (op : MxOp) : Bool :=
  match op.instr with
  | .mma _ _ _ _ => true
  | .mmasw _ _ _ _ => true
  | _ => false
def MxOp.isWload (op : MxOp) : Bool :=
  match op.instr with
  | .wload _ _ => true
  | _ => false
def MxOp.isMmasw (op : MxOp) : Bool :=
  match op.instr with
  | .mmasw _ _ _ _ => true
  | _ => false

/-- R190, R215. A started operation holds back a later one: an MMASW and a WLOAD follow an earlier WLOAD, a function operation an
earlier one, and any operation one whose tiles, rows or path to memory it needs; MMAs follow each other into the array. -/
def MxOp.holdsBack (p q : MxOp) : Bool :=
  let u := p.uses
  let v := q.uses
  let overlap := decide (u.rows.1 < v.rows.1 + v.rows.2) && decide (v.rows.1 < u.rows.1 + u.rows.2)
  (p.isWload && (q.isWload || q.isMmasw)) || (!p.isMatrix && !q.isMatrix) || (u.memory && v.memory && !(p.isMma && q.isMma)) ||
    v.written.any (fun t => u.tiles.contains t || u.written.contains t) || v.tiles.any (fun t => u.written.contains t) ||
    (overlap && (u.putsRows || v.putsRows) && !(p.isMma && q.isMma))

/-- R190. The next operation may start: the engine runs, no started operation holds it back, the arrays are awake for a matrix
operation, and the context's earlier accesses are performed (R193). -/
def State.mayStartMx (s : State) (core : Nat) : Bool :=
  let c := s.core core
  match c.mxq.find? (fun op => !op.started) with
  | none => false
  | some op => !c.mxSusp && !s.olderPending core op.memSeq && c.mxq.all (fun p => !(p.started && p.holdsBack op)) &&
      (!op.isMatrix || (s.cluster (clusterOf core)).awake)

/-- R190. MATRIX_OP_START. -/
def execMatrixOpStart (core : Nat) (s : State) : Out :=
  .next (if s.mayStartMx core then s.modCore core (fun c => { c with mxq := startFirst c.mxq }) else s)

/-- R190. MATRIX_OP_COMPLETE: the results of the oldest operation are written, and its flags join the pending set. -/
def execMatrixOpComplete (core : Nat) (s : State) : Out :=
  .next (match (s.core core).mxq with
    | [] => s
    | op :: _ =>
      if op.started && op.isMatrix then
        match s.runMatrix core op with
        | .ok (s1, f) =>
          ((s1.retireMx core).pendFlags ⟨core, control⟩ f).modCluster (clusterOf core)
            (fun c => { c with lastMatrix := s.cycle.toNat })
        | .error e => s.failMx core op e false
      else s)

/-- R191. ARRAY_WAKE: the arrays of cluster n wake 16 n cycles after its request. -/
def execArrayWake (cl : Nat) (s : State) : Out :=
  .next (match (s.cluster cl).wakeAt with
    | none => s
    | some t =>
      if t + 16 * cl ≤ s.cycle.toNat then
        s.modCluster cl (fun c => { c with awake := true, wakeAt := none, lastMatrix := s.cycle.toNat })
      else s)

/-- R5, R191. A matrix operation that waits to start in a sleeping cluster, because it was issued before the arrays slept or came back
with its context, raises the wake request as one issued there does (DEDUCED, log 79). -/
def State.wakeForQueue (s : State) (core : Nat) : State :=
  if !(s.core core).mxSusp && (s.core core).mxq.any (fun op => op.isMatrix && !op.started) then s.requestWake core else s

/-- A core of a cluster executes an operation of major 0x40. -/
def State.clusterBusy (s : State) (cl : Nat) : Bool :=
  (List.range 8).any (fun i => (s.core (8 * cl + i)).mxq.any (fun op => op.started && op.isMatrix))

/-- R191. ARRAY_SLEEP: 65,536 cycles without a matrix operation. -/
def execArraySleep (cl : Nat) (s : State) : Out :=
  .next (let c := s.cluster cl
    if c.awake && !s.clusterBusy cl && decide (c.lastMatrix + 65536 ≤ s.cycle.toNat) then
      (List.range 8).foldl (fun t i => t.wakeForQueue (8 * cl + i)) (s.modCluster cl (fun c => { c with awake := false }))
    else s)

/-- R189. A core in which a discarded operation has left its mark on no TSHAPE: that of a TTRANS is again what it was, unless the
program has written it since. -/
def Core.unshape (c : Core) (op : MxOp) : Core :=
  match op.instr with
  | .ttrans d _ => if op.c.tag then c else { c with tshape := SMap.set c.tshape d.toNat op.c.word }
  | _ => c
/-- R189. The TSHAPE of a tile is written by the program: the discard of an earlier TTRANS leaves it. -/
def Core.reshaped (c : Core) (t : Nat) : Core :=
  { c with mxq := c.mxq.map (fun op => match op.instr with
      | .ttrans d _ => if d.toNat = t then { op with c := ⟨op.c.bits, true⟩ } else op
      | _ => op) }

/-- R188, R189. DISCARD of the engine: while it is suspended, the failing operation and every later queued one are discarded. -/
def State.discardMx (s : State) (k : Nat) : State :=
  if !(s.core k).mxSusp then s
  else
    let q := (s.core k).mxq
    let s1 := s.modCore k (fun c => { q.reverse.foldl (fun x op => x.unshape op) c with
      mxq := [], mxSusp := false, mxDone := c.mxDone + BitVec.ofNat 32 q.length })
    s1.modCtx ⟨k, control⟩ (fun c =>
      q.foldl (fun x op => x.unawait op.bank op.gdest) { c with cntTile := c.cntTile - q.length })

end Sys2Proof.Machine
end

