-- ==== Sys2Proof/Machine/Copy.lean ====
section
/-!
DEFINITION. The copy engine (R234 to R245): the checks of CPY, CPYM and CPYQ at issue, their range locks, the moving of
elements, completion, failure, and the engine's registers.
-/

namespace Sys2Proof.Machine

/-! ## Spans and locks (R232, R234) -/

/-- A span of addresses, from `lo` up to `hi`. -/
structure Span where
  lo : Int
  hi : Int
  deriving DecidableEq, Repr

/-- The length of a span. -/
def Span.len (p : Span) : Nat := (p.hi - p.lo).toNat
/-- R232. The span of a record bound at an address. -/
def ShapeRec.spanAt (r : ShapeRec) (a : Word) : Span := ⟨(r.span a).1, (r.span a).2⟩
/-- Two spans share a byte. -/
def Span.meets (p q : Span) : Bool := decide (p.lo < q.hi) && decide (q.lo < p.hi)

/-- R238 check 5. The region of a span, which lies wholly within one other than the fabric. -/
def Span.region (p : Span) (core : Nat) : Option Region :=
  if p.lo < 0 ∨ 2 ^ 63 < p.hi then none
  else
    match decodeRegion core (i64 p.lo), decodeRegion core (i64 (p.hi - 1)) with
    | .ok .translated, .ok .translated => some .translated
    | .ok (.spad a o), .ok (.spad b _) => if a = b then some (.spad a o) else none
    | .ok (.cmem a o), .ok (.cmem _ _) => some (.cmem a o)
    | _, _ => none

/-- R234. A span as the issuing core's table compares it. -/
def Span.inTable (p : Span) (core : Nat) (r : Region) : Nat × Nat :=
  let base := match r with
    | .spad n o => lockAddr core ⟨.spad n, o, 0⟩
    | _ => p.lo.toNat
  (base, base + p.len)

/-- R234. The entry of a span of a copy. -/
def lockEntry (core seq : Nat) (dom : BitVec 6) (p : Nat × Nat) (dst : Bool) : Lock :=
  { lo := p.1, hi := p.2, dst := dst, post := false, owner := core, num := seq, dom := dom }

/-- The spans of a copy with their regions and kinds; the flag says DST. -/
structure CopyPlan where
  srcRec : ShapeRec
  dstRec : ShapeRec
  spans : List (Span × Region × Bool)
  deriving DecidableEq, Repr

/-- R234. A span is also registered in the cluster's table. -/
def inClusterTable : Region → Bool
  | .spad _ _ => false
  | _ => true

/-- R239. The tables have a free entry for each span. -/
def State.lockSpace (s : State) (core : Nat) (p : CopyPlan) : Bool :=
  decide ((s.core core).locks.length + p.spans.length ≤ 16) &&
    decide ((s.cluster (clusterOf core)).locks.length + (p.spans.filter (fun x => inClusterTable x.2.1)).length ≤ 32)

/-- R234. The state with a copy's spans registered in the issuing core's table and the cluster's. -/
def State.registerLocks (s : State) (core seq : Nat) (dom : BitVec 6) (p : CopyPlan) : State :=
  p.spans.foldl (fun t x =>
    let e := lockEntry core seq dom (x.1.inTable core x.2.1) x.2.2
    let t1 := t.modCore core (fun c => { c with locks := c.locks ++ [e] })
    if inClusterTable x.2.1 then t1.modCluster (clusterOf core) (fun c => { c with locks := c.locks ++ [e] }) else t1) s

/-- An entry belongs to a copy. -/
def Lock.ofCopy (k : Lock) (core seq : Nat) : Bool := !k.post && k.owner == core && k.num == seq

/-- R234. Every entry of a copy removed, from every table. -/
def State.removeLocks (s : State) (core seq : Nat) : State :=
  { s with
    cores := s.cores.map (fun p => (p.1, { p.2 with locks := p.2.locks.filter (fun k => !k.ofCopy core seq) }))
    clusters := s.clusters.map (fun p => (p.1, { p.2 with locks := p.2.locks.filter (fun k => !k.ofCopy core seq) })) }

/-! ## Issue (R238) -/

/-- R238. The alignment of a span's start. -/
def Elem.copyAlign (t : Elem) : Nat := match t.width with
  | 16 => 2
  | 32 => 4
  | _ => 1

/-- R238 check 4. R92 on a span. -/
def spanCap (r : Reg) (dom : BitVec 6) (priv : Bool) (use : CapUse) (p : Span) (align : Nat) : Res Unit := do
  let a := i64 p.lo
  checkCapRights r dom priv use a
  ensure (r.covers p.lo p.len) Cause.capBounds a
  ensure (decide (a.toNat % align = 0)) Cause.align a

/-- A check of R238 that failed, with its number. -/
structure CopyFail where
  cause : BitVec 8
  val : Word
  check : Nat
  deriving DecidableEq, Repr

/-- The result of the checks of R238. -/
abbrev CopyChk (α : Type) := Except CopyFail α

/-- Fail a check of R238 unless a condition holds. -/
def copyNeed (b : Bool) (cause : BitVec 8) (val : Word) (check : Nat) : CopyChk Unit :=
  if b then .ok () else .error ⟨cause, val, check⟩

/-- A check's result under a number. -/
def copyRes {α : Type} (r : Res α) (check : Nat) : CopyChk α :=
  match r with
  | .ok a => .ok a
  | .error f => .error ⟨f.cause, f.val, check⟩

/-- Which of two records a count that disagrees names: the spec does not say. -/
def State.pickIndex (s : State) (a b : Nat) : Word := if s.openVal.getLsbD 0 then w64 a else w64 b

/-- R238. The checks of CPY and CPYQ: the state with the records read, and the plan. -/
def State.copyChecks (s : State) (a b : BitVec 5) (srec drec : BitVec 16) : CopyChk (State × CopyPlan) := do
  let core := s.cur.core
  let who := s.recordReader s.cur
  let (s1, sr) ← copyRes (s.shape who srec.toNat) 1
  let (s2, dr) ← copyRes (s1.shape who drec.toNat) 1
  let sp := sr.spanAt (s.x a)
  let dp := dr.spanAt (s.x b)
  copyNeed (decide (sr.count = dr.count)) Cause.illegalOperand (s.pickIndex srec.toNat drec.toNat) 2
  copyNeed (!sp.meets dp) Cause.illegalOperand (s.pickIndex srec.toNat drec.toNat) 2
  copyNeed sr.rd Cause.shapeRights (zext srec) 3
  copyNeed dr.wr Cause.shapeRights (zext drec) 3
  copyRes (spanCap (s.g a) s.me.dom s.me.priv .load sp sr.elem.copyAlign) 4
  copyRes (spanCap (s.g b) s.me.dom s.me.priv .store dp dr.elem.copyAlign) 4
  match sp.region core, dp.region core with
  | some x, some y => .ok (s2, ⟨sr, dr, [(sp, x, false), (dp, y, true)]⟩)
  | none, _ => .error ⟨Cause.shapeBounds, i64 sp.lo, 5⟩
  | _, none => .error ⟨Cause.shapeBounds, i64 dp.lo, 5⟩

/-- R196, R238 check 4. Bytes of the scales of a CPYM's follow-on MMA, by the latch it will use. -/
def Core.scaleBytes (c : Core) (sh : TShape) (sw : Bool) : Nat :=
  let l := if sw then c.latchViews.2 else c.latchViews.1
  4 * sh.rows * kBlocks l.depth

/-- R238. The checks of CPYM. -/
def State.copyTileChecks (s : State) (t : BitVec 3) (a b : BitVec 5) (srec : BitVec 16) (sw : Bool) :
    CopyChk (State × CopyPlan) := do
  let core := s.cur.core
  let (s1, sr) ← copyRes (s.shape (s.recordReader s.cur) srec.toNat) 1
  let sh := tshapeOf (s.shapeWord t)
  let sp := sr.spanAt (s.x a)
  copyNeed (sh.valid && decide (sr.count = sh.rows * sh.cols)) Cause.illegalOperand (zext srec) 2
  copyNeed (!s.myCore.copyTargets t.toNat) Cause.illegalOperand s.me.ir 2
  copyNeed sr.rd Cause.shapeRights (zext srec) 3
  copyRes (spanCap (s.g a) s.me.dom s.me.priv .load sp sr.elem.copyAlign) 4
  let scaled := mxScaled sh.fmt || sw
  let n := s.myCore.scaleBytes sh sw
  copyRes (if scaled then checkCap (s.g b) s.me.dom s.me.priv .load (s.x b) n 4 else .ok ()) 4
  match sp.region core with
  | none => .error ⟨Cause.shapeBounds, i64 sp.lo, 5⟩
  | some x => do
    copyNeed (!scaled || match ownPlace core (s.x b).toNat n with
      | some l => isOwnSpad (w64 l.va)
      | none => false) Cause.shapeBounds (s.x b) 5
    .ok (s1, ⟨sr, sr, [(sp, x, false)]⟩)

/-- A copy of the current instruction. -/
def State.newCopy (s : State) (fn : Nat) (ui : BitVec 1) (a b : BitVec 5) (p : CopyPlan) : Copy :=
  { seq := s.myCore.cpIssued.toNat, fn := fn, ui := ui == 1, head := s.me.pc, word := s.me.ir, src := s.g a, dst := s.g b
    srcRec := p.srcRec, dstRec := p.dstRec, rnd := s.me.rnd, tile := 0, tshape := 0, rb := 0, cq := 0, sw := false
    memSeq := s.me.pendSeq, mxSeq := s.myCore.mxIssued.toNat, started := false, failed := false, done := 0, flags := 0
    breg := b, dirty := [], dom := s.me.dom }

/-- R239. The issuing core's table has a free entry for each span of a copy, and the cluster's for each that R234 places there; one that
R238 is to refuse needs none of these. -/
def State.copyRoom (s : State) (spans : Nat) (checks : CopyChk (State × CopyPlan)) : Bool :=
  decide (s.myCore.locks.length + spans ≤ 16) && (match checks with
    | .ok (_, p) => s.lockSpace s.cur.core p
    | .error _ => true)

/-- R291. The state that the reads of the records of a CPY or CPYQ leave, whatever check fails after them. -/
def State.copyRead (s : State) (srec drec : BitVec 16) : State :=
  let who := s.recordReader s.cur
  match s.shape who srec.toNat with
  | .ok (s1, _) => s1.recordRead who drec.toNat
  | .error _ => s.recordRead who srec.toNat

/-- R237 to R239, R244. A copy issues: its checks, its locks, its number, and its count. `read` is what the reads of its records leave. -/
def State.issueCopy (s read : State) (checks : CopyChk (State × CopyPlan)) (make : CopyPlan → Copy) : Out :=
  s.controlOn (if s.myCore.cpSusp then s else read) (do
    s.need (!s.myCore.cpSusp) Cause.illegalOperand 0x830 (s.byteProg 0)
    match checks with
    | .error f => .error (s.trapHere f.cause f.val (s.byteProg f.check))
    | .ok (s1, p) =>
      if !s.lockSpace s.cur.core p || decide (15 ≤ s.me.cntCopy) then .ok s.hold
      else
        let c := make p
        let s2 := (s1.registerLocks s.cur.core c.seq s.me.dom p).modMyCore (fun k =>
          { k with copies := k.copies ++ [c], cpIssued := k.cpIssued + 1 })
        .ok (s2.modMe (fun x => { x with cntCopy := x.cntCopy + 1 })).advance)

/-- R237. CPY. -/
def execCpy (ui : BitVec 1) (a b : BitVec 5) (srec drec : BitVec 16) (s : State) : Out :=
  s.issueCopy (s.copyRead srec drec) (s.copyChecks a b srec drec) (s.newCopy 0 ui a b)
/-- R237. CPYQ. -/
def execCpyq (ui : BitVec 1) (a b : BitVec 5) (srec drec : BitVec 16) (s : State) : Out :=
  s.issueCopy (s.copyRead srec drec) (s.copyChecks a b srec drec) (s.newCopy 2 ui a b)
/-- R237, R243. CPYM. -/
def execCpym (ui : BitVec 1) (t : BitVec 3) (a b : BitVec 5) (srec : BitVec 16) (rb : BitVec 10) (cq : BitVec 2)
    (sw : BitVec 1) (s : State) : Out :=
  s.issueCopy (s.recordRead (s.recordReader s.cur) srec.toNat) (s.copyTileChecks t a b srec (sw == 1)) (fun p =>
    { s.newCopy 1 ui a b p with tile := t.toNat, tshape := s.shapeWord t, rb := rb.toNat, cq := cq.toNat, sw := sw == 1 })

/-! ## Start (R235, R240, R243) -/

/-- R240. The number of elements of a copy. -/
def Copy.count (c : Copy) : Nat := c.srcRec.count
/-- The source span of a copy. -/
def Copy.srcSpan (c : Copy) : Span := c.srcRec.spanAt c.src.word
/-- The destination span of a CPY or CPYQ. -/
def Copy.dstSpan (c : Copy) : Option Span := if c.fn = 1 then none else some (c.dstRec.spanAt c.dst.word)

/-- R235. A copy conflicts with a started, unfinished one. -/
def Copy.conflicts (c k : Copy) : Bool :=
  (match c.dstSpan with
    | none => false
    | some d => d.meets k.srcSpan || (match k.dstSpan with
      | some e => d.meets e
      | none => false)) ||
    (match k.dstSpan with
      | some e => c.srcSpan.meets e
      | none => false)

/-- R243. An operation of the matrix queue names a tile. -/
def MxOp.namesTile (op : MxOp) (t : Nat) : Bool :=
  match op.instr with
  | .wload x _ => x.toNat == t || (x.toNat + 1 == t && (tshapeOf op.shapeX).sp != 0)
  | .mma x _ _ _ => x.toNat == t
  | .mmasw x _ _ _ => x.toNat == t
  | .accrd x _ _ _ _ => x.toNat == t
  | .accwr x _ _ => x.toNat == t
  | .tload x _ _ _ => x.toNat == t
  | .tstore x _ _ _ _ _ => x.toNat == t
  | .ttrans x y => x.toNat == t || y.toNat == t
  | _ => false

/-- All contexts of a core, wherever they are, with their slots: live, suspended (R250) or switched out (R364), a resident handler
after its YIELD among them. -/
def Core.allCtxs (c : Core) : List (Nat × Ctx) := c.ctxs ++ c.suspended ++ c.away.flatMap (fun a => a.2.1 ++ [(control, a.2.2)])

/-- R236. An issued access of a context of a core, not yet performed, is one that a lock in a table it checks would refuse. -/
def State.meetsLock (s : State) (core : Nat) (k : Lock) : Bool :=
  (s.core core).allCtxs.any (fun p => p.2.pend.any (fun o => match o.home with
    | .local l => o.isAccess && k.refuses o.kind.writes (lockAddr core l) o.size
    | .remote _ _ => false))

/-- R234. The core whose table a span in a peer scratchpad joins, with the span as that table compares it. -/
def Span.peer (p : Span) (core : Nat) : Option (Nat × Nat × Nat) :=
  match p.region core with
  | some (.spad n o) => if n = core then none else
      let base := lockAddr n ⟨.spad n, o, 0⟩
      some (n, base, base + p.len)
  | _ => none

/-- The spans of a copy that join peer tables, with their kind. -/
def Copy.peerSpans (c : Copy) (core : Nat) : List (Nat × Nat × Nat × Bool) :=
  ((c.srcSpan.peer core).map (fun x => (x.1, x.2.1, x.2.2, false))).toList ++
    ((c.dstSpan.bind (·.peer core)).map (fun x => (x.1, x.2.1, x.2.2, true))).toList

/-- R234, R236. No access that was checked before an entry of the copy stood in its table is still to be performed in the span: accesses
of the core, of the cluster's cores where the span is in the cluster's table, and of a peer. -/
def State.spansQuiet (s : State) (core : Nat) (k : Copy) : Bool :=
  let own := ((k.srcSpan.region core).map (fun r => (k.srcSpan, r, false))).toList ++
    (k.dstSpan.bind (fun d => (d.region core).map (fun r => (d, r, true)))).toList
  own.all (fun x =>
      let e := lockEntry core k.seq k.dom (x.1.inTable core x.2.1) x.2.2
      !s.meetsLock core e && (!inClusterTable x.2.1 || (List.range 8).all (fun i => !s.meetsLock (8 * clusterOf core + i) e))) &&
    (k.peerSpans core).all (fun x => !s.meetsLock x.1 (lockEntry core k.seq k.dom (x.2.1, x.2.2.1) x.2.2.2))

/-- R234. A peer's table has room for each span of a copy that it is to hold. -/
def State.peerRoom (s : State) (core : Nat) (k : Copy) : Bool :=
  let spans := k.peerSpans core
  spans.all (fun x => decide ((s.core x.1).locks.length + (spans.filter (fun y => y.1 == x.1)).length ≤ 16))

/-- The spans of a transfer. -/
def Xfer.srcSpan (x : Xfer) : Span :=
  let a : Nat := 0x7E00 * 2 ^ 48 + x.src
  ⟨a, a + x.len⟩
def Xfer.dstSpan (x : Xfer) : Span :=
  let a : Nat := 0x7C00 * 2 ^ 48 + x.dstCore * 2 ^ 24 + x.dst
  ⟨a, a + x.len⟩

/-- R235. A transfer's spans conflict with those of started, unfinished work of its core. -/
def Xfer.conflicts (x : Xfer) (src : Span) (dst : Option Span) : Bool :=
  x.dstSpan.meets src || dst.any (fun d => x.dstSpan.meets d || x.srcSpan.meets d)

/-- R240. The first copy that has not started. -/
def Core.nextCopy (c : Core) : Option Copy := c.copies.find? (fun k => !k.started && !k.failed)

/-- R234 to R236, R240, R243, R245. The next copy may start. -/
def State.mayStartCopy (s : State) (core : Nat) (k : Copy) : Bool :=
  let c := s.core core
  let running := c.copies.filter (fun x => x.started)
  let earlier := c.copies.filter (fun x => decide (x.seq ≠ k.seq) && (x.started || x.failed))
  let xfers := s.xfers.filter (fun x => x.ctx.core == core && x.started)
  !c.cpSusp && decide (running.length + xfers.length < 4) && running.all (fun x => !k.conflicts x) &&
    xfers.all (fun x => !x.conflicts k.srcSpan k.dstSpan) &&
    (k.fn != 2 || earlier.isEmpty) && !s.olderPending core k.memSeq &&
    (k.fn != 1 || c.mxq.all (fun op => !op.namesTile k.tile)) && s.peerRoom core k && s.spansQuiet core k

/-- A copy of a core changed, by its issue number. -/
def Core.modCopy (c : Core) (seq : Nat) (f : Copy → Copy) : Core :=
  { c with copies := c.copies.map (fun k => if k.seq = seq then f k else k) }

/-- R234. The entries of a copy in its peers' tables. -/
def State.registerPeers (s : State) (core : Nat) (k : Copy) : State :=
  (k.peerSpans core).foldl (fun t x => t.modCore x.1 (fun c =>
    { c with locks := c.locks ++ [lockEntry core k.seq k.dom (x.2.1, x.2.2.1) x.2.2.2] })) s

/-- R240. COPY_START: the next copy starts, its entries in peer tables in effect. -/
def execCopyStart (core : Nat) (s : State) : Out :=
  .next (match (s.core core).nextCopy with
    | none => s
    | some k =>
      if !s.mayStartCopy core k then s
      else
        let s1 := s.registerPeers core k
        s1.modCore core (fun c => c.modCopy k.seq (fun x => { x with started := true })))

/-! ## Elements (R240, R241) -/

/-- A failure of a copy: the cause, the address and the side. -/
structure CopyStop where
  cause : BitVec 8
  val : Word
  dst : Bool
  deriving DecidableEq, Repr

/-- The place of one byte that a copy touches; it meets no lock. A home on a fenced die does not answer (R381). -/
def State.copyByte (s : State) (who : Who) (a : Int) (write : Bool) : Res (State × Loc × Bool) := do
  let w := i64 a
  match ← decodeRegion who.core w with
  | .spad c o =>
    ensure (!s.homeFenced ⟨.spad c, o, w.toNat⟩) Cause.linkDown w
    .ok (s, ⟨.spad c, o, w.toNat⟩, false)
  | .cmem c o => .ok (s, ⟨.cmem c, o, w.toNat⟩, false)
  | .translated =>
    let (s1, l, sealed) ← s.translate who w (if write then .store else .load)
    ensure (!s1.homeFenced l) Cause.linkDown w
    ensure (!(write && (sealed || s1.sealedAt l))) Cause.sealedWrite w
    .ok (s1, l, true)
  | .fabric => .error ⟨Cause.pageFault, w⟩

/-- R292. The places of bytes from an address on: those of one page, counted from `page`, translate by one choice between an old entry
and the new one. -/
def State.pageBytes (s : State) (who : Who) (free : Nat) (page a : Int) (write : Bool) : Nat → Res (State × List Loc × Bool)
  | 0 => .ok (s, [], false)
  | n + 1 => do
    let (s1, l, t) ← ({ s with freeN := free + (a / 65536 - page).toNat } : State).copyByte who a write
    let (s2, ls, u) ← s1.pageBytes who free page (a + 1) write n
    .ok (s2, l :: ls, t || u)

/-- The places of the bytes of an element; the flag says translated. -/
def State.copyBytes (s : State) (who : Who) (a : Int) (write : Bool) (n : Nat) : Res (State × List Loc × Bool) := do
  let (s1, ls, t) ← s.pageBytes who s.freeN (a / 65536) a write n
  .ok ({ s1 with freeN := s.freeN + n + 1 }, ls, t)

/-- R291. The state that an element's accesses leave when one fails: the translations before the failure have set A and D. -/
def State.bytesTouched (s : State) (who : Who) (a : Int) (fail : Word) (write : Bool) : State :=
  let use : CapUse := if write then .store else .load
  (s.touched who (i64 a) use).touched who fail use

/-- Bytes at places, as a number. -/
def State.bytesAt (s : State) (ls : List Loc) : Nat := ls.foldr (fun l acc => s.readAt l 1 + 256 * acc) 0

/-- A number written to bytes at places. -/
def State.putBytes (s : State) : List Loc → Nat → State
  | [], _ => s
  | l :: ls, v => (s.writeAt l 1 (v % 256)).putBytes ls (v / 256)

/-- R176. An element of a tile written; padding bits become zero. -/
def Tile.setElem (t : Tile) (sh : TShape) (i c v : Nat) : Tile :=
  let el := mxElem sh.fmt
  let p := el.place c
  let o := i * sh.rowBytes + p.byte.toNat
  let old := cellsRead t.data o p.bytes
  let old := if p.width = 6 then old % 2 ^ 30 else if p.width = 4 ∧ p.bit = 0 ∧ c + 1 = sh.cols then old % 16 else old
  let cur := old / 2 ^ p.bit % 2 ^ p.width
  { t with data := cellsWrite t.data o p.bytes (old - cur * 2 ^ p.bit + el.pad v * 2 ^ p.bit) }

/-- R240. The element format a copy writes. -/
def Copy.dstElem (c : Copy) : Elem := if c.fn = 1 then mxElem (tshapeOf c.tshape).fmt else c.dstRec.elem

/-- R240. An element's value converted; equal formats copy bits. -/
def Copy.convert (c : Copy) (raw : Nat) : Nat × Flags :=
  if c.srcRec.elem = c.dstElem then (raw, 0) else Machine.convert c.srcRec.elem c.dstElem (modeOf c.rnd.toNat) false raw

/-- The address of the first byte of an element of a record. -/
def ShapeRec.elemAddr (r : ShapeRec) (base : Word) (n : Nat) : Int × Nat :=
  let (b, k) := r.elem.byteSpan (r.element n)
  (base.toNat + b, k)

/-- R231. The first byte that a write of an element of a record touches, and how many it touches below the record's end. -/
def ShapeRec.writeAddr (r : ShapeRec) (base : Word) (n : Nat) : Int × Nat :=
  let (b, k) := r.elem.writeSpan (r.element n)
  (base.toNat + b, min k (r.hi - b).toNat)

/-- R294, R375. On whose behalf a copy's accesses run: its control context's, in the domain in which it was issued. -/
def State.copyWho (s : State) (core : Nat) (c : Copy) : Who := { s.who ⟨core, control⟩ with dom := c.dom }

/-- R184. The bits that element `n` of a copy writes, by address: its own, and the padding of a 6-bit word. -/
def Copy.dstBits (c : Copy) (n : Nat) : List (Int × Nat) :=
  let p := c.dstRec.elem.place (c.dstRec.element n)
  let base := 8 * ((c.dst.word.toNat : Int) + p.byte)
  (base + p.bit, p.width) :: (if p.width = 6 then [(base + 30, 2)] else [])

/-- R184, R241. The clean elements up to `n`, after the last one from a marked source, cover the granule at an address wholly: the
elements of a copy are one write to R184 (DEDUCED, log 37). -/
def Copy.coversGranule (c : Copy) (n : Nat) (a : Int) : Bool :=
  let touching := (List.range (n + 1)).filter (fun m =>
    (c.dstBits m).any (fun p => decide (p.1 < 8 * a + 128) && decide (8 * a < p.1 + p.2)))
  let after := ((touching.filter (fun m => NSet.has c.dirty m)).getLast?.map (· + 1)).getD 0
  let spans := (touching.filter (fun m => decide (after ≤ m))).flatMap c.dstBits
  (List.range 128).all (fun k => spans.any (fun p => decide (p.1 ≤ 8 * a + k) && decide (8 * a + k < p.1 + p.2)))

/-- R241. The poison marks of the granules that element `n` of a copy has written at some places: set by a marked source, cleared where
clean ones now cover a granule. -/
def State.copyMarks (s : State) (c : Copy) (n : Nat) (places : List Loc) : State :=
  if NSet.has c.dirty n then places.foldl (fun t l => t.markGranules l 1) s
  else places.foldl (fun t l =>
    if t.poisonAt l 1 && c.coversGranule n ((l.va : Int) - (l.off % 16 : Nat)) then
      t.setMemory l.space ((t.memory l.space).setPoison l.off false)
    else t) s

/-- R240, R241. Element `done` of a copy moved: the state and the copy after it; or the state in which it fails. POISON_CONSUMED names the
source element's address, as a failure of the source side (DESIGN CHOICE, log 112). -/
def State.copyElement (s : State) (core : Nat) (c : Copy) : Except (State × CopyStop) (State × Copy) :=
  let who := s.copyWho core c
  let (sa, sk) := c.srcRec.elemAddr c.src.word c.done
  match s.copyBytes who sa false sk with
  | .error f => .error (s.bytesTouched who sa f.val false, ⟨f.cause, f.val, false⟩)
  | .ok (s1, ls, _) =>
    let p := c.srcRec.elem.place (c.srcRec.element c.done)
    let raw := s1.bytesAt ls / 2 ^ (p.bit % 8) % 2 ^ p.width
    let mark := ls.any (fun l => s1.poisonAt l 1)
    let (v, fl) := c.convert raw
    let next := { c with done := c.done + 1, flags := c.flags ||| fl, dirty := NSet.put c.dirty c.done mark }
    if c.fn = 1 then
      let sh := tshapeOf c.tshape
      let i := c.done / sh.cols
      let k := c.done % sh.cols
      .ok (s1.modCore core (fun q =>
        let t := (q.tile c.tile).setElem sh i k v
        q.setTile c.tile { t with poison := NSet.put t.poison i (mark || (k != 0 && NSet.has t.poison i)) }), next)
    else
      let (da, dk) := c.dstRec.writeAddr c.dst.word c.done
      match s1.copyBytes who da true dk with
      | .error f => .error (s1.bytesTouched who da f.val true, ⟨f.cause, f.val, true⟩)
      | .ok (s2, ds, translated) =>
        if mark && translated then .error (s2, ⟨Cause.poisonConsumed, i64 sa, false⟩)
        else
          let s3 := s2.putBytes ds (c.dstRec.elem.replace (c.dstRec.element c.done) (s2.bytesAt ds) v)
          .ok (s3.copyMarks next c.done ds, next)

/-- Up to `n` elements of a copy moved; it stops before an element that fails. -/
def State.copyElements (s : State) (core : Nat) (c : Copy) : Nat → State × Copy × Option CopyStop
  | 0 => (s, c, none)
  | n + 1 =>
    if c.count ≤ c.done then (s, c, none)
    else
      match s.copyElement core c with
      | .error (s1, f) => (s1, c, some f)
      | .ok (s1, c1) => s1.copyElements core c1 n

/-- The copy of a core with an issue number, where it runs. -/
def Core.running (c : Core) (seq : Nat) : Option Copy := c.copies.find? (fun k => k.seq == seq && k.started && !k.failed)

/-- R240. Up to `n` elements of a running copy move. -/
def State.copyProgress (s : State) (core seq n : Nat) : State :=
  match (s.core core).running seq with
  | none => s
  | some c =>
    let (s1, c1, _) := s.copyElements core c n
    s1.modCore core (fun k => k.modCopy seq (fun _ => c1))

/-! ## Completion and failure (R241 to R244) -/

/-- R203, R243. The follow-on MMA of a CPYM joins the matrix queue. Where the engine is suspended then, it fails check 0 of R186 there,
under the number that it was given. It makes the other checks where it stands at the queue's head; TRAPVAL of a failed one holds the
CPYM's own word, where R186 says the instruction's (DESIGN CHOICE, log 80). CNTS.TILE counts it even where it is 15 already (DESIGN CHOICE,
log 108). -/
def State.followOn (s : State) (core : Nat) (c : Copy) : State :=
  let sh := tshapeOf c.tshape
  let views := (s.core core).latchViews
  let latch := if c.sw then views.2 else views.1
  let t := BitVec.ofNat 3 c.tile
  let rb := BitVec.ofNat 10 c.rb
  let cq := BitVec.ofNat 2 c.cq
  let i : Instr := if c.sw then .mmasw t c.breg rb cq else .mma t c.breg rb cq
  let op : MxOp :=
    { seq := 0, instr := i, head := c.head, word := c.word, shapeX := c.tshape, shapeA := 0, a := c.dst, b := Reg.zero
      c := Reg.zero, tol := 0, memSeq := c.memSeq, bank := false, kind := (combination sh.fmt latch.fmt).getD .fp
      words := none, started := false, follow := true, dom := c.dom }
  let num := (s.core core).mxIssued.toNat
  let s1 := (s.requestWake core).enqueueMx core op
  if (s.core core).mxSusp then
    s1.defer ⟨core, control⟩ ⟨.matrix, num, ⟨Cause.illegalOperand, 0, 0x818, { op with seq := num }.trapProg false⟩⟩
  else s1

/-- R242. A copy leaves the engine: its locks are removed, then CNTS.COPY falls and CPSEQ.DONE advances. -/
def State.retireCopy (s : State) (core seq : Nat) : State :=
  ((s.removeLocks core seq).modCore core (fun c =>
    { c with copies := c.copies.filter (fun k => k.seq != seq), cpDone := c.cpDone + 1 })).modCtx ⟨core, control⟩
    (fun x => { x with cntCopy := x.cntCopy - 1 })

/-- R242, R99. The effects of a completed copy on its control context. -/
def Ctx.copyDone (x : Ctx) (c : Copy) : Ctx :=
  let x1 := x.raiseFlags c.flags
  if c.ui then { x1 with cpp := true, cpn := if x1.cpn = 255 then 255 else x1.cpn + 1 } else x1

/-- R242, R243. COPY_COMPLETE: the rest of a running copy moves, and it completes. -/
def execCopyComplete (core seq : Nat) (s : State) : Out :=
  .next (match (s.core core).running seq with
    | none => s
    | some c =>
      match s.copyElements core c (c.count - c.done) with
      | (_, _, some _) => s
      | (s1, c1, none) =>
        let s2 := (s1.retireCopy core seq).modCtx ⟨core, control⟩ (·.copyDone c1)
        if c1.fn = 1 then s2.followOn core c1 else s2)

/-- R244. The TRAPPROG of a failed copy. -/
def Copy.prog (c : Copy) (dst : Bool) : Word :=
  w64 (2 ^ 62 + (if dst then 2 ^ 36 else 0) + c.fn * 2 ^ 32 + c.seq % 2 ^ 32)

/-- R244. COPY_FAIL: a running copy stops before the element that fails, keeping its locks; the engine is suspended and a
deferred trap becomes pending. Where several started copies fail, CPPROG names the first (DESIGN CHOICE, log 111). -/
def execCopyFail (core seq : Nat) (s : State) : Out :=
  .next (match (s.core core).running seq with
    | none => s
    | some c =>
      match s.copyElements core c (c.count - c.done) with
      | (_, _, none) => s
      | (s1, c1, some f) =>
        let s2 := s1.modCore core (fun k =>
          let k1 := k.modCopy seq (fun _ => { c1 with failed := true })
          if k1.cpSusp then k1
          else { k1 with cpSusp := true, cpProgSeq := BitVec.ofNat 32 seq, cpProgDone := BitVec.ofNat 32 c1.done })
        s2.defer ⟨core, control⟩ ⟨.copy, seq, ⟨f.cause, 0, f.val, c1.prog f.dst⟩⟩)

/-- R244. A core whose failed copies resume (ERET). -/
def Core.resumeCopies (c : Core) : Core :=
  { c with cpSusp := false, copies := c.copies.map (fun k => { k with failed := false }) }

/-- R244. CPCTL.DISCARD: the failed copies and those not yet started end where they are, whether or not the engine is suspended. -/
def State.discardCopies (s : State) (core : Nat) : State :=
  let gone := (s.core core).copies.filter (fun k => k.failed || !k.started)
  (gone.foldl (fun t k => t.retireCopy core k.seq) s).modCore core (fun c => { c with cpSusp := false })

/-! ## Registers (R242, R244) -/

/-- R242. CPSEQ. -/
def Core.cpseq (c : Core) : Word := w64 (c.cpDone.toNat * 2 ^ 32 + c.cpIssued.toNat)
/-- R244. CPCTL. -/
def Core.cpctl (c : Core) : Word := if c.cpSusp then 2 else 0
/-- R244. CPPROG. -/
def Core.cpprog (c : Core) : Word := w64 (c.cpProgSeq.toNat * 2 ^ 32 + c.cpProgDone.toNat)
/-- R97, R188. MXSEQ. -/
def Core.mxseq (c : Core) : Word := w64 (c.mxDone.toNat * 2 ^ 32 + c.mxIssued.toNat)
/-- R189. MXCTL. -/
def Core.mxctl (c : Core) : Word := if c.mxSusp then 2 else 0

end Sys2Proof.Machine
end

