-- ==== Sys2Proof/Machine/Waits.lean ====
section
/-!
DEFINITION. What outlives one instruction of a context: kept arrivals (R249), contexts named by their own numbers, the event
lines of a cluster (R270), and the abandoning of a wait (R249, R424).
-/

namespace Sys2Proof.Machine

/-! ## Contexts wherever they are -/

/-- A context of a core, wherever it is: live, suspended (R250) or switched out (R364); changed by a function that sees its slot. -/
def Core.mapCtxs (c : Core) (f : Nat → Ctx → Ctx) : Core :=
  { c with
    ctxs := c.ctxs.map (fun p => (p.1, f p.1 p.2))
    suspended := c.suspended.map (fun p => (p.1, f p.1 p.2))
    away := c.away.map (fun a => (a.1, a.2.1.map (fun p => (p.1, f p.1 p.2)), f control a.2.2)) }

/-- The context of a number in a slot of a core, live, suspended or switched out. -/
def State.ownerAt (s : State) (c : CtxId) (uid : Nat) : Option Ctx :=
  ((s.core c.core).allCtxs.find? (fun p => p.1 == c.slot && p.2.uid == uid)).map (·.2)
/-- R155, R254, R345. Where the context of a number is: in the slot that is named, or on the core that has restored it. -/
def State.whereIs (s : State) (c : CtxId) (uid : Nat) : CtxId :=
  if (s.ownerAt c uid).isSome then c
  else match s.cores.find? (fun p => p.2.allCtxs.any (fun x => x.1 == c.slot && x.2.uid == uid)) with
    | some p => ⟨p.1, c.slot⟩
    | none => c
/-- The context of a number, wherever it is. -/
def State.owner (s : State) (c : CtxId) (uid : Nat) : Option Ctx := s.ownerAt (s.whereIs c uid) uid
/-- The state with the context of a number changed, wherever it is; a context that has ended is not found. -/
def State.modOwner (s : State) (c : CtxId) (uid : Nat) (f : Ctx → Ctx) : State :=
  s.modCore (s.whereIs c uid).core (fun k => k.mapCtxs (fun slot x => if slot = c.slot ∧ x.uid = uid then f x else x))

/-- The context of a number is among the core's contexts that are not suspended. -/
def State.present (s : State) (c : CtxId) (uid : Nat) : Bool := (s.ctx c).uid == uid && (s.ctx c).life == .live

/-- R97. A load-class operation of a context ends with a value for its register. -/
def Ctx.finishLoad (c : Ctx) (bank : Bool) (d : BitVec 5) (w : Word) : Ctx :=
  (c.complete bank d (Reg.plain w)) |> fun x => { x with cntLoad := x.cntLoad - 1 }

/-- R424. A deferred trap becomes pending for the context of a number, wherever it is. -/
def State.deferOwner (s : State) (c : CtxId) (uid : Nat) (d : Deferred) : State :=
  s.modOwner c uid (fun x => { x with deferred := x.deferred ++ [d] })

/-- An earlier store or atomic of the context is not yet performed. -/
def Ctx.writesPending (c : Ctx) : Bool := c.pend.any (fun o => o.kind.writes && !o.kind.isUnit)
/-- A store or atomic that the context issued before an issue number is not yet performed. -/
def Ctx.olderWrites (c : Ctx) (seq : Nat) : Bool := c.pend.any (fun o => o.kind.writes && !o.kind.isUnit && decide (o.seq < seq))

/-- An earlier access of the context, a load among them, is not yet performed. -/
def Ctx.accessesPending (c : Ctx) : Bool := c.pend.any (fun o => !o.kind.isUnit)
/-- An access that the context issued before an issue number is not yet performed. -/
def Ctx.olderAccesses (c : Ctx) (seq : Nat) : Bool := c.pend.any (fun o => !o.kind.isUnit && decide (o.seq < seq))

/-! ## Kept arrivals (R249) -/

/-- What the context keeps for the instruction at a head. -/
def Ctx.arrivalAt (c : Ctx) (h : Word) : Option Arrival := (c.arrivals.find? (fun p => p.1 == h)).map (·.2)
/-- The context with what it keeps for a head dropped. -/
def Ctx.dropArrival (c : Ctx) (h : Word) : Ctx := { c with arrivals := c.arrivals.filter (fun p => p.1 != h) }
/-- The context with an arrival kept for a head. -/
def Ctx.keep (c : Ctx) (h : Word) (a : Arrival) : Ctx := { c with arrivals := (c.dropArrival h).arrivals ++ [(h, a)] }
/-- What the current instruction's context keeps for it. -/
def State.arrival (s : State) : Option Arrival := s.me.arrivalAt s.me.pc
/-- The state with an arrival kept for the current instruction. -/
def State.keep (s : State) (a : Arrival) : State := s.modMe (fun c => c.keep c.pc a)
/-- The current instruction's kept arrival is dropped. -/
def State.dropArrival (s : State) : State := s.modMe (fun c => c.dropArrival c.pc)
/-- A waiting instruction that kept an arrival completes with a value for its register. -/
def State.completeWait (s : State) (d : BitVec 5) (w : Word) : State := ((s.dropArrival).setX d w).advance

/-! ## Event lines (R270) -/

/-- R270. An event line of a cluster. -/
def Cluster.line (k : Cluster) (e : Nat) : EventLine := SMap.getD k.events e ⟨0, []⟩
/-- The cluster with an event line replaced. -/
def Cluster.setLine (k : Cluster) (e : Nat) (l : EventLine) : Cluster := { k with events := SMap.set k.events e l }

/-- R270. Serving: while the head waiter's number is at most the count, it is taken off and the waiter released. -/
def serveWaiters : Nat → List (CtxId × Nat) → EventLine × List CtxId
  | n, [] => (⟨n, []⟩, [])
  | n, (c, m) :: ws =>
    if m ≤ n then
      let (l, done) := serveWaiters (n - m) ws
      (l, c :: done)
    else (⟨n, (c, m) :: ws⟩, [])

/-- R270. A released EVWAIT completes: its context moves to the next head. -/
def Ctx.released (c : Ctx) : Ctx := { c with pc := c.nextHead c.pc, waiting := false }

/-- R270. EventAdd: the count of a line grows, saturating at 65,535, and the queue is served. -/
def State.eventAdd (s : State) (cl e m : Nat) : State :=
  let l := (s.cluster cl).line e
  let (l1, done) := serveWaiters (min 65535 (l.count + m)) l.waiters
  done.foldl (fun t c => t.modCtx c Ctx.released) (s.modCluster cl (fun k => k.setLine e l1))

/-- R416, R424. A context whose wait is abandoned: it stands at its head, and an STMC that has sent nothing yet begins anew. -/
def Ctx.abandon (x : Ctx) : Ctx :=
  { x with waiting := false, arrivals := x.arrivals.filter (fun p => match p.2 with
      | .stmcIssued _ _ => false
      | _ => true) }

/-- R249, R270. A context's wait is abandoned: it leaves the queue of an event line, and stands at its head. -/
def State.abandonWait (s : State) (c : CtxId) : State :=
  (s.modCluster (clusterOf c.core) (fun k =>
    { k with events := k.events.map (fun p => (p.1, { p.2 with waiters := p.2.waiters.filter (fun w => w.1 != c) })) })).modCtx c
    Ctx.abandon

end Sys2Proof.Machine
end

