-- ==== Sys2Proof/Machine/Cluster.lean ====
section
/-!
DEFINITION. The cluster's shared parts (file 11): the indirect copy engine (R263 to R269), event lines (R270), the cluster
barrier (R271), and the register CLSTAT (R261).
-/

namespace Sys2Proof.Machine

/-! ## Event lines (R270) -/

/-- R270. The number of an EVWAIT or EVSIG: 1 when A = 0. -/
def State.eventCount (s : State) (a : BitVec 5) : Word := if a = 0 then 1 else s.x a

/-- R270, R300. EVSIG, a release: after the context's earlier accesses, its loads among them. -/
def execEvsig (ev : BitVec 4) (a : BitVec 5) (s : State) : Out :=
  s.finish (do
    let m := s.eventCount a
    s.needOperand (decide (m.toNat ≤ 65535)) m
    .ok (s.waitFor (!s.me.accessesPending) (s.advance.eventAdd (clusterOf s.cur.core) ev.toNat m.toNat)))

/-- R270. EVWAIT: it passes when no context waits and the count suffices; else the context joins the tail of the queue, and
the line releases it. -/
def execEvwait (ev : BitVec 4) (a : BitVec 5) (s : State) : Out :=
  s.finish (do
    let m := s.eventCount a
    s.needOperand (decide (1 ≤ m.toNat) && decide (m.toNat ≤ 65535)) m
    let cl := clusterOf s.cur.core
    let l := (s.cluster cl).line ev.toNat
    if l.waiters.any (fun w => w.1 == s.cur) then .ok s.hold
    else if l.waiters.isEmpty && decide (m.toNat ≤ l.count) then
      .ok (s.modCluster cl (fun k => k.setLine ev.toNat { l with count := l.count - m.toNat })).advance
    else .ok (s.modCluster cl (fun k => k.setLine ev.toNat { l with waiters := l.waiters ++ [(s.cur, m.toNat)] })).hold)

/-! ## The cluster barrier (R271) -/

/-- R271. The value that names the mask of a CBAR. -/
def State.cbarWord (s : State) (a : BitVec 5) : Word := if a = 0 then 0xFF else s.x a
/-- The bit of a core within its cluster. -/
def coreBit (core : Nat) : BitVec 8 := BitVec.ofNat 8 (2 ^ (core % 8))

/-- The state with a function applied to every context of a cluster's cores, wherever it is. -/
def State.mapClusterCtxs (s : State) (cl : Nat) (f : Ctx → Ctx) : State :=
  (List.range 8).foldl (fun t j => t.modCore (8 * cl + j) (fun k => k.mapCtxs (fun _ x => f x))) s

/-- R271. A context whose CBAR waits in the episode that closes. -/
def Ctx.cbarDone (c : Ctx) : Ctx :=
  { c with arrivals := c.arrivals.map (fun p => (p.1, match p.2 with
      | .cbar _ => .cbar true
      | a => a)) }

/-- R271. The cluster with its barrier episode closed. -/
def Cluster.closeBarrier (k : Cluster) : Cluster := { k with cbOpen := false, cbMask := 0, cbArr := 0 }

/-- R271. The arrival of a core in the episode that is open or that it opens; the episode closes when every core of the mask
has arrived, and releases its waiters. -/
def State.cbarArrive (s : State) (core : Nat) (mask : BitVec 8) : State :=
  let cl := clusterOf core
  let arr := (s.cluster cl).cbArr ||| coreBit core
  if arr = mask then (s.modCluster cl Cluster.closeBarrier).mapClusterCtxs cl Ctx.cbarDone
  else s.modCluster cl (fun k => { k with cbOpen := true, cbMask := mask, cbArr := arr })

/-- A CBAR that keeps its arrival completes once its episode has closed. -/
def State.cbarWait (s : State) : State :=
  match s.arrival with
  | some (.cbar true) => s.dropArrival.advance
  | _ => s.hold

/-- R271. CBAR. -/
def execCbar (a : BitVec 5) (s : State) : Out :=
  s.finish (do
    match s.arrival with
    | some (.cbar _) => .ok s.cbarWait
    | _ =>
      let w := s.cbarWord a
      let mask : BitVec 8 := w.setWidth 8
      let k := s.cluster (clusterOf s.cur.core)
      s.needOperand (decide (bits w 63 8 = 0) && (mask &&& coreBit s.cur.core != 0) && (!k.cbOpen || k.cbMask == mask)) w
      if s.me.writesPending then .ok s.hold
      else .ok ((s.keep (.cbar false)).cbarArrive s.cur.core mask).cbarWait)

/-- R261. CLSTAT. -/
def Cluster.clstat (k : Cluster) : Word :=
  w64 (k.cbMask.toNat * 2 ^ 32 + k.cbArr.toNat * 2 ^ 24 + (if k.cbOpen then 2 ^ 6 else 0) + k.cldom.toNat)

/-! ## Indirect posts: issue (R263 to R265) -/

/-- R264. Checks 1 to 4 of R92 on one of a post's capabilities. -/
def State.postRights (s : State) (r : BitVec 5) (use : CapUse) : Res Unit :=
  checkCapRights (s.g r) s.me.dom s.me.priv use (s.x r)
/-- R264. Check 5 of R92 on the range of one of a post's capabilities. -/
def State.postBounds (s : State) (r : BitVec 5) (n : Nat) : Res Unit :=
  ensure ((s.g r).covers (s.x r).toNat n) Cause.capBounds (s.x r)

/-- R264 check 4. A range lies within the own scratchpad or cluster memory, or, where allowed, translated space. -/
def ownRange (core : Nat) (a : Word) (n : Nat) (translated : Bool) : Option Region :=
  match Span.region ⟨a.toNat, a.toNat + max n 1⟩ core with
  | some (.spad c o) => if isOwnSpad a then some (.spad c o) else none
  | some (.cmem c o) => some (.cmem c o)
  | some .translated => if translated then some .translated else none
  | _ => none

/-- R263. The current instruction's post. -/
def State.newPost (s : State) (scatter : Bool) (wide : BitVec 1) (ev : BitVec 4) (t ix n p : BitVec 5) (rb : Nat) : Post :=
  { num := (s.cluster (clusterOf s.cur.core)).postNext, ctx := s.cur, uid := s.me.uid, scatter := scatter, wide := wide == 1
    ev := ev.toNat, table := s.g t, index := s.g ix, packed := s.g p, n := (s.x n).toNat, rb := rb, who := s.who s.cur
    memSeq := s.me.pendSeq, started := false, done := 0 }

/-- R263. Bytes of an index. -/
def Post.es (p : Post) : Nat := if p.wide then 8 else 4
/-- The span of a post's index list and of its packed area. -/
def Post.indexSpan (p : Post) : Span := ⟨p.index.word.toNat, p.index.word.toNat + p.es * p.n⟩
def Post.packedSpan (p : Post) : Span := ⟨p.packed.word.toNat, p.packed.word.toNat + p.rb * p.n⟩

/-- R265. The spans that a post registers, with their regions; the flag says DST. -/
def Post.spans (p : Post) (ir pr : Region) : List (Span × Region × Bool) :=
  if p.n = 0 then [] else [(p.indexSpan, ir, false), (p.packedSpan, pr, !p.scatter)]

/-- R265. The entry of a post. -/
def Post.entry (p : Post) (core : Nat) (x : Span × Region × Bool) : Lock :=
  let r := x.1.inTable core x.2.1
  { lo := r.1, hi := r.2, dst := x.2.2, post := true, owner := clusterOf core, num := p.num, dom := p.who.dom }

/-- A lock belongs to a post. -/
def Lock.ofPost (k : Lock) (cl num : Nat) : Bool := k.post && k.owner == cl && k.num == num

/-- R265. The state with a post's spans registered in the tables that R234 gives for a copy. -/
def State.registerPost (s : State) (core : Nat) (p : Post) (spans : List (Span × Region × Bool)) : State :=
  spans.foldl (fun t x =>
    let e := p.entry core x
    let t1 := t.modCore core (fun c => { c with locks := c.locks ++ [e] })
    if inClusterTable x.2.1 then t1.modCluster (clusterOf core) (fun c => { c with locks := c.locks ++ [e] }) else t1) s

/-- R265. The tables and the queue have room for a post. -/
def State.postSpace (s : State) (core : Nat) (spans : List (Span × Region × Bool)) : Bool :=
  let cl := s.cluster (clusterOf core)
  decide ((s.core core).locks.length + spans.length ≤ 16) &&
    decide (cl.locks.length + (spans.filter (fun x => inClusterTable x.2.1)).length ≤ 32) && decide (cl.posts.length < 64)

/-- A check of a post, with its number in TRAPPROG. -/
def State.postCheck {α : Type} (s : State) (r : Res α) (check : Nat) : Chk α := s.check r (s.byteProg check)

/-- R263. The bytes of a row. -/
def postRowBytes (ru : BitVec 10) : Nat := if ru = 0 then 16384 else 16 * ru.toNat

/-- R264. The checks of a post: the spans that it registers. -/
def State.postChecks (s : State) (k : Post) (t ix n p : BitVec 5) : Chk (List (Span × Region × Bool)) := do
  let core := s.cur.core
  s.postCheck (ensure (decide (k.n ≤ 65535)) Cause.illegalOperand (s.x n)) 1
  s.postCheck (s.postRights t (if k.scatter then .store else .load)) 2
  s.postCheck (s.postRights ix .load) 2
  s.postCheck (s.postRights p (if k.scatter then .load else .store)) 2
  s.postCheck (s.postBounds ix (k.es * k.n)) 2
  s.postCheck (s.postBounds p (k.rb * k.n)) 2
  s.postCheck (ensure (decide ((s.x ix).toNat % k.es = 0)) Cause.align (s.x ix)) 3
  s.postCheck (ensure (decide ((s.x p).toNat % 16 = 0)) Cause.align (s.x p)) 3
  s.postCheck (ensure (decide ((s.x t).toNat % 16 = 0)) Cause.align (s.x t)) 3
  match ownRange core (s.x ix) (k.es * k.n) true, ownRange core (s.x p) (k.rb * k.n) false with
  | none, _ => .error (s.trapHere Cause.illegalOperand (s.x ix) (s.byteProg 4))
  | _, none => .error (s.trapHere Cause.illegalOperand (s.x p) (s.byteProg 4))
  | some ir, some pr => .ok (k.spans ir pr)

/-- R265. The tables and the queue have room for the current instruction as a post; one that R264 is to refuse needs none. -/
def State.postRoom (s : State) (scatter : Bool) (wide : BitVec 1) (ev : BitVec 4) (t ix n p : BitVec 5) (ru : BitVec 10) : Bool :=
  match s.postChecks (s.newPost scatter wide ev t ix n p (postRowBytes ru)) t ix n p with
  | .ok spans => s.postSpace s.cur.core spans
  | .error _ => true

/-- R263 to R265. IGATHER and ISCATTER at issue. -/
def State.issuePost (s : State) (scatter : Bool) (wide : BitVec 1) (ev : BitVec 4) (t ix n p : BitVec 5) (ru : BitVec 10) :
    Out :=
  s.finish (do
    let core := s.cur.core
    let cl := clusterOf core
    let k := s.newPost scatter wide ev t ix n p (postRowBytes ru)
    let spans ← s.postChecks k t ix n p
    if decide (15 ≤ s.me.cntCopy) || !s.postSpace core spans then .ok s.hold
    else if k.n = 0 then .ok (s.waitFor (!s.me.accessesPending) (s.advance.eventAdd cl k.ev 1))
    else
      let s1 := (s.registerPost core k spans).modCluster cl (fun c =>
        { c with posts := c.posts ++ [k], postNext := c.postNext + 1 })
      .ok (s1.modMe (fun x => { x with cntCopy := x.cntCopy + 1 })).advance)

/-- R263. IGATHER. -/
def execIgather (wide : BitVec 1) (ev : BitVec 4) (t ix n p : BitVec 5) (ru : BitVec 10) (s : State) : Out :=
  s.issuePost false wide ev t ix n p ru
/-- R263. ISCATTER. -/
def execIscatter (wide : BitVec 1) (ev : BitVec 4) (t ix n p : BitVec 5) (ru : BitVec 10) (s : State) : Out :=
  s.issuePost true wide ev t ix n p ru

/-! ## Indirect posts: execution (R266 to R268) -/

/-- How a row of a post ends when it does not move: it waits for a lock, or it fails. -/
inductive RowStop where
  | blocked
  | failed (cause : BitVec 8) (val : Word)
  deriving DecidableEq, Repr

/-- A check of a row, with the state that its failure leaves. -/
def State.rowNeed (s : State) (b : Bool) (cause : BitVec 8) (val : Word) : Except (State × RowStop) Unit :=
  if b then .ok () else .error (s, .failed cause val)

/-- The places of bytes that a row's move touches. -/
def State.rowBytes (s : State) (who : Who) (a : Int) (write : Bool) (n : Nat) :
    Except (State × RowStop) (State × List Loc × Bool) :=
  match s.copyBytes who a write n with
  | .ok r => .ok r
  | .error f => .error (s.bytesTouched who a f.val write, .failed f.cause f.val)

/-- R262. A row's bytes meet a DST span of another post or copy, or, where they are written, any locked span. -/
def State.rowBlocked (s : State) (p : Post) (l : Loc) (write : Bool) : Bool :=
  let core := p.ctx.core
  let a := lockAddr core l
  ((s.core core).locks ++ (s.cluster (clusterOf core)).locks).any (fun k =>
    !k.ofPost (clusterOf core) p.num && k.refuses write a p.rb)

/-- R266. The rows' region, which holds the whole of a row: the own cluster memory, or translated space. -/
def rowRegion (core : Nat) (a : Word) (n : Nat) : Bool :=
  match Span.region ⟨a.toNat, a.toNat + n⟩ core with
  | some (.cmem _ _) => true
  | some .translated => true
  | _ => false

/-- R241, R266. A row's bytes moved granule by granule, tags cleared, each granule with its source's poison mark. -/
def State.moveRow (s : State) (src dst : List Loc) : State :=
  let s1 := s.putBytes dst (s.bytesAt src)
  (src.zip dst).foldl (fun t p => t.setMemory p.2.space ((t.memory p.2.space).setPoison p.2.off (s.poisonAt p.1 1))) s1

/-- R266. Row `done` of a post moved; where it does not move, the state that its translations leave (R291). -/
def State.postRow (s : State) (p : Post) : Except (State × RowStop) (State × Post) := do
  let ia : Int := p.index.word.toNat + p.es * p.done
  let (s1, il, _) ← s.rowBytes p.who ia false p.es
  s1.rowNeed (!il.any (fun l => s1.poisonAt l 1)) Cause.poisonConsumed (i64 ia)
  let row := p.table.word + w64 (s1.bytesAt il * p.rb)
  s1.rowNeed (p.table.covers row.toNat p.rb) Cause.capBounds row
  s1.rowNeed (rowRegion p.who.core row p.rb) Cause.illegalOperand row
  let pa : Int := p.packed.word.toNat + p.rb * p.done
  let (s2, rl, translated) ← s1.rowBytes p.who row.toNat p.scatter p.rb
  let (s3, pl, _) ← s2.rowBytes p.who pa (!p.scatter) p.rb
  let blocked := match rl, pl with
    | r :: _, q :: _ => s3.rowBlocked p r p.scatter || s3.rowBlocked p q (!p.scatter)
    | _, _ => false
  let moved := if p.scatter then s3.moveRow pl rl else s3.moveRow rl pl
  let poisoned := if p.scatter && translated then pl.find? (fun l => s3.poisonAt l 1) else none
  match poisoned with
  | some l => if blocked then .error (s3, .blocked) else .error (s3, .failed Cause.poisonConsumed (w64 l.va))
  | none => if blocked then .error (s3, .blocked) else .ok (moved, { p with done := p.done + 1 })

/-- Up to `n` rows of a post moved; it stops before a row that does not move. -/
def State.postRows (s : State) (p : Post) : Nat → State × Post × Option RowStop
  | 0 => (s, p, none)
  | n + 1 =>
    if p.n ≤ p.done then (s, p, none)
    else
      match s.postRow p with
      | .error (s1, f) => (s1, p, some f)
      | .ok (s1, p1) => s1.postRows p1 n

/-- A cluster's post of a number, where it runs. -/
def Cluster.runningPost (k : Cluster) (num : Nat) : Option Post := k.posts.find? (fun p => p.num == num && p.started)
/-- A cluster with a post replaced. -/
def Cluster.setPost (k : Cluster) (p : Post) : Cluster :=
  { k with posts := k.posts.map (fun q => if q.num = p.num then p else q) }

/-- R266. Up to `n` rows of a running post move. -/
def State.postProgress (s : State) (cl num n : Nat) : State :=
  match (s.cluster cl).runningPost num with
  | none => s
  | some p =>
    let (s1, p1, _) := s.postRows p n
    s1.modCluster cl (fun k => k.setPost p1)

/-- R266, R268. A post leaves the engine: its locks are removed, CNTS.COPY falls, and its event line receives 1. -/
def State.retirePost (s : State) (cl : Nat) (p : Post) : State :=
  let s1 := { s with
    cores := s.cores.map (fun (q : Nat × Core) => (q.1, { q.2 with locks := q.2.locks.filter (fun k => !k.ofPost cl p.num) })) }
  let s2 := s1.modCluster cl (fun k =>
    { k with locks := k.locks.filter (fun q => !q.ofPost cl p.num), posts := k.posts.filter (fun q => q.num != p.num) })
  (s2.modOwner p.ctx p.uid (fun x => { x with cntCopy := x.cntCopy - 1 })).eventAdd cl p.ev 1

/-- R270, R300. The earlier accesses of a post's context are performed: its signal is a release. -/
def State.postOrdered (s : State) (p : Post) : Bool :=
  (s.owner p.ctx p.uid).all (fun x => !x.olderAccesses p.memSeq)

/-- R265. INDIRECT_POST_START: the oldest post that has not started starts, where fewer than four run. -/
def execIndirectPostStart (cl : Nat) (s : State) : Out :=
  .next (match (s.cluster cl).posts.find? (fun p => !p.started) with
    | none => s
    | some p =>
      if ((s.cluster cl).posts.filter (·.started)).length < 4 then
        s.modCluster cl (fun k => k.setPost { p with started := true })
      else s)

/-- R266. INDIRECT_POST_COMPLETE: the rest of a running post moves, and it completes. -/
def execIndirectPostComplete (cl num : Nat) (s : State) : Out :=
  .next (match (s.cluster cl).runningPost num with
    | none => s
    | some p =>
      match s.postRows p (p.n - p.done) with
      | (_, _, some _) => s
      | (s1, p1, none) => if s1.postOrdered p1 then s1.retirePost cl p1 else s)

/-- R268. The TRAPPROG of a failed post. -/
def Post.prog (p : Post) : Word := w64 (2 ^ 62 + 2 ^ 37 + (if p.scatter then 2 ^ 32 else 0) + p.done)

/-- R268. INDIRECT_POST_FAIL: a running post stops at the row that fails, and its context takes a deferred trap. -/
def execIndirectPostFail (cl num : Nat) (s : State) : Out :=
  .next (match (s.cluster cl).runningPost num with
    | none => s
    | some p =>
      match s.postRows p (p.n - p.done) with
      | (s1, p1, some (.failed cause val)) =>
        if s1.postOrdered p1 then
          (s1.retirePost cl p1).deferOwner p.ctx p.uid ⟨.post, num, ⟨cause, 0, val, p1.prog⟩⟩
        else s
      | _ => s)

end Sys2Proof.Machine
end

