-- ==== Sys2Proof/Machine/Park.lean ====
section
/-!
DEFINITION. PARK and UNPARK in the sequencer (R246 to R248): the images of tiles, accumulator rows and weight latches, their
poison marks, and the validation of an image.
-/

namespace Sys2Proof.Machine

/-! ## Objects (R246) -/

/-- R246. What a PARK or UNPARK moves. -/
inductive ParkObject where
  | tile (t : Nat)
  | rows (rb n : Nat)
  | latches
  deriving DecidableEq, Repr

/-- R246. The object that X and rb select. -/
def parkObject (x : BitVec 6) (rb : BitVec 10) : ParkObject :=
  match x.toNat / 16 with
  | 0 => .tile (x.toNat % 8)
  | 1 => .rows rb.toNat (2 ^ (x.toNat % 16))
  | _ => .latches

/-- Bytes of a tile's image before and with its trailer. -/
def tileBytes : Nat := 16384
/-- R247. Bytes of one latch's part of an image. -/
def latchBytes : Nat := 32832

/-- R247. The size of an image. -/
def ParkObject.size : ParkObject → Nat
  | .tile _ => 16448
  | .rows _ n => 512 * n + 64 * ((n + 7) / 8)
  | .latches => 65664

/-- R246. The rows lie in the accumulator store. -/
def ParkObject.inStore : ParkObject → Bool
  | .rows rb n => decide (rb + n ≤ 1024)
  | _ => true

/-! ## Images (R247) -/

/-- R247. A set of rows as a bit mask. -/
def rowMask (p : NSet) : Nat := (p.map (fun i => 2 ^ i)).foldl (· + ·) 0
/-- R247. The code of a KIND. -/
def AccKind.code : AccKind → Nat
  | .zero => 0
  | .fp => 1
  | .int => 2
/-- R247. The KIND of a code. -/
def kindOf (n : Nat) : AccKind := match n with
  | 1 => .fp
  | 2 => .int
  | _ => .zero

/-- R181. The 512 bytes of an accumulator row. -/
def AccRow.image (a : AccRow) : Nat := (List.range 128).foldr (fun c acc => (a.elem c).toNat + 2 ^ 32 * acc) 0
/-- R247. The 8 bytes that follow the rows, for one row. -/
def AccRow.tail (a : AccRow) : Nat := a.kind.code + (if a.poison then 4 else 0)

/-- The bytes of a list of numbers of `n` bytes each. -/
def packBytes (n : Nat) (l : List Nat) : Nat := l.foldr (fun x acc => x % 256 ^ n + 256 ^ n * acc) 0

/-- R176, R247. The weights of a latch as a tile holds them. -/
def Latch.weightImage (l : Latch) : Nat :=
  let t := mxElem l.fmt
  packBytes (rowBytes l.fmt l.cols) (l.w.map (fun row => rowImage t row 0))
/-- R179, R247. The positions of a sparse latch as its metadata register holds them. -/
def Latch.metaImage (l : Latch) : Nat := packBytes l.cols (l.meta_.map (packBytes 1))

/-- R247. A latch's part of an image. -/
def Latch.image (l : Latch) : Nat :=
  if !l.loaded then 0
  else
    1 + l.fmt * 2 ^ 8 + l.sp * 2 ^ 16 + (if l.poison then 2 ^ 24 else 0) + l.depth * 2 ^ 32 + l.cols * 2 ^ 48 +
      packBytes 4 (l.scales.map BitVec.toNat) * 2 ^ 64 + l.weightImage * 2 ^ (8 * 64) + l.metaImage * 2 ^ (8 * (64 + tileBytes))

/-- R247. The image of an object. -/
def Core.image (c : Core) : ParkObject → Nat
  | .tile t => cellsRead (c.tile t).data 0 tileBytes + (c.tshapeWord t).toNat * 2 ^ (8 * tileBytes) +
      rowMask (c.tile t).poison * 2 ^ (8 * (tileBytes + 8))
  | .rows rb n =>
    let rows := (List.range n).map (fun j => c.accRow (rb + j))
    packBytes 512 (rows.map AccRow.image) + packBytes 8 (rows.map AccRow.tail) * 2 ^ (8 * 512 * n)
  | .latches => c.active.image + c.shadow.image * 2 ^ (8 * latchBytes)

/-- R247. The byte ranges of the rows of a tile, where its shape is valid. -/
def tileRows (w : Word) : List (Nat × Nat × Nat) :=
  let sh := tshapeOf w
  if sh.valid then (List.range sh.rows).map (fun i => (i, i * sh.rowBytes, sh.rowBytes)) else []

/-- R247. The byte ranges of an image that hold poisoned rows or latches. -/
def Core.poisonedParts (c : Core) : ParkObject → List (Nat × Nat)
  | .tile t => (tileRows (c.tshapeWord t)).filterMap (fun r =>
      if NSet.has (c.tile t).poison r.1 then some (r.2.1, r.2.2) else none)
  | .rows rb n => (List.range n).filterMap (fun j => if (c.accRow (rb + j)).poison then some (512 * j, 512) else none)
  | .latches => (if c.active.poison then [(0, latchBytes)] else []) ++
      (if c.shadow.poison then [(latchBytes, latchBytes)] else [])

/-! ## Validation of an image (R247) -/

/-- The byte at an offset of an image. -/
def imageByte (img o : Nat) : Nat := img / 2 ^ (8 * o) % 256
/-- `n` bytes at an offset of an image. -/
def imagePart (img o n : Nat) : Nat := img / 2 ^ (8 * o) % 2 ^ (8 * n)
/-- The first of `n` bytes from an offset on that is not zero. -/
def firstNonzero (img o n : Nat) : Option Nat := ((List.range n).find? (fun k => imageByte img (o + k) != 0)).map (o + ·)

/-- The first of a list that is there. -/
def firstSome : List (Option Nat) → Option Nat
  | [] => none
  | some x :: _ => some x
  | none :: l => firstSome l

/-- An offset where a condition fails. -/
def badUnless (b : Bool) (o : Nat) : Option Nat := if b then none else some o

/-- R175, R247. The first bad byte of a tile's image. -/
def badTile (img : Nat) : Option Nat :=
  let o := tileBytes
  firstSome [badUnless (decide (imageByte img o < 128)) o, badUnless (imageByte img (o + 2) / 2 % 8 == 0) (o + 2),
    firstNonzero img (o + 4) 4, firstNonzero img (o + 40) 24]

/-- R247. The first bad byte of the image of n rows. -/
def badRows (img n : Nat) : Option Nat :=
  let o := 512 * n
  firstSome ((List.range n).map (fun j => firstSome
    [badUnless (decide (imageByte img (o + 8 * j) < 8) && imageByte img (o + 8 * j) % 4 != 3) (o + 8 * j),
      firstNonzero img (o + 8 * j + 1) 7]) ++ [firstNonzero img (o + 8 * n) (64 * ((n + 7) / 8) - 8 * n)])

/-- R177, R178. The physical rows of a latch of a depth. -/
def physicalRows (sp depth : Nat) : Nat := if sp = 0 then depth else depth / 24 * sparseN sp

/-- R247. The first bad byte of a latch's part of an image at an offset; an EMPTY latch's FMT, SP and P keep their ranges, and
its K and N, which are no part of an EMPTY latch, are free. -/
def badLatch (img o : Nat) : Option Nat :=
  let fmt := imageByte img (o + 1)
  let sp := imageByte img (o + 2)
  let k := imagePart img (o + 4) 2
  let n := imagePart img (o + 6) 2
  match imageByte img o with
  | 0 => firstSome [badUnless (decide (fmt ≤ 19)) (o + 1), badUnless (decide (sp ≤ 3)) (o + 2),
      badUnless (decide (imageByte img (o + 3) ≤ 1)) (o + 3), firstNonzero img (o + 56) 8]
  | 1 =>
    match geometry fmt with
    | none => some (o + 1)
    | some (kmax, ncol) =>
      if 19 < fmt then some (o + 1)
      else if 3 < sp ∨ (sp ≠ 0 ∧ !sparseFmt fmt) then some (o + 2)
      else
        firstSome [badUnless (decide (imageByte img (o + 3) ≤ 1)) (o + 3),
          badUnless (decide (1 ≤ k) && (sp == 0 || decide (k % 24 = 0)) && decide (physicalRows sp k ≤ kmax)) (o + 4),
          badUnless (decide (1 ≤ n) && decide (n ≤ ncol)) (o + 6), firstNonzero img (o + 56) 8,
          if sp = 0 then none
          else ((List.range (physicalRows sp k * n)).find? (fun j => decide (23 < imageByte img (o + 64 + tileBytes + j)))).map
            (o + 64 + tileBytes + ·)]
  | _ => some o

/-- R247. The first bad byte of an image. -/
def badImage (img : Nat) : ParkObject → Option Nat
  | .tile _ => badTile img
  | .rows _ n => badRows img n
  | .latches => firstSome [badLatch img 0, badLatch img latchBytes]

/-! ## Restoring (R247) -/

/-- The bytes of an image as cells. -/
def imageCells (img o n : Nat) : List Host.Cell := cellsWrite [] 0 n (imagePart img o n)

/-- R247. A latch from its part of an image; `marked` says that one of its data granules carries a mark. -/
def latchFrom (img o : Nat) (marked : Bool) : Latch :=
  if imageByte img o = 0 then Latch.empty
  else
    let sh : TShape := ⟨physicalRows (imageByte img (o + 2)) (imagePart img (o + 4) 2), imagePart img (o + 6) 2,
      imageByte img (o + 2), imageByte img (o + 1)⟩
    let depth := imagePart img (o + 4) 2
    let weights : Tile := ⟨imageCells img (o + 64) tileBytes, []⟩
    let nb := if mxScaled sh.fmt then kBlocks depth else 0
    { loaded := true, fmt := sh.fmt, sp := sh.sp, rows := sh.rows, depth := depth, cols := sh.cols
      w := (List.range sh.rows).map (weights.row sh)
      meta_ := if sh.sp = 0 then [] else (List.range sh.rows).map (fun p => (List.range sh.cols).map (fun j =>
        imageByte img (o + 64 + tileBytes + p * sh.cols + j)))
      scales := (List.range nb).map (fun i => BitVec.ofNat 32 (imagePart img (o + 8 + 4 * i) 4))
      poison := imageByte img (o + 3) == 1 || marked }

/-- R247. An accumulator row from an image of n rows. -/
def rowFrom (img n j : Nat) (marked : Bool) : AccRow :=
  let t := imageByte img (512 * n + 8 * j)
  { elems := (List.range 128).filterMap (fun c =>
      let v := BitVec.ofNat 32 (imagePart img (512 * j + 4 * c) 4)
      if v = 0 then none else some (c, v))
    kind := kindOf (t % 4), poison := t / 4 % 2 == 1 || marked }

/-- R247. A core with an object restored from its image; `marked` tells whether a byte range carries a mark. -/
def Core.restore (c : Core) (img : Nat) (marked : Nat → Nat → Bool) : ParkObject → Core
  | .tile t =>
    let w := w64 (imagePart img tileBytes 8)
    let dirty := (tileRows w).filterMap (fun r => if marked r.2.1 r.2.2 then some r.1 else none)
    let saved := (List.range 256).filter (fun i => imagePart img (tileBytes + 8) 32 / 2 ^ i % 2 == 1)
    { c.setTile t ⟨imageCells img 0 tileBytes, dirty.foldl NSet.add saved⟩ with tshape := SMap.set c.tshape t w }
  | .rows rb n => c.setRows rb n (fun j => rowFrom img n j (marked (512 * j) 512))
  | .latches => { c with
      active := latchFrom img 0 (marked 64 (latchBytes - 64))
      shadow := latchFrom img latchBytes (marked (latchBytes + 64) (latchBytes - 64)) }

/-! ## Execution (R246) -/

/-- R246. The image address of an entry. -/
def SeqEntry.parkAddr (e : SeqEntry) : Word := e.a.word + e.b.word

/-- R246. Matrix and function operations issued before an entry are still in the queue. -/
def Core.olderMx (c : Core) (mxSeq : Nat) : Bool :=
  c.mxq.any (fun op => let d := (mxSeq + 2 ^ 32 - op.seq) % 2 ^ 32; decide (0 < d) && decide (d < 2 ^ 31))

/-- R248. A PARK or UNPARK of `n` bytes has completed. -/
def State.parkDone (s : State) (core n : Nat) : State :=
  (s.modCore core (fun c => { c with parkBusy := c.parkBusy - 1, parkBytes := BitVec.ofNat 32 n })).modCtx ⟨core, control⟩
    (fun c => { c with cntTile := c.cntTile - 1 })

/-- R246. The range-lock check of an image. -/
def State.parkLocks (s : State) (core : Nat) (l : Loc) (n : Nat) (write : Bool) : VRes Unit :=
  match s.firstLocked core l n write with
  | some k => .error ⟨Cause.rangeLocked, w64 (l.va + k), 0⟩
  | none => .ok ()

/-- R246, R247. PARK in execution. -/
def State.runPark (s : State) (core : Nat) (e : SeqEntry) (o : ParkObject) : VRes (State × Flags) :=
  match ownPlace core e.parkAddr.toNat o.size with
  | none => .error ⟨Cause.illegalOperand, e.parkAddr, 0⟩
  | some l => do
    s.parkLocks core l o.size true
    let c := s.core core
    let s1 := (s.writeAt l o.size (c.image o)).clearCovered [(l, o.size)]
    let s2 := (c.poisonedParts o).foldl (fun t p => t.markGranules ⟨l.space, l.off + p.1, l.va + p.1⟩ p.2) s1
    .ok (s2.parkDone core o.size, 0)

/-- R246, R247. UNPARK in execution; poison does not trap. -/
def State.runUnpark (s : State) (core : Nat) (e : SeqEntry) (o : ParkObject) : VRes (State × Flags) :=
  match ownPlace core e.parkAddr.toNat o.size with
  | none => .error ⟨Cause.illegalOperand, e.parkAddr, 0⟩
  | some l => do
    s.parkLocks core l o.size false
    let img := s.readAt l o.size
    match badImage img o with
    | some k => .error ⟨Cause.illegalOperand, w64 (l.va + k), 0⟩
    | none =>
      let marked := fun (a n : Nat) => s.poisonAt ⟨l.space, l.off + a, l.va + a⟩ n
      .ok ((s.modCore core (fun c => c.restore img marked o)).parkDone core o.size, 0)

/-- R248. The value of PARKSTAT. -/
def Core.parkstat (c : Core) : Word := w64 ((if 0 < c.parkBusy then 2 ^ 32 else 0) + c.parkBytes.toNat)

end Sys2Proof.Machine
end

