-- ==== Sys2Proof/Machine/VectorOps.lean ====
section
/-!
DEFINITION. What a vector instruction does in the sequencer (R158 to R173): for each, its operands, the tags it accepts, the
checks of its acceptance, and its execution on lanes.
-/

namespace Sys2Proof.Machine

/-- A vector instruction's operands and effect. -/
structure VOp where
  /-- Operands whose tags are checked, in order, with their place in TRAPVAL (0 A, 1 B, 2 C, and 3 for the destination of VINS;
  R159): place and operand code. -/
  srcs : List (Nat × Nat)
  /-- The vector destination's operand code. -/
  dst : Option Nat
  /-- Which of the sources' tags is the first that the instruction does not accept. -/
  accepts : List Nat → Option Nat
  /-- The result tag, from the sources' tags. -/
  result : List Nat → Nat
  /-- R151 check 3. Operand legality: none where legal, else the TRAPVAL, where the spec names one. -/
  legal : List Nat → Option (Option Word)
  /-- R144. The lanes of a source that the instruction reads, by operand code: those that active lanes need. -/
  reads : State → Nat → List Taken → List Nat → Nat → List Bool := fun _ _ _ _ _ => []
  /-- Its execution: the core, the entry, the slices taken, the sources' tags. -/
  run : State → Nat → SeqEntry → List Taken → List Nat → VRes (State × Flags)

/-! ## Tag checks (R159) -/

/-- Every source's tag satisfies a condition, and all agree; the first that does not. -/
def sameTags (ok : Nat → Bool) (tags : List Nat) : Option Nat :=
  match tags with
  | [] => none
  | t :: _ => tags.findIdx? (fun x => !(ok x && x == t))
/-- No tag check. -/
def noTags (_ : List Nat) : Option Nat := none
/-- The result takes the first source's tag. -/
def firstTag (tags : List Nat) : Nat := tags.headD 0
/-- Always legal. -/
def alwaysLegal (_ : List Nat) : Option (Option Word) := none
/-- Legal where a condition holds; the TRAPVAL is not stated. -/
def legalIf (b : Bool) : Option (Option Word) := if b then none else some none

/-! ## Lanes -/

/-- R158. The mode of an RM field: 4 is RND as it stood at acceptance. -/
def SeqEntry.mode (e : SeqEntry) (rm : BitVec 3) : Mode := if rm = 4 then modeOf e.rnd.toNat else modeOf rm.toNat

/-- R144. The lanes whose mask bit is set and that every given operand covers. -/
def State.activeLanes (s : State) (core : Nat) (sl : List Taken) (m : BitVec 3) (codes : List Nat) (n : Nat) : List Bool :=
  codes.foldl (fun acc c => List.zipWith (· && ·) acc (validLanes sl c n)) (maskLanes ((s.core core).mask m.toNat) n)

/-- The operands' values lane by lane. -/
def rows (n : Nat) (cols : List (List Nat)) : List (List Nat) :=
  cols.foldr (fun col acc => List.zipWith (fun x r => x :: r) col acc) (List.replicate n [])

/-- R144. A lane function on the active lanes; an inactive lane computes nothing. -/
def computeLanes (f : List Nat → Nat × Flags) : List Bool → List (List Nat) → List (Nat × Flags)
  | true :: as, r :: rs => f r :: computeLanes f as rs
  | false :: as, _ :: rs => (0, 0) :: computeLanes f as rs
  | _, _ => []

/-- R160 Elementwise: a lane function on active lanes, written by R145. -/
def VOp.elementwise (srcs : List (Nat × Nat)) (d : BitVec 5) (m : BitVec 3) (accepts : List Nat → Option Nat)
    (result : List Nat → Nat) (f : SeqEntry → List Nat → List Nat → Nat × Flags) : VOp :=
  { srcs := srcs, dst := some d.toNat, accepts := accepts, result := result
    legal := fun tags => if result tags = 0 then some none else none
    reads := fun s core sl tags _ => s.activeLanes core sl m (srcs.map (·.2) ++ [d.toNat]) (lanes (result tags))
    run := fun s core e sl tags =>
      let codes := srcs.map (·.2)
      let tag := result tags
      let n := lanes tag
      let act := s.activeLanes core sl m (codes ++ [d.toNat]) n
      let res := computeLanes (f e tags) act (rows n (codes.map (s.source core sl)))
      .ok (s.writeDest core sl d.toNat tag act (res.map (·.1)), orFlags (res.map (·.2))) }

/-- Operands A and B. -/
def srcAB (a b : BitVec 5) : List (Nat × Nat) := [(0, a.toNat), (1, b.toNat)]
/-- Operand A. -/
def srcA (a : BitVec 5) : List (Nat × Nat) := [(0, a.toNat)]

/-! ## Major 0x30 (R160, R161) -/

/-- An arithmetic operation on two lanes: on floats, or exact on integers and cut to the width. -/
def arith2 (ff : Fmt → Nat → Nat → Nat × Flags) (fi : Elem → Int → Int → Int) (tags row : List Nat) : Nat × Flags :=
  let t := tagElem (firstTag tags)
  let a := row.getD 0 0
  let b := row.getD 1 0
  match t.fmt with
  | some f => ff f a b
  | none => (t.ofInt (fi t (t.intVal a) (t.intVal b)), 0)

/-- R160. An arithmetic instruction of major 0x30. -/
def VOp.arith (d a b : BitVec 5) (rm m : BitVec 3) (ff : Mode → Fmt → Nat → Nat → Nat × Flags) (fi : Elem → Int → Int → Int) :
    VOp :=
  VOp.elementwise (srcAB a b) d m (sameTags Machine.arith) firstTag (fun e => arith2 (ff (e.mode rm)) fi)

/-- R160. |a - b| with one rounding. -/
def Fmt.absDiff (f : Fmt) (mode : Mode) (a b : Val) : Nat × Flags :=
  match a, b with
  | .fin n1 m1 e1, .fin n2 m2 e2 =>
    let (v, e) := addExact n1 m1 e1 (!n2) m2 e2
    f.round mode false false v.natAbs e false
  | _, _ =>
    let (r, fl) := f.sub mode false a b
    (if (f.value r).isNaN then r else f.infBits false, fl)

/-- R160. A bitwise instruction on lane bits. -/
def VOp.bitwise (d a b : BitVec 5) (m : BitVec 3) (f : Nat → Nat → Nat) : VOp :=
  VOp.elementwise (srcAB a b) d m (sameTags anyTag) firstTag (fun _ _ row => (f (row.getD 0 0) (row.getD 1 0), 0))

/-- R160. A shift: `f` has the element, the lane bits of a, and b as an unsigned number. -/
def VOp.shift (d a b : BitVec 5) (m : BitVec 3) (f : Elem → Nat → Nat → Nat) : VOp :=
  VOp.elementwise (srcAB a b) d m (sameTags intArith) firstTag
    (fun _ tags row => (f (tagElem (firstTag tags)) (row.getD 0 0) (row.getD 1 0), 0))

/-- R160. a << b, 0 when b is at least W. -/
def shlLane (t : Elem) (a b : Nat) : Nat := if b < t.width then a * 2 ^ b % 2 ^ t.width else 0
/-- R160. Logical a >> b, 0 when b is at least W. -/
def shrLane (t : Elem) (a b : Nat) : Nat := if b < t.width then a / 2 ^ b else 0
/-- R160. Arithmetic a >> b, sign fill when b is at least W; the sign is that of the tag's value. -/
def sraLane (t : Elem) (a b : Nat) : Nat := t.ofInt (t.intVal a / 2 ^ (min b t.width) : Int)

/-- R161. The tag of B that pairs with a tag of A. -/
def scalebPair (t : Nat) : Nat := if t = 1 ∨ t = 15 then 9 else 10
/-- R161. The tags that VSCALEB accepts. -/
def scalebTags (tags : List Nat) : Option Nat :=
  if !floatArith (tags.getD 0 0) then some 0
  else if tags.getD 1 0 ≠ scalebPair (tags.getD 0 0) then some 1 else none
/-- R161. a * 2^b with one rounding. -/
def Fmt.scaleb (f : Fmt) (mode : Mode) (raw : Nat) (b : Int) : Nat × Flags :=
  match f.value raw with
  | .nan s => f.nanResult s
  | .inf n => (f.infBits n, 0)
  | .fin n m e => f.round mode false n m (e + b) false

/-! ## Major 0x31 (R162) -/

/-- R162. A unary instruction that keeps A's tag. -/
def VOp.unary (d a : BitVec 5) (m : BitVec 3) (ok : Nat → Bool) (f : SeqEntry → Elem → Nat → Nat × Flags) : VOp :=
  VOp.elementwise (srcA a) d m (sameTags ok) firstTag (fun e tags row => f e (tagElem (firstTag tags)) (row.getD 0 0))

/-- R162. A sign operation: on a float's sign bit (a NaN gives the default NaN), or on an integer. -/
def signLane (neg : Bool → Bool) (fi : Int → Int) (t : Elem) (a : Nat) : Nat × Flags :=
  match t.fmt with
  | some f =>
    match f.value a with
    | .nan s => f.nanResult s
    | v => (f.put (neg v.isNeg) (f.strip a % 2 ^ (f.ebits + f.mbits)), 0)
  | none => (t.ofInt (fi (t.intVal a)), 0)

/-- R162. A float function of one lane. -/
def floatLane (g : Fmt → Mode → Val → Nat × Flags) (rm : BitVec 3) (e : SeqEntry) (t : Elem) (a : Nat) : Nat × Flags :=
  match t.fmt with
  | some f => g f (e.mode rm) (f.value a)
  | none => (0, 0)

/-- R162. The tag that VCLASS gives. -/
def classTag (tags : List Nat) : Nat := if firstTag tags = 1 ∨ firstTag tags = 15 then 9 else 10
/-- R162. The tags that VIOTA may name. -/
def iotaTag (t : Nat) : Bool := [1, 2, 3, 9, 10, 11, 12].contains t

/-- R162. VIOTA. -/
def VOp.iota (d tag : BitVec 5) (rm m : BitVec 3) : VOp :=
  { srcs := [], dst := some d.toNat, accepts := noTags, result := fun _ => tag.toNat
    legal := fun _ => legalIf (iotaTag tag.toNat)
    run := fun s core e sl _ =>
      let t := tagElem tag.toNat
      let n := lanes tag.toNat
      let act := s.activeLanes core sl m [d.toNat] n
      let f : List Nat → Nat × Flags := fun row => match t.fmt with
        | some g => g.ofInt (e.mode rm) false (row.getD 0 0)
        | none => (t.ofInt (row.getD 0 0), 0)
      let res := computeLanes f act ((List.range n).map (fun i => [i]))
      .ok (s.writeDest core sl d.toNat tag.toNat act (res.map (·.1)), orFlags (res.map (·.2))) }

/-- R162. VBCAST. -/
def VOp.bcast (d tag : BitVec 5) (m : BitVec 3) : VOp :=
  VOp.elementwise [] d m noTags (fun _ => tag.toNat)
    (fun e _ _ => (e.a.word.toNat % 2 ^ (tagElem tag.toNat).width, 0))

/-! ## Major 0x32 (R163) -/

/-- R163. A fused instruction, the product's and the addend's signs flipped as told. -/
def VOp.fused (d a b c : BitVec 5) (rm m : BitVec 3) (negProd negC : Bool) : VOp :=
  VOp.elementwise (srcAB a b ++ [(2, c.toNat)]) d m (sameTags Machine.arith) firstTag (fun e tags row =>
    let t := tagElem (firstTag tags)
    let x := row.getD 0 0
    let y := row.getD 1 0
    let z := row.getD 2 0
    match t.fmt with
    | some f =>
      f.fma (e.mode rm) (if negProd then (f.value x).neg else f.value x) (f.value y)
        (if negC then (f.value z).neg else f.value z)
    | none =>
      let p := t.intVal x * t.intVal y
      (t.ofInt ((if negProd then -p else p) + (if negC then -t.intVal z else t.intVal z)), 0))

/-- R163. VSEL: the mask is data. -/
def VOp.select (d a b : BitVec 5) (m : BitVec 3) : VOp :=
  { srcs := srcAB a b, dst := some d.toNat, accepts := sameTags anyTag, result := firstTag, legal := alwaysLegal
    reads := fun s core sl tags _ => s.activeLanes core sl 0 [a.toNat, b.toNat, d.toNat] (lanes (firstTag tags))
    run := fun s core _ sl tags =>
      let n := lanes (firstTag tags)
      let act := s.activeLanes core sl 0 [a.toNat, b.toNat, d.toNat] n
      let pick := maskLanes ((s.core core).mask m.toNat) n
      let res := mergeLanes pick (s.source core sl a.toNat) (s.source core sl b.toNat)
      .ok (s.writeDest core sl d.toNat (firstTag tags) act res, 0) }

/-! ## Major 0x33 (R164) -/

/-- The bits of a mask from a list of lanes. -/
def maskOf : List Bool → Nat
  | [] => 0
  | b :: bs => (if b then 1 else 0) + 2 * maskOf bs

/-- R164. A compare: `f` gives a lane's condition, 0 or 1, and its flags. -/
def VOp.compare (q : BitVec 3) (srcs : List (Nat × Nat)) (m : BitVec 3) (ok : Nat → Bool)
    (f : Elem → List Nat → Nat × Flags) : VOp :=
  { srcs := srcs, dst := none, accepts := sameTags ok, result := firstTag, legal := fun _ => legalIf (q != 0)
    reads := fun s core sl tags _ => s.activeLanes core sl m (srcs.map (·.2)) (lanes (firstTag tags))
    run := fun s core _ sl tags =>
      let codes := srcs.map (·.2)
      let n := lanes (firstTag tags)
      let act := s.activeLanes core sl m codes n
      let res := computeLanes (f (tagElem (firstTag tags))) act (rows n (codes.map (s.source core sl)))
      .ok (s.modCore core (fun c => c.setMask q.toNat (BitVec.ofNat 512 (maskOf (res.map (fun r => r.1 == 1))))),
        orFlags (res.map (·.2))) }

/-- R164. A numeric comparison; `quiet` raises NV only for signalling NaNs, `onNaN` is its value with a NaN. -/
def compareLane (quiet onNaN : Bool) (fv : Val → Val → Bool) (fi : Int → Int → Bool) (t : Elem) (row : List Nat) :
    Nat × Flags :=
  let x := row.getD 0 0
  let y := row.getD 1 0
  match t.fmt with
  | some f =>
    let a := f.value x
    let b := f.value y
    let nan := a.isNaN || b.isNaN
    let inv := if quiet then a.isSignalling || b.isSignalling else nan
    (if (if nan then onNaN else fv a b) then 1 else 0, if inv then nv else 0)
  | none => (if fi (t.intVal x) (t.intVal y) then 1 else 0, 0)

/-! ## Major 0x34 (R165, R166) -/

/-- The part of a list from an index on, `n` long, filled up. -/
def window {α : Type} (l : List α) (from_ n : Nat) (fill : α) : List α :=
  let w := (l.drop from_).take n
  w ++ List.replicate (n - w.length) fill

/-- A list moved up by `k`, cut or filled to `n`. -/
def shiftUp {α : Type} (l : List α) (k n : Nat) (fill : α) : List α := (List.replicate k fill ++ window l 0 (n - k) fill).take n

/-- R144, R165. The lanes of a conversion that are active: masked destination lanes whose source lanes, given by destination
lane, are valid. -/
def convertActive (sl : List Taken) (d tag : Nat) (mask valid : List Bool) : List Bool :=
  List.zipWith (· && ·) (List.zipWith (· && ·) mask valid) (validLanes sl d (lanes tag))

/-- R165, R166. Converted lanes written to a destination: the source lanes and their validity, by destination lane; `mask`
governs the destination lanes. -/
def State.convertLanes (s : State) (core : Nat) (sl : List Taken) (d : Nat) (tag src : Nat) (mode : Mode)
    (mask valid : List Bool) (vals : List Nat) : State × Flags :=
  let act := convertActive sl d tag mask valid
  let res := computeLanes (fun row => convert (tagElem src) (tagElem tag) mode false (row.getD 0 0)) act (rows (lanes tag) [vals])
  (s.writeDest core sl d tag act (res.map (·.1)), orFlags (res.map (·.2)))

/-- ⌈a / b⌉. -/
def ceilDiv (a b : Nat) : Nat := (a + b - 1) / b

/-- R165. VCVT. -/
def VOp.cvt (d a : BitVec 5) (p : BitVec 4) (tag : BitVec 5) (rm m : BitVec 3) : VOp :=
  { srcs := srcA a, dst := some d.toNat, accepts := sameTags anyTag, result := fun _ => tag.toNat
    legal := fun tags =>
      if tag = 0 then some none
      else
        let ls := lanes (firstTag tags)
        let ld := lanes tag.toNat
        if p.toNat < ceilDiv (max ls ld) (min ls ld) then none else some (some (zext p))
    reads := fun s core sl tags _ =>
      let ls := lanes (firstTag tags)
      let ld := lanes tag.toNat
      let ok := validLanes sl a.toNat ls
      let k := p.toNat
      let act := convertActive sl d.toNat tag.toNat (maskLanes ((s.core core).mask m.toNat) ld)
      if ls ≤ ld then window (act (shiftUp ok (k * ls) ld false)) (k * ls) ls false
      else shiftUp (act (window ok (k * ld) ld false)) (k * ld) ls false
    run := fun s core e sl tags =>
      let ls := lanes (firstTag tags)
      let ld := lanes tag.toNat
      let vals := s.source core sl a.toNat
      let ok := validLanes sl a.toNat ls
      let k := p.toNat
      let (v, o) := if ls ≤ ld then (shiftUp vals (k * ls) ld 0, shiftUp ok (k * ls) ld false)
        else (window vals (k * ld) ld 0, window ok (k * ld) ld false)
      .ok (s.convertLanes core sl d.toNat tag.toNat (firstTag tags) (e.mode rm)
        (maskLanes ((s.core core).mask m.toNat) ld) o v) }

/-- R166. A float rounded to an integral value of its own format. -/
def Fmt.integral (f : Fmt) (mode : Mode) (a : Val) : Nat × Flags :=
  match a with
  | .nan s => f.nanResult s
  | .inf n => (f.infBits n, 0)
  | .fin n m e => ((f.round mode false n (roundAt mode n m e false 0).1 0 false).1, 0)

/-- R166. The lane of a tag that holds a bit of a register; none for the padding of 6-bit words. -/
def laneOfBit (tag b : Nat) : Option Nat :=
  match (tagElem tag).width with
  | 6 => if 30 ≤ b % 32 then none else some (5 * (b / 32) + b % 32 / 6)
  | w => some (b / w)

/-- R166. Every source lane that holds a bit of a destination lane is valid. -/
def retagValid (src dst : Nat) (ok : List Bool) (i : Nat) : Bool :=
  (List.range (tagElem dst).width).all (fun k =>
    match laneOfBit src (laneBit dst i + k) with
    | none => true
    | some j => ok.getD j true)

/-- R166. The destination lanes of VTAG that are active. -/
def State.retagActive (s : State) (core : Nat) (sl : List Taken) (m : BitVec 3) (a src dst : Nat) : List Bool :=
  let ok := validLanes sl a (lanes src)
  let mask := maskLanes ((s.core core).mask m.toNat) (lanes dst)
  if ok.all id then mask else List.zipWith (· && ·) mask ((List.range (lanes dst)).map (retagValid src dst ok))

/-- R166. The source lanes that hold a bit of an active destination lane. -/
def retagReads (src dst : Nat) (act : List Bool) : List Bool :=
  let used := ((List.range (lanes dst)).zip act).flatMap (fun p =>
    if p.2 then (List.range (tagElem dst).width).filterMap (fun k => laneOfBit src (laneBit dst p.1 + k)) else [])
  (List.range (lanes src)).map used.contains

/-- R166. VTAG. -/
def VOp.retag (d a tag : BitVec 5) (m : BitVec 3) : VOp :=
  { srcs := srcA a, dst := some d.toNat, accepts := sameTags anyTag, result := fun _ => tag.toNat
    legal := fun _ => legalIf (tag != 0 && decide (d.toNat < 16))
    reads := fun s core sl tags _ =>
      let src := firstTag tags
      retagReads src tag.toNat (s.retagActive core sl m a.toNat src tag.toNat)
    run := fun s core _ sl tags =>
      let src := firstTag tags
      let image := if a.toNat < 16 then ((s.core core).vreg a.toNat).bits.toNat
        else (joinLanes src (s.source core sl a.toNat)).toNat
      let act := s.retagActive core sl m a.toNat src tag.toNat
      .ok (s.writeDest core sl d.toNat tag.toNat act (splitLanes tag.toNat image), 0) }

/-- R166. VPACK. -/
def VOp.pack (d a b tag : BitVec 5) (rm m : BitVec 3) : VOp :=
  { srcs := srcAB a b, dst := some d.toNat, accepts := sameTags anyTag, result := fun _ => tag.toNat
    legal := fun tags => legalIf (tag != 0 && lanes tag.toNat == 2 * lanes (firstTag tags))
    reads := fun s core sl tags code =>
      let ls := lanes (firstTag tags)
      let act := convertActive sl d.toNat tag.toNat (maskLanes ((s.core core).mask m.toNat) (lanes tag.toNat))
        (validLanes sl a.toNat ls ++ validLanes sl b.toNat ls)
      if code = a.toNat then act.take ls else act.drop ls
    run := fun s core e sl tags =>
      let ls := lanes (firstTag tags)
      .ok (s.convertLanes core sl d.toNat tag.toNat (firstTag tags) (e.mode rm)
        (maskLanes ((s.core core).mask m.toNat) (lanes tag.toNat))
        (validLanes sl a.toNat ls ++ validLanes sl b.toNat ls)
        (s.source core sl a.toNat ++ s.source core sl b.toNat)) }

/-- R166. VUNPACK. -/
def VOp.unpack (d a tag : BitVec 5) (rm m : BitVec 3) : VOp :=
  { srcs := srcA a, dst := some d.toNat, accepts := sameTags anyTag, result := fun _ => tag.toNat
    legal := fun tags => legalIf (tag != 0 && lanes (firstTag tags) == 2 * lanes tag.toNat && decide (d.toNat < 16) &&
      decide (d.toNat % 2 = 0))
    reads := fun s core sl tags _ => s.activeLanes core sl m [a.toNat] (lanes (firstTag tags))
    run := fun s core e sl tags =>
      let src := firstTag tags
      let ld := lanes tag.toNat
      let mask := maskLanes ((s.core core).mask m.toNat) (2 * ld)
      let ok := validLanes sl a.toNat (2 * ld)
      let vals := s.source core sl a.toNat
      let (s1, f1) := s.convertLanes core sl d.toNat tag.toNat src (e.mode rm) (mask.take ld) (ok.take ld) (vals.take ld)
      let (s2, f2) := s1.convertLanes core sl (d.toNat + 1) tag.toNat src (e.mode rm) (mask.drop ld) (ok.drop ld)
        (vals.drop ld)
      .ok (s2, f1 ||| f2) }

/-! ## Major 0x35 (R167, R168) -/

/-- R167. One level of the reduction tree. -/
def reducePairs (op : Nat → Nat → Nat × Flags) : List (Option Nat) → List (Option Nat) × Flags
  | some x :: some y :: rest =>
    let (r, f) := op x y
    let (l, g) := reducePairs op rest
    (some r :: l, f ||| g)
  | some x :: none :: rest => let (l, g) := reducePairs op rest; (some x :: l, g)
  | none :: y :: rest => let (l, g) := reducePairs op rest; (y :: l, g)
  | l => (l, 0)

/-- R167. The tree over at most 2^fuel nodes. -/
def reduceTree (op : Nat → Nat → Nat × Flags) : Nat → List (Option Nat) → Option Nat × Flags
  | 0, l => (l.headD none, 0)
  | fuel + 1, l =>
    let (l1, f) := reducePairs op l
    let (r, g) := reduceTree op fuel l1
    (r, f ||| g)

/-- The lanes that are active, the rest absent. -/
def present : List Bool → List Nat → List (Option Nat)
  | b :: bs, x :: xs => (if b then some x else none) :: present bs xs
  | _, _ => []

/-- R167. A reduction: `op` combines two lanes of the source's element, `lift` makes a lane a node. -/
def VOp.reduce (d a : BitVec 5) (m : BitVec 3) (result : List Nat → Nat) (lift : Elem → Nat → Nat)
    (op : SeqEntry → Elem → Nat → Nat → Nat × Flags) : VOp :=
  { srcs := srcA a, dst := some d.toNat, accepts := sameTags Machine.arith, result := result, legal := alwaysLegal
    reads := fun s core sl tags _ => s.activeLanes core sl m [a.toNat] (lanes (firstTag tags))
    run := fun s core e sl tags =>
      let t := tagElem (firstTag tags)
      let n := lanes (firstTag tags)
      let act := s.activeLanes core sl m [a.toNat] n
      let nodes := present act ((s.source core sl a.toNat).map (lift t))
      let (r, f) := reduceTree (op e t) 9 nodes
      let tag := result tags
      let res := r.getD 0 :: List.replicate (lanes tag - 1) 0
      .ok (s.writeDest core sl d.toNat tag (validLanes sl d.toNat (lanes tag)) res, f) }

/-- R167. Maximum or minimum of two lanes. -/
def extremeLane (isMax : Bool) (t : Elem) (a b : Nat) : Nat × Flags :=
  match t.fmt with
  | some f => f.minMax isMax a b
  | none => (if isMax == decide (t.intVal a < t.intVal b) then b else a, 0)

/-- R168. VPERM. -/
def VOp.perm (d a b : BitVec 5) (m : BitVec 3) : VOp :=
  { srcs := srcAB a b, dst := some d.toNat
    accepts := fun tags =>
      let la := lanes (tags.getD 0 0)
      if !(anyTag (tags.getD 0 0) && decide (la ≤ 256)) then some 0
      else if !(intTag (tags.getD 1 0) && decide (la ≤ lanes (tags.getD 1 0))) then some 1 else none
    result := firstTag, legal := alwaysLegal
    reads := fun s core sl tags code =>
      let n := lanes (firstTag tags)
      let act := s.activeLanes core sl m [a.toNat, b.toNat, d.toNat] n
      if code = b.toNat then act
      else
        let named := (List.zip act (s.source core sl b.toNat)).filterMap (fun p => if p.1 then some p.2 else none)
        (List.range n).map named.contains
    run := fun s core _ sl tags =>
      let n := lanes (firstTag tags)
      let act := s.activeLanes core sl m [a.toNat, b.toNat, d.toNat] n
      let vals := s.source core sl a.toNat
      let res := (s.source core sl b.toNat).map (fun j => vals.getD j 0)
      .ok (s.writeDest core sl d.toNat (firstTag tags) act (res.take n), 0) }

/-- A vector entry's plain result in a g register of the control context. -/
def State.vecG (s : State) (core : Nat) (e : SeqEntry) (d : BitVec 5) (w : Word) : State :=
  s.modCtx ⟨core, control⟩ (fun c => c.complete e.bank d (Reg.plain w))

/-- R168. VEXTR; the lane index is read at acceptance. -/
def VOp.extr (d a : BitVec 5) (idx : Word) : VOp :=
  { srcs := srcA a, dst := none, accepts := sameTags anyTag, result := firstTag
    legal := fun tags => legalIf (decide (idx.toNat < lanes (firstTag tags)))
    reads := fun _ _ _ tags _ => (List.range (lanes (firstTag tags))).map (fun i => i == idx.toNat)
    run := fun s core e sl _ => .ok (s.vecG core e d (w64 ((s.source core sl a.toNat).getD idx.toNat 0)), 0) }

/-- R168. VINS; `v` and the index are read at acceptance. A stream, or a register tagged EMPTY, fails the tag check. -/
def VOp.ins (d : BitVec 5) (v idx : Word) : VOp :=
  { srcs := [(3, d.toNat)], dst := some d.toNat
    accepts := fun tags => if anyTag (firstTag tags) && decide (d.toNat < 16) then none else some 0
    result := firstTag
    legal := fun tags => legalIf (decide (idx.toNat < lanes (firstTag tags)))
    run := fun s core _ sl tags =>
      let tag := firstTag tags
      let n := lanes tag
      .ok (s.writeDest core sl d.toNat tag ((List.range n).map (fun i => i == idx.toNat))
        (List.replicate n (v.toNat % 2 ^ (tagElem tag).width)), 0) }

/-! ## Major 0x36 (R169, R170) -/

/-- R169. The address of a VLD or VST. -/
def SeqEntry.addr (e : SeqEntry) : Word := e.a.word + e.b.word

/-- The places of the active ones of an array's elements, from element `i` on. -/
def activeSpans (core : Nat) (addr : Word) (t : Elem) : List Bool → Nat → List (Loc × Nat)
  | [], _ => []
  | a :: as, i => (if a then (elemPlace core addr t i).toList else []) ++ activeSpans core addr t as (i + 1)

/-- The bits of the active ones of an array's elements, from element `i` on. -/
def activeBits (core : Nat) (addr : Word) (t : Elem) : List Bool → Nat → List BitSpan
  | [], _ => []
  | a :: as, i => (if a then elemBits core addr t i else []) ++ activeBits core addr t as (i + 1)

/-- R169. VLD. -/
def VOp.ld (d tag : BitVec 5) (m : BitVec 3) (addr : Word) : VOp :=
  { srcs := [], dst := some d.toNat, accepts := noTags, result := fun _ => tag.toNat
    legal := fun _ => legalIf (tag != 0)
    run := fun s core _ sl _ =>
      match ownPlace core addr.toNat 256 with
      | none => .error ⟨Cause.illegalOperand, addr, 0⟩
      | some l => do
        let act := s.activeLanes core sl m [d.toNat] (lanes tag.toNat)
        s.checkLocks core [(l, 256)] false 0
        s.checkMarks (activeSpans core addr (tagElem tag.toNat) act 0) 0
        .ok (s.writeDest core sl d.toNat tag.toNat act (splitLanes tag.toNat (s.readAt l 256)), 0) }

/-- The active lanes of an array written to memory, from element `i` on. -/
def State.writeElems (s : State) (core : Nat) (addr : Word) (t : Elem) : List Bool → List Nat → Nat → State
  | a :: as, x :: xs, i =>
    let s1 := match if a then elemPlace core addr t i else none with
      | some (l, _) => s.writeElem l t i x
      | none => s
    s1.writeElems core addr t as xs (i + 1)
  | _, _, _ => s

/-- R169. VST: only the active lanes' bits change, and every granule written loses its tag. -/
def VOp.st (c : BitVec 5) (m : BitVec 3) (addr : Word) : VOp :=
  { srcs := [(2, c.toNat)], dst := none, accepts := sameTags anyTag, result := firstTag, legal := alwaysLegal
    reads := fun s core sl tags _ => s.activeLanes core sl m [c.toNat] (lanes (firstTag tags))
    run := fun s core _ sl tags =>
      match ownPlace core addr.toNat 256 with
      | none => .error ⟨Cause.illegalOperand, addr, 0⟩
      | some l => do
        s.checkLocks core [(l, 256)] true 0
        let t := tagElem (firstTag tags)
        let n := lanes (firstTag tags)
        let act := s.activeLanes core sl m [c.toNat] n
        let s1 := s.writeElems core addr t act (s.source core sl c.toNat) 0
        .ok (s1.clearBits (activeBits core addr t act 0), 0) }

/-- R170. The check of one active element, by its lane: the place of its bytes. -/
def State.checkElem (s : State) (core : Nat) (cap : Reg) (t : Elem) (write : Bool) (n : Int) : VRes (Loc × Nat) :=
  let (b, k) := t.byteSpan n
  let a : Int := cap.word.toNat + b
  if !cap.covers a k then .error ⟨Cause.capBounds, i64 a, 0⟩
  else
    match ownPlace core a k with
    | none => .error ⟨Cause.illegalOperand, i64 a, 0⟩
    | some l =>
      if s.locked core l k write then .error ⟨Cause.rangeLocked, i64 a, 0⟩
      else
        match if write then none else s.firstPoisoned l k with
        | some j => .error ⟨Cause.poisonConsumed, i64 (a + j), 0⟩
        | none => .ok (l, k)

/-- The elements of an index vector's active lanes, by data lane. -/
def activeElems : List Bool → List Nat → Nat → List (Nat × Int)
  | a :: as, x :: xs, i => (if a then [(i, Elem.int32.intVal x)] else []) ++ activeElems as xs (i + 1)
  | _, _, _ => []

/-- R170. Every active element checked, in lane order, before any moves. -/
def State.checkElems (s : State) (core : Nat) (cap : Reg) (t : Elem) (write : Bool) : List (Nat × Int) →
    VRes (List (Nat × Int × Loc × Nat))
  | [] => .ok []
  | (i, n) :: rest => do
    let l ← s.checkElem core cap t write n
    let ls ← s.checkElems core cap t write rest
    .ok ((i, n, l) :: ls)

/-- R170. The active index lanes of part `p`: the index lane, the data lane's mask bit, and what the data operand covers. -/
def State.gatherLanes (s : State) (core : Nat) (sl : List Taken) (m : BitVec 3) (b data p n : Nat) : List Bool :=
  let mask := maskLanes ((s.core core).mask m.toNat) n
  let act := List.zipWith (· && ·) mask (validLanes sl data n)
  List.zipWith (· && ·) ((act.drop (64 * p)).take 64) (validLanes sl b 64)

/-- R170. The part is legal for a tag. -/
def partLegal (p : BitVec 4) (tag : Nat) : Option (Option Word) := legalIf (decide (p.toNat < lanes tag / 64) && tag != 0)

/-- R170. VGATH. -/
def VOp.gath (d b : BitVec 5) (p : BitVec 4) (tag : BitVec 5) (m : BitVec 3) : VOp :=
  { srcs := [(1, b.toNat)], dst := some d.toNat, accepts := sameTags (· == 9), result := fun _ => tag.toNat
    legal := fun _ => partLegal p tag.toNat
    reads := fun s core sl _ _ => s.gatherLanes core sl m b.toNat d.toNat p.toNat (lanes tag.toNat)
    run := fun s core e sl _ => do
      let t := tagElem tag.toNat
      let n := lanes tag.toNat
      let act := s.gatherLanes core sl m b.toNat d.toNat p.toNat n
      let els ← s.checkElems core e.a t false (activeElems act (s.source core sl b.toNat) (64 * p.toNat))
      let vals : SMap Nat := els.map (fun x => (x.1, s.readElem x.2.2.1 t x.2.1))
      .ok (s.writeDest core sl d.toNat tag.toNat (shiftUp act (64 * p.toNat) n false)
        ((List.range n).map (fun i => SMap.getD vals i 0)), 0) }

/-- R170. VSCAT: ascending lane order, the highest lane winning. -/
def VOp.scat (c b : BitVec 5) (p : BitVec 4) (m : BitVec 3) : VOp :=
  { srcs := [(1, b.toNat), (2, c.toNat)], dst := none
    accepts := fun tags => if tags.getD 0 0 ≠ 9 then some 0 else if !anyTag (tags.getD 1 0) then some 1 else none
    result := fun tags => tags.getD 1 0
    legal := fun tags => partLegal p (tags.getD 1 0)
    reads := fun s core sl tags code =>
      let n := lanes (tags.getD 1 0)
      let act := s.gatherLanes core sl m b.toNat c.toNat p.toNat n
      if code = b.toNat then act else shiftUp act (64 * p.toNat) n false
    run := fun s core e sl tags => do
      let tag := tags.getD 1 0
      let t := tagElem tag
      let n := lanes tag
      let act := s.gatherLanes core sl m b.toNat c.toNat p.toNat n
      let els ← s.checkElems core e.a t true (activeElems act (s.source core sl b.toNat) (64 * p.toNat))
      let vals := s.source core sl c.toNat
      let s1 := els.foldl (fun u x => u.writeElem x.2.2.1 t x.2.1 (vals.getD x.1 0)) s
      .ok (s1.clearBits (els.flatMap (fun x => elemBits core e.a.word t x.2.1)), 0) }

/-! ## Major 0x37 (R147, R171) -/

/-- R147. The object index that SBIND names. -/
def SeqEntry.objIndex (e : SeqEntry) : Nat := bits e.b.word 15 0
/-- R228. The bank of a span of own scratchpad addresses: it lies wholly inside one. -/
def oneBank (lo hi : Int) : Bool :=
  let b : Int := 0x7E00 * 2 ^ 48
  decide (b ≤ lo) && decide (hi ≤ b + Config.spadBytes) && decide ((lo - b) / 262144 = (hi - 1 - b) / 262144)

/-- R147. SBIND. -/
def VOp.bind_ (mode : BitVec 2) (st : BitVec 3) : VOp :=
  { srcs := [], dst := none, accepts := noTags, result := fun _ => 0, legal := alwaysLegal
    run := fun s core e _ _ =>
      let idx := e.objIndex
      let res : Res State := do
        let (s1, r) ← s.shape (s.recordReader ⟨core, control⟩) idx
        ensure (!r.matrix && decide (r.dims.length ≤ 4)) Cause.illegalOperand s.openVal
        ensure (if mode = 1 then r.rd else r.wr) Cause.shapeRights s.openVal
        let (lo, hi) := r.span e.a.word
        ensure (e.a.covers lo (hi - lo).toNat) Cause.capBounds (i64 lo)
        ensure (oneBank lo hi) Cause.shapeBounds s.openVal
        .ok (s1.modCore core (fun c => c.setStream st.toNat
          { state := .bound, shape := r, cap := e.a, mode := mode, idx := List.replicate 4 0, pos := 0
            count := r.count, obj := idx }))
      match res with
      | .ok s1 => .ok (s1, 0)
      | .error f => .error ⟨f.cause, f.val, 0⟩ }

/-- R171. SPOS. No rule names the TRAPVAL of its deferred trap: it is g[A], the value out of range (DESIGN CHOICE, log 82). -/
def VOp.setPos (st : BitVec 3) : VOp :=
  { srcs := [], dst := none, accepts := noTags, result := fun _ => 0, legal := alwaysLegal
    run := fun s core e _ _ =>
      let t := (s.core core).stream st.toNat
      let p := e.a.word.toNat
      if t.count < p then .error ⟨Cause.illegalOperand, e.a.word, 0⟩
      else .ok (s.modCore core (fun c => c.setStream st.toNat
        { t with idx := indexAt p t.shape.walk, pos := p, state := if p = t.count then .ended else .bound }), 0) }

/-- R171. What SGET reads. -/
def Stream.word (t : Stream) : Word :=
  if t.state = .unbound then 0
  else w64 ((if t.state = .ended then 2 ^ 63 else 0) + 2 ^ 62 + t.mode.toNat * 2 ^ 60 + t.obj % 2 ^ 16 * 2 ^ 32 +
    t.pos % 2 ^ 32)
/-- R171. SGET. -/
def VOp.getPos (d : BitVec 5) (st : BitVec 3) : VOp :=
  { srcs := [], dst := none, accepts := noTags, result := fun _ => 0, legal := alwaysLegal
    run := fun s core e _ _ => .ok (s.vecG core e d ((s.core core).stream st.toNat).word, 0) }

/-! ## Major 0x39 (R173) -/

/-- R173. x comes before y: greater value, equal values by the lower lane; no NaN reaches this. -/
def ranksBefore (t : Elem) (x y : Nat × Nat) : Bool :=
  match t.fmt with
  | some f =>
    let a := f.value x.2
    let b := f.value y.2
    b.lt a || (a.eq b && decide (x.1 < y.1))
  | none => decide (t.intVal y.2 < t.intVal x.2) || (decide (t.intVal x.2 = t.intVal y.2) && decide (x.1 < y.1))

/-- Insertion into a ranked list. -/
def insertRanked (t : Elem) (x : Nat × Nat) : List (Nat × Nat) → List (Nat × Nat)
  | [] => [x]
  | y :: ys => if ranksBefore t x y then x :: y :: ys else y :: insertRanked t x ys

/-- R173. The candidates among lanes from `i` on, ranked, and the flags of signalling NaNs. -/
def candidates (t : Elem) (nonzero : Bool) : List Bool → List Nat → Nat → List (Nat × Nat) × Flags
  | a :: as, x :: xs, i =>
    let (l, f) := candidates t nonzero as xs (i + 1)
    if !a then (l, f)
    else
      match (t.fmt.map (fun g => g.value x) : Option Val) with
      | some (.nan sg) => (l, f ||| (if sg then nv else 0))
      | some v => if nonzero && v.isZero then (l, f) else (insertRanked t (i, x) l, f)
      | none => if nonzero && x == 0 then (l, f) else (insertRanked t (i, x) l, f)
  | _, _, _ => ([], 0)

/-- R173. VTOPK and VTOPKNZ. -/
def VOp.topk (d a c : BitVec 5) (k : BitVec 10) (m : BitVec 3) (nonzero : Bool) : VOp :=
  { srcs := srcA a, dst := some d.toNat, accepts := sameTags Machine.arith, result := firstTag
    legal := fun tags =>
      if k = 0 ∨ lanes (firstTag tags) < k.toNat ∨ 128 < k.toNat ∨ 16 ≤ d.toNat ∨ d.toNat % 2 = 1 then
        some (some (zext k)) else none
    reads := fun s core sl tags _ => s.activeLanes core sl m [a.toNat] (lanes (firstTag tags))
    run := fun s core e sl tags =>
      let tag := firstTag tags
      let n := lanes tag
      let act := s.activeLanes core sl m [a.toNat] n
      let (cand, f) := candidates (tagElem tag) nonzero act (s.source core sl a.toNat) 0
      let top := cand.take k.toNat
      let idx := top.map (·.1) ++ List.replicate (k.toNat - top.length) 0xFFFF
      let s1 := s.modCore core (fun q =>
        (q.setV d.toNat ⟨joinLanes tag (top.map (·.2)), tag⟩).setV (d.toNat + 1) ⟨joinLanes 10 idx, 10⟩)
      .ok (s1.vecG core e c (w64 top.length), f) }

end Sys2Proof.Machine
end

