-- ==== Sys2Proof/Machine/Vector.lean ====
section
/-!
DEFINITION. Vector instructions (R142 to R173), PARK and UNPARK at acceptance, the sequencer's execution of its entries, and
VLOOP (R151 to R157). An instruction is accepted when it issues; its effect is that of SEQUENCER_EXECUTE.
-/

namespace Sys2Proof.Machine

/-! ## Operands and effects -/

/-- A compare of two operands. -/
def VOp.compare2 (q : BitVec 3) (a b : BitVec 5) (m : BitVec 3) (ok : Nat → Bool) (quiet onNaN : Bool)
    (fv : Val → Val → Bool) (fi : Int → Int → Bool) : VOp :=
  VOp.compare q (srcAB a b) m ok (compareLane quiet onNaN fv fi)

/-- R164. VCLASSM: class c is bit c of its field. -/
def VOp.classm (q : BitVec 3) (a : BitVec 5) (cls : BitVec 10) (m : BitVec 3) : VOp :=
  VOp.compare q (srcA a) m floatTag (fun t row => match t.fmt with
    | some f => (if cls.getLsbD (f.classOf (row.getD 0 0)) then 1 else 0, 0)
    | none => (0, 0))

/-- R160 to R173. The operands and the effect of a vector instruction; none of any other instruction. -/
def vop (e : SeqEntry) : Option VOp :=
  match e.instr with
  | .vadd d a b rm m => some (VOp.arith d a b rm m (fun mo f x y => f.add mo false (f.value x) (f.value y)) (fun _ x y => x + y))
  | .vsub d a b rm m => some (VOp.arith d a b rm m (fun mo f x y => f.sub mo false (f.value x) (f.value y)) (fun _ x y => x - y))
  | .vmul d a b rm m => some (VOp.arith d a b rm m (fun mo f x y => f.mul mo (f.value x) (f.value y)) (fun _ x y => x * y))
  | .vmin d a b rm m => some (VOp.arith d a b rm m (fun _ f x y => f.minMax false x y) (fun _ x y => min x y))
  | .vmax d a b rm m => some (VOp.arith d a b rm m (fun _ f x y => f.minMax true x y) (fun _ x y => max x y))
  | .vand d a b m => some (VOp.bitwise d a b m (· &&& ·))
  | .vor d a b m => some (VOp.bitwise d a b m (· ||| ·))
  | .vxor d a b m => some (VOp.bitwise d a b m (· ^^^ ·))
  | .vandn d a b m => some (VOp.bitwise d a b m (fun x y => x ^^^ (x &&& y)))
  | .vshl d a b m => some (VOp.shift d a b m shlLane)
  | .vshr d a b m => some (VOp.shift d a b m shrLane)
  | .vsra d a b m => some (VOp.shift d a b m sraLane)
  | .vscaleb d a b rm m => some (VOp.elementwise (srcAB a b) d m scalebTags firstTag (fun e tags row =>
      match (tagElem (firstTag tags)).fmt with
      | some f => f.scaleb (e.mode rm) (row.getD 0 0) ((tagElem (tags.getD 1 0)).intVal (row.getD 1 0))
      | none => (0, 0)))
  | .vadds d a b rm m => some (VOp.arith d a b rm m (fun mo f x y => f.add mo true (f.value x) (f.value y))
      (fun t x y => t.clamp (x + y)))
  | .vsubs d a b rm m => some (VOp.arith d a b rm m (fun mo f x y => f.sub mo true (f.value x) (f.value y))
      (fun t x y => t.clamp (x - y)))
  | .vabsd d a b rm m => some (VOp.arith d a b rm m (fun mo f x y => f.absDiff mo (f.value x) (f.value y))
      (fun t x y => t.clamp ((x - y).natAbs)))
  | .vmov d a m => some (VOp.unary d a m anyTag (fun _ _ x => (x, 0)))
  | .vneg d a m => some (VOp.unary d a m Machine.arith (fun _ => signLane (fun n => !n) (fun x => -x)))
  | .vabs d a m => some (VOp.unary d a m Machine.arith (fun _ => signLane (fun _ => false) (fun x => x.natAbs)))
  | .vnot d a m => some (VOp.unary d a m anyTag (fun _ t x => (2 ^ t.width - 1 - x, 0)))
  | .vclass d a m => some (VOp.elementwise (srcA a) d m (sameTags floatArith) classTag (fun _ tags row =>
      match (tagElem (firstTag tags)).fmt with
      | some f => (2 ^ f.classOf (row.getD 0 0), 0)
      | none => (0, 0)))
  | .viota d tag rm m => some (VOp.iota d tag rm m)
  | .vbcast d _ tag m => some (VOp.bcast d tag m)
  | .vrcp d a rm m => some (VOp.unary d a m floatArith (floatLane Fmt.rcp rm))
  | .vrsqrt d a rm m => some (VOp.unary d a m floatArith (floatLane Fmt.rsqrt rm))
  | .vsqrt d a rm m => some (VOp.unary d a m floatArith (floatLane Fmt.sqrt rm))
  | .vfma d a b c rm m => some (VOp.fused d a b c rm m false false)
  | .vfms d a b c rm m => some (VOp.fused d a b c rm m false true)
  | .vfnma d a b c rm m => some (VOp.fused d a b c rm m true false)
  | .vsel d a b m => some (VOp.select d a b m)
  | .vceq q a b m => some (VOp.compare2 q a b m anyTag true false Val.eq (fun x y => x == y))
  | .vcne q a b m => some (VOp.compare2 q a b m anyTag true true (fun x y => !x.eq y) (fun x y => x != y))
  | .vclt q a b m => some (VOp.compare2 q a b m anyTag false false Val.lt (fun x y => decide (x < y)))
  | .vcle q a b m => some (VOp.compare2 q a b m anyTag false false (fun x y => x.lt y || x.eq y) (fun x y => decide (x ≤ y)))
  | .vcun q a b m => some (VOp.compare2 q a b m floatTag true true (fun _ _ => false) (fun _ _ => false))
  | .vclassm q a cls m => some (VOp.classm q a cls m)
  | .vcvt d a p tag rm m => some (VOp.cvt d a p tag rm m)
  | .vrnd d a rm m => some (VOp.unary d a m floatArith (floatLane Fmt.integral rm))
  | .vtag d a tag m => some (VOp.retag d a tag m)
  | .vpack d a b tag rm m => some (VOp.pack d a b tag rm m)
  | .vunpack d a tag rm m => some (VOp.unpack d a tag rm m)
  | .vredsum d a rm m => some (VOp.reduce d a m (fun tags => if floatArith (firstTag tags) then firstTag tags else 9)
      (fun t x => if t.isFloat then x else Elem.int32.ofInt (t.intVal x)) (fun e t x y => match t.fmt with
        | some f => f.add (e.mode rm) false (f.value x) (f.value y)
        | none => ((x + y) % 2 ^ 32, 0)))
  | .vredmax d a m => some (VOp.reduce d a m firstTag (fun _ x => x) (fun _ => extremeLane true))
  | .vredmin d a m => some (VOp.reduce d a m firstTag (fun _ x => x) (fun _ => extremeLane false))
  | .vperm d a b m => some (VOp.perm d a b m)
  | .vextr d a _ => some (VOp.extr d a e.b.word)
  | .vins d _ _ => some (VOp.ins d e.a.word e.b.word)
  | .vld d _ _ tag m => some (VOp.ld d tag m e.addr)
  | .vst c _ _ m => some (VOp.st c m e.addr)
  | .vgath d _ b p tag m => some (VOp.gath d b p tag m)
  | .vscat c _ b p m => some (VOp.scat c b p m)
  | .sbind mode st _ _ => some (VOp.bind_ mode st)
  | .spos st _ => some (VOp.setPos st)
  | .sget d st => some (VOp.getPos d st)
  | .vexp2f d a rm m => some (VOp.unary d a m floatArith (floatLane Fmt.exp2 rm))
  | .vlog2f d a rm m => some (VOp.unary d a m floatArith (floatLane Fmt.log2 rm))
  | .vtanh d a rm m => some (VOp.unary d a m floatArith (floatLane Fmt.tanh rm))
  | .vtopk d a c k m => some (VOp.topk d a c k m false)
  | .vtopknz d a c k m => some (VOp.topk d a c k m true)
  | _ => none

/-! ## Checks on streams and tags (R148, R151, R159) -/

/-- The operands of an instruction that may be streams, in the order A, B, C, destination; the flag marks the destination. -/
def VOp.operands (v : VOp) : List (Nat × Bool) :=
  (v.srcs.filter (fun p => decide (p.1 < 3))).map (fun p => (p.2, false)) ++
    (match v.dst with
      | some d => [(d, true)]
      | none => [])

/-- A failed check of a vector instruction; a value or operand code that the spec does not name is none. -/
structure VCheck where
  cause : BitVec 8
  val : Option Word
  code : Option Nat
  deriving DecidableEq, Repr

/-- R148. The stream rules, in operand order: an unbound stream, a stream named twice, the wrong mode. -/
def Core.streamRules (c : Core) : List (Nat × Bool) → List Nat → Option VCheck
  | [], _ => none
  | (code, w) :: rest, seen =>
    if code < 16 then c.streamRules rest seen
    else
      let st := c.stream (code - 16)
      if st.state = .unbound ∨ seen.contains code then some ⟨Cause.illegalOperand, none, none⟩
      else if st.mode ≠ (if w then 2 else 1) then some ⟨Cause.shapeRights, none, none⟩
      else c.streamRules rest (code :: seen)

/-- The tags of the operands that an instruction checks. -/
def Core.tagsOf (c : Core) (v : VOp) : List Nat := v.srcs.map (fun p => c.tagOf p.2)

/-- R159. TRAPVAL of a tag failure. -/
def Core.tagValue (c : Core) (v : VOp) : Word :=
  let srcs := (v.srcs.map (fun p => c.tagOf p.2 * 2 ^ (8 * p.1))).foldl (· + ·) 0
  let dst := match v.dst with
    | some d => if d < 16 then 0 else c.tagOf d * 2 ^ 24
    | none => 0
  w64 (if v.srcs.any (fun p => p.1 == 3) then srcs else srcs + dst)

/-- R159. The tag checks: sources, then a destination stream's format. -/
def Core.tagRules (c : Core) (v : VOp) : Option VCheck :=
  let tags := c.tagsOf v
  match v.accepts tags with
  | some k => some ⟨Cause.fmtTagMismatch, some (c.tagValue v), (v.srcs.map (·.2))[k]?⟩
  | none =>
    match v.dst with
    | some d =>
      if 16 ≤ d ∧ v.result tags ≠ 0 ∧ c.tagOf d ≠ v.result tags then
        some ⟨Cause.fmtTagMismatch, some (c.tagValue v), some d⟩
      else none
    | none => none

/-- R151. The operand legality that an entry assigns to acceptance, after the stream rules and the tags. -/
def Core.acceptRules (c : Core) (v : VOp) : Option VCheck :=
  match c.streamRules v.operands [] with
  | some f => some f
  | none =>
    match c.tagRules v with
    | some f => some f
    | none =>
      match v.legal (c.tagsOf v) with
      | some val => some ⟨Cause.illegalOperand, val, none⟩
      | none => none

/-! ## Acceptance (R151) -/

/-- The distinct entries that the sequencer holds: accepted ones, and the bodies of replays. -/
def Core.seqIds (c : Core) : List Nat :=
  (c.seq.flatMap (fun i => match i with
    | .entry e => [e.id]
    | .replay body _ _ _ _ => body.map (·.id))).eraseDups

/-- The streams among registers. -/
def streamRefs (l : List RegRef) : List Nat :=
  l.filterMap (fun r => match r with
    | .s n => some n
    | _ => none)

/-- The streams that an instruction names. -/
def Instr.streams (i : Instr) : List Nat := streamRefs (Instr.reads i ++ Instr.writes i)

/-- The entries that the sequencer has still to execute. -/
def Core.seqEntries (c : Core) : List SeqEntry :=
  c.seq.flatMap (fun i => match i with
    | .entry e => [e]
    | .replay body _ _ _ _ => body)

/-- R151. An accepted SBIND of a stream has not executed. -/
def Core.bindPending (c : Core) (st : Nat) : Bool :=
  c.seqEntries.any (fun e => match e.instr with
    | .sbind _ n _ _ => n.toNat == st
    | _ => false)

/-- R151. A free entry, and no pending SBIND of a stream that the instruction names. -/
def Core.acceptReady (c : Core) (i : Instr) : Bool :=
  decide (c.seqIds.length < 16) && (Instr.streams i).all (fun n => !c.bindPending n)

/-- An entry for the current instruction. -/
def State.seqEntry (s : State) (i : Instr) (a b : Reg) : SeqEntry :=
  { id := s.myCore.seqNext, instr := i, head := s.me.pc, a := a, b := b, rnd := s.me.rnd, memSeq := s.me.pendSeq
    mxSeq := s.myCore.mxIssued.toNat, bank := s.me.uia, dom := s.me.dom }

/-- R151, R157. A core with an entry accepted: it joins the sequencer and the window of VLOOP. -/
def Core.push (c : Core) (e : SeqEntry) : Core :=
  let w := c.window ++ [e]
  { c with seq := c.seq ++ [.entry e], seqNext := c.seqNext + 1, window := w.drop (w.length - 16) }

/-- R169. The range of a VLD or VST lies in the own scratchpad or the own cluster memory. -/
def SeqEntry.regionLegal (e : SeqEntry) : Bool :=
  match e.instr with
  | .vld _ _ _ _ _ => (ownPlace 0 e.addr.toNat 256).isSome
  | .vst _ _ _ _ => (ownPlace 0 e.addr.toNat 256).isSome
  | _ => true

/-- R169 to R171. The capability check of a vector instruction: on `a`, R92 with the kind and the address; with the size and
alignment of VLD and VST, or checks 1 to 4 alone. -/
def SeqEntry.capCheck (e : SeqEntry) (dom : BitVec 6) (priv : Bool) : Res Unit :=
  match e.instr with
  | .vld _ _ _ _ _ => checkCap e.a dom priv .load e.addr 256 4
  | .vst _ _ _ _ => checkCap e.a dom priv .store e.addr 256 4
  | .vgath _ _ _ _ _ _ => checkCapRights e.a dom priv .load e.a.word
  | .vscat _ _ _ _ _ => checkCapRights e.a dom priv .store e.a.word
  | .sbind mode _ _ _ => checkCapRights e.a dom priv (if mode = 1 then .load else .store) e.a.word
  | _ => .ok ()

/-- R171. The operand checks of SBIND and SPOS at acceptance. -/
def Core.streamControl (c : Core) (e : SeqEntry) : Option Word :=
  match e.instr with
  | .sbind _ _ _ _ => if bits e.b.word 63 16 = 0 then none else some e.b.word
  | .spos st _ => if (c.stream st.toNat).state = .unbound then some (zext st) else none
  | _ => none

/-- A failed check as a trap of the current instruction. -/
def State.vtrap (s : State) (f : VCheck) : Trap :=
  s.trapHere f.cause (f.val.getD s.openVal) (match f.code with
    | some k => s.regProg (BitVec.ofNat 5 k)
    | none => s.openProg)

/-- R151. The checks of acceptance, in order; R169 has the capability of VLD and VST before their region (log 36). -/
def State.acceptChecks (s : State) (v : VOp) (e : SeqEntry) (a : BitVec 5) : Chk Unit := do
  match s.myCore.acceptRules v with
  | some f => .error (s.vtrap f)
  | none => do
    match s.myCore.streamControl e with
    | some w => s.needOperand false w
    | none => .ok ()
    s.check (e.capCheck s.me.dom s.me.priv) (s.regProg a)
    s.needOperand e.regionLegal e.addr

/-- R151, R154. A vector instruction is accepted; `a` and `b` are the g registers it reads, g0 for none. -/
def State.accept (s : State) (i : Instr) (a b : BitVec 5) : Out :=
  s.controlOnly (do
    s.needOperand (!s.myCore.vsqSusp) 0x810
    if !s.myCore.acceptReady i then .ok s.hold
    else
      let e := s.seqEntry i (s.g a) (s.g b)
      match vop e with
      | none => .ok s.advance
      | some v => do
        s.acceptChecks v e a
        .ok (s.modMyCore (·.push e)).advance)

/-- R160. VADD. -/
def execVadd (d a b : BitVec 5) (rm m : BitVec 3) (s : State) : Out := s.accept (.vadd d a b rm m) 0 0
/-- R160. VSUB. -/
def execVsub (d a b : BitVec 5) (rm m : BitVec 3) (s : State) : Out := s.accept (.vsub d a b rm m) 0 0
/-- R160. VMUL. -/
def execVmul (d a b : BitVec 5) (rm m : BitVec 3) (s : State) : Out := s.accept (.vmul d a b rm m) 0 0
/-- R160. VMIN. -/
def execVmin (d a b : BitVec 5) (rm m : BitVec 3) (s : State) : Out := s.accept (.vmin d a b rm m) 0 0
/-- R160. VMAX. -/
def execVmax (d a b : BitVec 5) (rm m : BitVec 3) (s : State) : Out := s.accept (.vmax d a b rm m) 0 0
/-- R160. VAND. -/
def execVand (d a b : BitVec 5) (m : BitVec 3) (s : State) : Out := s.accept (.vand d a b m) 0 0
/-- R160. VOR. -/
def execVor (d a b : BitVec 5) (m : BitVec 3) (s : State) : Out := s.accept (.vor d a b m) 0 0
/-- R160. VXOR. -/
def execVxor (d a b : BitVec 5) (m : BitVec 3) (s : State) : Out := s.accept (.vxor d a b m) 0 0
/-- R160. VANDN. -/
def execVandn (d a b : BitVec 5) (m : BitVec 3) (s : State) : Out := s.accept (.vandn d a b m) 0 0
/-- R160. VSHL. -/
def execVshl (d a b : BitVec 5) (m : BitVec 3) (s : State) : Out := s.accept (.vshl d a b m) 0 0
/-- R160. VSHR. -/
def execVshr (d a b : BitVec 5) (m : BitVec 3) (s : State) : Out := s.accept (.vshr d a b m) 0 0
/-- R160. VSRA. -/
def execVsra (d a b : BitVec 5) (m : BitVec 3) (s : State) : Out := s.accept (.vsra d a b m) 0 0
/-- R161. VSCALEB. -/
def execVscaleb (d a b : BitVec 5) (rm m : BitVec 3) (s : State) : Out := s.accept (.vscaleb d a b rm m) 0 0
/-- R160. VADDS. -/
def execVadds (d a b : BitVec 5) (rm m : BitVec 3) (s : State) : Out := s.accept (.vadds d a b rm m) 0 0
/-- R160. VSUBS. -/
def execVsubs (d a b : BitVec 5) (rm m : BitVec 3) (s : State) : Out := s.accept (.vsubs d a b rm m) 0 0
/-- R160. VABSD. -/
def execVabsd (d a b : BitVec 5) (rm m : BitVec 3) (s : State) : Out := s.accept (.vabsd d a b rm m) 0 0
/-- R162. VMOV. -/
def execVmov (d a : BitVec 5) (m : BitVec 3) (s : State) : Out := s.accept (.vmov d a m) 0 0
/-- R162. VNEG. -/
def execVneg (d a : BitVec 5) (m : BitVec 3) (s : State) : Out := s.accept (.vneg d a m) 0 0
/-- R162. VABS. -/
def execVabs (d a : BitVec 5) (m : BitVec 3) (s : State) : Out := s.accept (.vabs d a m) 0 0
/-- R162. VNOT. -/
def execVnot (d a : BitVec 5) (m : BitVec 3) (s : State) : Out := s.accept (.vnot d a m) 0 0
/-- R162. VCLASS. -/
def execVclass (d a : BitVec 5) (m : BitVec 3) (s : State) : Out := s.accept (.vclass d a m) 0 0
/-- R162. VIOTA. -/
def execViota (d tag : BitVec 5) (rm m : BitVec 3) (s : State) : Out := s.accept (.viota d tag rm m) 0 0
/-- R162. VBCAST. -/
def execVbcast (d a tag : BitVec 5) (m : BitVec 3) (s : State) : Out := s.accept (.vbcast d a tag m) a 0
/-- R162. VRCP. -/
def execVrcp (d a : BitVec 5) (rm m : BitVec 3) (s : State) : Out := s.accept (.vrcp d a rm m) 0 0
/-- R162. VRSQRT. -/
def execVrsqrt (d a : BitVec 5) (rm m : BitVec 3) (s : State) : Out := s.accept (.vrsqrt d a rm m) 0 0
/-- R162. VSQRT. -/
def execVsqrt (d a : BitVec 5) (rm m : BitVec 3) (s : State) : Out := s.accept (.vsqrt d a rm m) 0 0
/-- R163. VFMA. -/
def execVfma (d a b c : BitVec 5) (rm m : BitVec 3) (s : State) : Out := s.accept (.vfma d a b c rm m) 0 0
/-- R163. VFMS. -/
def execVfms (d a b c : BitVec 5) (rm m : BitVec 3) (s : State) : Out := s.accept (.vfms d a b c rm m) 0 0
/-- R163. VFNMA. -/
def execVfnma (d a b c : BitVec 5) (rm m : BitVec 3) (s : State) : Out := s.accept (.vfnma d a b c rm m) 0 0
/-- R163. VSEL. -/
def execVsel (d a b : BitVec 5) (m : BitVec 3) (s : State) : Out := s.accept (.vsel d a b m) 0 0
/-- R164. VCEQ. -/
def execVceq (q : BitVec 3) (a b : BitVec 5) (m : BitVec 3) (s : State) : Out := s.accept (.vceq q a b m) 0 0
/-- R164. VCNE. -/
def execVcne (q : BitVec 3) (a b : BitVec 5) (m : BitVec 3) (s : State) : Out := s.accept (.vcne q a b m) 0 0
/-- R164. VCLT. -/
def execVclt (q : BitVec 3) (a b : BitVec 5) (m : BitVec 3) (s : State) : Out := s.accept (.vclt q a b m) 0 0
/-- R164. VCLE. -/
def execVcle (q : BitVec 3) (a b : BitVec 5) (m : BitVec 3) (s : State) : Out := s.accept (.vcle q a b m) 0 0
/-- R164. VCUN. -/
def execVcun (q : BitVec 3) (a b : BitVec 5) (m : BitVec 3) (s : State) : Out := s.accept (.vcun q a b m) 0 0
/-- R164. VCLASSM. -/
def execVclassm (q : BitVec 3) (a : BitVec 5) (cls : BitVec 10) (m : BitVec 3) (s : State) : Out :=
  s.accept (.vclassm q a cls m) 0 0
/-- R165. VCVT. -/
def execVcvt (d a : BitVec 5) (p : BitVec 4) (tag : BitVec 5) (rm m : BitVec 3) (s : State) : Out :=
  s.accept (.vcvt d a p tag rm m) 0 0
/-- R166. VRND. -/
def execVrnd (d a : BitVec 5) (rm m : BitVec 3) (s : State) : Out := s.accept (.vrnd d a rm m) 0 0
/-- R166. VTAG. -/
def execVtag (d a tag : BitVec 5) (m : BitVec 3) (s : State) : Out := s.accept (.vtag d a tag m) 0 0
/-- R166. VPACK. -/
def execVpack (d a b tag : BitVec 5) (rm m : BitVec 3) (s : State) : Out := s.accept (.vpack d a b tag rm m) 0 0
/-- R166. VUNPACK. -/
def execVunpack (d a tag : BitVec 5) (rm m : BitVec 3) (s : State) : Out := s.accept (.vunpack d a tag rm m) 0 0
/-- R167. VREDSUM. -/
def execVredsum (d a : BitVec 5) (rm m : BitVec 3) (s : State) : Out := s.accept (.vredsum d a rm m) 0 0
/-- R167. VREDMAX. -/
def execVredmax (d a : BitVec 5) (m : BitVec 3) (s : State) : Out := s.accept (.vredmax d a m) 0 0
/-- R167. VREDMIN. -/
def execVredmin (d a : BitVec 5) (m : BitVec 3) (s : State) : Out := s.accept (.vredmin d a m) 0 0
/-- R168. VPERM. -/
def execVperm (d a b : BitVec 5) (m : BitVec 3) (s : State) : Out := s.accept (.vperm d a b m) 0 0
/-- R168. VEXTR. -/
def execVextr (d a b : BitVec 5) (s : State) : Out := s.accept (.vextr d a b) 0 b
/-- R168. VINS. -/
def execVins (d a b : BitVec 5) (s : State) : Out := s.accept (.vins d a b) a b
/-- R169. VLD. -/
def execVld (d a b tag : BitVec 5) (m : BitVec 3) (s : State) : Out := s.accept (.vld d a b tag m) a b
/-- R169. VST. -/
def execVst (c a b : BitVec 5) (m : BitVec 3) (s : State) : Out := s.accept (.vst c a b m) a b
/-- R170. VGATH. -/
def execVgath (d a b : BitVec 5) (p : BitVec 4) (tag : BitVec 5) (m : BitVec 3) (s : State) : Out :=
  s.accept (.vgath d a b p tag m) a 0
/-- R170. VSCAT. -/
def execVscat (c a b : BitVec 5) (p : BitVec 4) (m : BitVec 3) (s : State) : Out := s.accept (.vscat c a b p m) a 0
/-- R171. SBIND. -/
def execSbind (mode : BitVec 2) (st : BitVec 3) (a b : BitVec 5) (s : State) : Out := s.accept (.sbind mode st a b) a b
/-- R171. SPOS. -/
def execSpos (st : BitVec 3) (a : BitVec 5) (s : State) : Out := s.accept (.spos st a) a 0
/-- R171. SGET. -/
def execSget (d : BitVec 5) (st : BitVec 3) (s : State) : Out := s.accept (.sget d st) 0 0
/-- R172. VEXP2F. -/
def execVexp2f (d a : BitVec 5) (rm m : BitVec 3) (s : State) : Out := s.accept (.vexp2f d a rm m) 0 0
/-- R172. VLOG2F. -/
def execVlog2f (d a : BitVec 5) (rm m : BitVec 3) (s : State) : Out := s.accept (.vlog2f d a rm m) 0 0
/-- R172. VTANH. -/
def execVtanh (d a : BitVec 5) (rm m : BitVec 3) (s : State) : Out := s.accept (.vtanh d a rm m) 0 0
/-- R173. VTOPK. -/
def execVtopk (d a c : BitVec 5) (k : BitVec 10) (m : BitVec 3) (s : State) : Out := s.accept (.vtopk d a c k m) 0 0
/-- R173. VTOPKNZ. -/
def execVtopknz (d a c : BitVec 5) (k : BitVec 10) (m : BitVec 3) (s : State) : Out := s.accept (.vtopknz d a c k m) 0 0

/-! ## PARK and UNPARK at acceptance (R246) -/

/-- R246. The object of a PARK or UNPARK entry, and whether it is a PARK. -/
def SeqEntry.parks (e : SeqEntry) : Option (Bool × ParkObject) :=
  match e.instr with
  | .park x _ _ rb => some (true, parkObject x rb)
  | .unpark x _ _ rb => some (false, parkObject x rb)
  | _ => none

/-- R243. The object is no tile that an unfinished CPYM is to write. -/
def Core.parkFree (c : Core) : ParkObject → Bool
  | .tile t => !c.copyTargets t
  | _ => true

/-- R243, R246. The checks of acceptance. -/
def State.parkChecks (s : State) (e : SeqEntry) (store : Bool) (o : ParkObject) (a : BitVec 5) : Chk Unit := do
  let addr := e.parkAddr
  s.need (s.myCore.parkFree o) Cause.illegalOperand s.me.ir (s.byteProg 2)
  s.needOperand (decide (addr.toNat % 64 = 0)) addr
  s.needOperand (match ownPlace 0 addr.toNat o.size with
    | some _ => isOwnSpad addr
    | none => false) addr
  s.needOperand o.inStore addr
  s.check (checkCap e.a s.me.dom s.me.priv (if store then .store else .load) addr o.size 1) (s.regProg a)

/-- R246. PARK or UNPARK is accepted. -/
def State.acceptPark (s : State) (i : Instr) (store : Bool) (x : BitVec 6) (a b : BitVec 5) (rb : BitVec 10) : Out :=
  s.controlOnly (do
    s.needOperand (!s.myCore.vsqSusp) 0x810
    if !s.myCore.acceptReady i then .ok s.hold
    else
      let e := s.seqEntry i (s.g a) (s.g b)
      s.parkChecks e store (parkObject x rb) a
      let s1 := s.modMyCore (fun c => { c.push e with parkBusy := c.parkBusy + 1 })
      .ok (s1.modMe (fun c => { c with cntTile := c.cntTile + 1 })).advance)

/-- R246. PARK. -/
def execPark (x : BitVec 6) (a b : BitVec 5) (rb : BitVec 10) (s : State) : Out :=
  s.acceptPark (.park x a b rb) true x a b rb
/-- R246. UNPARK. -/
def execUnpark (x : BitVec 6) (a b : BitVec 5) (rb : BitVec 10) (s : State) : Out :=
  s.acceptPark (.unpark x a b rb) false x a b rb

/-! ## VLOOP (R157) -/

/-- R157. VLOOP: the last k accepted instructions of the window are replayed n times. -/
def execVloop (u : BitVec 1) (k a : BitVec 5) (n : BitVec 16) (s : State) : Out :=
  s.controlOnly (do
    s.needOperand (!s.myCore.vsqSusp) 0x810
    let w := s.myCore.window
    let body := w.drop (w.length - k.toNat)
    let count := if a = 0 then n.toNat else bits (s.x a) 31 0
    s.needOperand (decide (k.toNat ≤ w.length) && body.all (fun e => e.parks.isNone) && (a == 0 || bits (s.x a) 63 32 == 0))
      (zext k)
    let item := if count = 0 then [] else [SeqItem.replay body 0 count (u == 1) false]
    .ok (s.modMyCore (fun c => { c with seq := c.seq ++ item, window := [] })).advance)

/-! ## Execution (R151, R152, R156, R157) -/

/-- The entry that executes next: the head of the sequencer, or the next of a pass in progress. -/
def Core.seqHead (c : Core) : Option SeqEntry :=
  match c.seq with
  | [] => none
  | .entry e :: _ => some e
  | .replay body pos _ _ active :: _ => if active then body[pos]? else none

/-- The sequencer after its head entry has executed. -/
def seqAfter : List SeqItem → List SeqItem
  | [] => []
  | .entry _ :: rest => rest
  | .replay body pos rem toEnd active :: rest =>
    if pos + 1 < body.length then .replay body (pos + 1) rem toEnd active :: rest
    else .replay body 0 rem toEnd false :: rest

/-- R152. A failed check of acceptance that an entry of a replay meets again at execution. -/
def VCheck.atExecution (f : VCheck) (s : State) : VFail := ⟨f.cause, f.val.getD s.openVal, f.code.getD 0⟩

/-- R144, R184. The stream elements that an instruction's active lanes read meet no poison, operand by operand. -/
def State.checkReads (s : State) (core : Nat) (v : VOp) (sl : List Taken) (tags : List Nat) : VRes Unit :=
  v.operands.foldl (fun r p => do
    r
    if p.2 then .ok ()
    else
      let used := ((sliceOf sl p.1).zip (v.reads s core sl tags p.1)).filterMap (fun x => if x.2 then x.1 else none)
      s.checkMarks (((s.core core).stream (p.1 - 16)).spans core (used.map some)) p.1) (.ok ())

/-- An entry executes: its streams and tags as they now stand, then its effect; every stream used moves past its slice. -/
def State.executeEntry (s : State) (core : Nat) (e : SeqEntry) : VRes (State × Flags) :=
  match e.parks with
  | some (true, o) => s.runPark core e o
  | some (false, o) => s.runUnpark core e o
  | none =>
    match vop e with
    | none => .ok (s, 0)
    | some v =>
      match (s.core core).acceptRules v with
      | some f => .error (f.atExecution s)
      | none => do
        let tags := (s.core core).tagsOf v
        let sl ← s.slices core v.operands
        s.checkReads core v sl tags
        let (s1, fl) ← v.run s core e sl tags
        .ok (s1.advanceStreams core sl, fl)

/-- R152. The deferred trap of a failing entry. -/
def State.failVector (s : State) (core : Nat) (e : SeqEntry) (f : VFail) : State :=
  let t : Trap := ⟨f.cause, 0, f.val, w64 (3 * 2 ^ 62 + f.code)⟩
  (s.modCore core (fun c => { c with vsqSusp := true, vsqPc := e.head })).defer ⟨core, control⟩ ⟨.vector, e.id, t⟩

/-- R157. The streams that an entry left ENDED. -/
def endedBy (before after : Core) (e : SeqEntry) : Bool :=
  (Instr.streams e.instr).any (fun n => (before.stream n).state != .ended && (after.stream n).state == .ended)

/-- R156, R246. An entry may execute: the context's earlier accesses are performed, and for a PARK or UNPARK the engine's
earlier operations have completed. -/
def State.mayExecute (s : State) (core : Nat) (e : SeqEntry) : Bool :=
  !s.olderPending core e.memSeq && (e.parks.isNone || !(s.core core).olderMx e.mxSeq)

/-- R147, R291. The state that the read of an SBIND's record leaves, whatever check fails after it. -/
def State.entryRead (s : State) (core : Nat) (e : SeqEntry) : State :=
  match e.instr with
  | .sbind _ _ _ _ => s.recordRead (s.recordReader ⟨core, control⟩) e.objIndex
  | _ => s

/-- R151. SEQUENCER_EXECUTE. -/
def execSequencerExecute (core : Nat) (s : State) : Out :=
  .next (
    let c := s.core core
    match if c.vsqSusp then none else c.seqHead with
    | none => s
    | some e =>
      if !s.mayExecute core e then s
      else
        match s.executeEntry core e with
        | .error f => (s.entryRead core e).failVector core e f
        | .ok (s1, fl) =>
          let s2 := s1.modCore core (fun k =>
            { k with seq := seqAfter k.seq, vsqEnded := NSet.put k.vsqEnded e.id (endedBy c k e) })
          s2.modCtx ⟨core, control⟩ (·.raiseFlags fl))

/-- R157. A VLOOP.u stops here: a stream became ENDED in the last execution of the body, or all its streams are ENDED. -/
def Core.loopEnded (c : Core) (body : List SeqEntry) : Bool :=
  let st := (body.flatMap (fun e => Instr.streams e.instr)).eraseDups
  body.any (fun e => NSet.has c.vsqEnded e.id) || (!st.isEmpty && st.all (fun n => (c.stream n).state == .ended))

/-- R157. VLOOP_REPLAY: the next pass begins, or the replay ends. -/
def Core.replayNext (c : Core) : Core :=
  match c.seq with
  | .replay body pos rem toEnd false :: rest =>
    if rem = 0 ∨ (toEnd ∧ c.loopEnded body) then { c with seq := rest }
    else { c with seq := .replay body pos (rem - 1) toEnd true :: rest }
  | _ => c

/-- R157. VLOOP_REPLAY. -/
def execVloopReplay (core : Nat) (s : State) : Out :=
  .next (if (s.core core).vsqSusp then s else s.modCore core (·.replayNext))

/-! ## Registers of the sequencer (R153) -/

/-- R153. VSQREM. -/
def Core.vsqrem (c : Core) : Word :=
  match c.seq with
  | .replay body pos rem toEnd active :: _ =>
    w64 (2 ^ 63 + (if toEnd then 2 ^ 62 else 0) + body.length * 2 ^ 57 + pos * 2 ^ 52 + (if active then rem else rem - 1))
  | _ => 0
/-- R153. VSQCTL. -/
def Core.vsqctl (c : Core) : Word := if c.vsqSusp then 2 else 0

/-- R153, R154. VSQCTL.DISCARD: the sequencer is emptied, replays end, and SUSP is cleared. -/
def State.discardSeq (s : State) (k : Nat) : State :=
  let parks := ((s.core k).seqEntries.filter (fun e => e.parks.isSome)).length
  let s1 := s.modCore k (fun c => { c with
    seq := [], window := [], vsqSusp := false, parkBusy := c.parkBusy - parks })
  s1.modCtx ⟨k, control⟩ (fun c => { c with cntTile := c.cntTile - parks })

end Sys2Proof.Machine
end

