-- ==== Sys2Proof/Machine/Lantern.lean ====
section
/-!
DEFINITION. The Lantern and the halt tree (R383, R384), interrupts of virtual devices (R386), the device's own writes to physical
memory, and the failure records that it writes there (R379).
-/

namespace Sys2Proof.Machine

/-- `n` bytes that the device writes to physical memory as a .pkg store; an address without memory, a sealed page or a fenced
home takes nothing. -/
def State.physWrite (s : State) (a n v : Nat) : State :=
  if decide (a + n ≤ Config.memSize) && !s.sealedAt ⟨.main, a, a⟩ && !s.homeFenced ⟨.main, a, a⟩ then
    { s with main := (s.main.write a n v).clearCovered [(a, n)] }
  else s

/-! ## Virtual devices -/

/-- A virtual device. -/
def State.vdev (s : State) (n : Nat) : VDev := SMap.getD s.vdevs n VDev.reset
/-- The state with a virtual device changed. -/
def State.modVdev (s : State) (n : Nat) (f : VDev → VDev) : State := { s with vdevs := SMap.set s.vdevs n (f (s.vdev n)) }
/-- R386. An interrupt vector of a device becomes pending. -/
def VDev.interrupt (d : VDev) (v : Nat) : VDev := { d with irqPend := d.irqPend ||| BitVec.ofNat 32 (2 ^ v) }
/-- Every virtual device receives an interrupt. -/
def State.interruptAll (s : State) (v : Nat) : State := (List.range 16).foldl (fun t n => t.modVdev n (·.interrupt v)) s
/-- R385. The virtual device that a domain belongs to; none for domains 0 and 63, or where no device has it. -/
def State.vdOf (s : State) (dom : BitVec 6) : Option Nat :=
  (List.range 16).find? (fun n => (s.vdev n).doms.getLsbD dom.toNat)

/-! ## The Lantern (R384) -/

/-- R384. A trigger of a source (1 SNAP, 2 the host, 3 an error): a capture begins, or the trigger merges into one in progress. -/
def State.lanternTrigger (s : State) (source : Nat) : State :=
  if s.lnctl.getLsbD 0 && s.lnctl.getLsbD source && s.capture.isNone then
    { s with capture := some ⟨List.range Config.cores, s.lnctl.getLsbD 7, []⟩ }
  else s

/-- R386. The issue numbers of a context's writes to host memory that are still to be performed: an interrupt of which it is the cause is
sent after them. -/
def Ctx.hostWrites (x : Ctx) : List Nat :=
  (x.pend.filter (fun o => o.kind.writes && o.isAccess && (match o.home with
    | .local l => l.space == .host
    | .remote _ _ => false))).map (·.seq)

/-- R384, R386. The trigger of a context's SNAP: the capture's interrupt is sent after the context's earlier writes to host memory. -/
def State.snap (s : State) : State :=
  let t := s.lanternTrigger 1
  if s.lnctl.getLsbD 0 && s.lnctl.getLsbD 1 then
    { t with capture := t.capture.map (fun k => { k with after := k.after ++ s.me.hostWrites.map (fun n => (s.cur, s.me.uid, n)) }) }
  else t

/-- R386. The writes before which a capture may not report have been performed. -/
def State.reported (s : State) (k : Capture) : Bool :=
  k.after.all (fun p => !(s.owner p.1 p.2.1).any (fun x => x.hostWrites.contains p.2.2))

/-- R389. A SEAL that holds the context, before its sealing moment or after, counts in CNTS.LOAD: SEAL is major 0x5A's one instruction. -/
def Ctx.sealing (x : Ctx) : Nat := if x.waiting && bits x.ir 12 6 == 0x5A then 1 else 0

/-- R97. CNTS, the entries of a suspended sequencer left out (R154). -/
def State.cntsOf (s : State) (c : CtxId) : Nat :=
  let x := s.ctx c
  let k := s.core c.core
  let parks := if k.vsqSusp && c.slot == control then (k.seqEntries.filter (fun e => e.parks.isSome)).length else 0
  (x.cntTile - parks) * 2 ^ 20 + x.cntCopy * 2 ^ 16 + x.cntStore * 2 ^ 8 + x.cntLoad + x.sealing

/-- R384. The capture record of a core: CYCLE, the pcs of the control context and of h0 to h9, CNTS, STATUS. -/
def State.captureRecord (s : State) (core : Nat) : Nat :=
  let c := s.ctx ⟨core, control⟩
  let pc := fun (n : Nat) => let x := s.ctx ⟨core, n⟩; if x.life = .live then x.pc.toNat else 0
  packBytes 8 ([s.cycle.toNat, pc control] ++ (List.range 10).map pc ++ [s.cntsOf ⟨core, control⟩, (c.statusWord control).toNat])

/-- R384. A core that the capture waits for writes its record at a group boundary, and stops where the trigger halts. -/
def execLanternCoreCapture (core : Nat) (s : State) : Out :=
  .next (match s.capture with
    | none => s
    | some k =>
      if NSet.has k.pending core && (s.core core).ctxs.all (fun p => p.2.life != .live || p.2.gpos == 0) then
        let s1 := s.physWrite (s.lnbase.toNat + 128 * core) 128 (s.captureRecord core)
        { s1 with capture := some { k with pending := NSet.del k.pending core } }.modCore core (fun c =>
          { c with lnStop := c.lnStop || k.halt })
      else s)

/-- R384, R386. Every record is written: SEQ advances and every virtual device receives vector 2. -/
def execLanternCaptureComplete (s : State) : Out :=
  .next (match s.capture with
    | none => s
    | some k =>
      if k.pending.isEmpty && s.reported k then { s with capture := none, lnseq := s.lnseq + 1 }.interruptAll 2
      else s)

/-! ## Failure records (R379) -/

/-- R379. The address of a domain's record. -/
def State.failAddr (s : State) (d : BitVec 6) : Nat := s.frbase.toNat + 4096 * d.toNat

/-- R379. The bytes of an item entry. -/
def FailItem.bytes (i : FailItem) : Nat :=
  i.kind + i.outcome * 2 ^ 8 + i.core % 2 ^ 16 * 2 ^ 16 + i.prog % 2 ^ 32 * 2 ^ 32 + i.id.toNat * 2 ^ 64

/-- R377, R379. An entry written to a domain's record; beyond 126 it is only counted. -/
def State.writeItem (s : State) (d : BitVec 6) (i : FailItem) : State :=
  match SMap.find s.terms d.toNat with
  | none => s
  | some t =>
    let a := s.failAddr d
    let put := fun (u : State) (x : Termination) => { u with terms := SMap.set u.terms d.toNat x }
    if t.written < 126 then
      put ((s.physWrite (a + 64 + 32 * t.written) 32 i.bytes).physWrite (a + 16) 4 (t.written + 1)) { t with written := t.written + 1 }
    else put (s.physWrite (a + 20) 4 (t.lost + 1)) { t with lost := t.lost + 1 }

/-- R377. An item settled: its entry follows those of the contexts. -/
def State.settled (s : State) (d : BitVec 6) (i : FailItem) : State :=
  match SMap.find s.terms d.toNat with
  | none => s
  | some t => { s with terms := SMap.set s.terms d.toNat { t with items := t.items ++ [i] } }

/-- R378, R379. A further error charged to a terminated domain: ERRS grows, and saturates. -/
def State.countError (s : State) (d : BitVec 6) : State :=
  let a := s.failAddr d
  s.physWrite a 2 (min 65535 (s.main.read a 2 + 1))

/-- R313, R379. An entry in a domain's record: with the others of its termination while that lasts, and otherwise behind those that the
record in memory counts. -/
def State.recordItem (s : State) (d : BitVec 6) (i : FailItem) : State :=
  if (SMap.find s.terms d.toNat).isSome then s.settled d i
  else
    let a := s.failAddr d
    let n := s.main.read (a + 16) 4
    if n < 126 then (s.physWrite (a + 64 + 32 * n) 32 i.bytes).physWrite (a + 16) 4 (n + 1)
    else s.physWrite (a + 20) 4 (s.main.read (a + 20) 4 + 1)

/-- R379. The header of a record. -/
def failHeader (struct die core cycle : Nat) : Nat :=
  1 + core * 2 ^ 21 + die * 2 ^ 30 + struct * 2 ^ 40 + 0x60 * 2 ^ 48 + cycle * 2 ^ 64

end Sys2Proof.Machine
end

