-- ==== Sys2Proof/Machine/Function.lean ====
section
/-!
DEFINITION. The function instructions of majors 0x44 and 0x45 (R204 to R227): the checks at issue, and the execution of each
operation in the queue that they share with the matrix engine.
-/

namespace Sys2Proof.Machine

/-! ## Function registers (R204, R205) -/

/-- The contents of a function register; an EMPTY one has none. -/
def Core.fn? (c : Core) (n : Nat) : Option Fn := SMap.find c.fns n
/-- A function register that a passed check found VALID. -/
def Core.fn (c : Core) (n : Nat) : Fn := (c.fn? n).getD ⟨0, 0, []⟩
/-- R204. The length of a function. -/
def Fn.len (f : Fn) : Nat := f.coeffs.length
/-- R205. The lengths of the VALID registers other than `d`. -/
def Core.otherLengths (c : Core) (d : Nat) : Nat :=
  ((c.fns.filter (fun p => decide (p.1 ≠ d))).map (fun p => p.2.len)).foldl (· + ·) 0
/-- R204. Half of a domain's length. -/
def Fn.half (f : Fn) : Q := ((Q.ofBits f.hi).sub (Q.ofBits f.lo)).div (Q.ofInt 2)
/-- The exact coefficients. -/
def Fn.exact (f : Fn) : List Q := f.coeffs.map Q.ofBits
/-- R204. The exact t of a point x. -/
def Fn.toT (f : Fn) (x : Q) : Q :=
  (((Q.ofInt 2).mul x).sub ((Q.ofBits f.lo).add (Q.ofBits f.hi))).div ((Q.ofBits f.hi).sub (Q.ofBits f.lo))
/-- The default NaN of FP64. -/
def nan64 : Nat := fp64.defaultNaN

/-- The function register that an operation makes VALID. -/
def fnWrites : Instr → Option Nat
  | .chadd d _ _ | .chsub d _ _ | .chmul d _ _ | .chcomp d _ _ | .chdiff d _ | .chint d _ | .chmov d _ | .chtrunc d _ _
  | .chfit d _ _ _ | .chconst d _ _ _ | .chx d _ _ | .chld d _ _ | .chscal d _ _ => some d.toNat
  | _ => none

/-- R212. Whether a function register is VALID after the queued operations. -/
def validAfter (v : Bool) (n : Nat) : List MxOp → Bool
  | [] => v
  | op :: ops =>
    let v1 := match op.instr with
      | .chfree d => if d.toNat = n then false else v
      | i => if fnWrites i = some n then true else v
    validAfter v1 n ops

/-- R212. A function register will be VALID. -/
def Core.fnValid (c : Core) (n : BitVec 3) : Bool := validAfter (c.fn? n.toNat).isSome n.toNat c.mxq

/-! ## Issue (R211, R212) -/

/-- R212. A function instruction: check 1 on the registers it reads, check 2 on its operands, check 3 on its capability. -/
def State.issueFn (s : State) (i : Instr) (reads : List (BitVec 3)) (limits : Bool) (cap : Option (BitVec 5 × CapUse))
    (ra rb rc : Reg) : Out :=
  s.issueEngine (do
    mxNeed (reads.all s.myCore.fnValid) s.me.ir 1
    mxNeed limits s.me.ir 2
    match cap with
    | none => .ok ()
    | some (a, use) =>
      match checkCapRights (s.g a) s.me.dom s.me.priv use ((s.g a).word + rb.word) with
      | .ok () => .ok ()
      | .error f => .error ⟨f.cause, f.val, 3, false⟩
    let op := s.mxOp i 0 0 ra rb rc
    .ok ((s.enqueueMx s.cur.core op).modMe (fun c => c.await op.gdest)))

/-- R217. CHADD. -/
def execChadd (d a b : BitVec 3) (s : State) : Out :=
  s.issueFn (.chadd d a b) [a, b] true none Reg.zero Reg.zero Reg.zero
/-- R217. CHSUB. -/
def execChsub (d a b : BitVec 3) (s : State) : Out :=
  s.issueFn (.chsub d a b) [a, b] true none Reg.zero Reg.zero Reg.zero
/-- R217. CHMUL. -/
def execChmul (d a b : BitVec 3) (s : State) : Out :=
  s.issueFn (.chmul d a b) [a, b] true none Reg.zero Reg.zero Reg.zero
/-- R217. CHCOMP. -/
def execChcomp (d a b : BitVec 3) (s : State) : Out :=
  s.issueFn (.chcomp d a b) [a, b] true none Reg.zero Reg.zero Reg.zero
/-- R217. CHDIFF. -/
def execChdiff (d a : BitVec 3) (s : State) : Out := s.issueFn (.chdiff d a) [a] true none Reg.zero Reg.zero Reg.zero
/-- R217. CHINT. -/
def execChint (d a : BitVec 3) (s : State) : Out := s.issueFn (.chint d a) [a] true none Reg.zero Reg.zero Reg.zero
/-- R217. CHMOV. -/
def execChmov (d a : BitVec 3) (s : State) : Out := s.issueFn (.chmov d a) [a] true none Reg.zero Reg.zero Reg.zero
/-- R217. CHFREE. -/
def execChfree (d : BitVec 3) (s : State) : Out := s.issueFn (.chfree d) [] true none Reg.zero Reg.zero Reg.zero
/-- R217. CHLEN. -/
def execChlen (d : BitVec 5) (a : BitVec 3) (s : State) : Out :=
  s.issueFn (.chlen d a) [a] true none Reg.zero Reg.zero Reg.zero
/-- R217. CHNORM. -/
def execChnorm (d : BitVec 5) (a : BitVec 3) (s : State) : Out :=
  s.issueFn (.chnorm d a) [a] true none Reg.zero Reg.zero Reg.zero
/-- R217. CHTRUNC: g[B] is at least 1. -/
def execChtrunc (d a : BitVec 3) (b : BitVec 5) (s : State) : Out :=
  s.issueFn (.chtrunc d a b) [a] (s.x b != 0) none Reg.zero (s.g b) Reg.zero
/-- R218. CHFIT: n from 2 to 4096. -/
def execChfit (d : BitVec 3) (a b : BitVec 5) (n : BitVec 13) (s : State) : Out :=
  s.issueFn (.chfit d a b n) [] (decide (2 ≤ n.toNat) && decide (n.toNat ≤ 4096)) (some (a, .load)) (s.g a) (s.g b) Reg.zero
/-- R218. CHEVAL. -/
def execCheval (d : BitVec 5) (a : BitVec 3) (b : BitVec 5) (s : State) : Out :=
  s.issueFn (.cheval d a b) [a] true none Reg.zero (s.g b) Reg.zero
/-- R218. CHROOT: k at most 4094. -/
def execChroot (d : BitVec 5) (a : BitVec 3) (b : BitVec 5) (k : BitVec 12) (s : State) : Out :=
  s.issueFn (.chroot d a b k) [a] (decide (k.toNat ≤ 4094)) none Reg.zero (s.g b) Reg.zero
/-- R218. CHCONST: its domain is valid. -/
def execChconst (d : BitVec 3) (a b c : BitVec 5) (s : State) : Out :=
  s.issueFn (.chconst d a b c) [] (domainValid (s.x a) (s.x b)) none (s.g a) (s.g b) (s.g c)
/-- R218. CHX: its domain is valid. -/
def execChx (d : BitVec 3) (a b : BitVec 5) (s : State) : Out :=
  s.issueFn (.chx d a b) [] (domainValid (s.x a) (s.x b)) none (s.g a) (s.g b) Reg.zero
/-- R218. CHLD. -/
def execChld (d : BitVec 3) (a b : BitVec 5) (s : State) : Out :=
  s.issueFn (.chld d a b) [] true (some (a, .load)) (s.g a) (s.g b) Reg.zero
/-- R218. CHST. -/
def execChst (sn : BitVec 3) (a b : BitVec 5) (s : State) : Out :=
  s.issueFn (.chst sn a b) [sn] true (some (a, .store)) (s.g a) (s.g b) Reg.zero
/-- R218. CHSCAL. -/
def execChscal (d a : BitVec 3) (b : BitVec 5) (s : State) : Out :=
  s.issueFn (.chscal d a b) [a] true none Reg.zero (s.g b) Reg.zero

/-! ## Execution -/

/-- R213. A failure in execution; `buffer` marks the buffer overflow of R205. -/
structure FnFail where
  cause : BitVec 8
  val : Word
  buffer : Bool
  deriving DecidableEq, Repr

/-- The result of a function operation. -/
abbrev FnRun := Except FnFail (State × Flags)

/-- A check of memory that failed, as a failure in execution. -/
def fnRes {α : Type} (r : Res α) : Except FnFail α :=
  match r with
  | .ok a => .ok a
  | .error f => .error ⟨f.cause, f.val, false⟩

/-- Fail in execution unless a condition holds. -/
def fnNeed (b : Bool) (cause : BitVec 8) (val : Word) : Except FnFail Unit := if b then .ok () else .error ⟨cause, val, false⟩

/-- R205. A function committed to a register: FN_STORE_FULL where the store cannot hold it; LAST is its length. -/
def State.commitFn (s : State) (core d : Nat) (f : Fn) (fl : Flags) : FnRun :=
  let total := f.len + (s.core core).otherLengths d
  if 4096 < total then .error ⟨Cause.fnStoreFull, w64 total, false⟩
  else .ok (s.modCore core (fun c => { c with fns := SMap.set c.fns d f, fnLast := f.len }), fl)

/-- R208, R209. Exact coefficients rounded, and truncated with a tolerance. -/
def roundSeries (cs : List Coeff) (tol : Word) : List (BitVec 64) × Flags :=
  let r := cs.map Coeff.round
  (truncate (r.map (fun p => BitVec.ofNat 64 p.1)) tol, orFlags (r.map (·.2)))

/-- Exact coefficients whose zeros are +0. -/
def plainSeries (cs : List Q) : List Coeff := cs.map (fun q => ⟨q, false⟩)

/-- R205. The untruncated length fits the working buffer. -/
def needBuffer (m : Nat) : Except FnFail Unit := if 4096 < m then .error ⟨Cause.fnStoreFull, w64 m, true⟩ else .ok ()

/-- R205, R208, R209. A computed series committed: its untruncated length must fit the buffer. -/
def State.commitSeries (s : State) (core d : Nat) (op : MxOp) (lo hi : BitVec 64) (m : Nat) (cs : Unit → List Coeff) : FnRun := do
  needBuffer m
  let (c, f) := roundSeries (cs ()) op.tol
  s.commitFn core d ⟨lo, hi, c⟩ f

/-- R208. The function of length 1 whose coefficient is the default NaN. -/
def State.commitNaN (s : State) (core d : Nat) (lo hi : BitVec 64) (f : Flags) : FnRun :=
  s.commitFn core d ⟨lo, hi, [BitVec.ofNat 64 nan64]⟩ f

/-- R210, R213. The domains of two sources are equal bit for bit. -/
def needSameDomain (x y : Fn) (a b : BitVec 3) : Except FnFail Unit :=
  fnNeed (x.lo == y.lo && x.hi == y.hi) Cause.fnDomain (w64 (a.toNat + 16 * b.toNat))

/-- R219. CHADD, CHSUB and CHMUL in execution. -/
def State.runPair (s : State) (core : Nat) (op : MxOp) (d a b : BitVec 3) (m : Nat → Nat → Nat)
    (f : List (BitVec 64) → List (BitVec 64) → List Coeff) : FnRun := do
  let x := (s.core core).fn a.toNat
  let y := (s.core core).fn b.toNat
  needSameDomain x y a b
  match nonFinite (x.coeffs ++ y.coeffs) with
  | some fl => s.commitNaN core d.toNat x.lo x.hi fl
  | none => s.commitSeries core d.toNat op x.lo x.hi (m x.len y.len) (fun _ => f x.coeffs y.coeffs)

/-- R220. The exact bounds lo and hi of a function. -/
def Fn.reach (f : Fn) : Q × Q :=
  let r := Q.sum (f.exact.tail.map Q.abs)
  let c := f.exact.headD Q.zero
  (c.sub r, c.add r)

/-- R220. u as an exact series: (2 g - aA - bA) / (bA - aA). -/
def Fn.innerSeries (x y : Fn) : List Q :=
  let w := (Q.ofBits x.hi).sub (Q.ofBits x.lo)
  let sum := (Q.ofBits x.lo).add (Q.ofBits x.hi)
  (List.range y.len).map (fun k =>
    (((Q.ofInt 2).mul (y.exact.getD k Q.zero)).sub (if k = 0 then sum else Q.zero)).div w)

/-- R220. The range check of CHCOMP: the reach of fnB lies in fnA's domain. An fnB with a NaN or infinite coefficient has no
exact reach, and R208 gives its result. -/
def needRange (x y : Fn) : Except FnFail Unit :=
  match nonFinite y.coeffs with
  | some _ => .ok ()
  | none => do
    let (lo, hi) := y.reach
    fnNeed ((Q.ofBits x.lo).le lo) Cause.fnRange (w64 lo.round.1)
    fnNeed (hi.le (Q.ofBits x.hi)) Cause.fnRange (w64 hi.round.1)

/-- R208, R210, R220. CHCOMP in execution: the requirement on the domains before the coefficients. -/
def State.runChcomp (s : State) (core : Nat) (op : MxOp) (d a b : BitVec 3) : FnRun := do
  let x := (s.core core).fn a.toNat
  let y := (s.core core).fn b.toNat
  needRange x y
  match nonFinite (x.coeffs ++ y.coeffs) with
  | some fl => s.commitNaN core d.toNat y.lo y.hi fl
  | none => do
    let m := (x.len - 1) * (y.len - 1) + 1
    s.commitSeries core d.toNat op y.lo y.hi m (fun _ => plainSeries (seriesCompose x.exact (x.innerSeries y) m))

/-- R219, R221. An operation on one source. -/
def State.runSingle (s : State) (core : Nat) (op : MxOp) (d a : BitVec 3) (m : Nat → Nat) (f : Fn → List Coeff) : FnRun :=
  let x := (s.core core).fn a.toNat
  match nonFinite x.coeffs with
  | some fl => s.commitNaN core d.toNat x.lo x.hi fl
  | none => s.commitSeries core d.toNat op x.lo x.hi (m x.len) (fun _ => f x)

/-- R208, R219. CHSCAL in execution: a NaN scale first, then an infinite one, then the coefficients. -/
def State.runChscal (s : State) (core : Nat) (op : MxOp) (d a : BitVec 3) : FnRun :=
  let x := (s.core core).fn a.toNat
  match nanScalar op.b.word with
  | some fl => s.commitNaN core d.toNat x.lo x.hi fl
  | none =>
    if !finite64 op.b.word then s.commitNaN core d.toNat x.lo x.hi nv
    else s.runSingle core op d a id (fun y => seriesScale y.coeffs op.b.word)

/-- A plain result in a g register of the control context. -/
def State.fnG (s : State) (core : Nat) (op : MxOp) (d : BitVec 5) (w : Word) : State :=
  s.modCtx ⟨core, control⟩ (fun c => c.complete op.bank d (Reg.plain w))

/-- R222. CHNORM in execution. -/
def State.runChnorm (s : State) (core : Nat) (op : MxOp) (d : BitVec 5) (a : BitVec 3) : FnRun :=
  let x := (s.core core).fn a.toNat
  match nonFinite x.coeffs with
  | some fl => .ok (s.fnG core op d (w64 nan64), fl)
  | none =>
    let (r, fl) := (Q.sum (x.exact.map Q.abs)).round
    .ok (s.fnG core op d (w64 r), fl)

/-- R225. CHEVAL in execution: a NaN point, the range, the coefficients, the value. -/
def State.runCheval (s : State) (core : Nat) (op : MxOp) (d : BitVec 5) (a : BitVec 3) : FnRun :=
  let x := (s.core core).fn a.toNat
  let p := op.b.word
  match nanScalar p with
  | some fl => .ok (s.fnG core op d (w64 nan64), fl)
  | none => do
    fnNeed (finite64 p && (Q.ofBits x.lo).le (Q.ofBits p) && (Q.ofBits p).le (Q.ofBits x.hi)) Cause.fnRange p
    match nonFinite x.coeffs with
    | some fl => .ok (s.fnG core op d (w64 nan64), fl)
    | none =>
      let (r, fl) := (seriesAt x.exact (x.toT (Q.ofBits p))).round
      .ok (s.fnG core op d (w64 r), fl)

/-- R226. The result of CHROOT: the value, its flags, ROOTS and ZERO. Where the level is infinite and the function has a NaN
or an infinite coefficient, two sentences of R226 apply: the model takes the function's (DESIGN CHOICE, log 83). -/
def Fn.roots (x : Fn) (y : BitVec 64) (k : Nat) : Nat × Flags × Nat × Bool :=
  match nanScalar y with
  | some fl => (nan64, fl, 0, false)
  | none =>
    match nonFinite x.coeffs with
    | some fl => (nan64, fl, 0, false)
    | none =>
      if !finite64 y then (nan64, 0, 0, false)
      else
        let c := qSeriesAdd x.exact [Q.ofBits y] (-1)
        if c.all Q.isZero then (x.lo.toNat, 0, 0, true)
        else
          let sv := Roots.solver c
          if sv.count ≤ k then (nan64, 0, sv.count, false)
          else
            let (r, fl) := sv.rootX x.lo x.hi k
            (r, fl, sv.count, false)

/-- R226. CHROOT in execution. -/
def State.runChroot (s : State) (core : Nat) (op : MxOp) (d : BitVec 5) (a : BitVec 3) (k : BitVec 12) : FnRun :=
  let (r, fl, n, z) := ((s.core core).fn a.toNat).roots op.b.word k.toNat
  .ok ((s.fnG core op d (w64 r)).modCore core (fun c => { c with fnRoots := n, fnZero := z }), fl)

/-- R223. CHCONST in execution. -/
def State.runChconst (s : State) (core : Nat) (op : MxOp) (d : BitVec 3) : FnRun :=
  match fp64.value op.c.word.toNat with
  | .nan true => s.commitNaN core d.toNat op.a.word op.b.word nv
  | _ => s.commitFn core d.toNat ⟨op.a.word, op.b.word, [op.c.word]⟩ 0

/-- R223. CHX in execution. -/
def State.runChx (s : State) (core : Nat) (op : MxOp) (d : BitVec 3) : FnRun :=
  let a := Q.ofBits op.a.word
  let b := Q.ofBits op.b.word
  s.commitSeries core d.toNat op op.a.word op.b.word 2
    (fun _ => plainSeries [(a.add b).div (Q.ofInt 2), (b.sub a).div (Q.ofInt 2)])

/-! ## Memory (R214) -/

/-- R214. The address that an operation's range starts at. -/
def MxOp.addr (op : MxOp) : Word := moveAddr op.a op.b

/-- The first of `n` bytes from an address on that lies outside the region of the first, or the address itself. -/
def firstOutside (core : Nat) (a : Word) (n : Nat) : Nat :=
  match (List.range n).find? (fun k => (ownPlace core a.toNat (k + 1)).isNone) with
  | some k => a.toNat + k
  | none => a.toNat

/-- The first of `n` bytes from an address on that lies outside a capability's bounds. -/
def Reg.firstBeyond (r : Reg) (a : Word) : Word := if (a.toNat : Int) < r.bounds.1 then a else i64 (max a.toNat r.bounds.2)

/-- R214. The checks of a range in execution: alignment, region, bounds, locks, and poison where it is read. -/
def State.fnRange (s : State) (core : Nat) (op : MxOp) (n : Nat) (write : Bool) : Res Loc := do
  let a := op.addr
  ensure (decide (a.toNat % 8 = 0)) Cause.align a
  match ownPlace core a.toNat n with
  | none => .error ⟨Cause.illegalOperand, w64 (firstOutside core a n)⟩
  | some l => do
    ensure (op.a.covers a.toNat n) Cause.capBounds (op.a.firstBeyond a)
    match s.firstLocked core l n write with
    | some k => .error ⟨Cause.rangeLocked, w64 (l.va + k)⟩
    | none =>
      match if write then none else s.firstPoisoned l n with
      | some k => .error ⟨Cause.poisonConsumed, w64 (l.va + k)⟩
      | none => .ok l

/-- The 64-bit words of a place. -/
def State.wordsAt (s : State) (l : Loc) (n : Nat) : List Word :=
  (List.range n).map (fun i => w64 (s.readAt ⟨l.space, l.off + 8 * i, l.va + 8 * i⟩ 8))

/-- R224, R227. A domain read at an address breaks R204: the address of the offending word. -/
def domainFault (addr : Word) (a b : Word) : Option Word :=
  if domainValid a b then none
  else if finite64 a && !finite64 b then some (addr + 8) else some addr

/-- R224. The words that CHFIT reads; those of an abandoned one are not read again (R216). -/
def State.fitWords (s : State) (core : Nat) (op : MxOp) (n : Nat) : Res (List Word) :=
  match op.words with
  | some w => .ok w
  | none => do
    let l ← s.fnRange core op (16 + 8 * n) false
    .ok (s.wordsAt l (n + 2))

/-- R224. CHFIT in execution. -/
def State.runChfit (s : State) (core : Nat) (op : MxOp) (d : BitVec 3) (n : BitVec 13) : FnRun := do
  let w ← fnRes (s.fitWords core op n.toNat)
  let a := w.getD 0 0
  let b := w.getD 1 0
  match domainFault op.addr a b with
  | some x => .error ⟨Cause.illegalOperand, x, false⟩
  | none =>
    let samples := w.drop 2
    match nonFinite samples with
    | some fl => s.commitNaN core d.toNat a b fl
    | none =>
      let qs := samples.map Q.ofBits
      let r := (List.range n.toNat).map (Fit.coeff (n.toNat - 1) qs)
      s.commitFn core d.toNat ⟨a, b, truncate (r.map (fun p => BitVec.ofNat 64 p.1)) op.tol⟩ (orFlags (r.map (·.2)))

/-- R227. The header that CHLD reads is a function's: its length. -/
def headerLength (addr : Word) (w : List Word) : Res Nat :=
  match domainFault addr (w.getD 0 0) (w.getD 1 0) with
  | some x => .error ⟨Cause.illegalOperand, x⟩
  | none =>
    let n := (w.getD 2 0).toNat
    if 1 ≤ n ∧ n ≤ 4096 then .ok n else .error ⟨Cause.illegalOperand, addr + 16⟩

/-- R227. The words that CHLD reads: the header, then the coefficients. -/
def State.imageWords (s : State) (core : Nat) (op : MxOp) : Res (List Word) :=
  match op.words with
  | some w => .ok w
  | none => do
    let h ← s.fnRange core op 24 false
    let n ← headerLength op.addr (s.wordsAt h 3)
    let l ← s.fnRange core op (24 + 8 * n) false
    .ok (s.wordsAt l (n + 3))

/-- R227. CHLD in execution. -/
def State.runChld (s : State) (core : Nat) (op : MxOp) (d : BitVec 3) : FnRun := do
  let w ← fnRes (s.imageWords core op)
  let _ ← fnRes (headerLength op.addr w)
  s.commitFn core d.toNat ⟨w.getD 0 0, w.getD 1 0, w.drop 3⟩ 0

/-- 64-bit words written at a place. -/
def State.writeWords (s : State) (l : Loc) : List Word → State
  | [] => s
  | w :: ws => (s.writeAt l 8 w.toNat).writeWords ⟨l.space, l.off + 8, l.va + 8⟩ ws

/-- R227. CHST in execution. -/
def State.runChst (s : State) (core : Nat) (op : MxOp) (sn : BitVec 3) : FnRun := do
  let f := (s.core core).fn sn.toNat
  let n := 24 + 8 * f.len
  let l ← fnRes (s.fnRange core op n true)
  .ok ((s.writeWords l (f.lo :: f.hi :: w64 f.len :: f.coeffs)).clearCovered [(l, n)], 0)

/-- The execution of a function operation. -/
def State.runFunction (s : State) (core : Nat) (op : MxOp) : FnRun :=
  match op.instr with
  | .chadd d a b => s.runPair core op d a b max (seriesAdd false)
  | .chsub d a b => s.runPair core op d a b max (seriesAdd true)
  | .chmul d a b => s.runPair core op d a b (fun x y => x + y - 1) seriesMul
  | .chcomp d a b => s.runChcomp core op d a b
  | .chdiff d a => s.runSingle core op d a (fun n => max 1 (n - 1)) (fun f => plainSeries (seriesDiff f.exact f.half))
  | .chint d a => s.runSingle core op d a (· + 1) (fun f => plainSeries (seriesInt f.exact f.half))
  | .chmov d a => s.commitFn core d.toNat ((s.core core).fn a.toNat) 0
  | .chfree d => .ok (s.modCore core (fun c => { c with fns := SMap.erase c.fns d.toNat }), 0)
  | .chlen d a => .ok (s.fnG core op d (w64 ((s.core core).fn a.toNat).len), 0)
  | .chnorm d a => s.runChnorm core op d a
  | .chtrunc d a _ =>
    let f := (s.core core).fn a.toNat
    s.commitFn core d.toNat { f with coeffs := f.coeffs.take op.b.word.toNat } 0
  | .chfit d _ _ n => s.runChfit core op d n
  | .cheval d a _ => s.runCheval core op d a
  | .chroot d a _ k => s.runChroot core op d a k
  | .chconst d _ _ _ => s.runChconst core op d
  | .chx d _ _ => s.runChx core op d
  | .chld d _ _ => s.runChld core op d
  | .chst sn _ _ => s.runChst core op sn
  | .chscal d a _ => s.runChscal core op d a
  | _ => .ok (s, 0)

/-- R208, R213. FUNCTION_OP_COMPLETE: the oldest operation of the queue, a function operation, completes or fails. -/
def execFunctionOpComplete (core : Nat) (s : State) : Out :=
  .next (match (s.core core).mxq with
    | [] => s
    | op :: _ =>
      if op.started && !op.isMatrix then
        match s.runFunction core op with
        | .ok (s1, f) => (s1.retireMx core).modCtx ⟨core, control⟩ (fun c => c.raiseFlags f)
        | .error e => s.failMx core op ⟨e.cause, e.val⟩ e.buffer
      else s)

/-- R216. The words that a started CHFIT or CHLD has read when its control context is pre-empted; none where its reads would
fail. -/
def State.phaseWords (s : State) (core : Nat) (op : MxOp) : Option (List Word) :=
  match op.instr with
  | .chfit _ _ _ n => (s.fitWords core op n.toNat).toOption
  | .chld _ _ _ => (s.imageWords core op).toOption
  | _ => none

/-- R207. The value of FNSTAT. -/
def Core.fnstat (c : Core) : Word :=
  let valid := (List.range 8).map (fun i => if (c.fn? i).isSome then 2 ^ i else 0)
  w64 (valid.foldl (· + ·) 0 * 2 ^ 48 + (if c.fnZero then 2 ^ 44 else 0) + c.fnRoots % 2 ^ 12 * 2 ^ 32 +
    (4096 - c.otherLengths 8) * 2 ^ 16 + c.fnLast)

/-- R207. Every earlier function instruction has completed. -/
def Core.functionsDone (c : Core) : Bool := c.mxq.all (fun op => op.isMatrix)

/-- R206. The values that FNTOL accepts. -/
def tolLegal (v : Word) : Bool := v == 0 || (!negative64 v && finite64 v && decide (v.toNat ≤ 0x3FE0000000000000))

end Sys2Proof.Machine
end

