-- ==== Sys2Proof/Machine/Nodes.lean ====
section
/-!
DEFINITION. The levels that count items (R354, R355), and the life of a Hamper entry (R310, R313).
-/

namespace Sys2Proof.Machine

/-! ## Dies and nodes -/

/-- A die. -/
def State.die (s : State) (n : Nat) : Die := SMap.getD s.dies n Die.reset
/-- The state with a die changed. -/
def State.modDie (s : State) (n : Nat) (f : Die → Die) : State := { s with dies := SMap.set s.dies n (f (s.die n)) }
/-- A Hamper entry. -/
def Die.node (d : Die) (i : Nat) : Node := SMap.getD d.nodes i Node.reset
/-- The state with a Hamper entry changed. -/
def State.modNode (s : State) (die i : Nat) (f : Node → Node) : State :=
  s.modDie die (fun d => { d with nodes := SMap.set d.nodes i (f (d.node i)) })

/-- R377. A domain that is terminated. -/
def State.terminated (s : State) (dom : BitVec 6) : Bool := s.dterm.getLsbD dom.toNat

/-! ## Levels (R354, R355) -/

/-- A counter of a level: one more, or one less. -/
def tick (m : SMap Nat) (k : Nat) (up : Bool) : SMap Nat :=
  SMap.set m k (if up then SMap.getD m k 0 + 1 else SMap.getD m k 0 - 1)

/-- R354. An item of a graph and a phase enters or leaves the job's counters. -/
def Job.countItem (j : Job) (graph : Nat) (phase : Option Nat) (up : Bool) : Job :=
  { j with
    graphs := tick j.graphs graph up
    phases := match phase with
      | some p => tick j.phases p up
      | none => j.phases
    total := if up then j.total + 1 else j.total - 1 }

/-- R355. A launch entry's next generation. -/
def nextLaunchGen (g : Nat) : Nat := if 63 ≤ g then 1 else g + 1

/-- R355. A launch entry; its generation starts at 1. -/
def Job.launchEntry (j : Job) (e : Nat) : LaunchEntry := SMap.getD j.launches e ⟨1, 0⟩

/-- R354, R355. One item of a launch leaves its count; the generation advances when the launch completes. -/
def Job.leaveLaunch (j : Job) (e gen : Nat) : Job :=
  let l := j.launchEntry e
  if l.gen ≠ gen then j
  else { j with launches := SMap.set j.launches e (if l.count ≤ 1 then ⟨nextLaunchGen l.gen, 0⟩ else ⟨l.gen, l.count - 1⟩) }

/-- R51, R357. A launch that has completed is forgotten by the clusters that hold its image: its entry and generation may name
another. -/
def State.forgetImages (s : State) (job e gen : Nat) : State :=
  { s with clusters := s.clusters.map (fun (p : Nat × Cluster) =>
      (p.1, { p.2 with imaged := p.2.imaged.filter (· != (job, e, gen)) })) }

/-- R354. A launch's item completes, fails or is cancelled. -/
def State.leaveLevels (s : State) (it : LaunchItem) : State :=
  match it.launch with
  | some (e, gen) =>
    let l := (s.jobOf it.job).launchEntry e
    let s1 := if l.gen = gen ∧ l.count ≤ 1 then s.forgetImages it.job e gen else s
    s1.modJob it.job (fun j => (j.leaveLaunch e gen).countItem it.graph it.phase false)
  | none => s

/-- R354. The count of a level of a job: a stale launch handle counts 0. -/
def Job.levelCount (j : Job) (level num : Nat) : Nat :=
  match level with
  | 0 =>
    let l := j.launchEntry (num % 1024)
    if l.gen = num / 1024 then l.count else 0
  | 1 => SMap.getD j.graphs num 0
  | 2 => SMap.getD j.phases num 0
  | _ => j.total

/-! ## A node's life (R313) -/

/-- R310. The generation after one. -/
def nextNodeGen (g : Nat) : Nat := if 65535 ≤ g then 1 else g + 1

/-- R310. The handle of an entry. -/
def nodeHandle (die gen i : Nat) : Word := w64 (die * 2 ^ 30 + gen * 2 ^ 12 + i)

/-- R310, R313. An entry that becomes FREE, with the way its node left. -/
def Node.freed (n : Node) (l : NodeLast) : Node := { Node.reset with gen := nextNodeGen n.gen, last := l }

/-- R322. A node that enters READY. -/
def Node.enterReady (n : Node) (age : BitVec 32) (cycle : Nat) : Node :=
  { n with state := .ready, age := age.toNat, readyAt := cycle }

/-- R354. A node leaves its counters. -/
def State.nodeLeaves (s : State) (n : Node) : State := s.modJob n.job (fun j => j.countItem n.graph n.phase false)

/-- R313, R318. The successors of an entry by its edges, each as often as it has an edge. -/
def Die.successors (d : Die) (i : Nat) : List Nat := (d.edges.filter (fun e => e.1 == i)).map (·.2)
/-- A die whose entry has no edges any more. -/
def Die.dropEdges (d : Die) (i : Nat) : Die := { d with edges := d.edges.filter (fun e => e.1 != i && e.2 != i) }

/-- R313. The waiting entries whose predecessor completes: each count falls, and where it reaches 0 the entry is READY. -/
def Node.released (n : Node) (age : BitVec 32) (cycle : Nat) : Node :=
  let m := { n with count := n.count - 1 }
  if n.state = .waiting ∧ m.count = 0 then m.enterReady age cycle else m

/-- R313. A SIGNAL node in READY that NDONE has already named completes. -/
def Node.signalled (n : Node) : Bool := n.signal && n.dp && n.state == .ready

/-- A node leaves every reservation and drain of its die. -/
def Die.release (d : Die) (i : Nat) : Die :=
  { d with
    reservations := d.reservations.filter (fun r => r.node != i), drainQ := d.drainQ.filter (· != i)
    drain := match d.drain with
      | some k => if k.node = i then none else some k
      | none => none }

/-- R324. The region that was drained for a gang whose members have all ended is its own no longer. -/
def Die.undrain (d : Die) (i gen : Nat) : Die := { d with drained := d.drained.filter (fun k => !(k.node == i && k.gen == gen)) }

/-- R313. Nodes complete, one after the other: successors are released, and SIGNAL nodes that thereby complete follow. -/
def State.completeNodes (s : State) (die : Nat) : Nat → List Nat → State
  | 0, _ => s
  | _ + 1, [] => s
  | fuel + 1, i :: rest =>
    let d := s.die die
    let n := d.node i
    let succ := d.successors i
    let s1 := (s.nodeLeaves n).modDie die (fun d => ((d.dropEdges i).release i).undrain i n.gen)
    let s2 := succ.foldl (fun t k => t.modNode die k (·.released d.age s.cycle.toNat)) s1
    let s3 := s2.modNode die i (·.freed .done)
    let more := succ.eraseDups.filter (fun k => ((s3.die die).node k).signalled && !rest.contains k)
    s3.completeNodes die fuel (rest ++ more)

/-- R313. A node completes. -/
def State.completeNode (s : State) (die i : Nat) : State := s.completeNodes die 4096 [i]

/-- R324. A node is committed: a region drained for it stays its own until its members have ended. -/
def Die.commit (d : Die) (i : Nat) : Die :=
  { d.release i with drained := d.drained ++ (d.drain.filter (fun k => k.node == i)).toList }

/-- R324. A core lies in a drain region: no task but the gang's starts or is restored there. -/
def State.draining (s : State) (core : Nat) : Bool := (s.die (dieOf core)).drain.any (fun k => k.cores.contains core)
/-- R324. An item is a member of the gang for which a region was drained. -/
def Drain.member (k : Drain) (die : Nat) (it : LaunchItem) : Bool := it.node == some (die, k.node, k.gen)
/-- R324. Some member of the gang for which a region was drained has not ended. -/
def State.gangLives (s : State) (die : Nat) (k : Drain) : Bool :=
  k.cores.any (fun c => (s.core c).current.any (k.member die) || (s.core c).away.any (fun a => k.member die a.1))
/-- R324. A core lies in a region that was drained for a gang of which some member has not ended, whether or not the gang has failed: no
task suspended there is restored but the gang's own member (DEDUCED, log 115). -/
def State.gangHolds (s : State) (core : Nat) (it : LaunchItem) : Bool :=
  let die := dieOf core
  (s.die die).drained.any (fun k => k.cores.contains core && !k.member die it && s.gangLives die k)

/-- R313. The successors of an entry are to become FAILED. -/
def State.doomSuccessors (s : State) (die i : Nat) : State :=
  ((s.die die).successors i).foldl (fun t k => t.modNode die k (fun n => { n with doomed := true })) s

/-- R313. A node becomes FAILED, and its successors are to follow. -/
def State.failNode (s : State) (die i : Nat) : State :=
  let n := (s.die die).node i
  if n.state = .free ∨ n.state = .failed then s
  else
    (((s.nodeLeaves n).doomSuccessors die i).modDie die (fun d => (d.dropEdges i).release i)).modNode die i
      (fun n => { n with state := .failed, doomed := false })

/-- R360. A node that is cancelled, or FAILED and freed: its entry becomes FREE, LOST. -/
def State.loseNode (s : State) (die i : Nat) : State :=
  let n := (s.die die).node i
  let s1 := if n.state = .failed then s else s.nodeLeaves n
  ((s1.doomSuccessors die i).modDie die (fun d => (d.dropEdges i).release i)).modNode die i (·.freed .lost)

/-- R313, R379. A node becomes FAILED by its predecessor or its task: its domain's failure record gets an entry. -/
def State.failNodeItem (s : State) (die i : Nat) : State :=
  let n := (s.die die).node i
  if n.state = .free ∨ n.state = .failed then s
  else (s.failNode die i).recordItem n.who.dom ⟨6, 2, n.who.core, 0, nodeHandle die n.gen i⟩

/-- R313. NODE_FAIL: a node whose predecessor or task has failed becomes FAILED. -/
def execNodeFail (die n : Nat) (s : State) : Out :=
  .next (if ((s.die die).node n).doomed then s.failNodeItem die n else s)

end Sys2Proof.Machine
end

