-- ==== Sys2Proof/Machine/ScalarFloat.lean ====
section
/-!
DEFINITION. Scalar floating point: majors 0x15 and 0x16 (R118 to R122).
-/

namespace Sys2Proof.Machine

/-- R118, R119. The format that a width bit selects: FP64 or FP32. -/
def widthFmt (w : BitVec 1) : Fmt := if w = 1 then ⟨11, 52, 1023, 0, true, .ieee⟩ else ⟨8, 23, 127, 0, true, .ieee⟩
/-- R118. An operand's raw bits in a width. -/
def State.fp (s : State) (w : BitVec 1) (n : BitVec 5) : Nat := if w = 1 then (s.x n).toNat else (s.x n).toNat % 2 ^ 32
/-- R119. A two-operand operation in the width of X[5]. -/
def State.fpBinary (s : State) (w : BitVec 1) (d a b : BitVec 5) (f : Fmt → Mode → Val → Val → Nat × Flags) : Out :=
  let t := widthFmt w
  s.retireFlags d (f t s.mode (t.value (s.fp w a)) (t.value (s.fp w b)))

/-- R119. a + b. -/
def execSfadd (w : BitVec 1) (d a b : BitVec 5) (s : State) : Out := s.fpBinary w d a b (fun t m x y => t.add m false x y)
/-- R119. a - b. -/
def execSfsub (w : BitVec 1) (d a b : BitVec 5) (s : State) : Out := s.fpBinary w d a b (fun t m x y => t.sub m false x y)
/-- R119. a times b. -/
def execSfmul (w : BitVec 1) (d a b : BitVec 5) (s : State) : Out := s.fpBinary w d a b Fmt.mul
/-- R119. a / b. -/
def execSfdiv (w : BitVec 1) (d a b : BitVec 5) (s : State) : Out := s.fpBinary w d a b Fmt.div
/-- R119. The minimum by R21. -/
def execSfmin (w : BitVec 1) (d a b : BitVec 5) (s : State) : Out :=
  s.retireFlags d ((widthFmt w).minMax false (s.fp w a) (s.fp w b))
/-- R119. The maximum by R21. -/
def execSfmax (w : BitVec 1) (d a b : BitVec 5) (s : State) : Out :=
  s.retireFlags d ((widthFmt w).minMax true (s.fp w a) (s.fp w b))
/-- R119. The square root. -/
def execSfsqrt (w : BitVec 1) (d a : BitVec 5) (s : State) : Out :=
  s.retireFlags d ((widthFmt w).sqrt s.mode ((widthFmt w).value (s.fp w a)))

/-- R119. A comparison: 0 with a NaN; NV for a signalling NaN, or for any NaN where `anyNaN` holds. -/
def compareFp (anyNaN : Bool) (f : Val → Val → Bool) (a b : Val) : Nat × Flags :=
  let invalid := if anyNaN then a.isNaN || b.isNaN else a.isSignalling || b.isSignalling
  (if !a.isNaN && !b.isNaN && f a b then 1 else 0, if invalid then nv else 0)

/-- R119. 1 if a = b. -/
def execSfeq (w : BitVec 1) (d a b : BitVec 5) (s : State) : Out := s.fpBinary w d a b (fun _ _ => compareFp false Val.eq)
/-- R119. 1 if a < b. -/
def execSflt (w : BitVec 1) (d a b : BitVec 5) (s : State) : Out := s.fpBinary w d a b (fun _ _ => compareFp true Val.lt)
/-- R119. 1 if a is at most b. -/
def execSfle (w : BitVec 1) (d a b : BitVec 5) (s : State) : Out :=
  s.fpBinary w d a b (fun _ _ => compareFp true (fun x y => x.lt y || x.eq y))

/-- R120. a times b plus c with a single rounding. -/
def execSffma (d a b c : BitVec 5) (w : BitVec 1) (s : State) : Out :=
  let t := widthFmt w
  s.retireFlags d (t.fma s.mode (t.value (s.fp w a)) (t.value (s.fp w b)) (t.value (s.fp w c)))

/-- R121. The rounding of a conversion: a mode code, or 4 for RND. -/
def State.roundField (s : State) (rnd : BitVec 3) : Mode := if rnd.toNat = 4 then s.mode else modeOf rnd.toNat
/-- R121. A result's bits: INT32 is sign-extended, the rest zero-extended. -/
def scalarResult (dst : BitVec 4) (raw : Nat) : Nat :=
  if dst.toNat = 8 then ((BitVec.ofNat 32 raw).signExtend 64).toNat else raw
/-- R121. Conversion between the formats of two codes. -/
def execSfcvt (d a : BitVec 5) (src dst : BitVec 4) (rnd : BitVec 3) (s : State) : Out :=
  let t := elemOfScalar src.toNat
  let u := elemOfScalar dst.toNat
  let r := convert t u (s.roundField rnd) false ((s.x a).toNat % 2 ^ t.width)
  s.retireFlags d (scalarResult dst (u.pad r.1), r.2)

/-- R122. The class of g[a] as a value with one bit set. -/
def execSfclass (d a : BitVec 5) (w : BitVec 1) (s : State) : Out :=
  s.retire d (w64 (2 ^ (widthFmt w).classOf (s.fp w a)))

end Sys2Proof.Machine
end

