-- ==== Sys2Proof/Machine/Walker.lean ====
section
/-!
DEFINITION. The format walker (R272 to R281): starting and reading walk threads, the walker's instructions, its memory
accesses, digests and faults.
-/

namespace Sys2Proof.Machine

/-! ## Threads -/

/-- A thread of a cluster. -/
def Cluster.thread (k : Cluster) (th : Nat) : Thread := SMap.getD k.threads th Thread.reset
/-- The cluster with a thread replaced. -/
def Cluster.setThread (k : Cluster) (th : Nat) (t : Thread) : Cluster := { k with threads := SMap.set k.threads th t }
/-- The cluster with a thread's request to the digest unit dropped. -/
def Cluster.dropDigest (k : Cluster) (th : Nat) : Cluster := { k with digestQ := k.digestQ.filter (· != th) }
/-- The cluster with a thread made FREE. -/
def Cluster.clearThread (k : Cluster) (th : Nat) : Cluster := (k.setThread th Thread.reset).dropDigest th
/-- The state with a thread changed. -/
def State.modThread (s : State) (cl th : Nat) (f : Thread → Thread) : State :=
  s.modCluster cl (fun k => k.setThread th (f (k.thread th)))
/-- The thread that issues. -/
def State.thread (s : State) : Thread := (s.cluster s.wk.1).thread s.wk.2
/-- The state with the issuing thread changed. -/
def State.modWk (s : State) (f : Thread → Thread) : State := s.modThread s.wk.1 s.wk.2 f

/-! ## WKSTART and WKSTAT (R273 to R275) -/

/-- R273. The record is a well-formed WALK record. -/
def walkWellFormed (r : BitVec 512) : Bool :=
  recKind r == 4 && recBits r 8 8 == 0 && decide (1 ≤ recBits r 16 12) && decide (recBits r 16 12 ≤ 1024) &&
    recBits r 32 32 == 0 && recBits r 64 6 == 0 && recBits r 192 320 == 0

/-- The 32-bit words of a number of bytes. -/
def wordsOf : Nat → Nat → List (BitVec 32)
  | 0, _ => []
  | n + 1, v => BitVec.ofNat 32 v :: wordsOf n (v / 2 ^ 32)

/-- R274. The code image of a WALK record, where it is readable. -/
def State.walkCode (s : State) (who : Who) (r : BitVec 512) : Res (State × List (BitVec 32)) := do
  let n := recBits r 16 12
  let (s1, ls, t) ← s.copyBytes who (recBits r 64 64) false (4 * n)
  ensure t Cause.pageFault (w64 (recBits r 64 64))
  .ok (s1, wordsOf n (s1.bytesAt ls))

/-- R274. The record and the code of an object index: ILLEGAL_OPERAND with the index where either is unfit. -/
def State.walkProgram (s : State) (obj : BitVec 16) : Res (State × BitVec 512 × List (BitVec 32)) := do
  let who := s.recordReader s.cur
  let (s1, r) ← s.recordOf who obj.toNat
  ensure (walkWellFormed r) Cause.illegalOperand (zext obj)
  match s1.walkCode who r with
  | .ok (s2, code) => .ok (s2, r, code)
  | .error _ => .error ⟨Cause.illegalOperand, zext obj⟩

/-- R291. The state that the reads of a record and of its code leave, whatever check fails after them. -/
def State.programRead (s : State) (obj : BitVec 16) : State :=
  let who := s.recordReader s.cur
  match s.walkProgram obj, s.recordOf who obj.toNat with
  | .ok (s1, _), _ => s1
  | _, .ok (s1, r) => if walkWellFormed r then s1.touched who (w64 (recBits r 64 64)) .load else s1
  | _, .error _ => s.recordRead who obj.toNat

/-- R274. Checks 1 to 3 of R92 on a tagged window register. -/
def State.checkWindow (s : State) (r : BitVec 5) : Chk Unit :=
  if (s.g r).tag then
    s.check (do
      ensure (!(s.g r).isSealed) Cause.capSealed (s.x r)
      ensure (decide ((s.g r).dom = s.me.dom.toNat) || decide ((s.g r).dom = 63) || s.me.priv) Cause.capDomain (s.x r))
      (s.regProg r)
  else .ok ()

/-- R274. A program of the store is the one of `n` words loaded from an address for a domain and tables. -/
def StoreProg.is (p : StoreProg) (code : Word) (n : Nat) (who : Who) : Bool :=
  p.code == code && p.words.length == n && p.who.dom == who.dom && p.who.xlbase == who.xlbase
/-- R274. A RUN thread executes a program of the store. -/
def Cluster.uses (k : Cluster) (p : StoreProg) : Bool := k.threads.any (fun t => t.2.state == .run && p.is t.2.prog t.2.code.length t.2.who)
/-- The words of programs. -/
def storeWords (l : List StoreProg) : Nat := (l.map (·.words.length)).foldl (· + ·) 0

/-- R274. Programs of the store that no RUN thread executes make room, the oldest first. -/
def Cluster.makeRoom (k : Cluster) : Nat → List StoreProg → List StoreProg
  | _, [] => []
  | need, p :: ps => if 0 < need ∧ !k.uses p then k.makeRoom (need - p.words.length) ps else p :: k.makeRoom need ps

/-- R274. The cluster with a program loaded, and the words that run: a resident program is not loaded again; none where it
does not fit beside the programs of RUN threads. -/
def Cluster.loadProgram (k : Cluster) (code : Word) (who : Who) (words : List (BitVec 32)) :
    Option (Cluster × List (BitVec 32)) :=
  match k.store.find? (·.is code words.length who) with
  | some p => some (k, p.words)
  | none =>
    if 1024 < storeWords (k.store.filter k.uses) + words.length then none
    else
      let kept := k.makeRoom (storeWords k.store + words.length - 1024) k.store
      some ({ k with store := kept ++ [⟨code, who, words⟩] }, words)

/-- R272. The lowest FREE thread. -/
def Cluster.freeThread (k : Cluster) : Option Nat := (List.range 8).find? (fun j => (k.thread j).state == .free)

/-- R274. A thread as WKSTART starts it. -/
def State.newThread (s : State) (a b : BitVec 5) (r : BitVec 512) (code : List (BitVec 32)) : Thread :=
  { Thread.reset with
    state := .run, regs := [(0, s.x b)], win := [s.g a, s.g (a + 1), s.g (a + 2), s.g (a + 3)], who := s.who s.cur
    limit := recBits r 128 64, fev := recBits r 28 4, prog := w64 (recBits r 64 64), code := code
    item := (s.ctx ⟨s.cur.core, control⟩).uid }

/-- R274. WKSTART. -/
def execWkstart (d a b : BitVec 5) (obj : BitVec 16) (s : State) : Out :=
  s.finishOn (if 1 ≤ a.toNat ∧ a.toNat ≤ 28 then s.programRead obj else s) (do
    s.needOperand (decide (1 ≤ a.toNat) && decide (a.toNat ≤ 28)) s.openVal
    let (s1, r, words) ← s.check (s.walkProgram obj) s.openProg
    s.checkWindow a
    s.checkWindow (a + 1)
    s.checkWindow (a + 2)
    s.checkWindow (a + 3)
    let cl := clusterOf s.cur.core
    let k := s1.cluster cl
    match k.freeThread with
    | none => .ok (s1.setX d 0xFFFFFFFFFFFFFFFF).advance
    | some j =>
      match k.loadProgram (w64 (recBits r 64 64)) (s.who s.cur) words with
      | none => .ok (s1.setX d 0xFFFFFFFFFFFFFFFE).advance
      | some (k1, code) =>
        .ok ((s1.modCluster cl (fun _ => (k1.dropDigest j).setThread j (s.newThread a b r code))).setX d (w64 j)).advance)

/-- R275. The code of a thread's state. -/
def ThreadState.code : ThreadState → Nat
  | .free => 0
  | .run => 1
  | .ended => 2
  | .faulted => 3

/-- R275. The state word of a thread. -/
def Thread.word (t : Thread) : Word :=
  w64 (t.state.code * 2 ^ 62 + t.cause.toNat * 2 ^ 40 + (t.last % 1024).toNat * 2 ^ 30 + min t.steps (2 ^ 30 - 1))

/-- R275. What WKSTAT reads of a thread. -/
def Thread.field (t : Thread) (sel : Nat) : Word :=
  match sel with
  | 0 => t.word
  | 1 => t.exitVal
  | _ => t.faultAddr

/-- R275. WKSTAT. -/
def execWkstat (d a : BitVec 5) (fsel : BitVec 2) (rel : BitVec 1) (s : State) : Out :=
  s.finish (do
    s.needOperand (decide ((s.x a).toNat ≤ 7) && fsel != 3) s.openVal
    let cl := clusterOf s.cur.core
    let th := (s.x a).toNat
    let t := (s.cluster cl).thread th
    if t.who.dom != s.me.dom then .ok (s.setX d 0).advance
    else
      let s1 := if rel == 1 && (t.state == .ended || t.state == .faulted) then s.modCluster cl (·.clearThread th) else s
      .ok (s1.setX d (t.field fsel.toNat)).advance)

/-! ## Instructions (R276, R277) -/

/-- A register of the issuing thread. -/
def State.w (s : State) (n : BitVec 4) : Word := SMap.getD s.thread.regs n.toNat 0
/-- A thread with a register written. -/
def Thread.setW (t : Thread) (n : BitVec 4) (v : Word) : Thread := { t with regs := SMap.set t.regs n.toNat v }

/-- R281. A thread faults: it becomes FAULTED with its cause, its word index and the fault address, and its fault line
receives 1. -/
def State.walkFaultOf (s : State) (cl th : Nat) (cause : BitVec 8) (addr : Word) : State :=
  ((s.modThread cl th (fun t => { t with state := .faulted, cause := cause, last := t.pc, faultAddr := addr })).modCluster cl
    (·.dropDigest th)).eventAdd cl ((s.cluster cl).thread th).fev 1

/-- R281. The issuing thread faults. -/
def State.walkFault (s : State) (cause : BitVec 8) (addr : Word) : State := s.walkFaultOf s.wk.1 s.wk.2 cause addr

/-- R277. A thread that has executed its instruction, going to another. -/
def Thread.stepTo (t : Thread) (pc : Int) : Thread := { t with pc := pc, last := t.pc, steps := t.steps + 1 }
/-- R277. The issuing thread has executed an instruction that does not transfer. -/
def State.walkNext (s : State) : State := s.modWk (fun t => t.stepTo (t.pc + 1))
/-- An instruction that writes a register of the issuing thread. -/
def State.walkPut (s : State) (d : BitVec 4) (v : Word) : Out := .next (s.modWk (·.setW d v)).walkNext
/-- A branch of the issuing thread. -/
def State.walkBranch (s : State) (taken : Bool) (imm : BitVec 14) : Out :=
  .next (if taken then s.modWk (fun t => t.stepTo (t.pc + imm.toInt)) else s.walkNext)
/-- R281. An instruction of the issuing thread that may fault, with no effect when it does but the A and D bits of its
translation (R291). -/
def walkDo (r : Except (State × Fail) State) : Out :=
  .next (match r with
    | .ok t => t.walkNext
    | .error (t, f) => t.walkFault f.cause f.val)
/-- Fault with ILLEGAL_OPERAND unless a condition holds. -/
def State.walkNeed (s : State) (b : Bool) : Except (State × Fail) Unit :=
  if b then .ok () else .error (s, ⟨Cause.illegalOperand, s.openVal⟩)

/-- R277. WNOP. -/
def execWnop (s : State) : Out := .next s.walkNext
/-- R277. WADD. -/
def execWadd (d a b : BitVec 4) (s : State) : Out := s.walkPut d (s.w a + s.w b)
/-- R277. WSUB. -/
def execWsub (d a b : BitVec 4) (s : State) : Out := s.walkPut d (s.w a - s.w b)
/-- R277. WAND. -/
def execWand (d a b : BitVec 4) (s : State) : Out := s.walkPut d (s.w a &&& s.w b)
/-- R277. WOR. -/
def execWor (d a b : BitVec 4) (s : State) : Out := s.walkPut d (s.w a ||| s.w b)
/-- R277. WXOR. -/
def execWxor (d a b : BitVec 4) (s : State) : Out := s.walkPut d (s.w a ^^^ s.w b)
/-- R277. WSHL. -/
def execWshl (d a b : BitVec 4) (s : State) : Out := s.walkPut d (s.w a <<< bits (s.w b) 5 0)
/-- R277. WSHR. -/
def execWshr (d a b : BitVec 4) (s : State) : Out := s.walkPut d (s.w a >>> bits (s.w b) 5 0)
/-- R277. WADDI. -/
def execWaddi (d a : BitVec 4) (imm : BitVec 14) (s : State) : Out := s.walkPut d (s.w a + sext imm)
/-- R277. WMULI. -/
def execWmuli (d a : BitVec 4) (imm : BitVec 14) (s : State) : Out := s.walkPut d (s.w a * sext imm)
/-- R277. WLDI. -/
def execWldi (d : BitVec 4) (imm : BitVec 18) (s : State) : Out := s.walkPut d (sext imm)

/-- The FP32 value of the low half of a register. -/
def walkFp (v : Word) : Val := (widthFmt 0).value (v.toNat % 2 ^ 32)
/-- R277. WFLT. -/
def execWflt (d a b : BitVec 4) (s : State) : Out :=
  s.walkPut d (w64 (compareFp true Val.lt (walkFp (s.w a)) (walkFp (s.w b))).1)
/-- R277. WFLE. -/
def execWfle (d a b : BitVec 4) (s : State) : Out :=
  s.walkPut d (w64 (compareFp true (fun x y => x.lt y || x.eq y) (walkFp (s.w a)) (walkFp (s.w b))).1)
/-- R277. WBEQ. -/
def execWbeq (a b : BitVec 4) (imm : BitVec 14) (s : State) : Out := s.walkBranch (s.w a == s.w b) imm
/-- R277. WBNE. -/
def execWbne (a b : BitVec 4) (imm : BitVec 14) (s : State) : Out := s.walkBranch (s.w a != s.w b) imm
/-- R277. WBLTU. -/
def execWbltu (a b : BitVec 4) (imm : BitVec 14) (s : State) : Out := s.walkBranch ((s.w a).ult (s.w b)) imm
/-- R277. WJ. -/
def execWj (imm : BitVec 14) (s : State) : Out := s.walkBranch true imm

/-! ## Memory (R278) -/

/-- R92 check 6. The alignment of an access of a size. -/
def naturalAlign (n : Nat) : Nat := if n = 2 ∨ n = 4 ∨ n = 8 ∨ n = 16 then n else 1

/-- R278. The places a walk thread reaches: the own cluster memory, translated space, the scratchpads of its cluster. -/
def walkRegion (core : Nat) (a : Word) : Bool :=
  match decodeRegion core a with
  | .ok (.cmem _ _) => true
  | .ok .translated => true
  | .ok (.spad c _) => decide (clusterOf c = clusterOf core) && isPeerAddr a
  | _ => false

/-- R262, R278. The cluster's lock table refuses an access of the walker. -/
def State.walkLocked (s : State) (core : Nat) (l : Loc) (n : Nat) (write : Bool) : Bool :=
  (s.cluster (clusterOf core)).locks.any (·.refuses write (lockAddr core l) n)

/-- R278. The checks of an access of the issuing thread through a window, before its translation. -/
def State.walkCheck (s : State) (c : BitVec 2) (a : Word) (n : Nat) (write : Bool) : Res Unit := do
  let t := s.thread
  checkCap (t.win.getD c.toNat Reg.zero) t.who.dom t.who.priv (if write then .store else .load) a n (naturalAlign n)
  ensure (walkRegion t.who.core a && walkRegion t.who.core (a + w64 (n - 1))) Cause.pageFault a

/-- R262, R278. The checks of an access of the issuing thread on the places of its bytes: locks, and poison for a load. -/
def State.walkPlaces (s : State) (a : Word) (n : Nat) (write : Bool) (ls : List Loc) : Res Unit := do
  ensure (!ls.head?.any (fun l => s.walkLocked s.thread.who.core l n write)) Cause.rangeLocked a
  ensure (write || !ls.any (fun l => s.poisonAt l 1)) Cause.poisonConsumed a

/-- R278. An access of the issuing thread through a window: the state and the places of its bytes, or the state that its
translation leaves (R291) and the fault. -/
def State.walkAccess (s : State) (c : BitVec 2) (a : Word) (n : Nat) (write : Bool) : Except (State × Fail) (State × List Loc) :=
  match s.walkCheck c a n write with
  | .error f => .error (s, f)
  | .ok () =>
    let who := s.thread.who
    match s.copyBytes who a.toNat write n with
    | .error f => .error (s.bytesTouched who a.toNat f.val write, f)
    | .ok (s1, ls, _) =>
      match s1.walkPlaces a n write ls with
      | .error f => .error (s1, f)
      | .ok () => .ok (s1, ls)

/-- R134, R184. Bytes written by the walker: a granule that they cover whole loses its poison mark. -/
def State.walkWrite (s : State) (ls : List Loc) (v : Nat) : State := (s.putBytes ls v).clearCovered (ls.map (fun l => (l, 1)))

/-- R277. The address of a walker access. -/
def State.walkAddr (s : State) (c : BitVec 2) (a : BitVec 4) (imm : BitVec 14) : Word :=
  (s.thread.win.getD c.toNat Reg.zero).word + s.w a + sext imm

/-- R277, R278. A walker load of `n` bytes. -/
def State.walkLoad (s : State) (d a : BitVec 4) (c : BitVec 2) (imm : BitVec 14) (n : Nat) : Out :=
  walkDo (do
    let (s1, ls) ← s.walkAccess c (s.walkAddr c a imm) n false
    .ok (s1.modWk (·.setW d (w64 (s1.bytesAt ls)))))
/-- R277, R278. A walker store of `n` bytes. -/
def State.walkStore (s : State) (d a : BitVec 4) (c : BitVec 2) (imm : BitVec 14) (n : Nat) : Out :=
  walkDo (do
    let (s1, ls) ← s.walkAccess c (s.walkAddr c a imm) n true
    .ok (s1.walkWrite ls (s.w d).toNat))

/-- R277. WLD.B. -/
def execWldB (d a : BitVec 4) (c : BitVec 2) (imm : BitVec 14) (s : State) : Out := s.walkLoad d a c imm 1
/-- R277. WLD.H. -/
def execWldH (d a : BitVec 4) (c : BitVec 2) (imm : BitVec 14) (s : State) : Out := s.walkLoad d a c imm 2
/-- R277. WLD.W. -/
def execWldW (d a : BitVec 4) (c : BitVec 2) (imm : BitVec 14) (s : State) : Out := s.walkLoad d a c imm 4
/-- R277. WLD.D. -/
def execWldD (d a : BitVec 4) (c : BitVec 2) (imm : BitVec 14) (s : State) : Out := s.walkLoad d a c imm 8
/-- R277. WST.B. -/
def execWstB (d a : BitVec 4) (c : BitVec 2) (imm : BitVec 14) (s : State) : Out := s.walkStore d a c imm 1
/-- R277. WST.H. -/
def execWstH (d a : BitVec 4) (c : BitVec 2) (imm : BitVec 14) (s : State) : Out := s.walkStore d a c imm 2
/-- R277. WST.W. -/
def execWstW (d a : BitVec 4) (c : BitVec 2) (imm : BitVec 14) (s : State) : Out := s.walkStore d a c imm 4
/-- R277. WST.D. -/
def execWstD (d a : BitVec 4) (c : BitVec 2) (imm : BitVec 14) (s : State) : Out := s.walkStore d a c imm 8

/-! ## The row buffer (R277, R280) -/

/-- R277. WZROW. -/
def execWzrow (s : State) : Out := .next (s.modWk (fun t => { t with row := 0 })).walkNext

/-- A row buffer with `n` bytes from an offset on replaced. -/
def putRow (row : BitVec 2048) (o n v : Nat) : BitVec 2048 :=
  let m := (2 ^ (8 * n) - 1) * 2 ^ (8 * o)
  (row &&& ~~~(BitVec.ofNat 2048 m)) ||| BitVec.ofNat 2048 (v % 2 ^ (8 * n) * 2 ^ (8 * o))

/-- R277. WRINS. -/
def execWrins (d a : BitVec 4) (sn : BitVec 2) (imm : BitVec 14) (s : State) : Out :=
  walkDo (do
    let o := (s.w a + sext imm).toNat
    let n := 2 ^ sn.toNat
    s.walkNeed (decide (o % n = 0) && decide (o ≤ 256 - n))
    .ok (s.modWk (fun t => { t with row := putRow t.row o n (s.w d).toNat })))

/-- R277. WEMIT. -/
def execWemit (a : BitVec 4) (c : BitVec 2) (imm : BitVec 14) (s : State) : Out :=
  walkDo (do
    let n := imm.toInt.toNat
    s.walkNeed (decide (1 ≤ imm.toInt) && decide (imm.toInt ≤ 256))
    let (s1, ls) ← s.walkAccess c (s.walkAddr c a 0) n true
    .ok (s1.walkWrite ls s.thread.row.toNat))

/-- R277. WSIG. -/
def execWsig (e : BitVec 4) (s : State) : Out := .next (s.walkNext.eventAdd s.wk.1 e.toNat 1)
/-- R277. WEND. -/
def execWend (a : BitVec 4) (s : State) : Out :=
  .next (s.modWk (fun t => { t.stepTo t.pc with state := .ended, exitVal := s.w a }))

/-! ## Digests (R279) -/

/-- R277, R279. WDINIT. -/
def execWdinit (s : State) : Out := .next (s.modWk (fun t => { t with digest := some ⟨shaInit, [], 0, false⟩ })).walkNext

/-- R279. A cluster whose digest unit is asked for a block by a thread. -/
def Cluster.requestDigest (k : Cluster) (th : Nat) : Cluster := { k with digestQ := k.digestQ ++ [th] }

/-- R279. The thread waits on the digest unit. -/
def Thread.awaitsDigest (t : Thread) : Bool := t.digest.any (fun g => decide (128 ≤ g.msg.length))

/-- R277, R279. WDABS. -/
def execWdabs (a : BitVec 4) (s : State) : Out :=
  .next (match s.thread.digest with
    | none => s.walkFault Cause.illegalOperand s.openVal
    | some g =>
      let g1 := { g with msg := g.msg ++ bytesOfNum 8 (s.w a).toNat, len := g.len + 8 }
      let s1 := s.modWk (fun t => { t with digest := some g1 })
      (if 128 ≤ g1.msg.length then s1.modCluster s.wk.1 (·.requestDigest s.wk.2) else s1).walkNext)

/-- R277, R279. WDFIN: it appends the padding, waits until the digest unit has compressed every block, and writes the digest. -/
def execWdfin (a : BitVec 4) (c : BitVec 2) (imm : BitVec 14) (s : State) : Out :=
  .next (match s.thread.digest with
    | none => s.walkFault Cause.illegalOperand s.openVal
    | some g =>
      match s.walkAccess c (s.walkAddr c a imm) 64 true with
      | .error (s1, f) => s1.walkFault f.cause f.val
      | .ok (s1, ls) =>
        if !g.padded then
          (s.modWk (fun t => { t with digest := some { g with msg := g.msg ++ shaPad g.len, padded := true } })).modCluster
            s.wk.1 (·.requestDigest s.wk.2)
        else if 128 ≤ g.msg.length then s
        else ((s1.walkWrite ls (numOfBytes (g.h.flatMap bytesOfWord))).modWk (fun t => { t with digest := none })).walkNext)

/-- R279. DIGEST_BLOCK_COMPRESS: the digest unit compresses one block for the thread whose turn it is. -/
def execDigestBlockCompress (cl th : Nat) (s : State) : Out :=
  .next (match (s.cluster cl).digestQ with
    | [] => s
    | q :: qs =>
      if q ≠ th then s
      else
        match ((s.cluster cl).thread th).digest.filter (fun g => decide (128 ≤ g.msg.length)) with
        | none => s.modCluster cl (fun k => { k with digestQ := qs })
        | some g =>
          let g1 := { g with h := shaCompress g.h (g.msg.take 128), msg := g.msg.drop 128 }
          (s.modCluster cl (fun k => { k with digestQ := if 128 ≤ g1.msg.length then qs ++ [th] else qs })).modThread cl th
            (fun t => { t with digest := some g1 }))

/-! ## Faults (R281) -/

/-- R281. The thread's next instruction would exceed its limit. -/
def Thread.exhausted (t : Thread) : Bool := t.state == .run && t.limit != 0 && decide (t.limit ≤ t.steps)

/-- R281. WALK_STEP_LIMIT. -/
def execWalkStepLimit (cl th : Nat) (s : State) : Out :=
  .next (if ((s.cluster cl).thread th).exhausted then s.walkFaultOf cl th Cause.budget s.openVal else s)

end Sys2Proof.Machine
end

