-- ==== Sys2Proof/Machine/Items.lean ====
section
/-!
DEFINITION. Items of work: the job table (R363), the start of a control context with
its scrubs, images and registers (R229, R260, R357), its end (R86), and what a killed context leaves (R106).
-/

namespace Sys2Proof.Machine

/-! ## The job table (R363) -/

/-- R363. The address of a job's record. -/
def State.jobAddr (s : State) (job : Nat) : Nat := s.jobbase.toNat + 64 * job
/-- R363. The STATE, the domain and the cores of a job's record. -/
def State.jobState (s : State) (job : Nat) : Nat := s.main.read (s.jobAddr job) 1 % 4
def State.jobDom (s : State) (job : Nat) : Nat := s.main.read (s.jobAddr job + 1) 1 % 64
def State.jobHas (s : State) (job core : Nat) : Bool :=
  decide (job < s.joblimit) && (s.main.byte (s.jobAddr job + 24 + core / 8)).getLsbD (core % 8)
/-- R363. The scheduler writes a job's STATE. -/
def State.setJobState (s : State) (job st : Nat) : State :=
  let a := s.jobAddr job
  { s with main := s.main.write a 1 (s.main.read a 1 / 4 * 4 + st) }
/-- R363. A deadline miss of a job: MISS grows, and saturates. -/
def State.countMiss (s : State) (job : Nat) : State :=
  let a := s.jobAddr job + 4
  { s with main := s.main.write a 4 (min (2 ^ 32 - 1) (s.main.read a 4 + 1)) }

/-- R401. The address of a job's group record; its root, its count of GBAR arrivals, GEN, and the number of its plans. -/
def State.groupAddr (s : State) (job : Nat) : Nat := s.grpbase.toNat + 64 * job
def State.groupRoot (s : State) (job : Nat) : Nat := s.main.read (s.groupAddr job) 2
def State.groupLocal (s : State) (job : Nat) : Nat := s.main.read (s.groupAddr job + 2) 1
def State.groupGen (s : State) (job : Nat) : BitVec 32 := BitVec.ofNat 32 (s.main.read (s.groupAddr job + 4) 4)
def State.planCount (s : State) (job : Nat) : Nat := s.main.read (s.groupAddr job + 16) 4

/-- The job that a context runs for. -/
def State.jobNum (s : State) (core : Nat) : Nat := (s.core core).job

/-! ## Scrubs (R229, R260) -/

/-- R229. A core scrubbed for a domain. -/
def Core.scrub (c : Core) (dom : BitVec 6) : Core :=
  { c with spad := Memory.empty, tiles := [], acc := [], active := Latch.empty, shadow := Latch.empty, fns := []
           recCache := [], lastdom := dom }
/-- R229. The scrub that a control context of a domain requires before it issues. -/
def Core.scrubFor (c : Core) (dom : BitVec 6) : Core := if c.lastdom = dom then c else c.scrub dom

/-- R260. A cluster scrubbed for a domain. The images of launches go with its memory: a launch whose cluster is scrubbed for another domain
between two of its contexts has its image written again before the next (DESIGN CHOICE, log 102). -/
def Cluster.scrub (k : Cluster) (dom : BitVec 6) : Cluster :=
  { k with mem := Memory.empty, locks := [], events := [], cbOpen := false, cbMask := 0, cbArr := 0, threads := [], store := []
           digestQ := [], cldom := dom, imaged := [] }

/-- R260. A core holds a live or suspended context of a domain. -/
def Core.holdsDom (c : Core) (dom : BitVec 6) : Bool :=
  c.ctxs.any (fun p => p.2.life == .live && p.2.dom == dom) || c.suspended.any (fun p => p.2.dom == dom) ||
    c.away.any (fun a => a.2.1.any (fun p => p.2.dom == dom))

/-- R260. A control context of a domain may start on a cluster: it owns it, or no core of the cluster, but those left out,
holds a live or suspended context of the owner. -/
def State.clusterAllows (s : State) (cl : Nat) (dom : BitVec 6) (except : Option Nat) : Bool :=
  !(s.cluster cl).withdrawn && ((s.cluster cl).cldom == dom ||
    (List.range 8).all (fun j => decide (some (8 * cl + j) = except) || !(s.core (8 * cl + j)).holdsDom (s.cluster cl).cldom))

/-- R260. The cluster taken over by a domain: it scrubs where the owner changes. -/
def State.claimCluster (s : State) (cl : Nat) (dom : BitVec 6) : State :=
  if (s.cluster cl).cldom = dom then s else s.modCluster cl (·.scrub dom)

/-- R229, R260. A core and its cluster made ready for a control context of a domain. -/
def State.scrubFor (s : State) (core : Nat) (dom : BitVec 6) : State :=
  (s.claimCluster (clusterOf core) dom).modCore core (·.scrubFor dom)

/-! ## The start of a control context (R357) -/

/-- R51, R184. Bytes of an image placed in a memory, their tags clear; a granule that they cover whole is no longer poisoned. -/
def State.placeImage (s : State) (who : Who) (a : Word) (n : Nat) (sp : Space) (off : Nat) : Res State := do
  let (s1, ls, _) ← s.copyBytes who a.toNat false n
  .ok ((s1.writeAt ⟨sp, off, 0⟩ n (s1.bytesAt ls)).clearCovered [(⟨sp, off, 0⟩, n)])

/-- R51, R356. The largest image of a kind: a bank, or the cluster memory. -/
def imageLimit (kind : Nat) : Nat := if kind = 3 then Config.cmemBytes else 0x40000

/-- R51, R357. The images of an item written, the cluster's once for each launch in a cluster. R51 makes a longer image an error
of gwld only; of a length above the limit in a launch record the bytes up to the limit are written (DESIGN CHOICE, log 76). -/
def State.placeImages (s : State) (core : Nat) (it : LaunchItem) (who : Who) : List (Nat × Word × Nat) → Res State
  | [] => .ok s
  | (kind, a, n) :: rest => do
    let n := min n (imageLimit kind)
    let tag := it.launch.map (fun l => (it.job, l.1, l.2))
    let cl := clusterOf core
    let skip := n == 0 || (kind == 3 && tag.any (fun t => (s.cluster cl).imaged.contains t))
    let s1 ← if skip then .ok s
      else if kind = 3 then s.placeImage who a n (.cmem cl) 0
      else s.placeImage who a n (.spad core) (0x40000 * kind)
    s1.placeImages core it who rest

/-- R357. The launch's cluster image stands in a cluster. -/
def State.markImaged (s : State) (core : Nat) (it : LaunchItem) : State :=
  match it.launch with
  | none => s
  | some l => s.modCluster (clusterOf core) (fun k => { k with imaged := (it.job, l.1, l.2) :: k.imaged })

/-- R90, R357. The control context of an item, with what its slot keeps. -/
def LaunchItem.ctx (it : LaunchItem) (uid : Nat) (old : Ctx) : Ctx :=
  { Ctx.reset with
    life := .live, uid := uid, pc := it.entry, regs := it.regs, dom := it.dom, tvec := it.tvec, xlbase := it.xlbase
    savebase := old.savebase, dbgctl := old.dbgctl }

/-- R142, R146, R157, R174, R188, R204, R242, R248. A core's engines as a control context finds them at its start. The masks q1 to q7 are
zero, and FNTOL and FNSTAT hold their reset values (DESIGN CHOICE, log 105). -/
def Core.fresh (c : Core) : Core :=
  { c with
    v := [], q := [], streams := [], seq := [], window := [], vsqEnded := [], vsqSusp := false, vsqPc := 0, tshape := []
    active := Latch.empty, shadow := Latch.empty, mxq := [], mxIssued := 0, mxDone := 0, mxSusp := false, fns := []
    fntol := fntolReset, fnRoots := 0, fnZero := false, fnLast := 0, copies := [], cpIssued := 0, cpDone := 0
    cpSusp := false, cpProgSeq := 0, cpProgDone := 0, parkBusy := 0, parkBytes := 0 }

/-- R85. The slot of a joined helper: FREE, its registers untagged zero. DBGCTL and SAVEBASE stay with the slot (DESIGN CHOICE, log 75). -/
def Ctx.joined (c : Ctx) : Ctx := { Ctx.reset with savebase := c.savebase, dbgctl := c.dbgctl }

/-- R85. A core's slots, all FREE. -/
def Core.freeSlots (c : Core) : SMap Ctx := c.ctxs.map (fun p => (p.1, p.2.joined))

/-- R104, R357. A core with the control context of an item in its slot, every helper slot FREE; a core that HALT had stopped runs
again. -/
def Core.begin (c : Core) (it : LaunchItem) (uid : Nat) : Core :=
  { c.fresh with
    ctxs := SMap.set c.freeSlots control (it.ctx uid (SMap.getD c.ctxs control Ctx.reset))
    livebase := it.live &&& ~~~(7 : Word), job := it.job, current := some it, stopped := false }

/-! ## The end of an item (R86, R354) -/

/-- R275. The threads that an item's contexts started become FREE; `uid` is the number of its control context. -/
def Cluster.freeThreads (k : Cluster) (uid : Nat) : Cluster :=
  let gone := (k.threads.filter (fun t => t.2.item == uid && t.2.state != .free)).map (·.1)
  { k with threads := k.threads.filter (fun t => !gone.contains t.1), digestQ := k.digestQ.filter (fun t => !gone.contains t) }

/-- R313. A member of a running node has ended. -/
def Node.memberEnded (n : Node) (core : Nat) : Node := { n with ended := NSet.add n.ended core }
/-- R313. A node whose task has failed is to become FAILED. -/
def Node.failed (n : Node) : Node := { n with doomed := true }

/-- R86, R90. The control context of an item that has ended: nothing of it runs or waits, and its registers keep their values until
the next start. -/
def Ctx.closed (c : Ctx) : Ctx :=
  { c with
    life := .free, uid := 0, halted := false, killing := false, waiting := false, gpos := 0, cntLoad := 0, cntStore := 0, cntCopy := 0
    cntTile := 0, awaits := [], pend := [], deferred := [], arrivals := [], spill := [], saved := none, resume := .none, depth := 0
    trapsHeld := false, tokenDepth := 0, standAside := 0, passed := [] }

/-- R86, R250. A core without contexts. Where its resident handler ran, the handler's bank is put away, and the slot is the suspended
control context's again. -/
def Core.closeItem (c : Core) : Core :=
  let slot := SMap.getD c.ctxs control Ctx.reset
  let own := if c.preempted then SMap.getD c.suspended control slot else slot
  { c with
    current := none, ctxs := SMap.set c.freeSlots control own.closed, preempted := false, suspended := [], held := none
    resident := if c.preempted then slot.regs else c.resident }

/-- The number of the control context of the item that is on a core. -/
def Core.itemUid (c : Core) : Nat :=
  (if c.preempted then SMap.getD c.suspended control Ctx.reset else SMap.getD c.ctxs control Ctx.reset).uid

/-- R249, R270. No context of a core waits any more. -/
def State.abandonWaits (s : State) (core : Nat) : State :=
  (control :: List.range 10).foldl (fun t n => t.abandonWait ⟨core, n⟩) s

/-- R86, R354. The core's item ends, and with it every context of the core; `failed` where its start or its handler failed. -/
def State.endItem (s : State) (core : Nat) (failed : Bool) : State :=
  let s1 := ((s.abandonWaits core).modCore core (·.closeItem)).modCluster (clusterOf core) (·.freeThreads (s.core core).itemUid)
  match (s.core core).current with
  | none => s1
  | some it =>
    match it.node with
    | some (die, i, gen) =>
      s1.modNode die i (fun n => if n.gen ≠ gen then n else if failed then (n.memberEnded core).failed else n.memberEnded core)
    | none => s1.leaveLevels it

/-- R312, R357. An item starts on a core: scrubs, images, registers, and the check of its entry, with privilege 1 for a launch, and with that
of its context for a node (DEDUCED, log 114); where that fails no context starts, and the item fails. The check leaves what its fetch leaves (R291). An image whose bytes cannot be read fails the item in the same way (DESIGN CHOICE, log 76). -/
def State.startItem (s : State) (core : Nat) (it : LaunchItem) : State :=
  let s1 := s.scrubFor core it.dom
  let who : Who := ⟨core, it.dom, true, it.xlbase⟩
  let failed := ({ s1 with uidNext := s1.uidNext + 1 }.modCore core (·.begin it s1.uidNext)).endItem core true
  match s1.placeImages core it who it.images with
  | .error _ => failed
  | .ok s2 =>
    let s3 := ({ s2 with uidNext := s2.uidNext + 1 }.markImaged core it).modCore core (·.begin it s2.uidNext)
    let reader := { who with priv := it.node.isNone }
    match s3.targetFor reader [] it.entry with
    | .error _ => (s3.fetchedFor reader it.entry).endItem core true
    | .ok () => s3.fetchedFor reader it.entry

/-- R95. A core on which a context has halted, be it the control context, a helper or the resident handler, reports its item as
failed. -/
def State.reportHalt (s : State) (core : Nat) : State :=
  if (s.core core).current.isSome && (s.core core).ctxs.any (fun p => p.2.life == .live && p.2.halted) then s.endItem core true
  else s

/-! ## Killing and stopping (R106, R249, R360, R377) -/

/-- The index of the oldest pending local access of a context. -/
def Ctx.firstLocal (c : Ctx) : Option Nat :=
  c.pend.findIdx? (fun o => o.isAccess && (match o.home with
    | .local _ => true
    | .remote _ _ => false))

/-- Pending local accesses of a context performed, oldest first, `fuel` of them at most. -/
def State.drainFuel (s : State) (c : CtxId) : Nat → State
  | 0 => s
  | n + 1 =>
    match (s.ctx c).firstLocal with
    | none => s
    | some k => (s.performNow c k 0).drainFuel c n

/-- R249. Every outstanding local load, store and atomic of a context completes. -/
def State.drain (s : State) (c : CtxId) : State := s.drainFuel c (s.ctx c).pend.length

/-- R106. A killed helper: its issued stores and atomics complete, its loads are discarded, its exit value is 0. -/
def State.killHelper (s : State) (c : CtxId) : State :=
  ((s.abandonWait c).drain c).modCtx c (fun x => { x with
    life := .killed, killing := false, exitVal := 0, pend := [], awaits := [], cntLoad := 0, cntStore := 0, deferred := [] })

/-- R106, R360. Every live helper of a core is killed, and the control context's accesses complete. -/
def State.stopContexts (s : State) (core : Nat) : State :=
  ((List.range 10).foldl (fun t n => if (t.ctx ⟨core, n⟩).life = .live then t.killHelper ⟨core, n⟩ else t)
    (s.abandonWait ⟨core, control⟩)).drain ⟨core, control⟩

end Sys2Proof.Machine
end

