-- ==== Sys2Proof/Machine/Preempt.lean ====
section
/-!
DEFINITION. Pre-emption and the Rucksack (R249 to R255): stopping a core, the resident handler, SAVECTX and RESTCTX with their
image, liveness tables, deliveries to a switched-out context, and resumption.
-/

namespace Sys2Proof.Machine

/-! ## Stopping a core (R249) -/

/-- The state of a next outcome. -/
def Out.stateOr (o : Out) (s : State) : State :=
  match o with
  | .next t => t
  | _ => s

/-- R216. The operation is a CHST. -/
def MxOp.isStore (op : MxOp) : Bool := match op.instr with
  | .chst _ _ _ => true
  | _ => false

/-- R192, R216. A started operation completes before its control context is suspended: a matrix operation, or a CHST. -/
def MxOp.completes (op : MxOp) : Bool := op.started && (op.isMatrix || op.isStore)
/-- R192, R216. The queue with the operations that complete before the others. -/
def Core.settleFirst (c : Core) : Core := { c with mxq := c.mxq.filter (·.completes) ++ c.mxq.filter (fun op => !op.completes) }

/-- R192, R216. Started matrix operations and CHSTs at the head of the queue complete, in order. -/
def State.settleEngine (s : State) (core : Nat) : Nat → State
  | 0 => s
  | n + 1 =>
    match (s.core core).mxq with
    | [] => s
    | op :: _ =>
      if !op.started then s
      else if op.isMatrix then ((execMatrixOpComplete core s).stateOr s).settleEngine core n
      else if op.isStore then ((execFunctionOpComplete core s).stateOr s).settleEngine core n
      else s

/-- R192, R216. What is left of the queue is saved as not yet started, with the memory values that a CHFIT or CHLD has read. -/
def State.unstartMx (s : State) (core : Nat) : State :=
  s.modCore core (fun c => { c with mxq := c.mxq.map (fun op =>
    { op with started := false, words := if op.started && op.words.isNone then s.phaseWords core op else op.words }) })

/-- R249. The engine work of a core, as the image holds it. -/
def State.holdWork (s : State) (core : Nat) : Held :=
  let c := s.core core
  { seq := c.seq, window := c.window, vsqEnded := c.vsqEnded, vsqSusp := c.vsqSusp, vsqPc := c.vsqPc, mxq := c.mxq
    mxSusp := c.mxSusp, copies := c.copies, cpSusp := c.cpSusp, cpProgSeq := c.cpProgSeq, cpProgDone := c.cpProgDone
    mxIssued := c.mxIssued, mxDone := c.mxDone, cpIssued := c.cpIssued, cpDone := c.cpDone, parkBusy := c.parkBusy
    parkBytes := c.parkBytes, locks := c.locks.filter (fun k => !k.post && k.owner == core)
    clusterLocks := (s.cluster (clusterOf core)).locks.filter (fun k => !k.post && k.owner == core) }

/-- R249. Every range-lock entry of a core's copies leaves its tables. -/
def State.liftLocks (s : State) (core : Nat) : State :=
  { s with
    cores := s.cores.map (fun (p : Nat × Core) => (p.1, { p.2 with locks := p.2.locks.filter (fun k => k.post || k.owner != core) }))
    clusters := s.clusters.map (fun (p : Nat × Cluster) =>
      (p.1, { p.2 with locks := p.2.locks.filter (fun k => k.post || k.owner != core) })) }

/-- A core whose engines hold nothing. -/
def Core.idleEngines (c : Core) : Core :=
  { c with seq := [], window := [], vsqEnded := [], vsqSusp := false, mxq := [], mxSusp := false, copies := [], cpSusp := false
           parkBusy := 0 }

/-- R250. The context of the resident handler: the slot's own registers but for its bank of g registers, at PRVEC, privileged. -/
def Core.handlerCtx (c : Core) (uid : Nat) : Ctx :=
  { SMap.getD c.ctxs control Ctx.reset with
    life := .live, uid := uid, halted := false, killing := false, pc := c.prvec, regs := c.resident, priv := true, uie := false
    uia := false, mbox := 0, cntLoad := 0, cntStore := 0, cntCopy := 0, cntTile := 0, awaits := [], pend := [], deferred := []
    arrivals := [], spill := [], saved := none, heldLive := [], waiting := false, standAside := 0, passed := [], gpos := 0
    resume := .none, depth := 0, trapsHeld := false, tokenDepth := 0 }

/-- R104, R250. A core on which the resident handler runs, its contexts suspended; one that HALT had stopped runs again. -/
def Core.enterHandler (c : Core) (uid : Nat) (held : Held) : Core :=
  { c.idleEngines with
    ctxs := [(control, c.handlerCtx uid)], suspended := c.ctxs.filter (fun p => p.2.life != .free), held := some held
    preempted := true, stopped := false }

/-- R249 steps 1 and 2. Waits are abandoned and local accesses complete, for every live context of a core. -/
def State.quiesce (s : State) (core : Nat) : State :=
  (s.core core).ctxs.foldl (fun t p => if p.2.life = .live then (t.abandonWait ⟨core, p.1⟩).drain ⟨core, p.1⟩ else t) s

/-- R249, R250. A core is pre-empted. -/
def State.preempt (s : State) (core : Nat) : State :=
  let s1 := s.quiesce core
  let s2 := ((s1.modCore core (·.settleFirst)).settleEngine core (s1.core core).mxq.length).unstartMx core
  let held := s2.holdWork core
  let s3 := { (s2.liftLocks core).modCore core (fun c => c.enterHandler s2.uidNext held) with uidNext := s2.uidNext + 1 }
  let s4 := s3.targetTouched ⟨core, control⟩ (s3.core core).prvec
  match s3.checkTarget ⟨core, control⟩ (s3.core core).prvec with
  | .ok () => s4
  | .error _ => s4.modCtx ⟨core, control⟩ (fun c => { c with halted := true })

/-- R249 step 1. Every live context of a core stands at a group boundary. -/
def Core.atBoundary (c : Core) : Bool := c.ctxs.all (fun p => p.2.life != .live || p.2.gpos == 0)

/-- R364. A READY slice of a core has an earlier deadline than its RUNNING one; equal deadlines go to the lower job. -/
def Slice.before (a b : Slice) : Bool := decide (a.deadline < b.deadline) || (a.deadline == b.deadline && decide (a.job < b.job))
/-- R364. The RUNNING slice of a core. -/
def Core.runningSlice (c : Core) : Option Slice := c.slices.find? (·.running)
/-- R260, R324. A switched-out item of a job may be restored on a core: its domain may run in the cluster, and no gang keeps it out. -/
def State.mayReturn (s : State) (core job : Nat) (it : LaunchItem) : Bool :=
  it.job == job && s.clusterAllows (clusterOf core) it.dom none && !s.gangHolds core it

/-- R260, R364. A slice's job has, on a core, something that may run there: the item that is there, a switched-out item that
can be restored, or a queued item that can start. -/
def State.sliceFits (s : State) (core : Nat) (x : Slice) : Bool :=
  let c := s.core core
  let cl := clusterOf core
  c.current.any (·.job == x.job) || (!s.draining core &&
    (c.away.any (fun a => s.mayReturn core x.job a.1) ||
      (c.away.all (·.1.job != x.job) && (c.queue.find? (·.job == x.job)).any (fun it => s.clusterAllows cl it.dom none))))

/-- R364. The core holds no RUNNING slice, or a READY one with an earlier deadline fits. -/
def State.outbid (s : State) (core : Nat) : Bool :=
  let c := s.core core
  match c.runningSlice with
  | some r => c.slices.any (fun x => x.ready && !x.running && x.before r && s.sliceFits core x)
  | none => true

/-- R249, R364. The core is pre-empted; its RUNNING slice is READY again. -/
def State.preemptSlice (s : State) (core : Nat) : State :=
  (s.preempt core).modCore core (fun k => { k with slices := k.slices.map (fun x => { x with running := false }) })

/-- R411, R412. A word of major 0x60 is an instruction that pre-emption waits for. GBAR and RECONF are abandoned. -/
def holdsPreemption (w : Word) : Bool := decide (bits w 12 6 = 0x60) && !([0, 2].contains (bits w 31 26))

/-- R412. A context executes an STMC, from its wait for earlier stores to its last reply, or a TGEN that waits for a RECONF's COMMIT. -/
def Ctx.multicasting (c : Ctx) : Bool :=
  c.arrivals.any (fun p => match p.2 with
    | .stmc _ _ _ => true
    | .stmcIssued _ _ => true
    | _ => false) || (c.waiting && holdsPreemption c.ir)

/-- R249, R412. The contexts of a core can be suspended: they stand at group boundaries, outside the instructions that pre-emption
waits for. -/
def Core.suspendable (c : Core) : Bool := c.atBoundary && c.ctxs.all (fun p => !p.2.multicasting)

/-- R249, R364, R374, R377, R412. A core can be pre-empted: it runs outside its resident handler, its contexts can be suspended and are to
stop for no termination, and its started slot transfers have completed. -/
def State.preemptible (s : State) (core : Nat) : Bool :=
  let c := s.core core
  s.xfers.all (fun x => x.ctx.core != core || !x.started) && (s.ctx ⟨core, control⟩).life == .live && !c.preempted && !c.broken &&
    !c.lnStop && c.suspendable && c.ctxs.all (fun p => p.2.life != .live || !s.terminated p.2.dom)

/-- R364. The RUNNING slice of a core waits for its next item, which R260 holds: no context is there to be pre-empted. -/
def Core.idles (c : Core) : Bool := c.current.isNone && !c.preempted && c.runningSlice.isSome

/-- R249. PREEMPTION: the scheduler pre-empts a core for a slice with an earlier deadline (R364). -/
def execPreemption (core : Nat) (s : State) : Out :=
  .next (if s.preemptible core && s.outbid core then s.preemptSlice core
    else if (s.core core).idles && s.outbid core then
      s.modCore core (fun k => { k with slices := k.slices.map (fun x => { x with running := false }) })
    else s)

/-! ## The liveness table (R251) -/

/-- R251. The registers that are live: bits of g, v, q, s, t, fn. -/
structure Live where
  g : Nat
  v : Nat
  q : Nat
  s : Nat
  t : Nat
  fn : Nat
  deriving DecidableEq, Repr

/-- R251. Every register counts as live. -/
def Live.all : Live := ⟨2 ^ 32 - 1, 65535, 255, 255, 255, 255⟩

/-- R251. A record's masks. -/
def liveOf (r : Nat) : Live :=
  ⟨r / 2 ^ 64 % 2 ^ 32, r / 2 ^ 96 % 2 ^ 16, r / 2 ^ 112 % 2 ^ 8, r / 2 ^ 120 % 2 ^ 8, r / 2 ^ 128 % 2 ^ 8, r / 2 ^ 136 % 2 ^ 8⟩

/-- R251. The greatest record, of the first `n`, whose head is not above a pc. -/
def State.liveRecord (s : State) (who : Who) (base : Nat) (pc : Word) : Nat → Option Nat
  | 0 => none
  | n + 1 =>
    match s.copyBytes who (base + 16 + 24 * n : Nat) false 24 with
    | .error _ => none
    | .ok (s1, ls, _) =>
      let r := s1.bytesAt ls
      if r % 2 ^ 64 ≤ pc.toNat then some r else s.liveRecord who base pc n

/-- R251. The live registers at a saved pc. -/
def State.liveAt (s : State) (core : Nat) (pc : Word) : Live :=
  let who := { s.who ⟨core, control⟩ with priv := true }
  let base := (s.core core).livebase.toNat
  match s.copyBytes who base false 16 with
  | .error _ => Live.all
  | .ok (s1, ls, _) => ((s.liveRecord who base pc (s1.bytesAt ls / 2 ^ 64 % 2 ^ 32)).map liveOf).getD Live.all

/-- R251. Registers that count as live whatever the table says: those with a remote load that is pending, or was at SAVECTX, and the
mailbox register. -/
def Ctx.alwaysLive (c : Ctx) (n : Nat) : Bool :=
  c.pend.any (fun o => o.kind.reads && o.kind.dest.toNat == n) || NSet.has c.heldLive n || (c.mbox.toNat % 32 == n && n != 0)

/-! ## The image (R252) -/

/-- The codes of the states of a helper slot (R85). -/
def Life.code : Life → Nat
  | .free => 0
  | .live => 1
  | .ended => 2
  | .killed => 3

/-- The value of a list of words of `n` bytes each, placed one after the other. -/
def placeWords (n : Nat) (l : List Nat) : Nat := packBytes n l

/-- R97. CNTS. -/
def Ctx.cnts (c : Ctx) : Nat := c.cntTile * 2 ^ 20 + c.cntCopy * 2 ^ 16 + c.cntStore * 2 ^ 8 + c.cntLoad + c.sealing
/-- R99. UISTAT. -/
def Ctx.uistat (c : Ctx) : Nat := c.cpn.toNat * 2 ^ 8 + (if c.mbp then 2 else 0) + (if c.cpp then 1 else 0)

/-- R252. The words of the header: the context's own, then, for a control context, the core's. -/
def Core.headerWords (c : Core) (slot : Nat) (x : Ctx) (h : Held) (cls : BitVec 8) : List Nat :=
  let own := slot == control
  let k := fun (n : Nat) => if own then n else 0
  [x.pc.toNat, (x.statusWord slot).toNat, x.flags.toNat, x.rnd.toNat, x.mbox.toNat, k x.uivec.toNat, k x.uistat, x.cnts
   , k x.mxFlags.toNat, k c.fntol.toNat, k c.fnstat.toNat, k (h.mxDone.toNat * 2 ^ 32 + h.mxIssued.toNat)
   , k (h.cpDone.toNat * 2 ^ 32 + h.cpIssued.toNat), k ((if 0 < h.parkBusy then 2 ^ 32 else 0) + h.parkBytes.toNat)] ++
    (List.range 8).map (fun t => k (c.tshapeWord t).toNat) ++
    [x.trapCause.toNat, x.trapPc.toNat, x.trapVal.toNat, x.trapProg.toNat
     , k (((List.range 10).map (fun n => (SMap.getD c.suspended n Ctx.reset).life.code * 4 ^ n)).foldl (· + ·) 0)
     , cls.toNat, cls.toNat / 128]

/-- R252. The g image: the registers, the shadow bank, and the tags with the mask of pending remote loads. -/
def Ctx.bankImage (x : Ctx) : Nat :=
  let regs := (List.range 32).map x.reg
  let sh := (List.range 8).map (fun k => SMap.getD x.shadow (24 + k) Reg.zero)
  let tags := fun (l : List Reg) => (l.zipIdx.map (fun p => if p.1.tag then 2 ^ p.2 else 0)).foldl (· + ·) 0
  let pendMask := ((x.pend.filter (fun o => o.kind.reads)).map (fun o => o.kind.dest.toNat)).eraseDups
  placeWords 16 (regs.map (·.bits.toNat)) + placeWords 16 (sh.map (·.bits.toNat)) * 2 ^ (8 * 512) +
    (tags regs + tags sh * 2 ^ 32 + (pendMask.map (2 ^ ·)).foldl (· + ·) 0 * 2 ^ 64) * 2 ^ (8 * 640)

/-- R231. The bytes of a SHAPE record. -/
def ShapeRec.image (r : ShapeRec) : Nat :=
  let dims := (List.range 6).map (fun d => r.dims.getD d (1, 0))
  1 + r.fmt * 2 ^ 8 + (if r.matrix then 2 ^ 13 else 0) + (if r.rd then 2 ^ 14 else 0) + (if r.wr then 2 ^ 15 else 0) +
    (r.dims.length - 1) * 2 ^ 16 + (BitVec.ofInt 32 r.lo).toNat * 2 ^ 64 + (BitVec.ofInt 32 r.hi).toNat * 2 ^ 96 +
    placeWords 8 (dims.map (fun d => d.1 + (BitVec.ofInt 32 d.2).toNat * 2 ^ 32)) * 2 ^ 128

/-- R252. The state of a stream in its image: the state, the mode, the capability's tag and the object index. -/
def Stream.stateWord (st : Stream) : Nat :=
  (match st.state with
    | .unbound => 0
    | .bound => 1
    | .ended => 2) + st.mode.toNat * 2 ^ 8 + (if st.cap.tag then 2 ^ 16 else 0) + st.obj * 2 ^ 32

/-- R252. The 128 bytes of a stream. -/
def Stream.image (st : Stream) : Nat :=
  if st.state = .unbound then 0
  else
    st.shape.image + st.cap.bits.toNat * 2 ^ 512 + placeWords 4 ((List.range 4).map (fun k => st.idx.getD k 0)) * 2 ^ 640 +
      st.pos * 2 ^ 768 + st.count * 2 ^ 800 + st.stateWord * 2 ^ 832

/-- R252. Bytes of open layout: free. -/
def freeBytes (seed n : Nat) : Nat := placeWords 1 ((List.range n).map (fun k => (Config.freeByte (seed * 65536 + k)).toNat))

/-- R216. The words that the held operation which had read them keeps. -/
def Held.phaseWords (h : Held) : List Word := ((h.mxq.find? (fun op => op.words.isSome)).bind (·.words)).getD []

/-- R251, R252. The function image: 32 bytes of header for each register, the coefficients of the live ones in register order, and the
words that an abandoned CHFIT or CHLD had read. -/
def Core.fnImage (c : Core) (h : Held) (live : Live) : Nat :=
  let f := (List.range 8).map (fun i => if live.fn.testBit i then c.fn? i else none)
  let head := f.map (fun o => match o with
    | none => 0
    | some f => f.lo.toNat + f.hi.toNat * 2 ^ 64 + f.coeffs.length * 2 ^ 128)
  placeWords 32 head +
    placeWords 8 ((f.flatMap (fun o => (o.map (·.coeffs)).getD []) ++ h.phaseWords).map BitVec.toNat) * 2 ^ 2048

/-- R252, R375. The image of a spill buffer: 64 entries of 32 bytes, the oldest first; each holds its word, then a byte that is 1, and a
byte with its domain (DESIGN CHOICE, log 25). -/
def spillImage (l : List (Word × BitVec 6)) : Nat := placeWords 32 (l.map (fun p => p.1.toNat + 2 ^ 64 + p.2.toNat * 2 ^ 72))

/-- R252. The matrix image: the tiles, the rows and the latches, by R247. -/
def Core.matrixImage (c : Core) : Nat :=
  placeWords 16448 ((List.range 8).map (fun t => c.image (.tile (BitVec.ofNat 3 t).toNat))) +
    c.image (.rows 0 1024) * 2 ^ (8 * 131584) + c.image .latches * 2 ^ (8 * 664064)

/-- R252. One area of an image: its class, its offset, its length in units of 64 bytes, and its value. -/
structure Area where
  cls : Nat
  off : Nat
  units : Nat
  value : Nat
  deriving DecidableEq, Repr

/-- R252. The bytes from 0x1A00 to the spill buffer: the engine work, in a layout that the spec leaves open. -/
def openBytes : Nat := 0x1600

/-- R216, R252. The areas of a context's image, in ascending order. FNTOL and FNSTAT, which stand in the header, move with class [5]
too. -/
def State.areas (s : State) (core slot : Nat) (x : Ctx) (cls : BitVec 8) (live : Live) (seed : Nat) : List Area :=
  let c := s.core core
  let h := c.held.getD (s.holdWork core)
  let own := slot == control
  let vs := (List.range 16).map c.vreg
  let header := placeWords 8 (c.headerWords slot x h cls)
  let fn := if own && !cls.getLsbD 6 then [⟨5, 0x40, 1, header / 2 ^ 512 % 2 ^ 512⟩] else []
  let common := [⟨6, 0, 4, header⟩] ++ fn ++ [⟨0, 0x100, 12, x.bankImage⟩]
  let tail := [⟨6, 0x1A00, 0x58, freeBytes seed openBytes⟩, ⟨6, 0x3000, 32, spillImage x.spill⟩, ⟨6, 0x3800, 32, 0⟩]
  if !own then common ++ tail
  else common ++
    [ ⟨1, 0x400, 65, placeWords 256 (vs.map (·.bits.toNat)) + placeWords 1 (vs.map (·.tag)) * 2 ^ 32768⟩
    , ⟨2, 0x1440, 7, placeWords 64 ((List.range 7).map (fun k => (c.mask (k + 1)).toNat))⟩
    , ⟨3, 0x1600, 16, placeWords 128 ((List.range 8).map (fun k => (c.stream k).image))⟩ ] ++ tail ++
    [⟨5, 0x4000, 1152, c.fnImage h live⟩, ⟨4, 0x16000, 11402, c.matrixImage⟩]

/-- R109, R252. The units of the selected classes in ascending order: offset, class, value. -/
def unitsOf (areas : List Area) (cls : BitVec 8) : List (Nat × Nat × Nat) :=
  (areas.filter (fun a => cls.getLsbD a.cls)).flatMap (fun a =>
    (List.range a.units).map (fun k => (a.off + 64 * k, a.cls, a.value / 2 ^ (512 * k) % 2 ^ 512)))

/-- R216, R251, R252. Whether a byte at an offset of the image is not written: those of a register that is not live, and, without
class [6], those of the header but FNTOL and FNSTAT. -/
def Live.skips (l : Live) (x : Ctx) (cls : BitVec 8) (off : Nat) : Bool :=
  let dead := fun (m n : Nat) => !(m.testBit n)
  if off < 0x100 then !cls.getLsbD 6 && (decide (off < 0x48) || decide (0x58 ≤ off))
  else if off < 0x300 then let n := (off - 0x100) / 16; dead l.g n && !x.alwaysLive n
  else if off < 0x400 then false
  else if off < 0x1400 then dead l.v ((off - 0x400) / 256)
  else if off < 0x1410 then dead l.v (off - 0x1400)
  else if off < 0x1440 then false
  else if off < 0x1600 then dead l.q ((off - 0x1440) / 64 + 1)
  else if off < 0x1A00 then dead l.s ((off - 0x1600) / 128)
  else if 0x4000 ≤ off ∧ off < 0x4100 then dead l.fn ((off - 0x4000) / 32)
  else if 0x16000 ≤ off ∧ off < 0x36200 then dead l.t ((off - 0x16000) / 16448)
  else false

/-- The place of a unit of an image. -/
def State.unitPlace (s : State) (a : Word) (use : CapUse) : Res (State × Loc) := do
  match ← s.resolve (s.who s.cur) a 64 use with
  | (s1, .local l) => if s1.homeFenced l then .error ⟨Cause.linkDown, a⟩ else .ok (s1, l)
  | (_, .remote _ _) => .error ⟨Cause.illegalOperand, a⟩

/-- R251. One unit written, but for the bytes that are not; a granule written whole is no longer poisoned (R184). -/
def State.putUnit (s : State) (l : Loc) (skips : Nat → Bool) (off value : Nat) : State :=
  let live := (List.range 64).filter (fun k => !skips (off + k))
  if live.length = 64 then (s.writeAt ⟨l.space, l.off, 0⟩ 64 value).clearCovered [(⟨l.space, l.off, 0⟩, 64)]
  else
    (live.foldl (fun t k => t.writeAt ⟨l.space, l.off + k, 0⟩ 1 (value / 2 ^ (8 * k) % 2 ^ 8)) s).clearCovered
      (live.map (fun k => (⟨l.space, l.off + k, 0⟩, 1)))

/-- R253. Units written from the `k`-th on: the state, and the failure with the number of units completed, if one failed. -/
def State.putUnits (s : State) (base : Word) (skips : Nat → Bool) : Nat → List (Nat × Nat × Nat) → State × Option (Nat × Fail)
  | _, [] => (s, none)
  | k, (off, _, v) :: rest =>
    match s.unitPlace (base + w64 off) .store with
    | .error f => (s, some (k, f))
    | .ok (s1, l) => (s1.putUnit l skips off v).putUnits base skips (k + 1) rest

/-- R253. The TRAPPROG of a SAVECTX or RESTCTX that stops at a unit. -/
def State.unitProg (s : State) (k : Nat) : Word := (s.openProg &&& ~~~(0x1FFFFFFFF : Word)) ||| w64 (2 ^ 32 + k % 2 ^ 32)

/-- R253. The units already completed, after an ERET to the instruction. -/
def Ctx.unitsDone (c : Ctx) : Nat :=
  if c.resume = .active ∧ c.pc = c.trapPc ∧ c.trapProg.getLsbD 32 then bits c.trapProg 31 0 else 0

/-- R109, R252. The bytes of a context's image that SAVECTX and RESTCTX move. -/
def imageBytes (slot : Nat) : Nat := if slot = control then 0xC8280 else 0x4000

/-- R109. The suspended context that a slot number selects. -/
def State.selected (s : State) (x : BitVec 4) : Chk Ctx :=
  match if s.myCore.preempted then SMap.find s.myCore.suspended x.toNat else none with
  | some c => .ok c
  | none => .error (s.trapHere Cause.illegalOperand s.openVal s.openProg)

/-- R109. A suspended context of the core replaced. -/
def State.setSuspended (s : State) (slot : Nat) (x : Ctx) : State :=
  s.modMyCore (fun c => { c with suspended := SMap.set c.suspended slot x })

/-- R252. What an image holds in its parts of open layout is kept, and is known by the bytes that stand there: another image that was
written at the same address may stand elsewhere by now, or in other memory. -/
def State.keepImage (s : State) (e : SavedImage) : State :=
  { s with freeN := s.freeN + 1, images := e :: s.images.filter (fun p => p.seed != e.seed) }

/-- R254. The registers that have a pending remote load. -/
def Ctx.pendingRegs (x : Ctx) : NSet := ((x.pend.filter (fun o => o.kind.reads)).map (fun o => o.kind.dest.toNat)).foldl NSet.add []

/-- R254. A context whose class [0] stands in the image at an address. -/
def Ctx.savedAt (x : Ctx) (base : Word) : Ctx := { x with saved := some base, heldLive := x.pendingRegs }

/-- R254. SAVECTX has written `n` units: class [0] stands in the image when the last of its units is among them. -/
def State.noteSaved (s : State) (slot : Nat) (x : Ctx) (base : Word) (units : List (Nat × Nat × Nat)) (n : Nat) : State :=
  if (units.any (fun u => u.2.1 == 0)) && (units.drop n).all (fun u => u.2.1 != 0) then s.setSuspended slot (x.savedAt base) else s

/-- R252, R253. The number of the free bytes of an image: a new one, or, where a SAVECTX goes on after some units, that of its
beginning. -/
def State.imageSeed (s : State) (a : Word) (x : Ctx) (done : Nat) : Nat :=
  if done = 0 then s.freeN
  else ((s.images.find? (fun e => e.core == s.cur.core && e.addr == a.toNat && e.uid == x.uid)).map (·.seed)).getD s.freeN

/-- R109, R252 to R254. SAVECTX. -/
def State.saveContext (s : State) (xs : BitVec 4) (a : BitVec 5) (cls : BitVec 8) : Chk State := do
  let slot := xs.toNat
  let x ← s.selected xs
  s.check (checkCap (s.g a) s.me.dom s.me.priv .store (s.x a) (imageBytes slot) 1) (s.regProg a)
  let live := if cls.getLsbD 7 then s.liveAt s.cur.core x.pc else Live.all
  let k0 := s.me.unitsDone
  let seed := s.imageSeed (s.x a) x k0
  let units := unitsOf (s.areas s.cur.core slot x cls live seed) cls
  let work := if slot = control then some (s.myCore.held.getD (s.holdWork s.cur.core)) else none
  let note := fun (t : State) (n : Nat) =>
    let t1 := t.noteSaved slot x (s.x a) units n
    if cls.getLsbD 6 then t1.keepImage ⟨s.cur.core, (s.x a).toNat, seed, x.uid, work⟩ else t1
  match s.putUnits (s.x a) (live.skips x cls) k0 (units.drop k0) with
  | (s1, some (k, f)) => .ok ((note s1 k).takeTrap s.cur ⟨f.cause, s.me.pc, f.val, s.unitProg k⟩)
  | (s1, none) => .ok (note s1 units.length).advance

/-- R109. SAVECTX. -/
def execSavectx (x : BitVec 4) (a : BitVec 5) (cls : BitVec 8) (s : State) : Out := s.privileged (s.saveContext x a cls)

/-! ## Restoring (R251 to R253, R255) -/

/-- `n` bytes at an offset of a number. -/
def part (img off n : Nat) : Nat := img / 2 ^ (8 * off) % 2 ^ (8 * n)

/-- The units of an image as one number: the current value of each area, with the units read in place of those from the `k0`-th on. -/
def overlay (units : List (Nat × Nat × Nat)) (k0 : Nat) (read : List Nat) : Nat :=
  (units.zipIdx.map (fun p => (if p.2 < k0 then p.1.2.2 else read.getD (p.2 - k0) p.1.2.2) * 2 ^ (8 * p.1.1))).foldl (· + ·) 0

/-- R254, R255. The deposits in the spill buffer of an image. -/
def spillFrom (img : Nat) : List (Word × BitVec 6) :=
  ((List.range 64).filter (fun k => part img (0x3000 + 32 * k + 8) 1 % 2 == 1)).map (fun k =>
    (w64 (part img (0x3000 + 32 * k) 8), BitVec.ofNat 6 (part img (0x3000 + 32 * k + 9) 1)))

/-- R251, R255. A context's own state from its image; what it has outstanding is what stands open now (R254). -/
def Ctx.fromImage (x : Ctx) (slot : Nat) (img : Nat) (cls : BitVec 8) (live : Live) : Ctx :=
  let w := fun (k : Nat) => part img (8 * k) 8
  let x1 := if !cls.getLsbD 6 then x else
    { x with
      pc := w64 (w 0), dom := BitVec.ofNat 6 (w 1 / 2 ^ 10), uia := (w 1).testBit 7
      uie := (w 1).testBit 6 && slot == control, priv := (w 1).testBit 5, flags := BitVec.ofNat 5 (w 2)
      rnd := BitVec.ofNat 2 (w 3), mbox := BitVec.ofNat 8 (w 4), uivec := w64 (w 5), cpn := BitVec.ofNat 8 (w 6 / 256)
      mbp := (w 6).testBit 1, cpp := (w 6).testBit 0
      mxFlags := BitVec.ofNat 5 (w 8), spill := spillFrom img
      trapCause := BitVec.ofNat 8 (w 22), trapPc := w64 (w 23), trapVal := w64 (w 24), trapProg := w64 (w 25) }
  if !cls.getLsbD 0 then x1 else
    let tags := part img 0x380 16
    let reg := fun (off tag : Nat) => Reg.loaded (BitVec.ofNat 128 (part img off 16)) (tags.testBit tag)
    let dead := fun (n : Nat) => cls.getLsbD 7 && !live.g.testBit n && !x1.alwaysLive n
    { x1 with
      regs := ((List.range 31).map (· + 1)).foldl (fun m n =>
        SMap.set m n (if dead n then Reg.zero else reg (0x100 + 16 * n) n)) x1.regs
      shadow := (List.range 8).foldl (fun m k => SMap.set m (24 + k) (reg (0x300 + 16 * k) (32 + k))) x1.shadow
      awaits := ((x1.pend.filter (fun o => o.kind.reads && tags.testBit (64 + o.kind.dest.toNat))).map (fun o =>
        x1.awaitKey o.bank o.kind.dest)).foldl NSet.add []
      saved := none }

/-- R252. A stream from its image. -/
def streamFrom (b : Nat) : Stream :=
  let st := part b 104 8
  if st % 4 = 0 then Stream.unbound
  else
    { state := if st % 4 = 1 then .bound else .ended, shape := shapeOf (BitVec.ofNat 512 b)
      cap := Reg.loaded (BitVec.ofNat 128 (part b 64 16)) (st.testBit 16), mode := BitVec.ofNat 2 (st / 256)
      idx := (List.range 4).map (fun k => part b (80 + 4 * k) 4), pos := part b 96 4, count := part b 100 4, obj := st / 2 ^ 32 }

/-- R251, R252. Function registers from their image, of lengths that fit the store. A register that was not live has no coefficients
there, and its header was not written. -/
def fnsFrom (b : Nat) (dead : Nat → Bool) : Nat → Nat → Nat → SMap Fn → SMap Fn
  | 0, _, _, m => m
  | fuel + 1, i, pos, m =>
    let n := part b (32 * i + 16) 8 % 4097
    let f : Fn := ⟨w64 (part b (32 * i) 8), w64 (part b (32 * i + 8) 8)
      , (List.range n).map (fun k => w64 (part b (256 + 8 * (pos + k)) 8))⟩
    fnsFrom b dead fuel (i + 1) (if dead i then pos else pos + n) (if n = 0 ∨ dead i then SMap.erase m i else SMap.set m i f)

/-- R251, R252, R255. A core's state from a control context's image; TSHAPE stands in the header. No granule of it is poisoned (R253). -/
def Core.fromImage (c : Core) (img : Nat) (cls : BitVec 8) (live : Live) : Core :=
  let dead := fun (m n : Nat) => cls.getLsbD 7 && !m.testBit n
  let c1 := if !cls.getLsbD 1 then c else
    { c with v := (List.range 16).foldl (fun m k => SMap.set m k
        (if dead live.v k then VReg.empty
          else ⟨BitVec.ofNat 2048 (part img (0x400 + 256 * k) 256), part img (0x1400 + k) 1 % 16⟩)) c.v }
  let c2 := if !cls.getLsbD 2 then c1 else
    { c1 with q := (List.range 7).foldl (fun m k => SMap.set m (k + 1)
        (if dead live.q (k + 1) then 0 else BitVec.ofNat 512 (part img (0x1440 + 64 * k) 64))) c1.q }
  let c3 := if !cls.getLsbD 3 then c2 else
    { c2 with streams := (List.range 8).foldl (fun m k => SMap.set m k
        (if dead live.s k then Stream.unbound else streamFrom (part img (0x1600 + 128 * k) 128))) c2.streams }
  let c4 := if !cls.getLsbD 5 then c3 else
    { c3 with
      fns := fnsFrom (part img 0x4000 73728) (dead live.fn) 8 0 0 [], fntol := w64 (part img 72 8)
      fnZero := (part img 80 8).testBit 44, fnRoots := part img 84 2 % 2 ^ 12, fnLast := part img 80 2 }
  let c8 := if !cls.getLsbD 6 then c4 else
    { c4 with tshape := (List.range 8).foldl (fun s t => SMap.set s t (w64 (part img (8 * (14 + t)) 8))) c4.tshape }
  if !cls.getLsbD 4 then c8 else
    let m := img / 2 ^ (8 * 0x16000)
    let clean := fun (_ _ : Nat) => false
    let c5 := (List.range 8).foldl (fun (k : Core) t =>
      if dead live.t t then { k with tiles := SMap.erase k.tiles t } else k.restore (part m (16448 * t) 16448) clean (.tile t)) c8
    let c6 := c5.restore (part m 131584 532480) clean (.rows 0 1024)
    c6.restore (part m 664064 65664) clean .latches

/-- R216, R255. Held work for a core, whose counts come from the image, and with class [5] the words that an abandoned CHFIT or CHLD
had read, from behind the coefficients. -/
def Held.fromImage (h : Held) (core : Nat) (img : Nat) (cls : BitVec 8) (live : Live) : Held :=
  let len := fun (i : Nat) => if cls.getLsbD 7 && !live.fn.testBit i then 0 else part img (0x4000 + 32 * i + 16) 8 % 4097
  let base := 0x4100 + 8 * ((List.range 8).map len).foldl (· + ·) 0
  let own := fun (k : Lock) => { k with owner := core }
  { h with
    locks := h.locks.map own, clusterLocks := h.clusterLocks.map own
    mxq := if !cls.getLsbD 5 then h.mxq else h.mxq.map (fun op =>
      { op with words := op.words.map (fun l => (List.range l.length).map (fun k => w64 (part img (base + 8 * k) 8))) })
    mxIssued := BitVec.ofNat 32 (part img 88 4), mxDone := BitVec.ofNat 32 (part img 92 4)
    cpIssued := BitVec.ofNat 32 (part img 96 4), cpDone := BitVec.ofNat 32 (part img 100 4)
    parkBytes := BitVec.ofNat 32 (part img 104 4) }

/-- R253. Units read from the first on: the values, and the failure at a unit, if one failed. A unit of a poisoned granule
fails with POISON_CONSUMED. -/
def State.getUnits (s : State) (base : Word) : Nat → List (Nat × Nat × Nat) → List Nat → State × List Nat × Option (Nat × Fail)
  | _, [], acc => (s, acc, none)
  | k, (off, _, _) :: rest, acc =>
    match s.unitPlace (base + w64 off) .load with
    | .error f => (s, acc, some (k, f))
    | .ok (s1, l) =>
      if s1.poisonAt l 64 then (s1, acc, some (k, ⟨Cause.poisonConsumed, base + w64 off⟩))
      else s1.getUnits base (k + 1) rest (acc ++ [s1.readAt l 64])

/-- R252, R255. The image whose free bytes stand in memory: the one that SAVECTX wrote there, or one that has been moved. -/
def State.imageOf (s : State) (base : Word) (units : List (Nat × Nat × Nat)) : Option SavedImage :=
  let img := overlay units 0 (s.getUnits base 0 units []).2.1
  let known := s.images.filter (fun e => freeBytes e.seed openBytes == part img 0x1A00 openBytes)
  (known.find? (fun e => e.core == s.cur.core && e.addr == base.toNat)).orElse (fun _ => known.head?)

/-- R155, R254, R345. What a context has outstanding goes over to the context that its image restores. -/
def Ctx.adopt (x y : Ctx) : Ctx :=
  { x with
    uid := y.uid, pend := y.pend, pendSeq := y.pendSeq, deferred := y.deferred, arrivals := y.arrivals, cntLoad := y.cntLoad
    cntStore := y.cntStore, cntCopy := y.cntCopy, cntTile := y.cntTile, heldLive := y.heldLive, spill := y.spill }
/-- R254. A switched-out context whose outstanding work another one has taken over. -/
def Ctx.bereft (x : Ctx) : Ctx :=
  { x with uid := 0, pend := [], deferred := [], arrivals := [], cntLoad := 0, cntStore := 0, cntCopy := 0, cntTile := 0, awaits := [] }

/-- R155, R254, R345. The suspended context that a restored image continues: the slot's own, or, where the image is of a context that is
switched out elsewhere, one that takes over what that context has outstanding. -/
def State.continueImage (s : State) (slot : Nat) (x : Ctx) (e : Option SavedImage) : State × Ctx :=
  match e with
  | none => (s, x)
  | some e =>
    let c : CtxId := ⟨e.core, slot⟩
    match if e.uid = x.uid then none else s.owner c e.uid with
    | none => (s, x)
    | some y => if s.present (s.whereIs c e.uid) e.uid then (s, x) else (s.modOwner c e.uid Ctx.bereft, x.adopt y)

/-- R294. On whose behalf the line of an image's pc is fetched: the restored context, in the image's domain. -/
def State.imageReader (s : State) (x : Ctx) (status : Word) : Who := ⟨s.cur.core, BitVec.ofNat 6 (bits status 15 10), status.getLsbD 5, x.xlbase⟩

/-- R70. The check of the pc that RESTCTX loads. -/
def State.checkImagePc (s : State) (x : Ctx) (pc status : Word) : Res Unit := s.targetFor (s.imageReader x status) [] pc

/-- R291. The state that the fetch of that check leaves. -/
def State.imagePcTouched (s : State) (x : Ctx) (pc status : Word) : State := s.fetchedFor (s.imageReader x status) pc

/-- R229, R255. A restored image applied: after the scrub that the image's domain requires, the context's state, and for a control context
the core's; what has not been read keeps the value that the scrub leaves. -/
def State.applyImage (s : State) (slot : Nat) (x : Ctx) (base : Word) (units : List (Nat × Nat × Nat)) (k0 : Nat) (read : List Nat)
    (cls : BitVec 8) (whole : Bool) : State :=
  let img := overlay units k0 read
  let pc := if cls.getLsbD 6 then w64 (part img 0 8) else x.pc
  let dom := if cls.getLsbD 6 then BitVec.ofNat 6 (part img 8 8 / 2 ^ 10) else x.dom
  let live := if cls.getLsbD 7 then s.liveAt s.cur.core pc else Live.all
  let e := if cls.getLsbD 6 && whole then s.imageOf base units else none
  let s1 := if slot = control then s.modMyCore (fun c => c.scrubFor dom) else s
  let img := overlay (unitsOf (s1.areas s.cur.core slot x cls Live.all s.freeN) cls) k0 read
  let (s2, y) := s1.continueImage slot x e
  let s3 := s2.setSuspended slot (y.fromImage slot img cls live)
  if slot ≠ control then s3
  else
    let s4 := s3.modMyCore (fun c => c.fromImage img cls live)
    if cls.getLsbD 6 && whole then
      let h := (e.bind (·.work)).orElse (fun _ => s.myCore.held)
      s4.modMyCore (fun c => { c with held := h.map (·.fromImage s.cur.core img cls live) })
    else s4

/-- R70, R109, R253, R255. RESTCTX: the units are read in ascending order, from the one at which an earlier execution stopped; a pc that
fails R70 is found before anything is written. POISON_CONSUMED names the unit's address and counts the units before it, which are applied
(DESIGN CHOICE, log 113). -/
def State.restoreContext (s : State) (xs : BitVec 4) (a : BitVec 5) (cls : BitVec 8) : Chk State := do
  let slot := xs.toNat
  let x ← s.selected xs
  s.check (checkCap (s.g a) s.me.dom s.me.priv .load (s.x a) (imageBytes slot) 1) (s.regProg a)
  let k0 := s.me.unitsDone
  let units := unitsOf (s.areas s.cur.core slot x cls Live.all s.freeN) cls
  let (s1, read, stop) := s.getUnits (s.x a) k0 (units.drop k0) []
  let img := overlay units k0 read
  let pc := w64 (part img 0 8)
  let status := w64 (part img 8 8)
  let checked := cls.getLsbD 6 && k0 == 0 && !read.isEmpty
  let s2 := if checked then s1.imagePcTouched x pc status else s1
  match if checked then s1.checkImagePc x pc status else .ok (), stop with
  | .error f, _ => .ok (s2.takeTrap s.cur ⟨f.cause, s.me.pc, f.val, s.openProg⟩)
  | .ok (), some (k, f) =>
    .ok ((s2.applyImage slot x (s.x a) units k0 read cls false).takeTrap s.cur ⟨f.cause, s.me.pc, f.val, s.unitProg k⟩)
  | .ok (), none => .ok (s2.applyImage slot x (s.x a) units k0 read cls true).advance

/-- R109. RESTCTX. -/
def execRestctx (x : BitVec 4) (a : BitVec 5) (cls : BitVec 8) (s : State) : Out := s.privileged (s.restoreContext x a cls)

/-! ## Resumption (R255 step 4) -/

/-- The engines of a core hold no work of the contexts that run on it. -/
def Core.enginesIdle (c : Core) : Bool := c.copies.isEmpty && c.mxq.isEmpty && c.seq.isEmpty

/-- R234, R255. The held copies that had started. -/
def Held.running (h : Held) : List Copy := h.copies.filter (·.started)
/-- R255. The spans that held copies put back into peer tables. -/
def Held.peerSpans (h : Held) (core : Nat) : List (Nat × Nat × Nat × Bool) := h.running.flatMap (·.peerSpans core)

/-- R234, R255. Every table has free entries for the held locks that go into it, and no access checked while the ranges were unprotected
is still to be performed there (R236). -/
def State.tablesFree (s : State) (core : Nat) (h : Held) : Bool :=
  let peers := h.peerSpans core
  decide ((s.core core).locks.length + h.locks.length ≤ 16) &&
    decide ((s.cluster (clusterOf core)).locks.length + h.clusterLocks.length ≤ 32) &&
    peers.all (fun x => decide ((s.core x.1).locks.length + (peers.filter (fun y => y.1 == x.1)).length ≤ 16)) &&
    h.running.all (s.spansQuiet core)

/-- R255, R256. The handler's own accesses and engine work are done, the core is in service, and the tables have room. -/
def State.mayResume (s : State) (core : Nat) : Bool :=
  let c := s.core core
  (s.ctx ⟨core, control⟩).pend.isEmpty && c.enginesIdle && !c.withdrawn && c.held.all (s.tablesFree core)

/-- R255. A core with held engine work reinstated; the replay window begins anew (R157). -/
def Core.reinstate (c : Core) (h : Held) : Core :=
  { c with
    seq := h.seq, window := [], vsqEnded := h.vsqEnded, vsqSusp := h.vsqSusp, vsqPc := h.vsqPc, mxq := h.mxq
    mxSusp := h.mxSusp, copies := h.copies, cpSusp := h.cpSusp, cpProgSeq := h.cpProgSeq, cpProgDone := h.cpProgDone
    mxIssued := h.mxIssued, mxDone := h.mxDone, cpIssued := h.cpIssued, cpDone := h.cpDone, parkBusy := h.parkBusy
    parkBytes := h.parkBytes, locks := c.locks ++ h.locks }

/-- R191, R255. The held work and locks of a core reinstated; sleeping arrays are to wake for it. -/
def State.reinstateWork (s : State) (core : Nat) : State :=
  match (s.core core).held with
  | none => s
  | some h =>
    let s1 := (s.modCore core (·.reinstate h)).modCluster (clusterOf core) (fun k => { k with locks := k.locks ++ h.clusterLocks })
    (h.running.foldl (fun t k => t.registerPeers core k) s1).wakeForQueue core

/-- R211, R213. The operations of a core's queue whose g destinations await their results: those of a suspended engine but the failed
one at its head. -/
def Core.awaitedOps (c : Core) : List MxOp := if c.mxSusp then c.mxq.drop 1 else c.mxq

/-- R211. The registers that queued function operations will write await their results. -/
def Ctx.awaitQueue (x : Ctx) (q : List MxOp) : Ctx :=
  { x with awaits := (q.filter (fun op => op.gdest != 0)).foldl (fun l op => NSet.add l (x.awaitKey op.bank op.gdest)) x.awaits }

/-- R254, R255. A restored context: what comes for it is no longer delivered to its image. -/
def Ctx.resumed (x : Ctx) : Ctx := { x with saved := none, heldLive := [] }

/-- R255. A core whose restored contexts stand in their slots again. -/
def Core.resumeCtxs (c : Core) : Core :=
  { c with
    resident := (SMap.getD c.ctxs control Ctx.reset).regs
    ctxs := c.suspended.foldl (fun m p => SMap.set m p.1 (if p.1 = control then p.2.resumed.awaitQueue c.awaitedOps else p.2.resumed)) c.freeSlots
    suspended := [], held := none, preempted := false }

/-- R255. ERET from the resident bank: every restored context resumes at its saved pc. -/
def State.resumeAll (s : State) (core : Nat) : State := (s.reinstateWork core).modCore core (·.resumeCtxs)

/-! ## The handler's YIELD, and its return (R250, R364) -/

/-- R250, R364. The resident handler yields the core: the item and its contexts are switched out. -/
def State.handlerYield (s : State) (core : Nat) : State :=
  s.modCore core (fun c =>
    let h := SMap.getD c.ctxs control Ctx.reset
    { c with
      resident := h.regs, preempted := false, suspended := [], held := none, current := none, ctxs := c.freeSlots
      away := match c.current with
        | some it => c.away ++ [(it, c.suspended, { h with pc := h.nextHead h.pc, waiting := false, gpos := 0 })]
        | none => c.away })

/-- R104, R364. The resident handler runs on, after its YIELD, for the first switched-out item of a job that may be restored; a core that
HALT had stopped runs again. -/
def State.handlerReturn (s : State) (core job : Nat) : State :=
  match (s.core core).away.find? (fun a => s.mayReturn core job a.1) with
  | none => s
  | some a => s.modCore core (fun c => { c with
      preempted := true, current := some a.1, suspended := a.2.1, job := job, held := none, stopped := false
      ctxs := SMap.set c.freeSlots control { a.2.2 with regs := c.resident }
      away := c.away.eraseP (fun b => s.mayReturn core job b.1) })

/-! ## Deliveries to a switched-out context (R254, R255) -/

/-- R254. The contexts of a slot of a core, suspended or switched out, whose class [0] stands in an image. -/
def Core.outs (c : Core) (slot : Nat) : List Ctx :=
  ((c.suspended ++ c.away.flatMap (·.2.1)).filter (fun p => p.1 == slot && p.2.saved.isSome)).map (·.2)

/-- R254. Bytes of a context's Rucksack written. -/
def State.rucksackWrite (s : State) (core : Nat) (x : Ctx) (off n v : Nat) : Option State :=
  match x.saved with
  | none => none
  | some base =>
    match s.copyBytes ⟨core, x.dom, true, x.xlbase⟩ (base.toNat + off : Nat) true n with
    | .ok (s1, ls, _) => some (s1.putBytes ls v)
    | .error _ => none

/-- R254. A byte of a context's Rucksack. -/
def State.rucksackRead (s : State) (core : Nat) (x : Ctx) (off n : Nat) : Nat :=
  match x.saved with
  | none => 0
  | some base =>
    match s.copyBytes ⟨core, x.dom, true, x.xlbase⟩ (base.toNat + off : Nat) false n with
    | .ok (s1, ls, _) => s1.bytesAt ls
    | .error _ => 0

/-- R254. The reply of a remote load written into the g image: the register's bytes, its tag cleared, its pending bit cleared. -/
def State.rucksackReply (s : State) (c : CtxId) (x : Ctx) (op : PendOp) (k : Nat) (v : BitVec 128) : State :=
  let d := op.kind.dest.toNat
  let main := op.bank == x.uia || decide (d < 24)
  let off := if main then 0x100 + 16 * d else 0x300 + 16 * (d - 24)
  let tags := s.rucksackRead c.core x 0x380 16
  let clear := fun (m n : Nat) => if m.testBit n then m - 2 ^ n else m
  let tags1 := clear (clear tags (if main then d else 32 + (d - 24))) (64 + d)
  match (if d = 0 then some s else s.rucksackWrite c.core x off 16 (op.replyReg v).bits.toNat).bind
      (fun t => t.rucksackWrite c.core x 0x380 16 tags1) with
  | none => s
  | some t => t.modOwner c x.uid (fun y => y.finishOp k op)

/-- R254, R375. A deposit for a switched-out context enters the spill buffer of its image, on behalf of that context; a full buffer
refuses it. -/
def State.spillDeposit (s : State) (c : CtxId) (x : Ctx) (v : Word) : Option State :=
  if x.spill.length < 64 then
    (s.rucksackWrite c.core x (0x3000 + 32 * x.spill.length) 32 (spillImage [(v, x.dom)])).map (fun t =>
      t.modOwner c x.uid (fun y => { y with spill := y.spill ++ [(v, x.dom)] }))
  else none

/-- R254. The `k`-th pending access of some contexts, with its context and its place there. -/
def pendingAt : List Ctx → Nat → Option (Ctx × Nat × PendOp)
  | [], _ => none
  | x :: rest, k => match x.pend.drop k with
    | op :: _ => some (x, k, op)
    | [] => pendingAt rest (k - x.pend.length)

/-- R254. RUCKSACK_DELIVERY to a slot's contexts whose images stand in memory: the reply of the `k`-th of their pending remote loads, or,
past these, a deposit for the first of them, the second, and so on. -/
def execRucksackDelivery (c : CtxId) (k : Nat) (v : BitVec 64) (s : State) : Out :=
  .next (
    let outs := (s.core c.core).outs c.slot
    match pendingAt outs k with
    | some (x, j, op) =>
      (match op.home with
        | .remote _ _ => if op.kind.reads && !op.kind.isUnit && s.sentOut x.uid op then s.rucksackReply c x op j (v.setWidth 128) else s
        | .local _ => s)
    | none =>
      match outs.drop (k - (outs.map (·.pend.length)).foldl (· + ·) 0) with
      | x :: _ => (s.spillDeposit c x v).getD s
      | [] => s)

/-- R88, R102, R103. The mailbox of a context takes a deposit now: it is enabled, D is clear, and the context is not within a group, all
of whose members issue in one cycle. -/
def Ctx.mailboxOpen (x : Ctx) : Bool := x.mbox.getLsbD 5 && x.mbox.toNat % 32 != 0 && !x.mbox.getLsbD 6 && x.gpos == 0

/-- R103. A deposit: the marked register of the main bank, D, and, with IE, UISTAT.MBP. -/
def Ctx.deposit (x : Ctx) (v : Word) : Ctx :=
  let d : BitVec 5 := BitVec.ofNat 5 (x.mbox.toNat % 32)
  let x1 := x.deliver false d (Reg.plain v)
  { x1 with mbox := x1.mbox ||| 0x40, mbp := x1.mbp || x1.mbox.getLsbD 7 }

/-- R103. MAILBOX_DEPOSIT: a deposit at a live context whose mailbox is open; otherwise a retry NACK, which changes nothing. -/
def execMailboxDeposit (c : CtxId) (v : BitVec 64) (s : State) : Out :=
  .next (if (s.ctx c).life = .live && (s.ctx c).mailboxOpen then s.modCtx c (·.deposit v) else s)

/-- R255. SPILL_DELIVERY: the oldest spilled deposit of a resumed context, once D is clear. -/
def execSpillDelivery (c : CtxId) (s : State) : Out :=
  .next (match (s.ctx c).spill with
    | [] => s
    | (v, _) :: rest =>
      if (s.ctx c).life = .live && (s.ctx c).mailboxOpen && !(s.core c.core).preempted then
        s.modCtx c (fun x => { x.deposit v with spill := rest })
      else s)

end Sys2Proof.Machine
end

