-- ==== Sys2Proof/Machine/ContextControl.lean ====
section
/-!
DEFINITION. Context control: majors 0x00 to 0x04 (R98, R104 to R107), the line that a context enters (R71, R72), user-level
interrupts (R100, R101), deferred traps (R424), the debugger, and heads that are no instruction (R80 to R83).
-/

namespace Sys2Proof.Machine

/-! ## Ends, waits and fences -/

/-- R104. NOP. -/
def execNop (s : State) : Out := .next s.advance

/-- R97. The context's counters are all zero. -/
def Ctx.quiet (c : Ctx) : Bool := c.cntLoad == 0 && c.cntStore == 0 && c.cntCopy == 0 && c.cntTile == 0

/-- A helper slot of a core: suspended under the resident handler, or in its place. -/
def State.slot (s : State) (core n : Nat) : Ctx := (SMap.find (s.core core).suspended n).getD (s.ctx ⟨core, n⟩)
/-- The state with a helper slot changed, wherever it is. -/
def State.modSlot (s : State) (core n : Nat) (f : Ctx → Ctx) : State :=
  match SMap.find (s.core core).suspended n with
  | some x => s.modCore core (fun c => { c with suspended := SMap.set c.suspended n (f x) })
  | none => s.modCtx ⟨core, n⟩ f
/-- R86, R93. The helper slots of a core that are not FREE, bit i for hi. -/
def State.busySlots (s : State) (core : Nat) : Nat :=
  (((List.range 10).filter (fun n => (s.slot core n).life != .free)).map (2 ^ ·)).foldl (· + ·) 0

/-- R86. The checks that the control context's HEND makes at issue. -/
def State.hendChecks (s : State) : Chk Unit := do
  s.needOperand (!s.myCore.vsqSusp) 0x810
  s.needOperand (!s.myCore.mxSusp) 0x818
  s.needOperand (!s.myCore.cpSusp) 0x830
  s.needOperand (decide (s.busySlots s.cur.core = 0)) (w64 (s.busySlots s.cur.core))

/-- R104. HEND's wait is over: counters zero, and for the control context the sequencer empty. -/
def State.hendReady (s : State) : Bool := s.me.quiet && (s.helper || s.myCore.seq.isEmpty)

/-- R85. A helper that has ended, with its exit value. -/
def Ctx.endHelper (c : Ctx) : Ctx :=
  { c with life := .ended, exitVal := (c.reg 1).word, waiting := false, gpos := 0, deferred := [], arrivals := [] }

/-- R86. The control context ends, and with it the core's item. -/
def State.endControl (s : State) : State :=
  s.endItem s.cur.core false

/-- R104. HEND. -/
def execHend (s : State) : Out :=
  if s.helper then .next (s.waitFor s.hendReady (s.modMe Ctx.endHelper))
  else s.finish (do
    s.hendChecks
    .ok (s.waitFor s.hendReady s.endControl))

/-- R364. The RUNNING slice of a core is DONE. -/
def Core.endSlice (c : Core) : Core :=
  { c with slices := c.slices.map (fun x => if x.running then { x with running := false, ready := false, grace := false } else x) }

/-- R104. YIELD: in the control context the slice ends, and its resident handler yields the core (R250); a helper stands aside
for at most 11 cycles. -/
def execYield (s : State) : Out :=
  .next (if s.helper then s.advance.modMe (fun c => { c with standAside := 11, passed := [] })
    else if s.myCore.preempted then s.handlerYield s.cur.core
    else s.advance.modMyCore (·.endSlice))

/-- R104, R154, R157. VSYNC; VLOOP's window begins anew. -/
def execVsync (s : State) : Out :=
  s.controlOnly (do
    s.needOperand (!s.myCore.vsqSusp) 0x810
    .ok (s.waitFor s.myCore.seq.isEmpty (s.advance.modMyCore (fun c => { c with window := [] }))))

/-- R72. IFENCE: once the context's stores are performed, its fetches see the lines as they stand. -/
def execIfence (s : State) : Out :=
  .next (s.waitFor (!s.me.writesPending) (s.advance.modMe (fun c => { c with lines := [], lineVa := noLine })))

/-- R233. SHFENCE: once the context's stores are performed, the core's shape-record cache is invalidated. -/
def execShfence (s : State) : Out :=
  .next (s.waitFor (!s.me.writesPending) (s.advance.modMyCore (fun c => { c with recCache := [] })))

/-- R104. Every earlier engine operation of the context has completed. -/
def State.enginesDone (s : State) : Bool :=
  s.me.cntCopy == 0 && s.me.cntTile == 0 &&
    (s.helper || (s.myCore.seq.isEmpty && s.myCore.mxq.isEmpty && s.myCore.copies.isEmpty))

/-- R104. XFENCE: also the context's stores are performed, so that later engine reads see them. -/
def execXfence (s : State) : Out := .next (s.waitFor (s.enginesDone && !s.me.writesPending) s.advance)

/-- R104. HALT: waits as HEND does, then stops the core. -/
def execHalt (s : State) : Out :=
  s.privileged (.ok (s.waitFor s.hendReady (s.advance.modMyCore (fun c => { c with stopped := true }))))

/-- R104, R384. SNAP. -/
def execSnap (s : State) : Out := .next s.snap.advance

/-- R104. BREAK: with DBGCTL.BE the core stops with pc at the BREAK; else it traps. -/
def execBreak (s : State) : Out :=
  .next (if s.me.dbgctl then s.modMyCore (fun c => { c with broken := true })
    else s.raise Cause.trap (BitVec.allOnes 64) s.openProg)

/-- R104. DEBUGGER_RESUME: a core stopped by HALT or BREAK runs again. -/
def execDebuggerResume (core : Nat) (s : State) : Out := .next (s.modCore core (fun c => { c with stopped := false, broken := false }))

/-- A count is within a bound; 15 places none. -/
def withinBound (n : Nat) (b : BitVec 4) : Bool := b == 15 || decide (n ≤ b.toNat)

/-- R98. WAIT's tile bound: a helper's counts as 15. -/
def State.tileBound (s : State) (tl : BitVec 4) : BitVec 4 := if s.helper then 15 else tl

/-- R97, R154. TILE as a WAIT sees it: the entries of a suspended sequencer count as not issued. -/
def State.tileCount (s : State) : Nat := s.cntsOf s.cur / 2 ^ 20

/-- R98. WAIT. A helper's bound on copies is no ground for a trap, its core's copy engine suspended or not (DESIGN CHOICE, log 110). -/
def execWait (ld st cp tl : BitVec 4) (s : State) : Out :=
  s.finish (do
    let tb := s.tileBound tl
    s.needOperand (tb == 15 || !s.myCore.mxSusp) 0x818
    s.needOperand (s.helper || cp == 15 || !s.myCore.cpSusp) 0x830
    let ready := withinBound s.me.cntLoad ld && withinBound s.me.cntStore st && withinBound s.me.cntCopy cp &&
      withinBound s.tileCount tb
    let done := if tb = 15 then s.advance else s.advance.modMe Ctx.mergePending
    .ok (s.waitFor ready done))

/-! ## Helpers (R105, R106) -/

/-- R105. The helper that HSTART starts. -/
def State.newHelper (s : State) (slot a b : Nat) (entry : Word) : Ctx :=
  let old := s.ctx ⟨s.cur.core, slot⟩
  let c : Ctx := { Ctx.reset with
    life := .live, uid := s.uidNext, pc := entry, dom := s.me.dom, tvec := s.me.tvec, xlbase := s.me.xlbase
    savebase := old.savebase, dbgctl := old.dbgctl }
  (c.setReg 1 (s.me.reg a)).setReg 31 (s.me.reg b)

/-- R105. HSTART. -/
def execHstart (slot : BitVec 4) (a b : BitVec 5) (off : BitVec 16) (s : State) : Out :=
  let entry := s.relTarget off
  s.controlTarget entry (do
    s.check (s.checkTarget s.cur entry) s.openProg
    s.needOperand ((s.slot s.cur.core slot.toNat).life == .free) (zext slot)
    let h := s.newHelper slot.toNat a.toNat b.toNat entry
    let u := s.targetTouched s.cur entry
    .ok ({ u with uidNext := u.uidNext + 1 }.advance.setCtx ⟨s.cur.core, slot.toNat⟩ h))

/-- R106. HJOIN. -/
def execHjoin (d slot : BitVec 5) (s : State) : Out :=
  s.controlOnly (do
    let h := s.slot s.cur.core slot.toNat
    s.needOperand (h.life != .free) (zext slot)
    .ok (s.waitFor (h.life != .live) ((s.modSlot s.cur.core slot.toNat Ctx.joined).setX d h.exitVal).advance))

/-- R106. HSTAT. -/
def execHstat (d slot : BitVec 5) (s : State) : Out :=
  s.controlOnly (.ok (s.setX d (w64 (s.slot s.cur.core slot.toNat).life.code)).advance)

/-- R106. HKILL: the helper stops at its next group boundary, at once where it stands at one. -/
def execHkill (slot : BitVec 5) (s : State) : Out :=
  s.controlOnly (
    let c : CtxId := ⟨s.cur.core, slot.toNat⟩
    let h := s.slot s.cur.core slot.toNat
    let t := s.advance
    .ok (if h.life != .live then t
      else if h.gpos == 0 && !s.myCore.preempted then t.killHelper c
      else t.modSlot s.cur.core slot.toNat (fun x => { x with killing := true })))

/-! ## Traps (R107, R424) -/

/-- R107. TRAP. -/
def execTrap (imm : BitVec 16) (s : State) : Out := .next (s.raise Cause.trap (zext imm) 0)
/-- R107. SYSCALL. -/
def execSyscall (imm : BitVec 16) (s : State) : Out := .next (s.raise Cause.syscall (zext imm) 0)

/-- The class that is taken after every other: ABORT_TOKEN, and BUDGET after it. -/
def DeferClass.late : DeferClass → Bool
  | .abort => true
  | .budget => true
  | _ => false

/-- R424. The deferred trap to be taken next: in order of detection, pending remote refusals in issue order, then
ABORT_TOKEN, then BUDGET. -/
def nextDeferred (l : List Deferred) : Option Deferred :=
  match l.find? (fun d => !d.cls.late) with
  | some d =>
    if d.cls = .remote then
      (l.filter (fun x => x.cls == .remote)).foldl (fun best x => match best with
        | some b => if x.seq < b.seq then some x else some b
        | none => some x) none
    else some d
  | none =>
    match l.find? (fun d => d.cls == .abort) with
    | some d => some d
    | none => l.head?

/-- The list without the first occurrence of an entry. -/
def dropDeferred (l : List Deferred) (d : Deferred) : List Deferred := l.eraseP (fun x => x == d)

/-- R419, R424. The deferred traps of a context that may be taken next: all of them, but in the handler of an ABORT_TOKEN no second
one, which is taken after ERET. -/
def Ctx.dueTraps (c : Ctx) : List Deferred := if c.tokenDepth = 0 then c.deferred else c.deferred.filter (fun d => d.cls != .abort)

/-- R424. A context takes deferred traps now: it is live, at a group boundary, and no trap that met others at its boundary waits for
ERET. -/
def Ctx.takesDeferred (c : Ctx) : Bool :=
  c.life == .live && !c.halted && c.gpos == 0 && !c.trapsHeld && !c.dueTraps.isEmpty

/-- R424. The context without the deferred trap that it takes: those not yet taken stay pending until ERET. -/
def Ctx.takeDeferred (c : Ctx) (d : Deferred) : Ctx :=
  let rest := dropDeferred c.deferred d
  { c with deferred := rest, trapsHeld := !rest.isEmpty, tokenDepth := if d.cls = .abort then c.depth + 1 else c.tokenDepth }

/-- R424. TAKE_DEFERRED_TRAP: a wait in progress is abandoned, and TRAPPC is the head at which the context stands. -/
def execTakeDeferredTrap (c : CtxId) (s : State) : Out :=
  .next (match if (s.ctx c).takesDeferred then nextDeferred (s.ctx c).dueTraps else none with
    | none => s
    | some d =>
      let s1 := (s.abandonWait c).modCtx c (·.takeDeferred d)
      s1.takeTrap c { d.trap with pc := (s1.ctx c).pc })

/-- R154, R189, R244. A core whose suspended engines resume, each unless its deferred trap is still to be taken. The g destination of a
function operation that failed does not await its result again (DESIGN CHOICE, log 109). -/
def Core.resumeEngines (c : Core) (x : Ctx) : Core :=
  let still := fun (k : DeferClass) => x.deferred.any (fun d => d.cls == k)
  let c1 := if still .vector then c else { c with vsqSusp := false }
  let c2 := if still .matrix then c1 else { c1 with mxSusp := false }
  if still .copy then c2 else c2.resumeCopies

/-- R104. The context after ERET: STATUS.UIE, UIA and PRIV from ESTATUS; an LDM or STM may resume (R141), and pending deferred traps
may be taken (R424). -/
def Ctx.leaveTrap (c : Ctx) (slot : Nat) : Ctx :=
  { c with
    pc := c.trapPc, uie := c.estatus.getLsbD 6 && slot == control, uia := c.estatus.getLsbD 7, priv := c.estatus.getLsbD 5
    resume := .armed, depth := c.depth - 1, trapsHeld := false, waiting := false
    tokenDepth := if c.depth ≤ c.tokenDepth then 0 else c.tokenDepth }

/-- R104, R255. ERET: from the resident bank it resumes every restored context, once the tables have room. -/
def execEret (s : State) : Out :=
  if !s.me.priv || (!s.helper && s.myCore.preempted && s.me.depth == 0) then
    s.privileged (.ok (s.waitFor (s.mayResume s.cur.core) (s.resumeAll s.cur.core)))
  else s.finishTarget s.me.trapPc (do
    s.check (s.checkTarget s.cur s.me.trapPc) s.openProg
    let s1 := (s.targetTouched s.cur s.me.trapPc).modMe (·.leaveTrap s.cur.slot)
    .ok (if s.helper then s1 else (s1.modMyCore (·.resumeEngines s.me)).wakeForQueue s.cur.core))

/-! ## User-level interrupts (R100, R101) -/

/-- The number under which a register that awaits a result counts after the banks are swapped. -/
def swapKey (n : Nat) : Nat := if n < 24 then n else if n < 32 then n + 32 else n - 32

/-- R100. A context with its banks of g24 to g31 swapped. -/
def Ctx.swapBanks (c : Ctx) : Ctx :=
  { c with
    regs := (List.range 8).foldl (fun m k => SMap.set m (24 + k) (SMap.getD c.shadow (24 + k) Reg.zero)) c.regs
    shadow := (List.range 8).foldl (fun m k => SMap.set m (24 + k) (SMap.getD c.regs (24 + k) Reg.zero)) c.shadow
    awaits := (c.awaits.map swapKey).foldl NSet.add [] }

/-- R100. EnterUserHandler. The handler runs in user mode, as R100 says below its steps, which leave PRIV out; UIRET, whose steps leave it
out too, does not set it again (DEDUCED, log 73). -/
def Ctx.enterUser (c : Ctx) : Ctx :=
  let s := c.swapBanks
  { (s.setReg 30 (Reg.plain c.pc)) with uia := true, priv := false, pc := c.uivec, waiting := false }

/-- R100. A control context enters its user handler at this group boundary. -/
def Ctx.takesUser (c : Ctx) : Bool :=
  c.life == .live && !c.halted && c.gpos == 0 && c.uie && !c.uia && (c.cpp || c.mbp)

/-- R100. ENTER_USER_HANDLER; where UIVEC fails R70 the context traps at the interrupted head. -/
def execEnterUserHandler (core : Nat) (s : State) : Out :=
  .next (
    let c : CtxId := ⟨core, control⟩
    let x := s.ctx c
    if !x.takesUser then s
    else
      let s1 := s.abandonWait c
      let s2 := s1.targetTouched c x.uivec
      match s1.checkTarget c x.uivec with
      | .error f => s2.takeTrap c (f.trap x.pc s.openProg)
      | .ok () => s2.modCtx c Ctx.enterUser)

/-- R101. The context after UIRET to the head in g30. -/
def Ctx.leaveUser (c : Ctx) : Ctx := { c.swapBanks with pc := (c.reg 30).word, uia := false, waiting := false }

/-- R101. UIRET. -/
def execUiret (s : State) : Out :=
  if s.me.uia then s.controlTarget (s.me.reg 30).word (do
    s.check (s.checkTarget s.cur (s.me.reg 30).word) s.openProg
    .ok ((s.targetTouched s.cur (s.me.reg 30).word).modMe Ctx.leaveUser))
  else s.controlOnly (.error (s.trapHere Cause.illegalOperand s.openVal s.openProg))

/-! ## The line that a context enters (R71, R72) -/

/-- R71, R72. A context with the line at a place fetched. -/
def Ctx.fetched (c : Ctx) (l : Loc) (line : BitVec 512) : Ctx :=
  { c with line := line, lineVa := lineAddr c.pc, lines := SMap.set c.lines (lineKey l) line }

/-- R71, R72. A context still executes the line that it fetched last, and has not fenced its fetches since. -/
def Ctx.inLine (c : Ctx) : Bool := c.lineVa == lineAddr c.pc

/-- R71. A context fetches the line of its program counter: a failure traps there, and so does a head index beyond the line. A line
beyond the translated space, which sequential execution enters past the last one, does not translate (DEDUCED, log 74). Within the line
that it executes a context needs no translation. A line homed on a fenced die is refused in the form of R136 (R381). -/
def State.enterLine (s : State) (c : CtxId) : State × Bool :=
  let x := s.ctx c
  let pc := x.pc
  let trap := fun (u : State) (cause : BitVec 8) =>
    (u.takeTrap c ⟨cause, pc, pc, if cause = Cause.linkDown then refusalProg pc else s.openProg⟩, false)
  if bits pc 63 55 ≠ 0 then trap s Cause.pageFault
  else match s.translate (s.who c) (lineAddr pc) .fetch with
  | .error f => if x.inLine then (s, true) else trap s f.cause
  | .ok (s1, l, _) =>
    let line := s1.chooseLine (SMap.find x.lines (lineKey l)) l
    if s1.homeFenced l then (if x.inLine then (s, true) else trap s1 Cause.linkDown)
    else if !lineFramed line then trap s1 Cause.illegalLine
    else if decide (1 ≤ headIndex pc) && decide (headIndex pc ≤ lineHeads line) then
      (({ s1 with freeN := s1.freeN + 1 }).modCtx c (·.fetched l line), true)
    else trap s1 Cause.badTarget

/-- R71. SEQUENTIAL_LINE_ENTRY: a context at head 1 of a line, at a group boundary, fetches and checks it. -/
def execSequentialLineEntry (c : CtxId) (s : State) : Out :=
  .next (
    let x := s.ctx c
    if x.life = .live ∧ !x.halted ∧ x.gpos = 0 ∧ headIndex x.pc = 1 then (s.enterLine c).1 else s)

/-! ## Heads that are no instruction (R79 to R83) -/

/-- R79. The minor field of a major. -/
inductive Minor where
  /-- X, of form H: how many values are assigned. -/
  | x (n : Nat)
  /-- T1.FN. -/
  | fn (n : Nat)
  | none
  deriving DecidableEq, Repr

/-- R79. The assigned majors, with the number of their minor values, which run from 0. -/
def majors : List (Nat × Minor) :=
  [ (0x00, .x 12), (0x01, .none), (0x02, .fn 1), (0x03, .fn 3), (0x04, .fn 2), (0x05, .fn 2), (0x06, .fn 2), (0x08, .fn 6)
  , (0x09, .fn 2), (0x0A, .fn 3), (0x0B, .fn 1), (0x10, .fn 27), (0x11, .fn 11), (0x12, .fn 11), (0x13, .fn 3)
  , (0x14, .fn 3), (0x15, .fn 10), (0x16, .fn 3), (0x18, .fn 9), (0x19, .fn 3), (0x20, .fn 8), (0x21, .fn 5)
  , (0x22, .fn 8), (0x23, .fn 2), (0x28, .fn 9), (0x29, .fn 2), (0x2A, .fn 2), (0x2B, .none), (0x30, .fn 16)
  , (0x31, .fn 10), (0x32, .fn 4), (0x33, .fn 6), (0x34, .fn 5), (0x35, .fn 6), (0x36, .fn 4), (0x37, .fn 3)
  , (0x38, .fn 3), (0x39, .fn 2), (0x3A, .fn 2), (0x40, .fn 10), (0x44, .fn 11), (0x45, .fn 8), (0x48, .fn 3)
  , (0x49, .fn 2), (0x4A, .fn 3), (0x4B, .fn 2), (0x50, .fn 4), (0x51, .fn 3), (0x58, .fn 3), (0x59, .fn 5)
  , (0x5A, .fn 1), (0x60, .fn 7) ]

/-- R81. Subcode 1 for a reserved major and 2 for an unassigned minor; none for a word that has neither fault. -/
def reservedSubcode (w : Word) : Option Nat :=
  match majors.find? (fun p => p.1 == bits w 12 6) with
  | none => some 1
  | some (_, .none) => none
  | some (_, .x n) => if bits w 5 0 < n then none else some 2
  | some (_, .fn n) => if bits w 31 26 < n then none else some 2

/-- R80 to R83. A head of a reserved major or an unassigned minor: ILLEGAL_OP with TRAPPC at the group's first head. -/
def execReservedMajorIssue (word : BitVec 64) (s : State) : Out :=
  .next (match reservedSubcode word with
    | none => s
    | some sub =>
      let first := s.me.gpos == 0
      s.takeTrap s.cur ⟨Cause.illegalOp, if first then s.me.pc else s.me.ghead, word, w64 sub + (if first then 0 else s.position)⟩)

end Sys2Proof.Machine
end

