-- ==== Sys2Proof/Machine/Hamper.lean ====
section
/-!
DEFINITION. The Hamper: the node instructions of major 0x51 (R315 to R318), placement by affinity and by stealing (R320 to
R322), and gangs (R323, R324).
-/

namespace Sys2Proof.Machine

/-! ## Records read with their granule tags (R137) -/

/-- Granules that an instruction or the scheduler reads in the memory of the package, each with its tag where `lc` lets
tagged values through. -/
def State.readGranules (s : State) (who : Who) (a : Word) (lc : Bool) : Nat → Res (State × List Reg)
  | 0 => .ok (s, [])
  | n + 1 => do
    let (s1, p) ← s.resolve who a 16 .load
    match p with
    | .remote _ _ => .error ⟨Cause.illegalOperand, a⟩
    | .local l => do
      ensure (!s1.homeFenced l) Cause.linkDown a
      ensure (!s1.poisonAt l 16) Cause.poisonConsumed a
      let (s2, rest) ← s1.readGranules who (a + 16) lc n
      .ok (s2, Reg.loaded (BitVec.ofNat 128 (s1.readAt l 16)) (s1.tagAt l && lc) :: rest)

/-- R291. The state that such a read leaves, up to the granule at which it fails. -/
def State.granulesTouched (s : State) (who : Who) (a : Word) : Nat → State
  | 0 => s
  | n + 1 =>
    let s1 := s.touched who a .load
    match s.resolve who a 16 .load with
    | .ok (_, .local l) => if s1.homeFenced l || s1.poisonAt l 16 then s1 else s1.granulesTouched who (a + 16) n
    | _ => s1

/-- R316, R361. The checks on the capability of a record of `n` bytes. -/
def State.recordCap (s : State) (a : BitVec 5) (n align : Nat) : Res Unit := do
  checkCapRights (s.g a) s.me.dom s.me.priv .load (s.x a)
  ensure ((s.g a).covers (s.x a).toNat n) Cause.capBounds (s.x a)
  ensure (decide ((s.x a).toNat % align = 0)) Cause.align (s.x a)

/-- R291. The state that the read of a record of `n` bytes leaves, whatever check fails after it. -/
def State.recordTouched (s : State) (a : BitVec 5) (n align : Nat) : State :=
  match s.recordCap a n align, s.readGranules (s.who s.cur) (s.x a) (s.g a).permLC (n / 16) with
  | .ok (), .ok (s1, _) => s1
  | .ok (), .error _ => s.granulesTouched (s.who s.cur) (s.x a) (n / 16)
  | .error _, _ => s

/-- Word `k` of a record. -/
def recWord (l : List Reg) (k : Nat) : Word :=
  let r := l.getD (k / 2) Reg.zero
  if k % 2 = 0 then r.word else BitVec.ofNat 64 (r.bits.toNat / 2 ^ 64)

/-! ## The node descriptor (R311) -/

/-- R311. Whether word `k` of a descriptor is in order. -/
def descriptorWord (l : List Reg) (k : Nat) : Bool :=
  let w := recWord l k
  let k1 := recWord l 1
  let signal := bits k1 1 0 == 1
  let gk := bits k1 3 2
  let gn := bits k1 7 4
  let nops := bits k1 10 8
  match k with
  | 0 => !signal || w == 0
  | 1 =>
    decide (bits w 1 0 ≤ 1) && decide (nops ≤ 4) && decide (bits w 15 11 = 0) && decide (bits w 63 32 = 0) &&
      (match gk with
        | 0 => gn == 0
        | 1 => decide (2 ≤ gn) && decide (gn ≤ 8)
        | 2 => decide (2 ≤ gn) && decide (gn ≤ 4)
        | _ => false) && (!signal || (gk == 0 && nops == 0))
  | 2 => true
  | _ =>
    if 4 ≤ k ∧ k < 12 then
      decide ((k - 4) / 2 < nops) || (w == 0 && (k % 2 == 1 || !(l.getD (k / 2) Reg.zero).tag))
    else w == 0

/-- R311, R316. The first of the 16 words of a descriptor that is out of order. -/
def badDescriptor (l : List Reg) : Option Nat := (List.range 16).find? (fun k => !descriptorWord l k)

/-- The graph and the phase in which what a context submits counts: the phase of its own item. -/
def State.itemPhase (s : State) : Option Nat := s.myCore.current.bind (·.phase)

/-- R316. The entry that a descriptor makes. -/
def State.newNode (s : State) (l : List Reg) (gen : Nat) (last : NodeLast) : Node :=
  let k := recWord l 1
  { Node.reset with
    state := .held, gen := gen, last := last, entry := recWord l 0, signal := bits k 1 0 == 1, gk := bits k 3 2, gn := bits k 7 4
    nops := bits k 10 8, graph := bits k 31 16, arg := recWord l 2, opnds := (l.drop 2).take 4, who := s.who s.cur
    tvec := s.me.tvec, job := s.myCore.job, phase := s.itemPhase }

/-- R316. The lowest FREE entry of a die. -/
def Die.firstFree (d : Die) : Option Nat := (List.range 4096).find? (fun i => (d.node i).state == .free)

/-- R313. A node is armed: WAITING, or READY where no predecessor is pending. -/
def Node.armed (n : Node) (age : BitVec 32) (cycle : Nat) : Node :=
  if n.count = 0 then n.enterReady age cycle else { n with state := .waiting }

/-- All ones: a reply that no resource was free. -/
def noResource : Word := BitVec.allOnes 64

/-- R315 to R316. NSUBMIT. As a release it acts once the context's earlier accesses are performed, and it reads the descriptor that they
leave (R135). -/
def execNsubmit (d a : BitVec 5) (arm : BitVec 1) (s : State) : Out :=
  if !s.me.pend.isEmpty then .next s.hold
  else s.finishOn (s.recordTouched a 128 16) (do
    let addr := s.x a
    s.check (s.recordCap a 128 16) (s.regProg a)
    let (s1, l) ← s.check (s.readGranules (s.who s.cur) addr (s.g a).permLC 8) (accessProg a false 0 false)
    match badDescriptor l with
    | some k => .error (s.trapHere Cause.illegalOperand (addr + w64 (8 * k)) s.openProg)
    | none =>
      let die := dieOf s.cur.core
      let dd := s1.die die
      match if s.terminated s.me.dom then none else dd.firstFree with
      | none => .ok (s1.awaitReply d noResource)
      | some i =>
        let old := dd.node i
        let n := s.newNode l old.gen old.last
        let n1 := if arm = 1 then n.armed dd.age s.cycle.toNat else n
        let s2 := (s1.modNode die i (fun _ => n1)).modJob n.job (fun j => j.countItem n.graph n.phase true)
        .ok (s2.awaitReply d (nodeHandle die old.gen i)))

/-! ## Handles (R310, R317) -/

/-- R310. What a handle names: an entry's present node, its previous one, or nothing known. -/
inductive HandleState where
  | current
  | behind (l : NodeLast)
  | expired
  deriving DecidableEq, Repr

/-- R310. The fields of a handle. -/
def handleIdx (h : Word) : Nat := bits h 11 0
def handleGen (h : Word) : Nat := bits h 27 12
/-- R317. The bits that must be zero are, and the die is the context's own. -/
def State.handleLegal (s : State) (h : Word) : Bool :=
  bits h 63 32 == 0 && bits h 29 28 == 0 && bits h 31 30 == dieOf s.cur.core

/-- The entry that a handle names, on the issuing core's die. -/
def State.handleNode (s : State) (h : Word) : Node := (s.die (dieOf s.cur.core)).node (handleIdx h)

/-- R310. -/
def State.handleState (s : State) (h : Word) : HandleState :=
  let n := s.handleNode h
  if handleGen h = n.gen then .current
  else if nextNodeGen (handleGen h) = n.gen ∧ 1 ≤ handleGen h ∧ n.last ≠ .none then .behind n.last
  else .expired

/-- R317. A current handle of another domain's node. -/
def State.handleForeign (s : State) (h : Word) : Bool :=
  let n := s.handleNode h
  s.handleState h == .current && n.state != .free && n.who.dom != s.me.dom

/-- The state with the entry of a handle changed. -/
def State.modHandle (s : State) (h : Word) (f : Node → Node) : State := s.modNode (dieOf s.cur.core) (handleIdx h) f

/-! ## NARM and NDONE (R317, R318) -/

/-- R317. The checks of NARM on its successor. -/
def State.armChecks (s : State) (h : Word) : Chk Unit := do
  s.needOperand (s.handleLegal h) h
  s.needOperand (s.handleState h != .expired) h
  s.needOperand (!s.handleForeign h) h
  s.needOperand (s.handleState h == .current && (s.handleNode h).state == .held) h

/-- R318. NARM. -/
def execNarm (a : BitVec 5) (s : State) : Out :=
  s.finish (do
    let h := s.x a
    s.armChecks h
    if !s.me.pend.isEmpty then .ok s.hold
    else
      let age := (s.die (dieOf s.cur.core)).age
      .ok ((s.modHandle h (·.armed age s.cycle.toNat)).awaitAck))

/-- R317. The checks of NARM.edge, in order, on the successor and the predecessor. -/
def State.edgeChecks (s : State) (h p : Word) : Chk Unit := do
  s.needOperand (s.handleLegal h) h
  s.needOperand (s.handleLegal p) p
  s.needOperand (s.handleState h != .expired) h
  s.needOperand (s.handleState p != .expired) p
  s.needOperand (!s.handleForeign h) h
  s.needOperand (!s.handleForeign p) p
  s.needOperand (s.handleState h == .current && (s.handleNode h).state == .held) h
  s.needOperand (handleIdx h != handleIdx p) h

/-- R318. The edge store of a die. -/
def edgeStore : Nat := 16384

/-- R318. What NARM.edge does with checked handles: the state and the reply. -/
def State.addEdge (s : State) (h p : Word) : Chk (State × Word) :=
  let die := dieOf s.cur.core
  let lost := .ok (s.failNodeItem die (handleIdx h), 2)
  match s.handleState p with
  | .behind .done => .ok (s, 0)
  | .behind _ => lost
  | .expired => .ok (s, 0)
  | .current =>
    if (s.handleNode p).state = .failed then lost
    else if edgeStore ≤ (s.die die).edges.length then .ok (s, 1)
    else if 65535 ≤ (s.handleNode h).count then .error (s.trapHere Cause.illegalOperand s.openVal s.openProg)
    else
      .ok ((s.modDie die (fun d => { d with edges := d.edges ++ [(handleIdx p, handleIdx h)] })).modHandle h
        (fun n => { n with count := n.count + 1 }), 0)

/-- R318. NARM.edge. -/
def execNarmEdge (d a b : BitVec 5) (s : State) : Out :=
  s.finish (do
    s.edgeChecks (s.x a) (s.x b)
    let (s1, r) ← s.addEdge (s.x a) (s.x b)
    .ok (if !s.me.pend.isEmpty then s.hold else (s1.setX d r).awaitAck))

/-- R318. NDONE: a READY SIGNAL node completes; a WAITING one is marked. -/
def State.signalNode (s : State) (h : Word) : State :=
  match (s.handleNode h).state with
  | .ready => s.completeNode (dieOf s.cur.core) (handleIdx h)
  | .waiting => s.modHandle h (fun n => { n with dp := true })
  | _ => s

/-- R317, R318. NDONE. -/
def execNdone (a : BitVec 5) (s : State) : Out :=
  s.finish (do
    let h := s.x a
    s.needOperand (s.handleLegal h) h
    s.needOperand (s.handleState h != .expired) h
    s.needOperand (!s.handleForeign h) h
    s.needOperand (s.handleState h == .current && (s.handleNode h).signal && (s.handleNode h).state != .held) h
    if !s.me.pend.isEmpty then .ok s.hold else .ok (s.signalNode h).awaitAck)

/-- R313. The code of a state. -/
def NodeState.code : NodeState → Nat
  | .free => 0
  | .held => 1
  | .waiting => 2
  | .ready => 3
  | .stealable => 4
  | .reserving => 5
  | .running => 6
  | .failed => 7

/-- R318. What NDONE.q reads. -/
def State.queryNode (s : State) (h : Word) : Word :=
  match s.handleState h with
  | .current =>
    if s.handleForeign h then 0
    else
      let n := s.handleNode h
      w64 (n.state.code + n.count * 2 ^ 8 + min 255 n.failures * 2 ^ 24)
  | .behind .done => 8
  | .behind _ => 9
  | .expired => 10

/-- R317, R318. NDONE.q. -/
def execNdoneQ (d a : BitVec 5) (rel : BitVec 1) (s : State) : Out :=
  s.finish (do
    let h := s.x a
    s.needOperand (s.handleLegal h) h
    let frees := rel == 1 && s.handleState h == .current && !s.handleForeign h && (s.handleNode h).state == .failed
    let s1 := if frees then s.loseNode (dieOf s.cur.core) (handleIdx h) else s
    .ok (s1.awaitReply d (s.queryNode h)))

/-! ## Affinity (R320) -/

/-- R320. The affinity core of a node on a die. -/
def Node.affinity (n : Node) (die : Nat) : Nat :=
  let o := n.opnds.getD 0 Reg.zero
  let a := o.word
  if n.nops = 0 ∨ !o.tag then n.who.core
  else if a.toNat < 2 ^ 55 then
    80 * die + (Nat.xor (Nat.xor (bits a 28 16) (bits a 41 29)) (bits a 54 42)) % 80
  else if isPeerAddr a ∧ dieOf (bits a 32 24) = die ∧ bits a 32 24 < Config.cores then bits a 32 24
  else n.who.core

/-! ## Idle cores (R321) -/

/-- A core is reserved for a gang other than `except`. -/
def Die.reservedFor (d : Die) (core : Nat) (except : Option Nat) : Bool :=
  d.reservations.any (fun r => some r.node != except && NSet.has r.granted core) ||
    d.drain.any (fun k => some k.node != except && k.cores.contains core)

/-- R363, R364. The scheduler gives a core to a job: it has no slices, or the job's slice runs there, or it is the READY one with the
earliest deadline among those that can take the core, and none runs. -/
def State.givenTo (s : State) (core job : Nat) : Bool :=
  let c := s.core core
  c.slices.isEmpty || c.slices.any (fun x => x.job == job && x.ready && (x.running || (!c.slices.any (·.running) &&
    c.slices.all (fun y => !(y.ready && y.before x && s.sliceFits core y)))))

/-- R104, R256, R357, R384. No item is on a core, what its engines did for a resident handler is done, and it is in service. -/
def State.vacant (s : State) (core : Nat) : Bool :=
  let c := s.core core
  c.current.isNone && (s.ctx ⟨core, control⟩).life != .live && !c.preempted && c.enginesIdle && !c.broken && !c.lnStop && !c.withdrawn

/-- R321. A core of a die is idle for a node; `self` lets the grants of the node itself pass. -/
def State.idleFor (s : State) (die core : Nat) (n : Node) (self : Option Nat) : Bool :=
  decide (dieOf core = die) && s.vacant core && s.jobHas n.job core && s.givenTo core n.job && !(s.die die).reservedFor core self &&
    s.clusterAllows (clusterOf core) n.who.dom none && !s.dfence.getLsbD die

/-- The cores of a die, and its clusters. -/
def dieCores (die : Nat) : List Nat := (List.range 80).map (80 * die + ·)
def dieClusters (die : Nat) : List Nat := (List.range 10).map (10 * die + ·)

/-! ## Starting a node (R312) -/

/-- R312. The item of a member of a node. -/
def Node.item (n : Node) (die i rank : Nat) : LaunchItem :=
  let set := fun (m : SMap Reg) (p : Nat × Reg) => SMap.set m p.1 p.2
  let regs := ([(1, Reg.plain n.arg), (2, Reg.plain (nodeHandle die n.gen i)), (3, Reg.plain (w64 rank))] ++
    (List.range 4).map (fun k => (4 + k, n.opnds.getD k Reg.zero))).foldl set []
  { job := n.job, launch := none, rank := rank, graph := n.graph, phase := n.phase, entry := n.entry, tvec := n.tvec
    xlbase := n.who.xlbase, live := 0, phrec := 0, dom := n.who.dom, regs := regs, images := [], node := some (die, i, n.gen)
    cancelled := false }

/-- R104, R364. The slice of a job on a core runs; a core that HALT had stopped runs again. -/
def Core.runSlice (c : Core) (job : Nat) : Core :=
  { c with stopped := false, slices := c.slices.map (fun x => if x.job = job ∧ x.ready then { x with running := true } else x) }

/-- R312, R321. A node runs on cores, its members in ascending core order. -/
def State.startNode (s : State) (die i : Nat) (cores : List Nat) : State :=
  let n := (s.die die).node i
  let s1 := s.modNode die i (fun n => { n with state := .running, members := cores, ended := [], backUntil := none })
  let s2 := s1.modDie die (·.commit i)
  (cores.zipIdx).foldl (fun t p => (t.modCore p.1 (·.runSlice n.job)).startItem p.1 (n.item die i p.2)) s2

/-- A COMPUTE node of a state that runs on one core and is not to fail. -/
def Node.single (n : Node) (st : NodeState) : Bool := n.state == st && !n.signal && n.gk == 0 && !n.doomed
/-- A gang that may be placed. -/
def Node.gang (n : Node) : Bool := n.gk != 0 && !n.doomed

/-- The entries of a die that are in use, with their indexes. -/
def Die.used (d : Die) : List (Nat × Node) := d.nodes.filter (fun p => p.2.state != .free)

/-- R325. One node comes before another: it became READY earlier, equal times by index. -/
def earlier (p q : Nat × Node) : Bool := decide (p.2.readyAt < q.2.readyAt) || (p.2.readyAt == q.2.readyAt && decide (p.1 < q.1))

/-- R323, R324. A gang of a die can commit: within 16 cycles every core of its reservation is still free, or every core of
its drain region is reserved. The cores. -/
def State.commitCores (s : State) (die i : Nat) : Option (List Nat) :=
  let d := s.die die
  let n := d.node i
  let drained := match d.drain with
    | some k => k.node == i && k.cores.all (fun c => NSet.has k.reserved c && s.idleFor die c n (some i))
    | none => false
  if drained then d.drain.map (·.cores)
  else
    match d.reservations.find? (fun r => r.node == i) with
    | some r =>
      if s.cycle.toNat ≤ r.since + 16 ∧ r.cores.all (fun c => NSet.has r.granted c && s.idleFor die c n (some i)) then some r.cores
      else none
    | none => none

/-- R321. Some gang of the die commits first. -/
def State.gangFirst (s : State) (die : Nat) : Bool := (s.die die).used.any (fun p => p.2.gang && (s.commitCores die p.1).isSome)

/-- R321. The READY single nodes whose affinity cores are idle. -/
def State.placeable (s : State) (die : Nat) : List (Nat × Node) :=
  (s.die die).used.filter (fun p => p.2.single .ready && s.idleFor die (p.2.affinity die) p.2 none)

/-- R321. NODE_PLACE_AFFINITY: the oldest READY single node whose affinity core is idle starts there. -/
def execNodePlaceAffinity (die n : Nat) (s : State) : Out :=
  .next (
    match (s.placeable die).find? (fun p => p.1 == n) with
    | none => s
    | some p =>
      if s.gangFirst die || (s.placeable die).any (fun q => earlier q p) then s
      else s.startNode die n [p.2.affinity die])

/-- R321, R322. NODE_AGEING: a READY COMPUTE node becomes STEALABLE after AGE cycles; two that reach AGE in one cycle are of equal age. -/
def execNodeAgeing (die n : Nat) (s : State) : Out :=
  .next (
    let k := (s.die die).node n
    if k.state = .ready ∧ !k.signal ∧ k.readyAt + k.age ≤ s.cycle.toNat then
      s.modNode die n (fun m => { m with state := .stealable, stealAt := k.readyAt + k.age })
    else s)

/-- R321. The lowest-numbered idle core of a die for a node. -/
def State.lowestIdle (s : State) (die : Nat) (n : Node) : Option Nat := (dieCores die).find? (fun c => s.idleFor die c n none)

/-- R322. A READY single node has reached AGE: it is STEALABLE in this cycle, whether or not its NODE_AGEING has come. -/
def Node.due (n : Node) (cycle : Nat) : Bool := n.single .ready && decide (n.readyAt + n.age ≤ cycle)
/-- R321. The cycle in which a node became STEALABLE. -/
def Node.stealTime (n : Node) : Nat := if n.state = .stealable then n.stealAt else n.readyAt + n.age
/-- R321. One node is older for a steal than another; equal ages go to the lower index. -/
def olderFor (p q : Nat × Node) : Bool :=
  decide (p.2.stealTime < q.2.stealTime) || (p.2.stealTime == q.2.stealTime && decide (p.1 < q.1))

/-- R321. The older of two STEALABLE nodes; equal ages go to the lower index. -/
def olderSteal (best : Option (Nat × Node)) (p : Nat × Node) : Option (Nat × Node) :=
  match best with
  | some b => if olderFor p b then some p else some b
  | none => some p

/-- R321, R325. NODE_STEAL: the core, the lowest-numbered idle one of a job, takes the oldest STEALABLE node of that job. A node that has
reached AGE counts: none that became STEALABLE later passes it. -/
def execNodeSteal (die core : Nat) (s : State) : Out :=
  .next (
    let all := (s.die die).used.filter (fun p => p.2.single .stealable || p.2.due s.cycle.toNat)
    let mine := all.filter (fun p => p.2.state == .stealable && s.lowestIdle die p.2 == some core &&
      !(all.any (fun q => q.2.job == p.2.job && olderFor q p)))
    match if s.gangFirst die || !(s.placeable die).isEmpty then none else mine.foldl olderSteal none with
    | none => s
    | some p => s.startNode die p.1 [core])

/-- R313, R360. NODE_COMPLETION: every member of a RUNNING node has ended; a cancelled one leaves as LOST. -/
def execNodeCompletion (die n : Nat) (s : State) : Out :=
  .next (
    let k := (s.die die).node n
    if k.state = .running ∧ !k.doomed ∧ k.members.all (fun c => NSet.has k.ended c) then
      (if k.lost then s.loseNode die n else s.completeNode die n)
    else s)

/-! ## Gangs (R323) -/

/-- R323. The clusters of a die from the affinity cluster upwards, wrapping. -/
def Node.clusterOrder (n : Node) (die : Nat) : List Nat :=
  (List.range 10).map (fun k => 10 * die + (clusterOf (n.affinity die) - 10 * die + k) % 10)

/-- The cores of a cluster. -/
def clusterCores (cl : Nat) : List Nat := (List.range 8).map (8 * cl + ·)

/-- R323. The clusters of a run that starts at a cluster, within its die. -/
def runFrom (die cl gn : Nat) : Option (List Nat) :=
  if cl + gn ≤ 10 * die + 10 then some ((List.range gn).map (cl + ·)) else none

/-- R323. The candidate region of a gang at a cluster. -/
def State.regionAt (s : State) (die : Nat) (n : Node) (cl : Nat) : Option (List Nat) :=
  if n.gk = 1 then
    let idle := (clusterCores cl).filter (fun c => s.idleFor die c n none)
    if n.gn ≤ idle.length then some (idle.take n.gn) else none
  else
    match runFrom die cl n.gn with
    | none => none
    | some cls =>
      let cores := cls.flatMap clusterCores
      if cores.all (fun c => s.idleFor die c n none) then some cores else none

/-- R323. The first cluster, in candidate order, with a region. -/
def State.candidate (s : State) (die : Nat) (n : Node) : Option (Nat × List Nat) :=
  (n.clusterOrder die).findSome? (fun cl => (s.regionAt die n cl).map (fun r => (cl, r)))

/-- R323. GANG_RESERVE_BEGIN: the region, named by its first cluster, is the gang's candidate region; its cores, idle, grant. -/
def execGangReserveBegin (die n region : Nat) (s : State) : Out :=
  .next (
    let d := s.die die
    let k := d.node n
    if !(k.gang && (k.state == .ready || k.state == .stealable) && k.backUntil.isNone &&
        decide (d.reservations.length < 4) && d.drain.all (fun x => x.node != n)) then s
    else
      match s.candidate die k with
      | none => s
      | some (cl, cores) =>
        if cl ≠ region then s
        else
          (s.modDie die (fun d => { d with
            reservations := d.reservations ++ [⟨n, cores, cores.foldl NSet.add [], s.cycle.toNat⟩] })).modNode die n
            (fun m => { m with state := .reserving, came := m.state }))

/-- R323, R324. GANG_COMMIT. -/
def execGangCommit (die n : Nat) (s : State) : Out :=
  .next (match s.commitCores die n with
    | none => s
    | some cores => if ((s.die die).node n).gang then s.startNode die n cores else s)

/-- R323. The back-off after `f` failures in a row. -/
def backoff (f : Nat) : Nat := 64 * 2 ^ min (f - 1) 5

/-- R323. A reservation has failed: every grant is released, and the gang backs off in the state it came from. -/
def Node.denied (n : Node) (cycle : Nat) : Node :=
  { n with state := n.came, failures := n.failures + 1, backUntil := some (cycle + backoff (n.failures + 1)) }

/-- R323. GANG_RESERVE_FAIL: 16 cycles have passed, or a core of the region is no longer idle. -/
def execGangReserveFail (die n : Nat) (s : State) : Out :=
  .next (match (s.die die).reservations.find? (fun r => r.node == n) with
    | none => s
    | some _ =>
      if (s.commitCores die n).isSome then s
      else
        (s.modDie die (fun d => { d with reservations := d.reservations.filter (fun r => r.node != n) })).modNode die n
          (·.denied s.cycle.toNat))

/-- R323. GANG_BACKOFF_EXPIRY. -/
def execGangBackoffExpiry (die n : Nat) (s : State) : Out :=
  .next (match ((s.die die).node n).backUntil with
    | some t => if t ≤ s.cycle.toNat then s.modNode die n (fun m => { m with backUntil := none }) else s
    | none => s)

/-! ## Drain (R324) -/

/-- R324. The number of tasks on a core. -/
def Core.tasks (c : Core) : Nat := (if c.current.isSome then 1 else 0) + c.away.length

/-- R324. The cores of a list that belong to a job, those with the fewest tasks first. -/
def State.byTasks (s : State) (job : Nat) (cores : List Nat) : List Nat :=
  let mine := cores.filter (fun c => s.jobHas job c)
  (List.range 32).flatMap (fun k => mine.filter (fun c => (s.core c).tasks == k))

/-- R324. The region that a gang could drain at a cluster, with its number of tasks. -/
def State.drainAt (s : State) (die : Nat) (n : Node) (cl : Nat) : Option (Nat × Nat × List Nat) :=
  let load := fun (l : List Nat) => (l.map (fun c => (s.core c).tasks)).foldl (· + ·) 0
  if n.gk = 1 then
    let l := (s.byTasks n.job (clusterCores cl)).take n.gn
    if l.length = n.gn then some (cl, load l, (clusterCores cl).filter l.contains) else none
  else
    match runFrom die cl n.gn with
    | none => none
    | some cls =>
      let cores := cls.flatMap clusterCores
      if cores.all (fun c => s.jobHas n.job c) then some (cl, load cores, cores) else none

/-- R324. The drain region of a gang: the fewest tasks, the earlier in candidate order where equal. -/
def State.drainRegion (s : State) (die : Nat) (n : Node) : Option (Nat × Nat × List Nat) :=
  ((n.clusterOrder die).filterMap (s.drainAt die n)).foldl (fun best r => match best with
    | some b => if r.2.1 < b.2.1 then some r else some b
    | none => some r) none

/-- R324. A gang meets the drain condition. -/
def Die.drainDue (d : Die) (n : Node) (cycle : Nat) : Bool :=
  n.gang && (n.state == .ready || n.state == .stealable || n.state == .reserving) &&
    (decide (d.rmax.toNat ≤ n.failures) || decide (n.readyAt + d.dmul.toNat * n.age ≤ cycle))

/-- R324. A gang that enters drain leaves its reservation. -/
def Node.leaveReserve (n : Node) : Node := if n.state = .reserving then { n with state := n.came } else n

/-- R324. GANG_DRAIN_START: the region, named by its first cluster, is the gang's drain region; while the die drains for another
gang, the gang waits in turn. -/
def execGangDrainStart (die n region : Nat) (s : State) : Out :=
  .next (
    let d := s.die die
    let k := d.node n
    if !d.drainDue k s.cycle.toNat || d.drain.any (fun x => x.node == n) then s
    else if d.drain.isSome || d.drainQ.head?.any (· != n) then
      if d.drainQ.contains n then s else s.modDie die (fun d => { d with drainQ := d.drainQ ++ [n] })
    else
      match s.drainRegion die k with
      | none => s
      | some (cl, _, cores) =>
        if cl ≠ region then s
        else
          (s.modDie die (fun d => { d.release n with drain := some ⟨n, k.gen, cores, []⟩ })).modNode die n Node.leaveReserve)

/-- R324. DRAIN_CORE_RESERVE: a core of the drain region whose context has ended, or is switched out, is reserved. -/
def execDrainCoreReserve (die core : Nat) (s : State) : Out :=
  .next (match (s.die die).drain with
    | none => s
    | some k =>
      let c := s.core core
      if k.cores.contains core ∧ c.current.isNone ∧ (s.ctx ⟨core, control⟩).life ≠ .live ∧ !c.preempted then
        s.modDie die (fun d => { d with drain := some { k with reserved := NSet.add k.reserved core } })
      else s)

end Sys2Proof.Machine
end

