-- ==== Sys2Proof/Machine/Ramble.lean ====
section
/-!
DEFINITION. The proximity index (file 14): INDEX records (R327), the partition storage (R328), distances and ranking (R331,
R332), search, insert and delete (R333 to R337), the instructions of major 0x50 (R338 to R343), and the steps of the Ramble
units: admission, search, reply and failure (R337, R344, R345).
-/

namespace Sys2Proof.Machine

/-! ## INDEX records (R327) -/

/-- R327. The element format of a partition. -/
def IndexRec.elem (p : IndexRec) : Elem := (elemOfTag p.fmt).getD .int8
/-- R327. Bytes of an element, and of a vector. -/
def IndexRec.elemBytes (p : IndexRec) : Nat := p.elem.width / 8
def IndexRec.vb (p : IndexRec) : Nat := p.dim * p.elemBytes
/-- R327. Bytes of an entry. -/
def IndexRec.es (p : IndexRec) : Nat := 64 * ((16 + 4 * p.dmax + p.vb + 63) / 64)
/-- R328. The address of entry `i`. -/
def IndexRec.entryAddr (p : IndexRec) (i : Nat) : Nat := p.base + 64 + p.es * i

/-- R327. The fields of an INDEX record. -/
def indexOf (r : BitVec 512) : IndexRec :=
  { fmt := recBits r 8 5, rd := r.getLsbD 14, wr := r.getLsbD 15, dot := r.getLsbD 16, unit := recBits r 17 3
    dom := recBits r 20 6, dim := recBits r 32 11, dmax := recBits r 43 7, width := recBits r 50 9, base := recBits r 64 64
    capacity := recBits r 128 32 }

/-- R327. The record is a well-formed INDEX record. -/
def indexWellFormed (r : BitVec 512) : Bool :=
  let p := indexOf r
  recKind r == 2 && [1, 2, 3, 11, 12].contains p.fmt && recBits r 13 1 == 0 && recBits r 26 6 == 0 && recBits r 59 5 == 0 &&
    recBits r 160 352 == 0 && decide (1 ≤ p.dim) && decide (p.dim ≤ 1024) && decide (1 ≤ p.dmax) && decide (p.dmax ≤ 64) &&
    decide (1 ≤ p.width) && decide (p.width ≤ 256) && decide (1 ≤ p.capacity) && decide (p.capacity ≤ 2 ^ 24) &&
    decide (p.vb ≤ 1024) && decide (p.base % 64 = 0) && decide (p.base + 64 + p.capacity * p.es ≤ 2 ^ 55)

/-! ## Distance and order (R331, R332) -/

/-- The bits of element `i` of a vector given by its bytes. -/
def IndexRec.elemBits (p : IndexRec) (v i : Nat) : Nat := v / 2 ^ (p.elem.width * i) % 2 ^ p.elem.width

/-- The exact value of an element, `m * 2^e`; none for a NaN or an infinity. -/
def IndexRec.elemVal (p : IndexRec) (v i : Nat) : Option (Int × Int) :=
  match p.elem.fmt with
  | none => some (p.elem.intVal (p.elemBits v i), 0)
  | some f =>
    match f.value (p.elemBits v i) with
    | .fin n m e => some (if n then -(m : Int) else m, e)
    | _ => none

/-- The sum of two exact values `m * 2^e`. -/
def sumExact (a b : Int × Int) : Int × Int :=
  addExact (decide (a.1 < 0)) a.1.natAbs a.2 (decide (b.1 < 0)) b.1.natAbs b.2

/-- R331. What one element contributes to a distance. -/
def IndexRec.term (p : IndexRec) (q x : Int × Int) : Int × Int :=
  if p.dot then (-(q.1 * x.1), q.2 + x.2)
  else
    let d := sumExact q (-x.1, x.2)
    (d.1 * d.1, 2 * d.2)

/-- R331. The exact distance of two vectors; none where an element is a NaN or an infinity. -/
def IndexRec.exactDist (p : IndexRec) (q x : Nat) : Option (Int × Int) :=
  (List.range p.dim).foldl (fun acc i =>
    match acc, p.elemVal q i, p.elemVal x i with
    | some a, some b, some c => some (sumExact a (p.term b c))
    | _, _, _ => none) (some (0, 0))

/-- A distance: the key by which it compares (R332), and its bits. -/
structure Dist where
  key : Int
  bits : Nat
  deriving DecidableEq, Repr

/-- R332. The order of FP32 distances as integers, -0 and +0 equal. -/
def floatKey (b : Nat) : Int := if b / 2 ^ 31 % 2 = 1 then -((b % 2 ^ 31 : Nat) : Int) else (b % 2 ^ 31 : Nat)


/-- R331. The bits of a float distance: rounded once in RNE; an overflow is +∞. -/
def floatDist (v : Int × Int) : Nat :=
  let (r, fl) := fp32.round .rne false (decide (v.1 < 0)) v.1.natAbs v.2 false
  if fl &&& ovf != 0 then fp32.infBits false else r

/-- R331. Dist(q, x). -/
def IndexRec.dist (p : IndexRec) (q x : Nat) : Dist :=
  match p.exactDist q x with
  | none => let b := (Config.openDistance q x).toNat; ⟨floatKey b, b⟩
  | some v =>
    if p.elem.isFloat then let b := floatDist v; ⟨floatKey b, b⟩
    else ⟨v.1 * 2 ^ v.2.toNat, Elem.int32.ofInt (v.1 * 2 ^ v.2.toNat)⟩

/-- An entry found, with its distance. -/
structure Found where
  id : Nat
  dist : Dist
  deriving DecidableEq, Repr

/-- R332. The key (distance, id) of one is less than another's. -/
def Found.before (a b : Found) : Bool := decide (a.dist.key < b.dist.key) || (a.dist.key == b.dist.key && decide (a.id < b.id))

/-- R332. An entry inserted into a ranked list. -/
def rankInsert (x : Found) : List Found → List Found
  | [] => [x]
  | y :: l => if x.before y then x :: y :: l else y :: rankInsert x l
/-- R332. A list ranked. -/
def ranked (l : List Found) : List Found := l.foldl (fun acc x => rankInsert x acc) []

/-! ## Partition storage (R328, R329) -/

/-- R328. An entry. -/
structure Vertex where
  cstamp : Nat
  dstamp : Nat
  edges : List Nat
  vec : Nat
  deriving DecidableEq, Repr

/-- R328. A partition as an operation has read it: the header, and of the entries below NEXT the stamps and the contents that it has
needed. -/
structure Partition where
  stamp : Nat
  next : Nat
  live : Nat
  stamps : SMap (Nat × Nat)
  entries : SMap Vertex
  deriving DecidableEq, Repr

/-- R333. What an algorithm needs to read next: the stamps of an entry, or all of it. -/
inductive Need where
  | stamps (i : Nat)
  | entry (i : Nat)
  deriving DecidableEq, Repr

/-- R329, R344. Bytes of the storage read; a poisoned granule fails with its lowest byte. -/
def State.readStorage (s : State) (who : Who) (a n : Nat) : Res (State × Nat) := do
  let (s1, ls, _) ← s.copyBytes who a false n
  match ls.find? (fun l => s1.poisonAt l 1) with
  | some l => .error ⟨Cause.poisonConsumed, w64 l.va⟩
  | none => .ok (s1, s1.bytesAt ls)

/-- R328. The header. -/
def State.readHeader (s : State) (who : Who) (p : IndexRec) : Res (State × Partition) := do
  let (s1, h) ← s.readStorage who p.base 64
  .ok (s1, ⟨h % 2 ^ 32, h / 2 ^ 32 % 2 ^ 32, h / 2 ^ 64 % 2 ^ 32, [], []⟩)

/-- R328, R344. An entry below NEXT; a corrupt one fails with its address. -/
def State.readVertex (s : State) (who : Who) (p : IndexRec) (next i : Nat) : Res (State × Vertex) := do
  let a := p.entryAddr i
  let (s1, b) ← s.readStorage who a p.es
  let ne := part b 8 1
  let slots := (List.range p.dmax).map (fun k => part b (16 + 4 * k) 4)
  let sound := decide (part b 9 7 = 0) && decide (ne ≤ p.dmax) && (slots.take ne).all (fun e => decide (e < next)) &&
    (slots.drop ne).all (fun e => e == 0) && decide (b / 2 ^ (8 * (16 + 4 * p.dmax + p.vb)) = 0)
  ensure sound Cause.illegalOperand (w64 a)
  .ok (s1, ⟨part b 0 4, part b 4 4, slots.take ne, part b (16 + 4 * p.dmax) p.vb⟩)

/-- R333. What an algorithm needs is read. -/
def State.readNeed (s : State) (who : Who) (p : IndexRec) (h : Partition) : Need → Res (State × Partition)
  | .stamps i => do
    let (s1, b) ← s.readStorage who (p.entryAddr i) 8
    .ok (s1, { h with stamps := SMap.set h.stamps i (part b 0 4, part b 4 4) })
  | .entry i => do
    let (s1, v) ← s.readVertex who p h.next i
    .ok (s1, { h with stamps := SMap.set h.stamps i (v.cstamp, v.dstamp), entries := SMap.set h.entries i v })

/-- R333, R335, R344. An algorithm over a partition, which reads of it what it needs and no more: `fuel` reads at most, two for each
entry. -/
def State.readFor {α : Type} (s : State) (who : Who) (p : IndexRec) (f : Partition → Except Need α) : Nat → Partition →
    Res (State × Partition × α)
  | 0, h => .error ⟨Cause.illegalOperand, w64 (p.base + h.next)⟩
  | fuel + 1, h =>
    match f h with
    | .ok x => .ok (s, h, x)
    | .error n => do
      let (s1, h1) ← s.readNeed who p h n
      s1.readFor who p f fuel h1

/-- R333. The reads that an algorithm can need, and its end. -/
def Partition.fuel (h : Partition) : Nat := 2 * h.next + 1

/-- R328. The bytes 8 on of an entry with given edges, as one number, and how many. -/
def edgeBytes (p : IndexRec) (edges : List Nat) : Nat × Nat := (edges.length + 2 ^ 64 * packBytes 4 edges, 8 + 4 * p.dmax)

/-- R328. The bytes of the header before its reserved ones. -/
def Partition.header (h : Partition) : Nat := packBytes 4 [h.stamp, h.next, h.live]

/-- R344. The places of writes, each an address, a length and a number. -/
def State.storagePlaces (s : State) (who : Who) : List (Nat × Nat × Nat) → Res (State × List (List Loc × Nat))
  | [] => .ok (s, [])
  | (a, n, v) :: rest => do
    let (s1, ls, _) ← s.copyBytes who a true n
    let (s2, more) ← s1.storagePlaces who rest
    .ok (s2, (ls, v) :: more)

/-- R329, R344. Writes of a mutation, made whole once every translation has succeeded. -/
def State.writeStorage (s : State) (who : Who) (ws : List (Nat × Nat × Nat)) : Res State := do
  let (s1, ps) ← s.storagePlaces who ws
  let s2 := ps.foldl (fun t p => t.putBytes p.1 p.2) s1
  .ok (s2.clearCovered (ps.flatMap (fun p => p.1.map (fun l => (l, 1)))))

/-! ## Search (R330, R333, R334) -/

/-- The stamps of an entry, and the entry. -/
def Partition.stampsOf (h : Partition) (i : Nat) : Except Need (Nat × Nat) := (SMap.find h.stamps i).elim (.error (.stamps i)) .ok
def Partition.entry (h : Partition) (i : Nat) : Except Need Vertex := (SMap.find h.entries i).elim (.error (.entry i)) .ok

/-- R330. An entry is visible, and live, at a stamp. -/
def Partition.isVisible (h : Partition) (stamp i : Nat) : Except Need Bool :=
  if h.next ≤ i then .ok false else (h.stampsOf i).map (fun x => decide (x.1 ≤ stamp))
def Partition.isLive (h : Partition) (stamp i : Nat) : Except Need Bool :=
  if h.next ≤ i then .ok false
  else (h.stampsOf i).map (fun x => decide (x.1 ≤ stamp) && (x.2 == 0 || decide (stamp < x.2)))

/-- The ids of a list that are live at a stamp, in its order. -/
def Partition.liveOf (h : Partition) (stamp : Nat) : List Nat → Except Need (List Nat)
  | [] => .ok []
  | i :: rest => do
    let b ← h.isLive stamp i
    let l ← h.liveOf stamp rest
    .ok (if b then i :: l else l)
/-- R330. The ids live at a stamp, rising. -/
def Partition.liveIds (h : Partition) (stamp : Nat) : Except Need (List Nat) := h.liveOf stamp (List.range h.next)
/-- R328, R330. LiveCount(S): the header's LIVE at the latest stamp. -/
def Partition.liveCount (h : Partition) (stamp : Nat) : Except Need Nat :=
  if stamp = h.stamp then .ok h.live else (h.liveIds stamp).map (·.length)

/-- R333. A traversal: the visited set V, the expanded set X and the beam B. -/
structure Walk where
  visited : SMap Dist
  done : NSet
  beam : List Found
  deriving DecidableEq, Repr

/-- R333. Visit(m). -/
def Walk.visit (w : Walk) (h : Partition) (p : IndexRec) (q m : Nat) : Except Need Walk := do
  let v ← h.entry m
  let d := p.dist q v.vec
  .ok { w with visited := SMap.set w.visited m d, beam := (rankInsert ⟨m, d⟩ w.beam).take p.width }

/-- R333. The edges of an expanded entry, in list order. -/
def Walk.follow (w : Walk) (h : Partition) (p : IndexRec) (q stamp : Nat) : List Nat → Except Need Walk
  | [] => .ok w
  | m :: rest => do
    let b ← if (SMap.find w.visited m).isNone then h.isVisible stamp m else .ok false
    let w1 ← if b then w.visit h p q m else .ok w
    w1.follow h p q stamp rest

/-- R333. The traversal, `fuel` expansions at most; every entry is expanded once. -/
def Walk.run (w : Walk) (h : Partition) (p : IndexRec) (q stamp : Nat) : Nat → Except Need Walk
  | 0 => .ok w
  | n + 1 =>
    match w.beam.find? (fun f => !NSet.has w.done f.id) with
    | none => .ok w
    | some f => do
      let v ← h.entry f.id
      let w1 ← { w with done := NSet.add w.done f.id }.follow h p q stamp v.edges
      w1.run h p q stamp n

/-- Distances of listed ids added to a visited set. -/
def addDistances (h : Partition) (p : IndexRec) (q : Nat) : SMap Dist → List Nat → Except Need (SMap Dist)
  | v, [] => .ok v
  | v, e :: rest => do
    let x ← h.entry e
    addDistances h p q (SMap.set v e (p.dist q x.vec)) rest

/-- R333. The fallback, from an id upward: `need` more live entries join V. -/
def Partition.fallback (h : Partition) (p : IndexRec) (q stamp : Nat) : Nat → Nat → Nat → SMap Dist → Except Need (SMap Dist)
  | 0, _, _, v => .ok v
  | _ + 1, _, 0, v => .ok v
  | fuel + 1, e, need + 1, v => do
    let b ← h.isLive stamp e
    if b && (SMap.find v e).isNone then do
      let v1 ← addDistances h p q v [e]
      h.fallback p q stamp fuel (e + 1) need v1
    else h.fallback p q stamp fuel (e + 1) (need + 1) v

/-- R333. Search(q, S, exact): the visited set. -/
def Partition.search (h : Partition) (p : IndexRec) (q stamp : Nat) (exact : Bool) : Except Need (SMap Dist) := do
  let count ← if exact then .ok 0 else h.liveCount stamp
  if exact || decide (count ≤ p.width) then do
    let ids ← h.liveIds stamp
    addDistances h p q [] ids
  else do
    let root ← h.isVisible stamp 0
    let w0 : Walk := ⟨[], [], []⟩
    let w1 ← if root then w0.visit h p q 0 else .ok w0
    let w ← w1.run h p q stamp h.next
    let have_ ← h.liveOf stamp (w.visited.map (·.1))
    h.fallback p q stamp h.next 0 (min count p.width - have_.length) w.visited

/-- R334. The result of a search. -/
def Partition.result (h : Partition) (p : IndexRec) (q stamp : Nat) (exact : Bool) : Except Need (List Found) := do
  let v ← h.search p q stamp exact
  let ids ← h.liveOf stamp (v.map (·.1))
  .ok (ranked ((v.filter (fun e => ids.contains e.1)).map (fun e => ⟨e.1, e.2⟩)))

/-! ## Insert and delete (R335, R336, R341) -/

/-- Numbers in rising order. -/
def sortNat (l : List Nat) : List Nat :=
  l.foldl (fun acc x => (acc.filter (fun y => decide (y ≤ x))) ++ x :: acc.filter (fun y => decide (x < y))) []

/-- R335. The distances from a vector of listed entries, `x` being that of the new entry `n`. -/
def Partition.distances (h : Partition) (p : IndexRec) (n x from_ : Nat) : List Nat → Except Need (List Found)
  | [] => .ok []
  | e :: rest => do
    let v ← if e = n then .ok x else (h.entry e).map (·.vec)
    let l ← h.distances p n x from_ rest
    .ok (⟨e, p.dist from_ v⟩ :: l)

/-- R335. The edges of an entry with the new entry `n` among them, `x` its vector. -/
def Partition.replaced (h : Partition) (p : IndexRec) (n x m stamp : Nat) : Except Need (List Nat) := do
  let v ← h.entry m
  if v.edges.length < p.dmax then .ok (v.edges ++ [n])
  else do
    let live ← h.liveOf stamp v.edges
    let order ← h.distances p n x v.vec (live ++ [n])
    .ok (((ranked order).map (·.id) ++ sortNat (v.edges.filter (fun e => !live.contains e))).take p.dmax)

/-- R335. The reverse edges of a new entry: its neighbours, each with its new edges. -/
def Partition.reversed (h : Partition) (p : IndexRec) (n x stamp : Nat) : List Nat → Except Need (List (Nat × List Nat))
  | [] => .ok []
  | m :: rest => do
    let e ← h.replaced p n x m stamp
    let l ← h.reversed p n x stamp rest
    .ok ((m, e) :: l)

/-- R335. What STVEC of vector `x` makes of the graph: the new entry's edges, and its neighbours'. -/
def Partition.insertion (h : Partition) (p : IndexRec) (x : Nat) : Except Need (List Nat × List (Nat × List Nat)) := do
  let r ← h.result p x h.stamp false
  let mine := (r.take p.dmax).map (·.id)
  let others ← h.reversed p h.next x (h.stamp + 1) mine
  .ok (mine, others)

/-- R341. What a refused operation replies. -/
def allOnes64 : Word := 0xFFFFFFFFFFFFFFFF

/-- R335. STVEC of vector `x`. -/
def State.insertVector (s : State) (who : Who) (p : IndexRec) (x : Nat) : Res (State × Word) := do
  let (s1, h0) ← s.readHeader who p
  if h0.next = p.capacity ∨ h0.stamp = 2 ^ 32 - 1 then .ok (s1, allOnes64)
  else do
    let (s2, h, mine, others) ← s1.readFor who p (fun h => h.insertion p x) h0.fuel h0
    let n := h.next
    let stamp := h.stamp + 1
    let (eb, en) := edgeBytes p mine
    let entry := stamp + 2 ^ 64 * (eb + 2 ^ (8 * en) * x)
    let changed := others.map (fun m =>
      let (b, k) := edgeBytes p m.2
      (p.entryAddr m.1 + 8, k, b))
    let head : Partition := ⟨stamp, n + 1, h.live + 1, [], []⟩
    let s3 ← s2.writeStorage who ((p.entryAddr n, p.es, entry) :: changed ++ [(p.base, 12, head.header)])
    .ok (s3, w64 (stamp * 2 ^ 32 + n))

/-- R336, R341. DELVEC of an id. -/
def State.deleteVector (s : State) (who : Who) (p : IndexRec) (id : Nat) : Res (State × Word) := do
  let (s1, h) ← s.readHeader who p
  if h.next ≤ id then .ok (s1, 0xFFFFFFFFFFFFFFFE)
  else do
    let (s2, v) ← s1.readVertex who p h.next id
    if v.dstamp ≠ 0 then .ok (s2, 0)
    else if h.stamp = 2 ^ 32 - 1 then .ok (s2, allOnes64)
    else do
      let head : Partition := ⟨h.stamp + 1, h.next, h.live - 1, [], []⟩
      let s3 ← s2.writeStorage who [(p.entryAddr id + 4, 4, h.stamp + 1), (p.base, 12, head.header)]
      .ok (s3, w64 (h.stamp + 1))

/-- R341. A result record. -/
def foundRecord (f : Found) : Word := w64 (f.dist.bits * 2 ^ 32 + f.id)
/-- R341. The sentinel. -/
def IndexRec.sentinel (p : IndexRec) : Word :=
  w64 ((if p.elem.isFloat then 0x7F800000 else 0x7FFFFFFF) * 2 ^ 32 + 0xFFFFFFFF)

/-- R333, R341. LDNEAR at a stamp: its reply and its records. -/
def State.searchVector (s : State) (who : Who) (p : IndexRec) (q stamp k : Nat) (exact : Bool) :
    Res (State × Word × List Word) := do
  let (s1, h0) ← s.readHeader who p
  let (s2, _, r) ← s1.readFor who p (fun h => h.result p q stamp exact) h0.fuel h0
  let c := min k r.length
  .ok (s2, w64 (stamp * 2 ^ 32 + c), (r.take c).map foundRecord ++ List.replicate (k - c) p.sentinel)

/-! ## Issue (R338 to R343) -/

/-- R295. Scope .pkg. -/
def scopePkg : BitVec 3 := 4

/-- R340 checks 1 to 3. The record of an index, for a use that needs RD or WR. -/
def State.indexRecord (s : State) (ix : BitVec 16) (write : Bool) : Chk (State × IndexRec) := do
  let (s1, r) ← s.check (s.recordOf (s.recordReader s.cur) ix.toNat) s.openProg
  s.needOperand (indexWellFormed r) (zext ix)
  let p := indexOf r
  s.need (p.dom == s.me.dom.toNat || p.dom == 63 || s.me.priv) Cause.capDomain (zext ix) s.openProg
  s.need (if write then p.wr else p.rd) Cause.shapeRights (zext ix) s.openProg
  .ok (s1, p)

/-- R340 check 5. R133 steps 1, 2 and 5 of `n` bytes from an address on: the region. -/
def State.unitSpan (s : State) (a : BitVec 5) (addr : Word) (n align : Nat) (use : CapUse) : Res Region := do
  checkCap (s.g a) s.me.dom s.me.priv use addr n align
  let r ← decodeRegion s.cur.core addr
  match r with
  | .fabric => .ok .fabric
  | _ => do
    let span : Span := ⟨addr.toNat, addr.toNat + n⟩
    ensure (span.region s.cur.core).isSome Cause.pageFault addr
    let l : Loc := match r with
      | .spad c o => ⟨.spad c, o, addr.toNat⟩
      | .cmem c o => ⟨.cmem c, o, addr.toNat⟩
      | _ => ⟨.main, 0, addr.toNat⟩
    ensure (!s.locked s.cur.core l n use.writes) Cause.rangeLocked addr
    .ok r

/-- R340 check 6. The place of a region that a vector may lie in. -/
def unitPlaceOf (core : Nat) (addr : Word) (cluster : Bool) : Region → Option Loc
  | .spad c o => if c = core ∧ isOwnSpad addr then some ⟨.spad c, o, addr.toNat⟩ else none
  | .cmem c o => if cluster then some ⟨.cmem c, o, addr.toNat⟩ else none
  | _ => none

/-- R340 check 6. The place of a vector. -/
def State.vectorPlace (s : State) (addr : Word) (r : Region) (cluster : Bool) : Chk Loc :=
  (unitPlaceOf s.cur.core addr cluster r).elim (.error (s.trapHere Cause.illegalOperand addr s.openProg)) .ok

/-- R340 checks 6 to 8. The vector's place and bytes. -/
def State.copiedVector (s : State) (p : IndexRec) (addr : Word) (r : Region) (cluster : Bool) : Chk (Loc × Nat) := do
  match unitPlaceOf s.cur.core addr cluster r with
  | none => .error (s.trapHere Cause.illegalOperand addr s.openProg)
  | some l =>
    match s.firstPoisoned l p.vb with
    | some k => .error (s.trapHere Cause.poisonConsumed (addr + w64 k) s.openProg)
    | none =>
      let v := s.readAt l p.vb
      match (List.range p.dim).find? (fun i => (p.elemVal v i).isNone) with
      | some i => .error (s.trapHere Cause.illegalOperand (addr + w64 (i * p.elemBytes)) s.openProg)
      | none => .ok (l, v)

/-- R342, R343. The pending access of an operation of a Ramble unit: a change is a release, a search an acquire. -/
def State.unitOp (s : State) (d : BitVec 5) (mutation : Bool) : PendOp :=
  { s.pendOp (.unit d mutation) (.remote 0 0) 0 Reg.zero with scope := scopePkg, acq := !mutation, rel := mutation }

/-- R342. An operation goes to its unit: it counts in LOAD, and g[D] awaits its reply. -/
def State.sendUnit (s : State) (d : BitVec 5) (p : IndexRec) (k : RambleKind) (vec area : Nat) : State :=
  let mutation := match k with
    | .stvec => true
    | .delvec _ => true
    | _ => false
  let op : RambleOp := { ctx := s.cur, uid := s.me.uid, head := s.me.pc, seq := s.me.pendSeq, d := d, bank := s.me.uia
                         rec_ := p, kind := k, vec := vec, area := area, who := { s.who s.cur with priv := true }
                         phase := .arrived }
  let s1 := s.modMe (·.issue [s.unitOp d mutation])
  { s1 with units := SMap.set s1.units p.unit (SMap.getD s1.units p.unit [] ++ [op]) }.advance

/-- R135, R298 case 1. An earlier access of the context that a read of a place must follow is not yet performed. -/
def State.vectorWaits (s : State) (l : Loc) (n : Nat) : Bool :=
  heldBack (s.me.pend.map (·.swapped)) (s.pendOp (.load 0 false) (.local l) n Reg.zero)

/-- R335, R340, R343. STVEC: its context's earlier stores to the vector are performed before checks 7 and 8 look at it (R135). -/
def execStvec (d a : BitVec 5) (ix : BitVec 16) (s : State) : Out :=
  s.finishOn (s.recordRead (s.recordReader s.cur) ix.toNat) (do
    let (s1, p) ← s.indexRecord ix true
    let addr := s.x a
    let r ← s.check (s.unitSpan a addr p.vb p.elemBytes .load) (accessProg a false 0 false)
    let l ← s.vectorPlace addr r true
    if s.me.writesPending || s.vectorWaits l p.vb then .ok s.hold
    else do
      let (_, v) ← s.copiedVector p addr r true
      .ok (s1.sendUnit d p .stvec v 0))

/-- R339. The fields of a control word: K, CUR and S; none where a reserved bit is set or K is out of range. -/
def nearControl (w : Word) : Option (Nat × Bool × Nat) :=
  let k := bits w 46 40
  if bits w 63 47 = 0 ∧ bits w 39 33 = 0 ∧ 1 ≤ k ∧ k ≤ 64 then some (k, w.getLsbD 32, bits w 31 0) else none

/-- R339. The address of a query block's result area. -/
def IndexRec.areaAddr (p : IndexRec) (addr : Word) : Word := addr + w64 (16 * ((p.vb + 15) / 16))

/-- R333, R339, R340. LDNEAR. -/
def execLdnear (exact : BitVec 1) (d a b : BitVec 5) (ix : BitVec 16) (s : State) : Out :=
  s.finishOn (s.recordRead (s.recordReader s.cur) ix.toNat) (do
    let (s1, p) ← s.indexRecord ix false
    match nearControl (s.x b) with
    | none => .error (s.trapHere Cause.illegalOperand (s.x b) s.openProg)
    | some (k, cur, stamp) => do
      let addr := s.x a
      let area := p.areaAddr addr
      let r ← s.check (s.unitSpan a addr p.vb 16 .load) (accessProg a false 0 false)
      let ra ← s.check (s.unitSpan a area (8 * k) 1 .store) (accessProg a true 0 false)
      match unitPlaceOf s.cur.core addr false r, unitPlaceOf s.cur.core area false ra with
      | some l, some al =>
        let writes := s.pendOp .store (.local al) (8 * k) Reg.zero
        if s.vectorWaits l p.vb || s.me.pend.any (·.sameByte writes) then .ok s.hold
        else do
          let (_, v) ← s.copiedVector p addr r false
          .ok (s1.sendUnit d p (.ldnear (exact == 1) cur k stamp) v al.off)
      | none, _ => .error (s.trapHere Cause.illegalOperand addr s.openProg)
      | _, none => .error (s.trapHere Cause.illegalOperand area s.openProg))

/-- R336, R339, R343. DELVEC. -/
def execDelvec (d b : BitVec 5) (ix : BitVec 16) (s : State) : Out :=
  s.finishOn (s.recordRead (s.recordReader s.cur) ix.toNat) (do
    let (s1, p) ← s.indexRecord ix true
    s.needOperand (decide (bits (s.x b) 63 32 = 0)) (s.x b)
    if s.me.writesPending then .ok s.hold
    else .ok (s1.sendUnit d p (.delvec (bits (s.x b) 31 0)) 0 0))

/-- R341. IXSTAMP. -/
def execIxstamp (d : BitVec 5) (ix : BitVec 16) (s : State) : Out :=
  s.finishOn (s.recordRead (s.recordReader s.cur) ix.toNat) (do
    let (s1, p) ← s.indexRecord ix false
    .ok (s1.sendUnit d p .ixstamp 0 0))

/-! ## The units (R337, R342, R344, R345) -/

/-- The operations of a unit. -/
def State.unitOps (s : State) (u : Nat) : List RambleOp := SMap.getD s.units u []
/-- The state with a unit's operations replaced. -/
def State.setUnit (s : State) (u : Nat) (l : List RambleOp) : State := { s with units := SMap.set s.units u l }
/-- The state with the `k`-th operation of a unit changed. -/
def State.modUnit (s : State) (u k : Nat) (f : RambleOp → RambleOp) : State :=
  s.setUnit u ((s.unitOps u).take k ++ (match (s.unitOps u).drop k with
    | [] => []
    | o :: rest => f o :: rest))
/-- The state with the `k`-th operation of a unit gone. -/
def State.dropUnit (s : State) (u k : Nat) : State := s.setUnit u ((s.unitOps u).eraseIdx k)

def RamblePhase.isArrived : RamblePhase → Bool
  | .arrived => true
  | _ => false
def RamblePhase.isAdmitted : RamblePhase → Bool
  | .admitted _ => true
  | _ => false

/-- The operation changes its partition. -/
def RambleOp.mutates (o : RambleOp) : Bool := match o.kind with
  | .stvec => true
  | .delvec _ => true
  | _ => false

/-- The context of an operation, wherever it is. -/
def State.unitCtx (s : State) (o : RambleOp) : Option Ctx := (s.owner o.ctx o.uid).filter (fun x => x.life == .live)
/-- R345. The slot in which the context of an operation is: on the core that issued it, or on the one that has restored it. -/
def State.unitSlot (s : State) (o : RambleOp) : CtxId := s.whereIs o.ctx o.uid

/-- The place of an operation among its context's pending accesses. -/
def RambleOp.pendIndex (o : RambleOp) (c : Ctx) : Option Nat := c.pend.findIdx? (fun x => x.seq == o.seq && x.kind.isUnit)

/-- R298, R343. No earlier access of its context holds an operation back; one whose context is gone waits for none. -/
def State.unitFree (s : State) (o : RambleOp) : Bool :=
  match s.unitCtx o with
  | none => true
  | some c =>
    match o.pendIndex c with
    | none => true
    | some k => c.mayPerform k true

/-- R381. A unit lies on a fenced die. -/
def State.unitFenced (s : State) (u : Nat) : Bool := s.dfence.getLsbD (u / 2)

/-- R337, R342. The `k`-th operation of a unit is the next that the unit may start on its partition. -/
def State.mayAdmit (s : State) (u k : Nat) (o : RambleOp) : Bool :=
  let ops := s.unitOps u
  let same := fun x : RambleOp => x.rec_.base == o.rec_.base
  o.phase.isArrived && !s.unitFenced u && decide ((ops.filter (fun x => !x.phase.isArrived)).length < 64) && s.unitFree o &&
    (ops.take k).all (fun x => !(same x && x.phase.isArrived && x.ctx == o.ctx && x.uid == o.uid)) &&
    (!o.mutates || ops.all (fun x => !(same x && x.phase.isAdmitted)))

/-- R335 to R337, R341. What an operation's admission does: the state, and the phase it leaves. -/
def State.admitOp (s : State) (o : RambleOp) : Res (State × RamblePhase) :=
  match o.kind with
  | .stvec => do
    let (s1, w) ← s.insertVector o.who o.rec_ o.vec
    .ok (s1, .finished w [])
  | .delvec id => do
    let (s1, w) ← s.deleteVector o.who o.rec_ id
    .ok (s1, .finished w [])
  | .ixstamp => do
    let (s1, h) ← s.readHeader o.who o.rec_
    .ok (s1, .finished (w64 (h.next * 2 ^ 32 + h.stamp)) [])
  | .ldnear _ cur _ stamp => do
    let (s1, h) ← s.readHeader o.who o.rec_
    let at_ := if cur then h.stamp else stamp
    if h.stamp < at_ then .ok (s1, .finished allOnes64 []) else .ok (s1, .admitted at_)

/-- R333. What the run of an admitted search does. -/
def State.runSearch (s : State) (o : RambleOp) : Res (State × RamblePhase) :=
  match o.kind, o.phase with
  | .ldnear exact _ k _, .admitted stamp => do
    let (s1, w, recs) ← s.searchVector o.who o.rec_ o.vec stamp k exact
    .ok (s1, .finished w recs)
  | _, _ => .ok (s, o.phase)

/-- The `k`-th operation of a unit. -/
def State.unitOpAt (s : State) (u k : Nat) : Option RambleOp := ((s.unitOps u).drop k).head?

/-- R337. RAMBLE_ADMIT: the unit admits an operation; a change is applied whole. -/
def execRambleAdmit (u k : Nat) (s : State) : Out :=
  .next (match s.unitOpAt u k with
    | none => s
    | some o =>
      if !s.mayAdmit u k o then s
      else
        match s.admitOp o with
        | .error _ => s
        | .ok (s1, ph) => s1.modUnit u k (fun x => { x with phase := ph }))

/-- R333. RAMBLE_SEARCH: an admitted search runs at its stamp. -/
def execRambleSearch (u k : Nat) (s : State) : Out :=
  .next (match s.unitOpAt u k with
    | none => s
    | some o =>
      if !o.phase.isAdmitted || s.unitFenced u then s
      else
        match s.runSearch o with
        | .error _ => s
        | .ok (s1, ph) => s1.modUnit u k (fun x => { x with phase := ph }))

/-- R134, R342. The records written to the own scratchpad of the issuing context. -/
def State.writeRecords (s : State) (core area : Nat) (recs : List Word) : State :=
  s.writeAt ⟨.spad core, area, 0⟩ (8 * recs.length) (packBytes 8 (recs.map (·.toNat)))

/-- R341, R342, R345. A reply is written, its records first, on the core where its context is. -/
def State.unitReply (s : State) (o : RambleOp) (w : Word) (recs : List Word) : State :=
  let c := s.unitSlot o
  let s1 := s.writeRecords c.core o.area recs
  match o.pendIndex (s1.ctx c) with
  | none => s1
  | some i => s1.modCtx c (fun x =>
      match x.pend.drop i with
      | [] => x
      | op :: _ => (x.finishOp i op).deliver op.bank op.kind.dest (Reg.plain w))

/-- R136, R344. A failure is reported as a deferred trap; g[D] keeps its value and is no longer awaited. -/
def State.unitFailure (s : State) (o : RambleOp) (cause : BitVec 8) (val : Word) : State :=
  let c := s.unitSlot o
  match o.pendIndex (s.ctx c) with
  | none => s
  | some i =>
    match (s.ctx c).pend.drop i with
    | [] => s
    | op :: _ => s.refuse c i op cause val

/-- R345. An operation's end reaches its context where that is present; it is held while the context is switched out, and
discarded when the context has ended. -/
def State.unitEnd (s : State) (u k : Nat) (o : RambleOp) (deliver : State → State) (hold : RamblePhase) : State :=
  if s.present (s.unitSlot o) o.uid then deliver (s.dropUnit u k)
  else if (s.unitCtx o).isSome then s.modUnit u k (fun x => { x with phase := hold })
  else s.dropUnit u k

/-- R341, R342, R345. RAMBLE_REPLY. -/
def execRambleReply (u k : Nat) (s : State) : Out :=
  .next (match s.unitOpAt u k with
    | none => s
    | some o =>
      match o.phase with
      | .finished w recs => s.unitEnd u k o (fun t => t.unitReply o w recs) (.held w recs)
      | _ => s)

/-- R344, R381. The failure of an operation whose turn has come, if it fails; in a unit of a fenced die nothing completes. -/
def State.unitFails (s : State) (u k : Nat) (o : RambleOp) : Option Fail :=
  match if s.unitFenced u && (o.phase.isArrived || o.phase.isAdmitted) then .error ⟨Cause.linkDown, w64 o.rec_.base⟩
    else if o.phase.isAdmitted then s.runSearch o
    else if s.mayAdmit u k o then s.admitOp o
    else .ok (s, o.phase) with
  | .ok _ => none
  | .error f => some f

/-- R344. RAMBLE_FAIL. -/
def execRambleFail (u k : Nat) (s : State) : Out :=
  .next (match s.unitOpAt u k with
    | none => s
    | some o =>
      match s.unitFails u k o with
      | none => s
      | some f => s.unitEnd u k o (fun t => t.unitFailure o f.cause f.val) (.failed f.cause f.val))

/-- R345. What is held for a context: the unit, the place in it and the operation. -/
def State.heldReply (s : State) (c : CtxId) : Option (Nat × Nat × RambleOp) :=
  (List.range 8).findSome? (fun u =>
    ((s.unitOps u).zipIdx.find? (fun p => s.unitSlot p.1 == c && s.present c p.1.uid && (match p.1.phase with
      | .held _ _ => true
      | .failed _ _ => true
      | _ => false))).map (fun p => (u, p.2, p.1)))

/-- R345. RAMBLE_HELD_REPLY_DELIVERY: a restored context receives a held reply. -/
def execRambleHeldReplyDelivery (c : CtxId) (s : State) : Out :=
  .next (match s.heldReply c with
    | none => s
    | some (u, k, o) =>
      match o.phase with
      | .held w recs => (s.dropUnit u k).unitReply o w recs
      | .failed cause val => (s.dropUnit u k).unitFailure o cause val
      | _ => s)

end Sys2Proof.Machine
end

