-- ==== Sys2Proof/Machine/Stile.lean ====
section
/-!
DEFINITION. The Stile (file 17): barrier records (R366), Stile domains (R367), completion and the selector (R368), arrivals and
waits (R369, R370), phase records and schedules (R371), and slot transfers (R372 to R374).
-/

namespace Sys2Proof.Machine

/-! ## Barrier records (R366) -/

/-- R366. The fields of a barrier's record. -/
structure BarRec where
  nf : Bool
  sched : Nat
  cx : Bool
  lt : Bool
  sv : Bool
  sdom : Nat
  beats : Nat
  arrived : Nat
  expected : Nat
  gen : Nat
  deriving DecidableEq, Repr

/-- R366. The record of 128 bits. -/
def barRecOf (r : Nat) : BarRec :=
  let f := fun (lo n : Nat) => r / 2 ^ lo % 2 ^ n
  { nf := r.testBit 107, sched := f 104 3, cx := r.testBit 102, lt := r.testBit 101, sv := r.testBit 100, sdom := f 96 4
    beats := f 64 32, arrived := f 48 16, expected := f 32 16, gen := f 0 32 }

/-- R366. The bits of a record. -/
def BarRec.bits (b : BarRec) : Nat :=
  let bit := fun (x : Bool) (k : Nat) => if x then 2 ^ k else 0
  bit b.nf 107 + b.sched % 8 * 2 ^ 104 + bit b.cx 102 + bit b.lt 101 + bit b.sv 100 + b.sdom % 16 * 2 ^ 96 +
    b.beats % 2 ^ 32 * 2 ^ 64 + b.arrived % 2 ^ 16 * 2 ^ 48 + b.expected % 2 ^ 16 * 2 ^ 32 + b.gen % 2 ^ 32

/-- R366. The record of the barrier whose object lies at a physical address. -/
def State.barRec (s : State) (k : Nat) : BarRec := barRecOf (s.main.read (k + 16) 16)
/-- R366. The Stile updates a record at its home. -/
def State.modBarRec (s : State) (k : Nat) (f : BarRec → BarRec) : State := s.physWrite (k + 16) 16 (f (s.barRec k)).bits
/-- What the Stile keeps of a barrier. -/
def State.bar (s : State) (k : Nat) : Bar := SMap.getD s.bars k Bar.reset
/-- The state with what the Stile keeps of a barrier changed. -/
def State.modBar (s : State) (k : Nat) (f : Bar → Bar) : State := { s with bars := SMap.set s.bars k (f (s.bar k)) }

/-- R368. A communication step. -/
def BarRec.communicates (b : BarRec) : Bool := b.gen % 2 == 1

/-- R367. A Stile domain. -/
def State.stileDom (s : State) (d : Nat) : StileDom := SMap.getD s.stile d StileDom.reset
/-- R367. A core belongs to a Stile domain. -/
def StileDom.has (d : StileDom) (core : Nat) : Bool := (SMap.getD d.mask (core / 64) (0 : Word)).getLsbD (core % 64)

/-- R366. The entry of a BARRIER object: KIND 3, and every byte outside the record zero. -/
def barrierWellFormed (r : BitVec 512) : Bool := recKind r == 3 && recBits r 8 120 == 0 && recBits r 256 256 == 0

/-- R366. The barriers of a core's object table, by the physical addresses of their objects. -/
def State.tableBars (s : State) (core : Nat) : List Nat :=
  (List.range (s.core core).otlimit).filterMap (fun i =>
    match s.translate (s.recordReader ⟨core, control⟩) ((s.core core).recordAddr i) .load with
    | .ok (s1, l, _) => if l.space = .main ∧ barrierWellFormed (BitVec.ofNat 512 (s1.readAt l 64)) then some l.off else none
    | .error _ => none)

/-- R360, R366, R377. Every barrier whose domain is a job's and has a core as a member gets CX: those that the Stile has met, and those
that stand in some core's object table. -/
def State.memberLost (s : State) (core job : Nat) : State :=
  (s.bars.map (·.1) ++ s.cores.flatMap (fun p => s.tableBars p.1)).eraseDups.foldl (fun t k =>
    let d := t.stileDom (t.barRec k).sdom
    if d.job.toNat = job ∧ d.has core then t.modBarRec k (fun r => { r with cx := true }) else t) s
/-- The same for the jobs of several items of a core. -/
def State.membersLost (s : State) (core : Nat) (items : List LaunchItem) : State :=
  (items.map (·.job)).eraseDups.foldl (fun t j => t.memberLost core j) s

/-! ## Phase records and schedules (R371) -/

/-- R371. A schedule entry. -/
structure Sched where
  src : Nat
  dst : Nat
  slot : Nat
  max : Nat
  deriving DecidableEq, Repr

/-- R371. A phase record: BAR, SLOG, and each schedule's address and LIMIT. -/
structure PhaseRec where
  bar : Nat
  slog : Nat
  scheds : List (Word × Nat)
  deriving DecidableEq, Repr

/-- R357, R371. Bytes at a translated address, read for a launch; none where they cannot be read. -/
def State.readLaunch (s : State) (who : Who) (a : Word) (n : Nat) : Option (State × Nat) :=
  if a.toNat + n ≤ 2 ^ 55 then
    match s.readStorage who a.toNat n with
    | .ok r => some r
    | .error _ => none
  else none

/-- R291. The state that such a read leaves, up to the page in which it fails. -/
def State.launchRead (s : State) (who : Who) (a : Word) (n : Nat) : State :=
  if a.toNat + n ≤ 2 ^ 55 then
    match s.copyBytes who a.toNat false n with
    | .ok (s1, _, _) => s1
    | .error f => (List.range (f.val.toNat / 65536 - a.toNat / 65536 + 1)).foldl (fun t k =>
        t.touched who (w64 (max a.toNat (65536 * (a.toNat / 65536 + k)))) .load) s
  else s

/-- Numbers that ascend. -/
def ascends : List Nat → Bool
  | [] => true
  | [_] => true
  | x :: y :: l => decide (x < y) && ascends (y :: l)

/-- R371. The fields of a phase record's bytes. -/
def phaseFields (b : Nat) : PhaseRec :=
  ⟨part b 0 2, b / 2 ^ 16 % 16, (List.range 8).map (fun k => (w64 (part b (64 + 16 * k) 8), part b (72 + 16 * k) 8))⟩

/-- R368, R371. A phase record, where it is not malformed. -/
def phaseOf (a : Word) (b : Nat) : Option PhaseRec :=
  let p := phaseFields b
  if a.toNat % 64 = 0 ∧ part b 0 8 / 2 ^ 20 = 0 ∧ part b 8 56 = 0 ∧ 6 ≤ p.slog ∧ p.slog ≤ 12 ∧
      ascends ((p.scheds.filter (fun x => x.1 != 0)).map (·.2)) then some p
  else none

/-- R371. The bytes of the phase record of a launch; none where it has none, or it cannot be read. -/
def State.phaseBytes (s : State) (who : Who) (a : Word) : Option (State × Nat) := if a = 0 then none else s.readLaunch who a 192

/-- R371. The phase record of a launch; none where it has none, or it cannot be read, or it is malformed. -/
def State.phaseRec (s : State) (who : Who) (a : Word) : Option (State × PhaseRec) :=
  (s.phaseBytes who a).bind (fun r => (phaseOf a r.2).map (fun p => (r.1, p)))

/-- R371. A schedule entry's 8 bytes. -/
def schedOf (e : Nat) : Sched := ⟨e % 2 ^ 9, e / 2 ^ 9 % 2 ^ 9, e / 2 ^ 18 % 2 ^ 12, e / 2 ^ 32 % 2 ^ 16⟩
/-- R371. A schedule entry is not malformed. -/
def schedSound (e : Nat) : Bool := e / 2 ^ 30 % 4 == 0 && e / 2 ^ 48 % 2 ^ 16 == 0 && (schedOf e).slot != 4095

/-- R371. The entries of a schedule; none where it cannot be read or is malformed. -/
def State.schedule (s : State) (who : Who) (a : Word) : Option (State × List Sched) :=
  match s.readLaunch who a 8 with
  | none => none
  | some (s1, n) =>
    if 32768 < n then none
    else
      match s1.readLaunch who (a + 8) (8 * n) with
      | none => none
      | some (s2, b) =>
        let es := (List.range n).map (fun k => part b (8 * k) 8)
        if es.all schedSound then some (s2, es.map schedOf) else none

/-- R291. The state that the read of a schedule leaves, whatever it finds. -/
def State.scheduleRead (s : State) (who : Who) (a : Word) : State :=
  match s.readLaunch who a 8 with
  | none => s.launchRead who a 8
  | some (s1, n) => if 32768 < n then s1 else s1.launchRead who (a + 8) (8 * n)

/-- R357, R371. The launch of the item that runs on a core: PHREC, and on whose behalf its addresses are read. -/
def State.launchOf (s : State) (core : Nat) : Option (Word × Who) :=
  (s.core core).current.map (fun it => (it.phrec, ⟨core, it.dom, true, it.xlbase⟩))

/-! ## Completion and the selector (R368) -/

/-- R368. The schedule that the selector chooses for a size, of the barrier with an object index; none where NF is set. -/
def State.select (s : State) (who : Who) (phrec : Word) (index size : Nat) : Option Nat :=
  match s.phaseRec who phrec with
  | none => none
  | some (s1, p) =>
    if p.bar ≠ index then none
    else
      match p.scheds.zipIdx.find? (fun x => x.1.1 != 0 && decide (size ≤ x.1.2)) with
      | none => none
      | some (sc, k) => if (s1.schedule who sc.1).isSome then some k else none

/-- R368. What the selector chooses for a barrier whose generation 0 completes. -/
def State.selection (s : State) (k : Nat) : Option Nat :=
  match (s.bar k).first with
  | none => none
  | some (phrec, who, index) => s.select who phrec index (s.bar k).size

/-- R368. The record after a completion; `sel` is what the selector chose. -/
def BarRec.complete (b : BarRec) (sel : Option Nat) : BarRec :=
  let b1 := { b with gen := (b.gen + 1) % 2 ^ 32, arrived := 0 }
  if b.gen = 0 then { b1 with nf := sel.isNone, sched := sel.getD 0 } else b1

/-- R362, R374. A core is released by a barrier of a job: whichever item of the job runs there next reads the true STEPCYC. -/
def Core.beginStep (c : Core) (job cycle : Nat) : Core := { c with stepAt := SMap.set c.stepAt job cycle }

/-- R368. STEPCYC restarts on every member core of a Stile domain. -/
def State.restartStep (s : State) (d : StileDom) : State :=
  ((List.range Config.cores).filter d.has).foldl (fun t c => t.modCore c (·.beginStep d.job.toNat s.cycle.toNat)) s

/-- R368. A generation is complete. -/
def BarRec.full (b : BarRec) : Bool := b.arrived == b.expected && b.expected != 0 && b.beats == 0

/-- R368. GENERATION_COMPLETE of the barrier whose object lies at a physical address. -/
def execGenerationComplete (k : Nat) (s : State) : Out :=
  let b := s.barRec k
  .next (if (SMap.find s.bars k).isSome && b.full then
    ((s.modBarRec k (·.complete (s.selection k))).modBar k (fun x =>
      { x with size := 0, first := none, landed := [], missed := [] })).restartStep (s.stileDom b.sdom)
  else s)

/-! ## Arrivals and waits (R369, R370) -/

/-- R230, R370. The barrier that an object index names for the current context: the physical address of its object. -/
def State.barrier (s : State) (ix : BitVec 16) : Chk (State × Nat) := do
  let who := s.recordReader s.cur
  let (s1, r) ← s.check (s.recordOf who ix.toNat) s.openProg
  let d := s.stileDom (recBits r 224 4)
  s.needOperand (barrierWellFormed r && d.job.toNat == s.myCore.job && d.has s.cur.core) (zext ix)
  let a := s.myCore.recordAddr ix.toNat
  let (s2, l, _) ← s.check (s1.translate who a .load) s.openProg
  s.needOperand (l.space == .main) (zext ix)
  .ok (s2, l.off)

/-- R291. The state that the reads of a barrier's object leave, whatever check fails after them. -/
def State.barrierRead (s : State) (ix : BitVec 16) : State :=
  match s.barrier ix with
  | .ok (s1, _) => s1
  | .error _ => s.recordRead (s.recordReader s.cur) ix.toNat

/-- R370. The size or the generation that g[A] carries; its high bits are zero. -/
def State.barOperand (s : State) (a : BitVec 5) : Chk Nat := do
  s.needOperand (a == 0 || decide (bits (s.x a) 63 32 = 0)) (s.x a)
  .ok (bits (s.x a) 31 0)

/-- R366, R370. The largest size carried by the arrivals of generation 0, and the launch of the first. Where the record has been rewritten,
its first arrival begins anew. -/
def Bar.arrive (b : Bar) (gen arrived size : Nat) (launch : Option (Word × Who)) (index : Nat) : Bar :=
  { b with
    size := if gen ≠ 0 then b.size else if arrived = 0 then size else max b.size size
    landed := if gen = 0 ∧ arrived = 0 then [] else b.landed
    missed := if gen = 0 ∧ arrived = 0 then [] else b.missed
    first := if arrived = 0 then launch.map (fun l => (l.1, l.2, index)) else b.first }

/-- R370. An arrival of the current context: the state, and GEN as it stood. -/
def State.arrive (s : State) (k size index : Nat) : Chk (State × Nat) := do
  let b := s.barRec k
  s.needOperand (decide (b.arrived + 1 ≤ b.expected)) (w64 (s.main.read (k + 16) 8))
  let s1 := s.modBarRec k (fun r => { r with arrived := r.arrived + 1 })
  .ok (s1.modBar k (·.arrive b.gen b.arrived size (s.launchOf s.cur.core) index), b.gen)

/-- R370. BARRIVE. -/
def execBarrive (d a : BitVec 5) (ix : BitVec 16) (s : State) : Out :=
  s.finishOn (s.barrierRead ix) (do
    let (s1, k) ← s.barrier ix
    let size ← s.barOperand a
    if s.me.writesPending then .ok s.hold
    else do
      let (s2, gen) ← s1.arrive k size ix.toNat
      .ok (s2.setX d (w64 gen)).advance)

/-- R370. BWAIT. -/
def execBwait (a : BitVec 5) (ix : BitVec 16) (s : State) : Out :=
  s.finishOn (s.barrierRead ix) (do
    let (s1, k) ← s.barrier ix
    let gen ← s.barOperand a
    .ok (s.waitFor (decide ((s1.barRec k).gen ≠ gen)) s1.advance))

/-- R370. A BSYNC whose arrival is kept waits for the generation to change. -/
def State.bsyncWait (s : State) (k : Nat) (gen : Word) : State :=
  if w64 (s.barRec k).gen = gen then s.hold else s.dropArrival.advance

/-- R370. BSYNC: it arrives as BARRIVE does, which writes g[D], and then waits. -/
def execBsync (d a : BitVec 5) (ix : BitVec 16) (s : State) : Out :=
  s.finishOn (s.barrierRead ix) (do
    let (s1, k) ← s.barrier ix
    match s.arrival with
    | some (.bsync gen _) => .ok (s1.bsyncWait k gen)
    | _ => do
      let size ← s.barOperand a
      if s.me.writesPending then .ok s.hold
      else do
        let (s2, gen) ← s1.arrive k size ix.toNat
        .ok (((s2.setX d (w64 gen)).keep (.bsync (w64 gen) s.me.dom)).bsyncWait k (w64 gen)))

/-! ## Slot transfers: issue (R372) -/

/-- R362, R368. STEPCYC of a core: the cycles since its last release by a barrier of the job whose item it runs; 0 outside a phase. -/
def State.stepcyc (s : State) (core : Nat) : Nat :=
  match (s.core core).current.bind (fun it => if it.phrec = 0 then none else SMap.find (s.core core).stepAt it.job) with
  | none => 0
  | some t => min (2 ^ 32 - 1) (s.cycle.toNat - t)

/-- R372. The late lane. -/
def lateSlot : Nat := 4095

/-- R372 check 1. The operands of a SLOTSEND: the offsets of its source and its destination, and the destination core. -/
def State.slotOperands (s : State) (a b c : BitVec 5) : Chk (Nat × Nat × Nat × Nat) := do
  let len := (s.x c).toNat
  s.needOperand (decide (len ≠ 0) && decide (len % 16 = 0)) s.openVal
  let src := s.x a
  let dst := s.x b
  s.check (do
    checkCapRights (s.g a) s.me.dom s.me.priv .load src
    ensure ((s.g a).covers src.toNat len) Cause.capBounds src) (s.regProg a)
  s.check (do
    checkCapRights (s.g b) s.me.dom s.me.priv .store dst
    ensure (s.g b).permSH Cause.capPerm dst
    ensure ((s.g b).covers dst.toNat len) Cause.capBounds dst) (s.regProg b)
  s.check (ensure (decide (src.toNat % 16 = 0)) Cause.align src) (s.regProg a)
  s.check (ensure (decide (dst.toNat % 16 = 0)) Cause.align dst) (s.regProg b)
  match Span.region ⟨src.toNat, src.toNat + len⟩ s.cur.core, Span.region ⟨dst.toNat, dst.toNat + len⟩ s.cur.core with
  | some (.spad _ o), some (.spad n p) =>
    if isOwnSpad src && isPeerAddr dst then .ok (len, o, n, p) else .error (s.trapHere Cause.illegalOperand s.openVal s.openProg)
  | _, _ => .error (s.trapHere Cause.illegalOperand s.openVal s.openProg)

/-- R372. The trap of a slot violation. -/
def State.slotTrap (s : State) (slot reason : Nat) : Trap :=
  s.trapHere Cause.slotViolation (w64 (s.stepcyc s.cur.core)) (w64 (slot + reason * 2 ^ 12))

/-- R368, R372. The phase barrier of the current context's launch: the state, the barrier, and the phase record, none where it is
malformed, which acts as NF = 1. -/
def State.phaseBarrier (s : State) (core : Nat) : Option (State × Nat × Option PhaseRec) :=
  match s.launchOf core with
  | none => none
  | some (phrec, who) =>
    match s.phaseBytes who phrec with
    | none => none
    | some (s1, b) =>
      let p := phaseFields b
      match s1.recordOf who p.bar with
      | .error _ => none
      | .ok (s2, r) =>
        if !barrierWellFormed r then none
        else
          match s2.translate who ((s2.core core).recordAddr p.bar) .load with
          | .error _ => none
          | .ok (s3, l, _) => if l.space = .main then some (s3, l.off, phaseOf phrec b) else none

/-- R291. The state that the reads of the phase barrier leave, whatever fails after them. -/
def State.phaseTouched (s : State) (core : Nat) : State :=
  match s.phaseBarrier core, s.launchOf core with
  | some (s1, _, _), _ => s1
  | none, none => s
  | none, some (phrec, who) =>
    match s.phaseBytes who phrec with
    | none => if phrec = 0 then s else s.launchRead who phrec 192
    | some (s1, b) =>
      let s2 := s1.recordRead who (phaseFields b).bar
      match s1.recordOf who (phaseFields b).bar with
      | .ok (_, r) => if barrierWellFormed r then s2.touched who ((s2.core core).recordAddr (phaseFields b).bar) .load else s2
      | .error _ => s2

/-- R373. The entries of the schedule that a barrier's record chose; none where they cannot be read. -/
def State.chosen (s : State) (core k : Nat) (p : PhaseRec) : Option (State × List Sched) :=
  match s.launchOf core, p.scheds[(s.barRec k).sched]? with
  | some (_, who), some sc => if sc.1 = 0 then none else s.schedule who sc.1
  | _, _ => none

/-- R291. The state that their read leaves, whatever it finds; where NF is set or the phase record is malformed, nothing is read. -/
def State.chosenRead (s : State) (core k : Nat) (p : Option PhaseRec) : State :=
  match if (s.barRec k).nf then none else p, s.launchOf core with
  | some p, some (_, who) =>
    (match p.scheds[(s.barRec k).sched]? with
      | some sc => if sc.1 = 0 then s else s.scheduleRead who sc.1
      | none => s)
  | _, _ => s

/-- R372. The number of beats of a transfer. -/
def beatsOf (len : Nat) : Nat := (len + 63) / 64

/-- R372 checks 3 and 4. The schedule entry of a slotted transfer, or the reason it is violated, with the entry missed. -/
def State.slotEntry (s : State) (k : Nat) (p : Option PhaseRec) (slot dst len : Nat) :
    Except (Nat × Option Nat) (State × Nat × Nat) :=
  let core := s.cur.core
  match if (s.barRec k).nf then none else p with
  | none => .error (3, none)
  | some p =>
    match s.chosen core k p with
    | none => .error (2, none)
    | some (s1, es) =>
      match es.findIdx? (fun e => e.src == core && e.dst == dst && e.slot == slot && decide (len ≤ 16 * e.max)) with
      | none => .error (2, none)
      | some i =>
        let due : Int := ((slot + 1) * 2 ^ p.slog : Nat) - (beatsOf len : Int)
        if (s.stepcyc core : Int) ≤ due then .ok (s1, i, p.slog) else .error (1, some i)

/-- R234, R372. The lock entries of a transfer: its source and its destination in the issuing core's table. -/
def Xfer.locks (x : Xfer) (dom : BitVec 6) : List Lock :=
  let src := lockAddr x.ctx.core ⟨.spad x.ctx.core, x.src, 0⟩
  let dst := 0x7C00 * 2 ^ 48 + x.dstCore * 2 ^ 24 + x.dst
  [lockEntry x.ctx.core (2 ^ 32 + x.num) dom (src, src + x.len) false,
   lockEntry x.ctx.core (2 ^ 32 + x.num) dom (dst, dst + x.len) true]

/-- R234, R372. The lock entry of a transfer's destination in the receiver's table. -/
def Xfer.peerLock (x : Xfer) : Lock :=
  let lo := lockAddr x.dstCore ⟨.spad x.dstCore, x.dst, 0⟩
  lockEntry x.ctx.core (2 ^ 32 + x.num) x.dom (lo, lo + x.len) true

/-- R372. A transfer issues: BEATS grows, its spans are registered, CNTS.COPY grows, and a late one sets LT. -/
def State.sendSlot (s : State) (x : Xfer) : State :=
  let s1 := s.modBarRec x.bar (fun r => { r with beats := r.beats + beatsOf x.len, lt := r.lt || x.slot == lateSlot })
  let s2 := s1.modMyCore (fun c => { c with locks := c.locks ++ x.locks x.dom })
  ({ s2 with xfers := s2.xfers ++ [x], xferNext := s2.xferNext + 1 }.modMe (fun c =>
    { c with cntCopy := c.cntCopy + 1 })).advance

/-- R372. The transfer of the current SLOTSEND. -/
def State.newXfer (s : State) (k slot : Nat) (entry : Option Nat) (slog : Nat) (ops : Nat × Nat × Nat × Nat) : Xfer :=
  { num := s.xferNext, ctx := s.cur, uid := s.me.uid, slot := slot, entry := entry, bar := k, slog := slog, src := ops.2.1
    dstCore := ops.2.2.1, dst := ops.2.2.2, len := ops.1, dom := s.me.dom, memSeq := s.me.pendSeq, started := false
    landed := 0 }

/-- R291, R372. The state in which a slot violation traps: what its reads leave, and, where an entry is missed, SV and the entry. -/
def State.slotMissed (s : State) (k : Nat) (p : Option PhaseRec) (missed : Option Nat) : State :=
  let s1 := s.chosenRead s.cur.core k p
  match missed with
  | none => s1
  | some i => (s1.modBarRec k (fun r => { r with sv := true })).modBar k (fun x => { x with missed := NSet.add x.missed i })

/-- R372. SLOTSEND. -/
def execSlotsend (c a b : BitVec 5) (slot : BitVec 12) (s : State) : Out :=
  s.finish (do
    let ops ← s.slotOperands a b c
    let n := slot.toNat
    match s.phaseBarrier s.cur.core with
    | none => .ok ((s.phaseTouched s.cur.core).takeTrap s.cur (s.slotTrap n 4))
    | some (s1, k, p) =>
      if !(s1.barRec k).communicates then .ok (s1.takeTrap s.cur (s.slotTrap n 4))
      else
        let room := decide (s.myCore.locks.length + 2 ≤ 16) && decide (s.me.cntCopy < 15)
        if n = lateSlot then
          .ok (if room then s1.sendSlot (s.newXfer k n none 0 ops) else s.hold)
        else
          match s1.slotEntry k p n ops.2.2.1 ops.1 with
          | .error (reason, missed) => .ok ((s1.slotMissed k p missed).takeTrap s.cur (s.slotTrap n reason))
          | .ok (s2, i, slog) => .ok (if room then s2.sendSlot (s.newXfer k n (some i) slog ops) else s.hold))

/-- R373. SLOTWAIT. -/
def execSlotwait (d : BitVec 5) (slot : BitVec 12) (s : State) : Out :=
  let zero := (s.setX d 0).advance
  .next (match s.phaseBarrier s.cur.core with
    | none => zero
    | some (s1, k, p) =>
      if !(s1.barRec k).communicates || (s1.barRec k).nf then zero
      else
        match p.bind (s1.chosen s.cur.core k) with
        | none => zero
        | some (s2, es) =>
          let mine := (es.zipIdx.filter (fun e => e.1.dst == s.cur.core && decide (e.1.slot ≤ slot.toNat))).map (·.2)
          let b := s.bar k
          s.waitFor (mine.all (fun i => NSet.has b.landed i || NSet.has b.missed i))
            (s2.setX d (w64 (mine.filter (fun i => NSet.has b.missed i)).length)).advance)

/-! ## Slot transfers: progress (R372, R374) -/

/-- A transfer by its number. -/
def State.xfer (s : State) (num : Nat) : Option Xfer := s.xfers.find? (fun x => x.num == num)
/-- The state with a transfer replaced. -/
def State.setXfer (s : State) (x : Xfer) : State := { s with xfers := s.xfers.map (fun y => if y.num = x.num then x else y) }

/-- R372. A transfer may start: its sender is on its core, fewer than four copies and transfers run there, nothing conflicts,
the context's earlier accesses are performed, the receiver's table has room, and no access checked before its locks stood is still to be
performed there (R236). -/
def State.mayStartXfer (s : State) (x : Xfer) : Bool :=
  let c := s.core x.ctx.core
  let copies := c.copies.filter (·.started)
  let running := s.xfers.filter (fun y => y.ctx.core == x.ctx.core && y.started)
  !x.started && s.present x.ctx x.uid && !c.cpSusp && decide (copies.length + running.length < 4) &&
    copies.all (fun k => !x.conflicts k.srcSpan k.dstSpan) && running.all (fun y => !x.conflicts y.srcSpan (some y.dstSpan)) &&
    !(s.ctx x.ctx).pend.any (fun o => o.isAccess && decide (o.seq < x.memSeq)) &&
    decide ((s.core x.dstCore).locks.length < 16) && (x.locks x.dom).all (fun e => !s.meetsLock x.ctx.core e) &&
    !s.meetsLock x.dstCore x.peerLock

/-- R234, R372. A transfer starts, its destination in the receiver's table. -/
def State.startXfer (s : State) (x : Xfer) : State :=
  (s.modCore x.dstCore (fun c => { c with locks := c.locks ++ [x.peerLock] })).setXfer { x with started := true }

/-- R372. SLOT_TRANSFER_START: a transfer starts no earlier than its slot. -/
def execSlotTransferStart (k : Nat) (s : State) : Out :=
  .next (match s.xfer k with
    | none => s
    | some x =>
      if x.slot ≠ lateSlot && decide (x.slot * 2 ^ x.slog ≤ s.stepcyc x.ctx.core) && s.mayStartXfer x then s.startXfer x else s)

/-- R372. LATE_LANE_START: after every slotted transfer of the step has started. -/
def execLateLaneStart (k : Nat) (s : State) : Out :=
  .next (match s.xfer k with
    | none => s
    | some x =>
      if x.slot = lateSlot && s.xfers.all (fun y => y.bar != x.bar || y.slot == lateSlot || y.started) && s.mayStartXfer x then
        s.startXfer x
      else s)

/-- R372. LT clears when no late transfer of a barrier remains. -/
def State.clearLate (s : State) (k : Nat) : State :=
  if s.xfers.any (fun y => y.bar == k && y.slot == lateSlot) then s else s.modBarRec k (fun r => { r with lt := false })

/-- R372. A transfer leaves the engine: its locks are removed, CNTS.COPY falls, and LT clears with the last late one. -/
def State.retireXfer (s : State) (x : Xfer) : State :=
  let s1 := { s with xfers := s.xfers.filter (fun y => y.num != x.num) }
  (((s1.removeLocks x.ctx.core (2 ^ 32 + x.num)).modOwner x.ctx x.uid (fun c => { c with cntCopy := c.cntCopy - 1 }))).clearLate
    x.bar

/-- R372. A transfer is discarded: its beats that have not landed leave BEATS. -/
def State.discardXfer (s : State) (x : Xfer) : State :=
  (s.modBarRec x.bar (fun r => { r with beats := r.beats - (beatsOf x.len - x.landed) })).retireXfer x

/-- R241, R372. One beat moves, tags cleared, each granule with its source's poison mark. -/
def State.moveBeat (s : State) (x : Xfer) : State :=
  let o := 64 * x.landed
  let n := min 64 (x.len - o)
  let places := fun (core base : Nat) => (List.range n).map (fun i => (⟨.spad core, base + o + i, 0⟩ : Loc))
  s.moveRow (places x.ctx.core x.src) (places x.dstCore x.dst)

/-- R372. A beat has landed: BEATS falls; with the last, the transfer is done and its schedule entry has landed. -/
def State.landBeat (s : State) (x : Xfer) : State :=
  let s1 := (s.moveBeat x).modBarRec x.bar (fun r => { r with beats := r.beats - 1 })
  let x1 := { x with landed := x.landed + 1 }
  if x1.landed < beatsOf x.len then s1.setXfer x1
  else
    (match x.entry with
      | none => s1
      | some i => s1.modBar x.bar (fun b => { b with landed := NSet.add b.landed i })).retireXfer x1

/-- R374. The receiver holds a restored context of the sender's job. -/
def State.receives (s : State) (x : Xfer) : Bool :=
  let c := s.core x.dstCore
  !c.preempted && c.current.any (fun it => it.job == (s.core x.ctx.core).job)

/-- R372, R374. SLOT_BEAT_LAND: the next beat of a started transfer lands; a receiver without a restored context of the job
refuses it, which changes nothing. -/
def execSlotBeatLand (k : Nat) (s : State) : Out :=
  .next (match s.xfer k with
    | none => s
    | some x => if x.started && s.receives x then s.landBeat x else s)

end Sys2Proof.Machine
end

