-- ==== Sys2Proof/Machine/Work.lean ====
section
/-!
DEFINITION. Work levels and jobs (file 17): launch records (R356, R357), LAUNCH, CWAIT and CANCEL (R358 to R361), the start of a
launch item (R357), and the slices of the job scheduler (R362 to R365).
-/

namespace Sys2Proof.Machine

/-! ## Launch records (R356) -/

/-- R356. A register slot in use, of the record's granules from 16 on: VALUE, REG and MODE. -/
def launchSlot (l : List Reg) (k : Nat) : Reg × Nat × Nat :=
  let m := recWord l (34 + 4 * k)
  (l.getD (16 + 2 * k) Reg.zero, bits m 7 0, bits m 15 8)

/-- R356. NREG of a record. -/
def launchSlots (l : List Reg) : Nat := bits (recWord l 1) 11 8
/-- R356. The cores of a record's mask, rising. -/
def launchCores (l : List Reg) : List Nat :=
  (List.range Config.cores).filter (fun c => (recWord l (16 + c / 64)).getLsbD (c % 64))
/-- R356. DOM of a record. -/
def launchDom (l : List Reg) : BitVec 6 := BitVec.ofNat 6 (bits (recWord l 1) 5 0)

/-- R356, R361. A word of a slot in use is in order. -/
def slotWord (l : List Reg) (k j : Nat) : Bool :=
  let (v, reg, mode) := launchSlot l k
  match j with
  | 0 => mode == 0 || (v.word == 0 && !v.tag)
  | 1 => mode == 0 || recWord l (33 + 4 * k) == 0
  | 2 => decide (1 ≤ reg) && decide (reg ≤ 31) && decide (mode ≤ 3) && decide (bits (recWord l (34 + 4 * k)) 63 16 = 0)
  | _ => recWord l (35 + 4 * k) == 0

/-- R356, R361. Whether word `w` of a record is in order; `dom` and `tvec` say which domain and TVEC may stand there, and `has`
which cores belong to the job. -/
def launchWord (l : List Reg) (dom : BitVec 6 → Bool) (tvec : Word → Bool) (has : Nat → Bool) (w : Nat) : Bool :=
  let v := recWord l w
  if w = 1 then
    dom (launchDom l) && decide (bits v 7 6 = 0) && decide (launchSlots l ≤ 12) && decide (bits v 15 12 = 0) &&
      decide (bits v 63 48 = 0)
  else if w = 4 then tvec v
  else if 5 ≤ w ∧ w < 16 then v == 0
  else if 16 ≤ w ∧ w < 21 then
    (List.range 64).all (fun b => !v.getLsbD b || has (64 * (w - 16) + b)) && (w != 16 || !(launchCores l).isEmpty)
  else if 21 ≤ w ∧ w < 24 then v == 0
  else if 32 ≤ w ∧ (w - 32) / 4 < launchSlots l then slotWord l ((w - 32) / 4) (w % 4)
  else true

/-- R361. The first of a record's 80 words that is out of order. -/
def badLaunch (l : List Reg) (dom : BitVec 6 → Bool) (tvec : Word → Bool) (has : Nat → Bool) : Option Nat :=
  (List.range 80).find? (fun w => !launchWord l dom tvec has w)

/-- R356, R357. The registers of the item of a core, by slot; a later slot wins. -/
def launchRegs (l : List Reg) (core rank : Nat) : SMap Reg :=
  (List.range (launchSlots l)).foldl (fun m k =>
    let (v, reg, mode) := launchSlot l k
    SMap.set m reg (match mode with
      | 0 => v
      | 1 => Reg.plain (w64 rank)
      | 2 => Reg.plain (w64 (core % 8))
      | _ => Reg.plain (w64 core))) []

/-- R356, R357. The item of a core of a launch. -/
def launchItem (l : List Reg) (job e gen core rank : Nat) (tvec xlbase : Word) : LaunchItem :=
  let w := recWord l 1
  { job := job, launch := some (e, gen), rank := rank, graph := bits w 31 16, phase := some (bits w 47 32), entry := recWord l 0
    tvec := tvec, xlbase := xlbase, live := recWord l 3, phrec := recWord l 2, dom := launchDom l
    regs := launchRegs l core rank
    images := (List.range 4).map (fun k => (k, recWord l (24 + 2 * k), (recWord l (25 + 2 * k)).toNat)), node := none
    cancelled := false }

/-- R355. The handle of a launch. -/
def launchHandle (job gen e : Nat) : Word := w64 (job * 2 ^ 32 + gen * 2 ^ 10 + e)

/-- R361 steps 3 and 4. A launch of a record: every item is queued at once, and the handle; none where no entry is free, a
queue is full, the domain is terminated, or a die is fenced. -/
def State.launch (s : State) (l : List Reg) (job : Nat) (tvec xlbase : Word) : Option (State × Word) :=
  let j := s.jobOf job
  let cores := launchCores l
  let room := cores.all (fun c => decide ((s.core c).queue.length < 4) && !s.dfence.getLsbD (dieOf c))
  match (List.range 1024).find? (fun e => (j.launchEntry e).count == 0) with
  | none => none
  | some e =>
    if !room || s.terminated (launchDom l) then none
    else
      let gen := (j.launchEntry e).gen
      let s1 := s.modJob job (fun k => { k with launches := SMap.set k.launches e ⟨gen, cores.length⟩ })
      let s2 := cores.zipIdx.foldl (fun t p =>
        let it := launchItem l job e gen p.1 p.2 tvec xlbase
        (t.modCore p.1 (fun c => { c with queue := c.queue ++ [it] })).modJob job (fun k => k.countItem it.graph it.phase true)) s1
      some (s2, launchHandle job gen e)

/-- R361. LAUNCH. As a release it acts once the context's earlier accesses are performed, and it reads the record that they leave (R135). -/
def execLaunch (d a : BitVec 5) (s : State) : Out :=
  if !s.me.pend.isEmpty then .next s.hold
  else s.finishOn (s.recordTouched a 640 64) (do
    let addr := s.x a
    let m := s.me
    s.check (s.recordCap a 640 64) (s.regProg a)
    s.needOperand (decide (addr.toNat < 2 ^ 55)) addr
    let (s1, l) ← s.check (s.readGranules (s.who s.cur) addr (s.g a).permLC 40) (accessProg a false 0 false)
    let job := s.myCore.job
    match badLaunch l (fun x => x == m.dom || m.priv) (fun t => t == 0 || m.priv) (s.jobHas job) with
    | some w => .error (s.trapHere Cause.illegalOperand (addr + w64 (8 * w)) s.openProg)
    | none =>
      match s1.launch l job (if m.priv then recWord l 4 else m.tvec) m.xlbase with
      | none => .ok (s1.awaitReply d noResource)
      | some (s2, h) => .ok (s2.awaitReply d h))

/-! ## Levels (R355, R358) -/

/-- R355. The fields of a level's handle. -/
def levelCode (h : Word) : Nat := bits h 63 62
def levelJob (h : Word) : Nat := bits h 47 32
def levelNum (h : Word) : Nat := bits h 15 0

/-- R354, R355. An item counts in the level that a handle names. -/
def LaunchItem.inLevel (it : LaunchItem) (h : Word) : Bool :=
  it.job == levelJob h &&
    (match levelCode h with
      | 0 => it.launch == some (levelNum h % 1024, levelNum h / 1024)
      | 1 => it.graph == levelNum h
      | 2 => it.phase == some (levelNum h)
      | _ => true)

/-- R354, R355. A node counts in the level that a handle names. -/
def Node.inLevel (n : Node) (h : Word) : Bool :=
  n.job == levelJob h &&
    (match levelCode h with
      | 0 => false
      | 1 => n.graph == levelNum h
      | 2 => n.phase == some (levelNum h)
      | _ => true)

/-- R358. The checks of a handle; `own` forbids a level that contains the issuing context. -/
def State.levelCheck (s : State) (h : Word) (own : Bool) : Chk Unit :=
  s.needOperand (decide (bits h 61 48 = 0) && decide (bits h 31 16 = 0) && (levelCode h != 3 || levelNum h == 0) &&
    levelJob h == s.myCore.job && !(own && s.myCore.current.any (·.inLevel h))) h

/-- R355. The count of a level. -/
def State.levelCount (s : State) (h : Word) : Nat := (s.jobOf (levelJob h)).levelCount (levelCode h) (levelNum h)

/-- R359. CWAIT. -/
def execCwait (d a : BitVec 5) (n : BitVec 16) (s : State) : Out :=
  s.finish (do
    let h := s.x a
    s.levelCheck h (n == 0)
    .ok (s.waitFor (decide (s.levelCount h ≤ n.toNat)) (s.setX d (w64 (s.levelCount h))).advance))

/-! ## CANCEL (R360) -/

/-- R360. Launch items that have not started, removed from a core's queue; the barriers of its domains lose a member. -/
def State.cancelQueued (s : State) (h : Word) (core : Nat) : State × Nat :=
  let gone := (s.core core).queue.filter (·.inLevel h)
  if gone.isEmpty then (s, 0)
  else
    let s1 := gone.foldl (fun t it => t.leaveLevels it)
      (s.modCore core (fun c => { c with queue := c.queue.filter (fun it => !it.inLevel h) }))
    (s1.membersLost core gone, gone.length)

/-- R313. What an item's end tells the node that it carries out. -/
def State.itemLeaves (s : State) (core : Nat) (it : LaunchItem) : State :=
  match it.node with
  | some (die, i, gen) => s.modNode die i (fun n => if n.gen = gen then n.memberEnded core else n)
  | none => s.leaveLevels it

/-- R372. Slot transfers that contexts of a core have issued and that have not started are discarded. -/
def State.discardXfers (s : State) (core : Nat) (m : SMap Ctx) : State :=
  (s.xfers.filter (fun x => x.ctx.core == core && !x.started && m.any (fun p => p.2.uid == x.uid))).foldl (fun t x => t.discardXfer x) s

/-- R275, R372. What contexts of an item leave behind as they are dropped: their threads are freed, and their transfers that have not
started are discarded. -/
def State.dropContexts (s : State) (core : Nat) (m : SMap Ctx) : State :=
  (s.discardXfers core m).modCluster (clusterOf core) (·.freeThreads (SMap.getD m control Ctx.reset).uid)

/-- R360. Items of a core that are switched out end: their contexts are gone. -/
def State.cancelAway (s : State) (h : Word) (core : Nat) : State × Nat :=
  let gone := (s.core core).away.filter (fun a => a.1.inLevel h && !a.1.cancelled)
  if gone.isEmpty then (s, 0)
  else
    let s1 := gone.foldl (fun t a => (t.dropContexts core a.2.1).itemLeaves core a.1)
      (s.modCore core (fun c => { c with away := c.away.filter (fun a => !(a.1.inLevel h && !a.1.cancelled)) }))
    (s1.membersLost core (gone.map (·.1)), (gone.filter (fun a => a.1.node.isNone)).length)

/-- R360. The item that runs on a core is cancelled: its contexts stop at their next group boundaries. While they are suspended
they are gone at once. -/
def State.cancelRunning (s : State) (h : Word) (core : Nat) : State × Nat :=
  let c := s.core core
  match c.current with
  | none => (s, 0)
  | some it =>
    if !it.inLevel h || it.cancelled then (s, 0)
    else
      let n := if it.node.isNone then 1 else 0
      if c.preempted then
        ((((s.dropContexts core c.suspended).itemLeaves core it).modCore core (fun k =>
          { k with current := none, suspended := [], held := none })).memberLost core it.job, n)
      else ((s.modCore core (fun k => { k with current := some { it with cancelled := true } })).memberLost core it.job, n)

/-- R360. Nodes of a die that have not started, or run; a FAILED one is freed with its graph. -/
def State.cancelNode (s : State) (h : Word) (die : Nat) (p : Nat × Node) : State × Nat :=
  if !p.2.inLevel h then (s, 0)
  else
    match p.2.state with
    | .free => (s, 0)
    | .failed => (if levelCode h = 1 then s.loseNode die p.1 else s, 0)
    | .running => (if p.2.lost then s else s.modNode die p.1 (fun n => { n with lost := true }), if p.2.lost then 0 else 1)
    | _ => (s.loseNode die p.1, 1)

/-- A count of what each of a list of steps does. -/
def countSteps {α : Type} (f : State → α → State × Nat) (s : State) (l : List α) : State × Nat :=
  l.foldl (fun acc x =>
    let (t, n) := f acc.1 x
    (t, acc.2 + n)) (s, 0)

/-- R360. CANCEL acts on every item of a level that has not completed: the state, and the number of items. -/
def State.cancelLevel (s : State) (h : Word) : State × Nat :=
  let cores := List.range Config.cores
  let (s1, a) := countSteps (fun t c => t.cancelQueued h c) s cores
  let (s2, b) := countSteps (fun t c => t.cancelAway h c) s1 cores
  let (s3, c) := countSteps (fun t k => t.cancelRunning h k) s2 cores
  let (s4, d) := countSteps (fun t die => countSteps (fun u p => u.cancelNode h die p) t (t.die die).nodes) s3
    (List.range Config.dies)
  (s4, a + b + c + d)

/-- R360. Every cancelled item of a level has left its counters. -/
def State.cancelDone (s : State) (h : Word) : Bool :=
  let gone := fun (it : LaunchItem) => !(it.inLevel h && it.cancelled)
  (List.range Config.cores).all (fun c => (s.core c).current.all gone && (s.core c).away.all (fun a => gone a.1)) &&
    (List.range Config.dies).all (fun d => (s.die d).nodes.all (fun p => !(p.2.inLevel h && p.2.state == .running && p.2.lost)))

/-- R360. A CANCEL that has acted completes once its items are gone. -/
def State.cancelWait (s : State) (d : BitVec 5) (h : Word) (total : Nat) : State :=
  if s.cancelDone h then s.completeWait d (w64 total) else s.hold

/-- R360. CANCEL. -/
def execCancel (d a : BitVec 5) (s : State) : Out :=
  s.finish (do
    let h := s.x a
    match s.arrival with
    | some (.cancel total) => .ok (s.cancelWait d h total)
    | _ => do
      s.levelCheck h true
      if !s.me.pend.isEmpty then .ok s.hold
      else
        let (s1, n) := s.cancelLevel h
        .ok ((s1.keep (.cancel n)).cancelWait d h n))

/-- R360. The engine operations that a core's cancelled item has issued are complete, but for what a failure has stopped. -/
def State.cancelQuiet (s : State) (core : Nat) : Bool :=
  let c := s.core core
  (c.seq.isEmpty || c.vsqSusp) && (c.mxq.isEmpty || c.mxSusp) && c.copies.all (fun k => k.failed || (!k.started && c.cpSusp)) &&
    (s.cluster (clusterOf core)).posts.all (fun p => p.ctx.core != core) &&
    (s.xfers.all (fun x => x.ctx.core != core || !x.started))

/-- R360. At a group boundary of a cancelled item's context: its core's contexts stop, and the item ends once its engine
operations are complete; their range locks go with them. -/
def State.stopCancelled (s : State) (core : Nat) : State :=
  if !(s.core core).atBoundary then s
  else
    let s1 := (s.stopContexts core).discardXfers core (s.core core).ctxs
    if s1.cancelQuiet core then ((s1.core core).copies.foldl (fun t k => t.retireCopy core k.seq) s1).endItem core false else s1

/-! ## Jobs and slices (R363, R364) -/

/-- R363. PERIOD, SLICE and GRACE of a job's record. -/
def State.jobPeriod (s : State) (job : Nat) : Nat := s.main.read (s.jobAddr job + 8) 8
def State.jobSlice (s : State) (job : Nat) : Nat := s.main.read (s.jobAddr job + 16) 4
def State.jobGrace (s : State) (job : Nat) : Nat := s.main.read (s.jobAddr job + 20) 4
/-- R363. The cores of a job, rising. -/
def State.jobCores (s : State) (job : Nat) : List Nat := (List.range Config.cores).filter (s.jobHas job)

/-- R363. A job's record obeys the limits of its table. -/
def State.jobLegal (s : State) (job : Nat) : Bool :=
  let w := s.main.read (s.jobAddr job) 4
  decide (job < s.joblimit) && decide (s.jobAddr job + 64 ≤ Config.memSize) && w / 4 % 64 == 0 && w / 2 ^ 14 == 0 &&
    decide (s.jobState job ≤ 2) && decide (1024 ≤ s.jobSlice job) && decide (s.jobSlice job ≤ s.jobPeriod job) &&
    decide (s.jobGrace job ≤ 2 ^ 20)

/-- R363. The number of armed or running jobs on a core. -/
def State.jobsOn (s : State) (core : Nat) : Nat :=
  ((List.range s.joblimit).filter (fun j => (s.jobState j == 1 || s.jobState j == 2) && s.jobHas j core)).length

/-- R363, R377. A job may start: its record is in order, its domain is not terminated, and no core of it has more than eight armed or
running jobs. -/
def State.jobMayStart (s : State) (job : Nat) : Bool :=
  s.jobLegal job && !s.terminated (BitVec.ofNat 6 (s.jobDom job)) && (s.jobCores job).all (fun c => decide (s.jobsOn c ≤ 8))

/-- R364. The slice of a job that is released now. -/
def State.newSlice (s : State) (job : Nat) : Slice :=
  { job := job, period := s.jobPeriod job, budget := s.jobSlice job, deadline := s.cycle.toNat + s.jobPeriod job, ready := true
    running := false, grace := false, left := s.jobSlice job, released := s.cycle.toNat, missed := false }

/-- R404, R417. What a job holds at its start: TGEN and SCOPEGEN are the group's GEN, and no episode has completed. -/
def Job.started (j : Job) (gen : BitVec 32) : Job :=
  { Job.reset with launches := j.launches, graphs := j.graphs, phases := j.phases, total := j.total, tgen := gen, scopegen := gen }

/-- R363, R364. An armed job starts: its STATE is 2, and its slices are released. -/
def State.startJob (s : State) (job : Nat) : State :=
  let x := s.newSlice job
  (s.jobCores job).foldl (fun t c => t.modCore c (fun k =>
    { k with slices := k.slices.filter (fun y => y.job != job) ++ [x] }))
    ((s.setJobState job 2).modJob job (fun j => j.started (s.groupGen job)))

/-- The slice of a job on a core. -/
def Core.slice (c : Core) (job : Nat) : Option Slice := c.slices.find? (fun x => x.job == job)
/-- The core with a slice replaced. -/
def Core.setSlice (c : Core) (x : Slice) : Core := { c with slices := c.slices.map (fun y => if y.job = x.job then x else y) }

/-- R364. SLICE_RELEASE: PERIOD has passed since the last release of a DONE slice of a running job. -/
def execSliceRelease (core k : Nat) (s : State) : Out :=
  .next (match (s.core core).slice k with
    | none => s
    | some x =>
      if !x.ready && decide (x.released + x.period ≤ s.cycle.toNat) && s.jobState k == 2 then
        s.modCore core (fun c => c.setSlice (s.newSlice k))
      else s)

/-- R364. The READY slice of a core with the earliest deadline among those that can take it. -/
def State.dueSlice (s : State) (core : Nat) : Option Slice :=
  ((s.core core).slices.filter (fun x => x.ready && s.sliceFits core x)).foldl (fun best x => match best with
    | none => some x
    | some b => if x.before b then some x else some b) none

/-- R381. A core lies on a fenced die. -/
def State.coreFenced (s : State) (core : Nat) : Bool := s.dfence.getLsbD (dieOf core)

/-- R256, R324, R364. A switched-out item of a job can be restored on a core. -/
def State.restorable (s : State) (core job : Nat) : Bool :=
  let c := s.core core
  c.away.any (fun a => s.mayReturn core job a.1) && !s.draining core &&
    c.enginesIdle && !c.withdrawn && !c.broken && !c.lnStop && !s.coreFenced core

/-- R364. SLICE_DISPATCH: the READY slice with the earliest deadline takes the core; its saved contexts are restored by the
resident handler, or its next item starts. A core without slices returns to what was switched out. -/
def execSliceDispatch (core : Nat) (s : State) : Out :=
  let c := s.core core
  let back := fun (t : State) (job : Nat) => if c.current.isNone && s.restorable core job then t.handlerReturn core job else t
  .next (if c.preempted then s
  else if c.slices.isEmpty then
    (match c.away with
      | [] => s
      | a :: _ => back s a.1.job)
  else
    match c.runningSlice with
    | some x => back s x.job
    | none =>
      match s.dueSlice core with
      | none => s
      | some x => if c.current.any (fun it => it.job != x.job) then s else back (s.modCore core (·.runSlice x.job)) x.job)

/-- R364. A deferred trap of the core's control context, wherever it is. -/
def State.deferControl (s : State) (core : Nat) (d : Deferred) : State :=
  let add := fun (x : Ctx) => { x with deferred := x.deferred ++ [d] }
  if (s.core core).preempted then
    s.modCore core (fun c => match SMap.find c.suspended control with
      | some x => { c with suspended := SMap.set c.suspended control (add x) }
      | none => c)
  else s.modCtx ⟨core, control⟩ (fun x => if x.life = .live then add x else x)

/-- R364, R365. SLICE_BUDGET_EXPIRY: BUDGET reaches 0 for the first time. -/
def execSliceBudgetExpiry (core : Nat) (s : State) : Out :=
  .next (match (s.core core).runningSlice with
    | none => s
    | some x =>
      if x.left = 0 && !x.grace then
        (s.modCore core (fun c => c.setSlice { x with grace := true, left := s.jobGrace x.job })).deferControl core
          ⟨.budget, 0, ⟨Cause.budget, 0, w64 x.deadline, 0⟩⟩
      else s)

/-- R364. SLICE_GRACE_EXPIRY: BUDGET reaches 0 during the grace: the slice is DONE, the core pre-empted where an item is on it, and MISS
counts. -/
def execSliceGraceExpiry (core : Nat) (s : State) : Out :=
  .next (match (s.core core).runningSlice with
    | none => s
    | some x =>
      if x.left = 0 && x.grace && s.preemptible core then
        ((s.modCore core Core.endSlice).preempt core).countMiss x.job
      else if x.left = 0 && x.grace && (s.core core).idles then (s.modCore core Core.endSlice).countMiss x.job
      else s)

/-- R364. DEADLINE_MISS: CYCLE has passed the deadline of a READY or RUNNING slice, once per slice. -/
def execDeadlineMiss (core k : Nat) (s : State) : Out :=
  .next (match (s.core core).slice k with
    | none => s
    | some x =>
      if x.ready && !x.missed && decide (x.deadline < s.cycle.toNat) then
        (s.modCore core (fun c => c.setSlice { x with missed := true })).countMiss k
      else s)

/-! ## The start of a launch item (R357) -/

/-- R357. The launch item that a core starts next: of its RUNNING slice's job, or the oldest where the core has no slices. -/
def Core.nextItem (c : Core) : Option LaunchItem :=
  if c.slices.isEmpty then c.queue.head?
  else match c.runningSlice with
    | none => none
    | some x => c.queue.find? (·.job == x.job)

/-- The core's queue without its first item equal to one. -/
def Core.dequeue (c : Core) (it : LaunchItem) : Core := { c with queue := c.queue.erase it }

/-- R357, R364, R377, R381. A core may start an item now: every earlier item of its job there has ended, a switched-out one among them. -/
def State.mayStartItem (s : State) (core : Nat) (it : LaunchItem) : Bool :=
  s.vacant core && !s.terminated it.dom && !s.dfence.getLsbD (dieOf core) && !s.draining core &&
    (s.core core).away.all (·.1.job != it.job) && s.clusterAllows (clusterOf core) it.dom none

/-- R357. LAUNCH_ITEM_START. -/
def execLaunchItemStart (core : Nat) (s : State) : Out :=
  .next (match (s.core core).nextItem with
    | none => s
    | some it => if s.mayStartItem core it then (s.modCore core (·.dequeue it)).startItem core it else s)

end Sys2Proof.Machine
end

