-- ==== Sys2Proof/Machine/Domains.lean ====
section
/-!
DEFINITION. Containment (file 18): domain termination with its failure record (R377 to R380), and die fences (R381).
-/

namespace Sys2Proof.Machine

/-! ## Abort tokens (R419) -/

/-- R419. A token of this device goes to the root of a job's group: it is queued here where this device is the root. -/
def State.sendToken (s : State) (job : Nat) (reason : BitVec 32) : State :=
  if s.groupRoot job = s.fabid.toNat ∧ s.planCount job ≠ 0 then
    s.modJob job (fun j => { j with tokens := j.tokens ++ [⟨s.fabid.toNat, reason⟩] })
  else s

/-! ## Keys (R407) -/

/-- R407, R413. An entry whose key is revoked. -/
def Key.revoked (k : Key) : Key := { Key.reset with last := if k.used then some k.check else k.last }
/-- R407. Every key of a domain is revoked. -/
def State.revokeKeys (s : State) (d : BitVec 6) : State :=
  { s with keys := s.keys.map (fun p => (p.1, if p.2.used && p.2.dom == d then p.2.revoked else p.2)) }

/-! ## Engine work of a core (R377 step 3) -/

/-- The domain of a core's work, and the contexts of its item: those on it, or those suspended under its resident handler. -/
def Core.itemCtxs (c : Core) : SMap Ctx := if c.preempted then c.suspended else c.ctxs
/-- A live context of a domain. -/
def Ctx.liveIn (x : Ctx) (d : BitVec 6) : Bool := x.life == .live && x.dom == d
/-- The contexts of an item in the order of R377: the control context before h0 to h9. -/
def inOrder (m : SMap Ctx) : SMap Ctx := m.filter (fun p => p.1 == control) ++ m.filter (fun p => p.1 != control)
/-- A core has a live context of a domain, other than its resident handler. -/
def Core.runs (c : Core) (d : BitVec 6) : Bool := c.itemCtxs.any (fun p => p.2.liveIn d)
/-- R379. The kind of an operation of the engine queue: matrix or function. -/
def MxOp.failKind (op : MxOp) : Nat := if op.isMatrix then 3 else 4

/-- R381. The outcome of what a core has not started, or has run to its end: on a fenced die it is recorded as failed. -/
def State.outcomeAt (s : State) (core o : Nat) : Nat := if s.coreFenced core then 2 else o

/-! Engine work bears the domain of the context that issued it (R375). `mine` says which domains' work is settled: all of it where the
control context stops, and a terminated domain's on every other core. Each item goes to the record of its own domain. -/

/-- R377. Copies of a core not yet started are discarded, and those that a failure has stopped are recorded as failed. -/
def State.discardStopped (s : State) (core : Nat) (mine : BitVec 6 → Bool) : State :=
  ((s.core core).copies.filter (fun k => mine k.dom && (!k.started || k.failed))).foldl (fun t k =>
    (t.retireCopy core k.seq).settled k.dom ⟨2, if k.failed then 2 else t.outcomeAt core 3, core, k.done, w64 k.seq⟩) s

/-- R375. An item of the sequencer holds an entry of one of some domains. -/
def SeqItem.holds (i : SeqItem) (mine : BitVec 6 → Bool) : Bool :=
  match i with
  | .entry e => mine e.dom
  | .replay body _ _ _ _ => body.any (fun e => mine e.dom)

/-- R97, R375. The entries of a sequencer that park or unpark for some domains: each counts in CNTS.TILE. -/
def parksOf (q : List SeqItem) (mine : BitVec 6 → Bool) : Nat :=
  (q.filter (fun i => match i with
    | .entry e => mine e.dom && e.parks.isSome
    | .replay _ _ _ _ _ => false)).length

/-- R151, R377. The sequencer's entries are discarded. -/
def Core.discardSeq (c : Core) (mine : BitVec 6 → Bool) : Core :=
  if c.seq.any (·.holds mine) then
    { c with
      seq := c.seq.filter (fun i => !i.holds mine), window := [], vsqEnded := [], vsqSusp := false
      parkBusy := c.parkBusy - parksOf c.seq mine }
  else c

/-- R377. Operations of the engine queue not yet started are discarded: they count no more, and no register awaits them. -/
def State.discardQueue (s : State) (core : Nat) (mine : BitVec 6 → Bool) : State :=
  let gone := (s.core core).mxq.filter (fun op => mine op.dom && !op.started)
  let parks := parksOf (s.core core).seq mine
  let s1 := s.modCore core (fun c => { c.discardSeq mine with
    mxq := c.mxq.filter (fun op => !(mine op.dom && !op.started)), mxDone := c.mxDone + BitVec.ofNat 32 gone.length })
  let s2 := s1.modCtx ⟨core, control⟩ (fun c =>
    gone.foldl (fun x op => x.unawait op.bank op.gdest) { c with cntTile := c.cntTile - gone.length - parks })
  gone.foldl (fun t op => t.settled op.dom ⟨op.failKind, t.outcomeAt core 3, core, 0, w64 op.seq⟩) s2

/-- R377. Started copies of a core complete, or fail where they cannot; on a fenced die they stop where they stand. -/
def State.finishCopies (s : State) (core : Nat) (mine : BitVec 6 → Bool) : State :=
  ((s.core core).copies.filter (fun k => mine k.dom)).foldl (fun t k =>
    if t.coreFenced core then (t.retireCopy core k.seq).settled k.dom ⟨2, 2, core, k.done, w64 k.seq⟩
    else
      match t.copyElements core k (k.count - k.done) with
      | (t1, k1, none) => (t1.retireCopy core k.seq).settled k.dom ⟨2, 1, core, k1.done, w64 k.seq⟩
      | (t1, k1, some _) => (t1.retireCopy core k.seq).settled k.dom ⟨2, 2, core, k1.done, w64 k.seq⟩) s

/-- R377. The first `n` started operations of the engine queue complete, or fail where they cannot. -/
def State.finishQueue (s : State) (core : Nat) : Nat → State
  | 0 => s
  | n + 1 =>
    match (s.core core).mxq with
    | [] => s
    | op :: _ =>
      let s1 := if s.coreFenced core then s else
        if op.isMatrix then (execMatrixOpComplete core s).stateOr s else (execFunctionOpComplete core s).stateOr s
      let ok := !s.coreFenced core && !(s1.core core).mxSusp
      let s2 := if ok then s1 else (s1.modCore core (fun c => { c with mxSusp := false })).retireMx core
      (s2.settled op.dom ⟨op.failKind, if ok then 1 else 2, core, 0, w64 op.seq⟩).finishQueue core n

/-- R377. How many operations of the engine queue there are up to the last one of some domains. -/
def Core.queueUpTo (c : Core) (mine : BitVec 6 → Bool) : Nat := (c.mxq.reverse.dropWhile (fun op => !mine op.dom)).length

/-- R377 step 3. The engine work of a core is settled: what has not started first, then what has. -/
def State.settleCore (s : State) (core : Nat) (mine : BitVec 6 → Bool) : State :=
  let s1 := (s.discardStopped core mine).discardQueue core mine
  (s1.finishQueue core ((s1.core core).queueUpTo mine)).finishCopies core mine

/-- R249, R377. Copies and queued operations held for an image are settled: they cannot run on without their context. -/
def State.settleHeld (s : State) (core : Nat) (h : Held) (mine : BitVec 6 → Bool) : State :=
  let s1 := (h.mxq.filter (fun op => mine op.dom)).foldl (fun t op =>
    t.settled op.dom ⟨op.failKind, t.outcomeAt core 3, core, 0, w64 op.seq⟩) s
  (h.copies.filter (fun k => mine k.dom)).foldl (fun t k =>
    t.settled k.dom ⟨2, if k.started then 2 else t.outcomeAt core 3, core, k.done, w64 k.seq⟩) s1

/-- R375, R377. Held work without that of some domains, whose locks go with it; what has left counts as done. -/
def Held.without (h : Held) (mine : BitVec 6 → Bool) : Held :=
  let seqGone := h.seq.any (·.holds mine)
  let copies := h.copies.filter (fun k => !mine k.dom)
  let mxq := h.mxq.filter (fun op => !mine op.dom)
  { h with
    seq := h.seq.filter (fun i => !i.holds mine), window := if seqGone then [] else h.window
    vsqEnded := if seqGone then [] else h.vsqEnded, vsqSusp := h.vsqSusp && !seqGone, parkBusy := h.parkBusy - parksOf h.seq mine
    mxq := mxq, mxSusp := h.mxSusp && !h.mxq.head?.any (fun op => mine op.dom)
    mxDone := h.mxDone + BitVec.ofNat 32 (h.mxq.length - mxq.length)
    copies := copies, cpDone := h.cpDone + BitVec.ofNat 32 (h.copies.length - copies.length)
    locks := h.locks.filter (fun k => !mine k.dom), clusterLocks := h.clusterLocks.filter (fun k => !mine k.dom) }

/-- R97, R211. A control context whose held work has lost that of some domains: it counts no more, and no register awaits it. -/
def Ctx.withoutHeld (x : Ctx) (h : Held) (mine : BitVec 6 → Bool) : Ctx :=
  let ops := h.mxq.filter (fun op => mine op.dom)
  ops.foldl (fun y op => y.unawait op.bank op.gdest)
    { x with
      cntTile := x.cntTile - ops.length - parksOf h.seq mine
      cntCopy := x.cntCopy - (h.copies.filter (fun k => mine k.dom)).length }

/-! ## Accesses of contexts (R377 step 3) -/

/-- R379. The entry of a pending access: an atomic in flight, or an outstanding remote load; none for others. -/
def PendOp.failItem (o : PendOp) (core outcome : Nat) : Option FailItem :=
  let addr : Word := match o.home with
    | .local l => w64 l.va
    | .remote a _ => a
  match o.kind, o.home with
  | .amo _ _, _ => some ⟨9, outcome, core, 0, addr⟩
  | .cas _ _, _ => some ⟨9, outcome, core, 0, addr⟩
  | .cas2 _ _ _, _ => some ⟨9, outcome, core, 0, addr⟩
  | .load _ _, .remote _ _ => some ⟨12, outcome, core, 0, addr⟩
  | .loadCap _ _, .remote _ _ => some ⟨12, outcome, core, 0, addr⟩
  | _, _ => none

/-- R379, R409. The entry of a deposit for a context that it has not yet received; its ID is the remote address of the context's mailbox
on this device (DESIGN CHOICE, log 103). -/
def State.depositItem (s : State) (c : CtxId) (outcome : Nat) : FailItem :=
  let slot := if c.slot = control then 0 else c.slot + 1
  ⟨13, outcome, c.core, 0, w64 (2 ^ 63 + s.fabid.toNat * 2 ^ 44 + c.core * 2 ^ 35 + 8 * slot)⟩

/-- R377. The atomics in flight and the outstanding remote loads of a context are settled, and the deposits that it has not yet
received. -/
def State.settleCtx (s : State) (c : CtxId) (x : Ctx) (mine : BitVec 6 → Bool) : State :=
  let s1 := (x.pend.filter (fun o => mine o.dom)).foldl (fun t o =>
    match o.failItem c.core (t.outcomeAt c.core 1) with
    | none => t
    | some i => t.settled o.dom i) s
  (x.spill.filter (fun p => mine p.2)).foldl (fun t p => t.settled p.2 (t.depositItem c (t.outcomeAt c.core 3))) s1

/-! ## Contexts (R377 steps 2 and 4) -/

/-- R354, R377. An item of a core leaves its counters as failed; a node that it carries out is to become FAILED. -/
def State.itemFails (s : State) (core : Nat) (it : LaunchItem) : State :=
  match it.node with
  | some (die, i, gen) => s.modNode die i (fun n => if n.gen = gen then (n.memberEnded core).failed else n)
  | none => s.leaveLevels it

/-- R377. The entries of contexts, in order, and their accesses. -/
def State.recordCtxs (s : State) (d : BitVec 6) (core : Nat) (m : SMap Ctx) : State :=
  let live := (inOrder m).filter (fun p => p.2.liveIn d)
  let s1 := live.foldl (fun t p => t.writeItem d ⟨1, 2, core, 0, p.2.pc⟩) s
  live.foldl (fun t p => t.settleCtx ⟨core, p.1⟩ p.2 (fun _ => true)) s1

/-- R275, R377. Threads that contexts of the domain have started end with them. -/
def State.settleThreads (s : State) (d : BitVec 6) (cl : Nat) : State :=
  let mine := (s.cluster cl).threads.filter (fun t => t.2.state == .run && t.2.who.dom == d)
  (mine.foldl (fun t p => t.settled d ⟨10, 2, p.2.who.core, 0, w64 p.1⟩) s).modCluster cl (fun k =>
    { k with
      digestQ := k.digestQ.filter (fun n => (k.thread n).who.dom != d)
      threads := k.threads.filter (fun t => !(t.2.who.dom == d && t.2.state != .free)) })

/-- R372, R377. Transfers of other domains to a core whose contexts stop are discarded. -/
def State.dropReceiver (s : State) (d : BitVec 6) (core : Nat) : State :=
  (s.xfers.filter (fun x => x.dstCore == core && x.dom != d)).foldl (fun t x => t.discardXfer x) s

/-- R377 steps 2 to 6. The contexts of a core stop, with its engine work. -/
def State.stopCore (s : State) (d : BitVec 6) (core : Nat) : State :=
  let s1 := ((s.recordCtxs d core (s.core core).ctxs).settleThreads d (clusterOf core)).settleCore core (fun _ => true)
  (((s1.dropReceiver d core).stopContexts core).endItem core true).membersLost core (s.core core).current.toList

/-- R377, R378. The contexts of a pre-empted core's item are gone, their images with them; its handler runs on. -/
def State.stopSuspended (s : State) (d : BitVec 6) (core : Nat) : State :=
  let c := s.core core
  let s1 := s.recordCtxs d core c.suspended
  let s2 := match c.held with
    | none => s1
    | some h => s1.settleHeld core h (fun _ => true)
  let s3 := match c.current with
    | none => s2
    | some it => s2.itemFails core it
  ((s3.modCore core (fun k => { k with suspended := [], held := none, current := none })).dropReceiver d core).membersLost core
    c.current.toList

/-- R377. The saved work of a switched-out item: that of its control context's latest image. -/
def State.savedWork (s : State) (m : SMap Ctx) : Option Held :=
  (SMap.find m control).bind (fun x => (s.images.find? (fun e => x.saved.isSome && e.uid == x.uid)).bind (·.work))

/-- R377. Switched-out items of a domain are gone, their images with them. -/
def State.stopAway (s : State) (d : BitVec 6) (core : Nat) : State :=
  let gone := (s.core core).away.filter (fun a => a.2.1.any (fun p => p.2.liveIn d))
  if gone.isEmpty then s
  else
    let s1 := gone.foldl (fun t a =>
      let t1 := t.recordCtxs d core a.2.1
      let t2 := match t1.savedWork a.2.1 with
        | none => t1
        | some h => t1.settleHeld core h (fun _ => true)
      t2.itemFails core a.1) s
    (s1.modCore core (fun k => { k with away := k.away.filter (fun a => !a.2.1.any (fun p => p.2.liveIn d)) })).membersLost core
      (gone.map (·.1))

/-- R377 step 1. Queued items of a domain leave their counters as failed. -/
def State.stopQueued (s : State) (d : BitVec 6) (core : Nat) : State :=
  let gone := (s.core core).queue.filter (fun it => it.dom == d)
  gone.foldl (fun t it => t.itemFails core it)
    (s.modCore core (fun k => { k with queue := k.queue.filter (fun it => it.dom != d) }))

/-- R377 step 2. A core's contexts of a domain stop: at once where they stand at group boundaries or their die is fenced, and otherwise
at their next boundaries, by `terminateHere`. -/
def State.stopOn (s : State) (d : BitVec 6) (core : Nat) : State :=
  let s1 := (s.stopQueued d core).stopAway d core
  let c := s1.core core
  if !c.runs d then s1
  else if c.preempted then s1.stopSuspended d core
  else if c.atBoundary || s1.coreFenced core then s1.stopCore d core
  else s1

/-! ## Work beyond the cores (R377 step 3) -/

/-- R377. Posts of a domain: those not started are discarded, the others complete, or fail where they cannot. -/
def State.settlePosts (s : State) (d : BitVec 6) (cl : Nat) : State :=
  let mine := (s.cluster cl).posts.filter (fun p => p.who.dom == d)
  let s1 := (mine.filter (fun p => !p.started)).foldl (fun t p =>
    (t.retirePost cl p).settled d ⟨5, t.outcomeAt p.ctx.core 3, p.ctx.core, 0, w64 p.num⟩) s
  (mine.filter (·.started)).foldl (fun t p =>
    if t.coreFenced p.ctx.core then (t.retirePost cl p).settled d ⟨5, 2, p.ctx.core, p.done, w64 p.num⟩
    else
      let (t1, p1, stop) := t.postRows p (p.n - p.done)
      (t1.retirePost cl p1).settled d ⟨5, if stop.isNone then 1 else 2, p.ctx.core, p1.done, w64 p.num⟩) s1

/-- R313, R377. Nodes of a domain become FAILED. -/
def State.settleNodes (s : State) (d : BitVec 6) (die : Nat) : State :=
  let mine := (s.die die).nodes.filter (fun p => p.2.state != .free && p.2.state != .failed && p.2.who.dom == d)
  mine.foldl (fun t p =>
    (t.failNode die p.1).settled d
      ⟨6, if p.2.state = .running || s.dfence.getLsbD die then 2 else 3, p.2.who.core, 0, nodeHandle die p.2.gen p.1⟩) s

/-- R337. The admitted searches of a partition run. -/
def State.runSearches (s : State) (u base : Nat) : State :=
  (List.range (s.unitOps u).length).foldl (fun t k =>
    match t.unitOpAt u k with
    | none => t
    | some o =>
      if o.phase.isAdmitted && o.rec_.base == base then
        match t.runSearch o with
        | .ok (t1, ph) => t1.modUnit u k (fun x => { x with phase := ph })
        | .error f => t.modUnit u k (fun x => { x with phase := RamblePhase.failed f.cause f.val })
      else t) s

/-- R337, R345. An operation of a unit runs to its end: the state, and whether it completed. -/
def State.runUnit (s : State) (u k : Nat) : State × Bool :=
  match s.unitOpAt u k with
  | none => (s, false)
  | some o =>
    let s1 := s.runSearches u o.rec_.base
    if o.phase.isArrived then
      match s1.admitOp o with
      | .error _ => (s1, false)
      | .ok (s2, ph) =>
        match s2.runSearch { o with phase := ph } with
        | .error _ => (s2, false)
        | .ok (s3, _) => (s3, true)
    else
      match (s1.unitOpAt u k).map (fun x : RambleOp => x.phase) with
      | some (.failed _ _) => (s1, false)
      | _ => (s1, true)

/-- R345, R377, R381. Operations of a domain in a unit run to their ends, whatever becomes of the die of their context, and their replies
are discarded; in a unit of a fenced die they fail. -/
def State.settleUnit (s : State) (d : BitVec 6) (u : Nat) : State :=
  let n := (s.unitOps u).length
  let s1 := (List.range n).foldl (fun t k =>
    match t.unitOpAt u k with
    | none => t
    | some o =>
      if o.who.dom != d then t
      else
        let (t1, ok) := if t.unitFenced u then (t, false) else t.runUnit u k
        t1.settled d ⟨if o.mutates then 8 else 7, if ok then 1 else 2, o.ctx.core, 0, w64 o.seq⟩) s
  s1.setUnit u ((s1.unitOps u).filter (fun o => o.who.dom != d))

/-- R372. The remaining beats of a transfer land, `fuel` at most. -/
def State.landAll (s : State) (num : Nat) : Nat → State
  | 0 => s
  | n + 1 =>
    match s.xfer num with
    | none => s
    | some x => (s.landBeat x).landAll num n

/-- R372, R377. Slot transfers of a domain. -/
def State.settleXfers (s : State) (d : BitVec 6) : State :=
  s.xfers.foldl (fun t x =>
    let n := beatsOf x.len
    if x.dom == d then
      if !x.started then (t.discardXfer x).settled d ⟨11, t.outcomeAt x.ctx.core 3, x.ctx.core, 0, w64 x.num⟩
      else if t.coreFenced x.ctx.core || t.coreFenced x.dstCore then
        (t.discardXfer x).settled d ⟨11, 2, x.ctx.core, x.landed, w64 x.num⟩
      else (t.landAll x.num n).settled d ⟨11, 1, x.ctx.core, n, w64 x.num⟩
    else t) s

/-- R375, R377. The held work of a domain on a core, whose suspended contexts are other domains', is settled. -/
def State.settleSuspended (s : State) (core : Nat) (mine : BitVec 6 → Bool) : State :=
  match (s.core core).held with
  | none => s
  | some h => (s.settleHeld core h mine).modCore core (fun k => { k with
      held := some (h.without mine)
      suspended := k.suspended.map (fun p => (p.1, if p.1 = control then p.2.withoutHeld h mine else p.2)) })

/-- R375, R377. The same for the work in the images of a core's switched-out items. -/
def State.settleAway (s : State) (core : Nat) (mine : BitVec 6 → Bool) : State :=
  (s.core core).away.foldl (fun t a =>
    match SMap.find a.2.1 control, t.savedWork a.2.1 with
    | some x, some h => (t.settleHeld core h mine).modOwner ⟨core, control⟩ x.uid (·.withoutHeld h mine)
    | _, _ => t) s

/-- R375, R377. The work of a domain in every image is dropped. -/
def State.dropImages (s : State) (mine : BitVec 6 → Bool) : State :=
  { s with images := s.images.map (fun e => { e with work := e.work.map (·.without mine) }) }

/-- R375, R377. What a terminated domain has left on cores whose contexts are other domains' now: engine work, also that which is held for
suspended and switched-out items, accesses and deposits. -/
def State.settleTagged (s : State) (d : BitVec 6) : State :=
  let mine := fun (x : BitVec 6) => x == d
  let s1 := (s.cores.map (·.1)).foldl (fun t core =>
    let t1 := ((t.settleCore core mine).settleSuspended core mine).settleAway core mine
    ((t1.core core).allCtxs.foldl (fun u p => u.settleCtx ⟨core, p.1⟩ p.2 mine) t1).modCore core
      (·.mapCtxs (fun _ x => { x with spill := x.spill.filter (fun p => p.2 != d) }))) s
  s1.dropImages mine

/-- R377 step 3. Everything of a domain beyond its contexts is settled. -/
def State.settleRest (s0 : State) (d : BitVec 6) : State :=
  let s := s0.settleTagged d
  let cls := List.range Config.clusters
  let s1 := cls.foldl (fun t c => t.settleThreads d c) ((List.range Config.dies).foldl (fun t k => t.settleNodes d k) s)
  let s2 := cls.foldl (fun t c => t.settlePosts d c) (s1.settleXfers d)
  (List.range 8).foldl (fun t u => t.settleUnit d u) s2

/-- R377. The settled items of a domain written after those of its contexts. -/
def State.flushItems (s : State) (d : BitVec 6) : State :=
  match SMap.find s.terms d.toNat with
  | none => s
  | some t => t.items.foldl (fun u i => u.writeItem d i) { s with terms := SMap.set s.terms d.toNat { t with items := [] } }

/-- R377. Some core has a live context of a domain. -/
def State.someCoreRuns (s : State) (d : BitVec 6) : Bool := (List.range Config.cores).any (fun c => (s.core c).runs d)

/-- R377. Once every context of a domain has stopped, its other items are settled and recorded. -/
def State.settleAll (s : State) (d : BitVec 6) : State := if s.someCoreRuns d then s else (s.settleRest d).flushItems d

/-- R377. At a group boundary of a context whose domain is terminated: its core stops once all its contexts stand at one. -/
def State.terminateHere (s : State) (c : CtxId) : State :=
  let d := (s.ctx c).dom
  if (s.core c.core).atBoundary then (s.stopCore d c.core).settleAll d else s

/-! ## Termination (R377, R378) and fences (R381) -/

/-- Where an error lies, for a record's header: STRUCT, DIE and CORE. -/
structure Charge where
  dom : BitVec 6
  struct : Nat
  die : Nat
  core : Nat
  deriving DecidableEq, Repr

/-- R379. CORE of a structure that belongs to no core. -/
def noCore : Nat := 0x1FF

/-- R377 step 6, R419. The jobs that have a context of a domain on this device. -/
def State.jobsWith (s : State) (d : BitVec 6) : List Nat :=
  ((List.range Config.cores).flatMap (fun c =>
    let k := s.core c
    ((k.current.toList.filter (fun _ => k.runs d)) ++ (k.away.filter (fun a => a.2.1.any (fun p => p.2.liveIn d))).map (·.1)).map
      (·.job))).eraseDups

/-- R377 step 1. A termination is registered: DTERM, the record's header, the trigger of the Lantern (R383), and an abort token for
each group that contains a context of the domain. -/
def State.register (s : State) (c : Charge) : State :=
  let d := c.dom
  let s0 := (s.jobsWith d).foldl (fun t j => t.sendToken j 0xFFFFFFFF) (s.revokeKeys d)
  let s1 := { s0 with dterm := s.dterm ||| BitVec.ofNat 64 (2 ^ d.toNat), terms := SMap.set s.terms d.toNat ⟨0, 0, []⟩ }
  (s1.physWrite (s.failAddr d) 64 (failHeader c.struct c.die c.core s.cycle.toNat)).lanternTrigger 3

/-- R377, R378. Domain termination: the owner of the failed entry stops, then the contexts on every core; a domain already
terminated only counts the error. -/
def State.terminate (s : State) (c : Charge) (owner : State → State) : State :=
  let d := c.dom
  if s.terminated d then s.countError d
  else
    ((List.range Config.cores).foldl (fun t k => t.stopOn d k) (owner (s.register c))).settleAll d

/-- R375. Held work has something of a domain. -/
def Held.has (h : Held) (d : BitVec 6) : Bool :=
  h.copies.any (fun k => k.dom == d) || h.mxq.any (fun op => op.dom == d) || h.seq.any (·.holds (· == d))

/-- R375, R379. A core has work tagged with a domain, whoever its contexts are now: engine work, held work, atomics in flight, outstanding
remote loads, and deposits not yet received. -/
def State.taggedOn (s : State) (core : Nat) (d : BitVec 6) : Bool :=
  let k := s.core core
  (s.holdWork core).has d || k.held.any (·.has d) || k.away.any (fun a => (s.savedWork a.2.1).any (·.has d)) ||
    k.allCtxs.any (fun p => p.2.pend.any (fun o => o.dom == d && (o.failItem core 1).isSome) || p.2.spill.any (fun e => e.2 == d))

/-- R381. A domain has an item on a die. -/
def State.onDie (s : State) (die : Nat) (d : BitVec 6) : Bool :=
  let cores := dieCores die
  cores.any (fun k => (s.core k).runs d || (s.core k).queue.any (fun it => it.dom == d) ||
      (s.core k).away.any (fun a => a.2.1.any (fun p => p.2.liveIn d)) || s.taggedOn k d) ||
    (dieClusters die).any (fun c => (s.cluster c).posts.any (fun p => p.who.dom == d) ||
      (s.cluster c).threads.any (fun t => t.2.state != .free && t.2.who.dom == d)) ||
    (s.die die).nodes.any (fun p => p.2.state != .free && p.2.who.dom == d) ||
    [2 * die, 2 * die + 1].any (fun u => (s.unitOps u).any (fun o => o.who.dom == d)) ||
    s.xfers.any (fun x => x.dom == d && (dieOf x.ctx.core == die || dieOf x.dstCore == die))

/-- R378. A termination under way is completed: the contexts of its domain stop where they stand, and everything is settled. -/
def State.completeTermination (s : State) (d : BitVec 6) : State :=
  let left := (List.range Config.cores).filter (fun k => (s.core k).runs d)
  (left.foldl (fun t k => if (t.core k).preempted then t.stopSuspended d k else t.stopCore d k) s).settleAll d

/-- The domains that can be terminated (R376). -/
def domains : List (BitVec 6) := (List.range 62).map (fun k => BitVec.ofNat 6 (k + 1))

/-- R378, R381. A die is fenced: terminations under way on it are completed first; then its agents stop, the domains with items there are
terminated, and every virtual device receives its fence interrupt. -/
def State.fence (s : State) (die struct core : Nat) : State :=
  if s.dfence.getLsbD die then s
  else
    let s0 := domains.foldl (fun t d => if t.terminated d && t.onDie die d then t.completeTermination d else t) s
    let s1 := { s0 with dfence := s0.dfence ||| BitVec.ofNat 4 (2 ^ die) }
    let s2 := domains.foldl (fun t d =>
      if !t.onDie die d then t
      else if t.terminated d then t.completeTermination d
      else t.terminate ⟨d, struct, die, core⟩ id) s1
    (s2.lanternTrigger 3).interruptAll 1

/-- R380. The code of an error in a die's control state, or of a device reset: one of the listed codes, which the spec leaves open
(DESIGN CHOICE, log 57). -/
def fenceCode (n : Nat) : Nat := 1 + (Config.fenceStruct n).toNat % 16

/-- R376. A tagged entry is charged to its domain; one of domain 0 or 63 fences its die. What owns the failed entry stops first, where it
stands. -/
def State.charge (s : State) (c : Charge) (owner : State → State) : State :=
  if c.dom = 0 ∨ c.dom = 63 then (owner s).fence c.die c.struct c.core else s.terminate c owner

/-- R377 step 7. TERMINATION_DONE: DONE is written once every item is recorded, and the domain's virtual device receives vector 0. -/
def execTerminationDone (d : BitVec 6) (s : State) : Out :=
  .next (match SMap.find s.terms d.toNat with
    | none => s
    | some t =>
      if s.someCoreRuns d || !t.items.isEmpty then s
      else
        let a := s.failAddr d
        let s1 := { s.physWrite (a + 7) 1 0x80 with terms := SMap.erase s.terms d.toNat }
        match s.vdOf d with
        | none => s1
        | some n => s1.modVdev n (·.interrupt 0))

end Sys2Proof.Machine
end

