-- ==== Sys2Proof/Machine/ControlRegs.lean ====
section
/-!
DEFINITION. Control registers: MOVFC and MOVTC (R108), what each register reads as and what a write to it does (files 01, 04, 06
to 09, 12, 13, 17, 18, 20), and the writes and reads that have a behaviour of their own.
-/

namespace Sys2Proof.Machine

/-! ## The assigned registers -/

/-- R108. The assigned control registers. -/
inductive Creg where
  | status | flags | rnd | trapcause | trappc | trapval | trapprog | uivec | uistat | mbox
  | cycle | stepcyc | budget | deadline | cnts
  | tshape (k : Nat)
  | parkstat | fntol | fnstat
  | rkey (k : Nat)
  | tgen | scopegen | cpseq | mxseq | ageing
  | tvec | estatus | domain | dbgctl | vsqctl | vsqpc | vsqrem | mxctl | otbase | otlimit | prvec | savebase | livebase
  | cpctl | cpprog | clstat | xlbase | xlinv | memsize | hmpctl | jobbase | joblimit | stdsel | stdjob
  | stdmask (k : Nat)
  | frbase | dterm | dfence | lnctl | lnbase | lnstat | vdsel | vdctl | vddom | vdirq | grpbase | fabctl | hrbase | portstat
  deriving DecidableEq, Repr

/-- R108. The numbers of the user registers. -/
def userRegs : List (Nat × Creg) :=
  [ (0x000, .status), (0x001, .flags), (0x002, .rnd), (0x003, .trapcause), (0x004, .trappc), (0x005, .trapval)
  , (0x006, .trapprog), (0x008, .uivec), (0x009, .uistat), (0x00A, .mbox), (0x010, .cycle), (0x011, .stepcyc)
  , (0x012, .budget), (0x013, .deadline), (0x018, .cnts), (0x028, .parkstat), (0x029, .fntol), (0x02A, .fnstat)
  , (0x040, .tgen), (0x041, .scopegen), (0x050, .cpseq), (0x051, .mxseq), (0x060, .ageing) ] ++
  (List.range 8).map (fun k => (0x020 + k, .tshape k)) ++ (List.range 8).map (fun k => (0x030 + k, .rkey k))

/-- R94, R108. The numbers of the privileged registers. -/
def privRegs : List (Nat × Creg) :=
  [ (0x800, .tvec), (0x801, .estatus), (0x802, .domain), (0x803, .dbgctl), (0x810, .vsqctl), (0x811, .vsqpc)
  , (0x812, .vsqrem), (0x818, .mxctl), (0x820, .otbase), (0x821, .otlimit), (0x824, .prvec), (0x828, .savebase)
  , (0x829, .livebase), (0x830, .cpctl), (0x831, .cpprog), (0x840, .clstat), (0x850, .xlbase), (0x851, .xlinv)
  , (0x852, .memsize), (0x860, .hmpctl), (0x870, .jobbase), (0x871, .joblimit), (0x880, .stdsel), (0x881, .stdjob)
  , (0x890, .frbase), (0x891, .dterm), (0x892, .dfence), (0x8A0, .lnctl), (0x8A1, .lnbase), (0x8A2, .lnstat)
  , (0x8B0, .vdsel), (0x8B1, .vdctl), (0x8B2, .vddom), (0x8B3, .vdirq), (0x8C0, .grpbase), (0x8C1, .fabctl)
  , (0x8C2, .hrbase), (0x8C3, .portstat) ] ++ (List.range 5).map (fun k => (0x882 + k, .stdmask k))

/-- R94. A privileged register number. -/
def regPrivileged (n : Nat) : Bool := decide (0x800 ≤ n)
/-- R108. The register of a number. -/
def cregOf (n : Nat) : Option Creg :=
  (if regPrivileged n then privRegs.find? (·.1 == n) else userRegs.find? (·.1 == n)).map (·.2)

/-- R78, R175, R206, R207, R248, R188, R242. The registers that a helper may not read, and may not write. -/
def Creg.helperReads : Creg → Bool
  | .tshape _ => false
  | .parkstat => false
  | .fntol => false
  | .fnstat => false
  | .mxseq => false
  | .cpseq => false
  | _ => true
def Creg.helperWrites : Creg → Bool
  | .cpseq => true
  | r => r.helperReads

/-! ## Reading -/

/-- R385. VDCTL; RST reads 0. -/
def VDev.vdctl (d : VDev) : Word := w64 (d.fqos.toNat * 2 ^ 16 + d.mqos.toNat * 2 ^ 8 + (if d.en then 1 else 0))
/-- An optical port. -/
def State.port (s : State) (p : Nat) : Port := SMap.getD s.ports p Port.reset
/-- R400. PORTSTAT. -/
def State.portstat (s : State) : Word :=
  w64 (((List.range 8).map (fun p => (s.port p).state.toNat * 16 ^ p)).foldl (· + ·) 0)
/-- R322. HMPCTL. -/
def Die.hmpctl (d : Die) : Word := w64 (d.rmax.toNat * 2 ^ 40 + d.dmul.toNat * 2 ^ 32 + d.age.toNat)

/-- The value of a control register for the current context (R108); fields a helper lacks read 0. -/
def State.readReg (s : State) (r : Creg) : Word :=
  let x := s.me
  let c := s.myCore
  let j := s.jobOf c.job
  let own := fun (w : Word) => if s.helper then 0 else w
  match r with
  | .status => x.statusWord s.cur.slot
  | .flags => zext x.flags
  | .rnd => zext x.rnd
  | .trapcause => zext x.trapCause
  | .trappc => x.trapPc
  | .trapval => x.trapVal
  | .trapprog => x.trapProg
  | .uivec => own x.uivec
  | .uistat => own (w64 x.uistat)
  | .mbox => if s.helper then zext (x.mbox &&& 0x7F) else zext x.mbox
  | .cycle => s.cycle
  | .stepcyc => w64 (s.stepcyc s.cur.core)
  | .budget => w64 ((c.runningSlice.map (·.left)).getD 0 % 2 ^ 32)
  | .deadline => w64 ((c.runningSlice.map (·.deadline)).getD 0)
  | .cnts => w64 (s.cntsOf s.cur)
  | .tshape k => c.tshapeWord k
  | .parkstat => c.parkstat
  | .fntol => c.fntol
  | .fnstat => c.fnstat
  | .rkey k => zext (SMap.getD j.rkeys k 0)
  | .tgen => zext j.tgen
  | .scopegen => zext j.scopegen
  | .cpseq => c.cpseq
  | .mxseq => c.mxseq
  | .ageing => zext (s.die (dieOf s.cur.core)).age
  | .tvec => x.tvec
  | .estatus => x.estatus
  | .domain => zext x.dom
  | .dbgctl => flag x.dbgctl
  | .vsqctl => c.vsqctl
  | .vsqpc => c.vsqPc
  | .vsqrem => c.vsqrem
  | .mxctl => c.mxctl
  | .otbase => c.otbase
  | .otlimit => w64 c.otlimit
  | .prvec => c.prvec
  | .savebase => x.savebase
  | .livebase => c.livebase
  | .cpctl => c.cpctl
  | .cpprog => c.cpprog
  | .clstat => (s.cluster (clusterOf s.cur.core)).clstat
  | .xlbase => x.xlbase
  | .xlinv => 0
  | .memsize => w64 Config.memSize
  | .hmpctl => (s.die (dieOf s.cur.core)).hmpctl
  | .jobbase => s.jobbase
  | .joblimit => w64 s.joblimit
  | .stdsel => zext s.stdsel
  | .stdjob => zext (s.stileDom s.stdsel.toNat).job
  | .stdmask k => SMap.getD (s.stileDom s.stdsel.toNat).mask k 0
  | .frbase => s.frbase
  | .dterm => s.dterm
  | .dfence => zext s.dfence
  | .lnctl => zext s.lnctl
  | .lnbase => s.lnbase
  | .lnstat => zext s.lnseq
  | .vdsel => zext s.vdsel
  | .vdctl => (s.vdev s.vdsel.toNat).vdctl
  | .vddom => (s.vdev s.vdsel.toNat).doms
  | .vdirq => 0
  | .grpbase => s.grpbase
  | .fabctl => w64 ((if s.hr then 2 ^ 16 else 0) + s.fabid.toNat)
  | .hrbase => s.hrbase
  | .portstat => s.portstat

/-- R24, R154. The sequencer has executed every vector instruction of the context; a suspended one counts as not issued. -/
def State.vectorsDone (s : State) : Bool := s.helper || s.myCore.seq.isEmpty || s.myCore.vsqSusp

/-- R24. Every earlier scalar, vector and function instruction of the context has merged its flags. -/
def State.flagsReady (s : State) : Bool := s.vectorsDone && (s.helper || s.myCore.functionsDone)

/-- R24, R207. A read of a register need not wait. -/
def State.readReady (s : State) : Creg → Bool
  | .flags => s.flagsReady
  | .fnstat => s.myCore.functionsDone
  | _ => true

/-! ## Writing -/

/-- The bits of a word from a mask. -/
def masked (w m : Word) : Word := w &&& m

/-- R153, R188, R244. A write to VSQCTL, MXCTL or CPCTL acts where DISCARD is 1; CPCTL.DISCARD discards slot transfers that
have not started, which count with the copies (R97, R374), whether or not the engine is suspended. -/
def State.discardIf (s : State) (v : Word) (f : State → State) : State := if v.getLsbD 0 then f s else s
def State.discardCopyEngine (s : State) (core : Nat) : State :=
  (s.discardXfers core (s.core core).ctxs).discardCopies core

/-- R93, R260. No core of the cluster, the current control context apart, holds a live or suspended context of the owner, or the
new domain is the owner. -/
def State.domainAllows (s : State) (v : BitVec 6) : Bool :=
  let cl := clusterOf s.cur.core
  let owner := (s.cluster cl).cldom
  owner == v || (List.range 8).all (fun j =>
    let k := 8 * cl + j
    let c := s.core k
    if k = s.cur.core then !{ c with ctxs := c.ctxs.filter (fun p => p.1 != control) }.holdsDom owner
    else !c.holdsDom owner)

/-- R93. The checks of a write to DOMAIN. -/
def State.domainLegal (s : State) (v : Word) : Bool :=
  let d : BitVec 6 := v.setWidth 6
  d == s.me.dom || (!s.helper && s.busySlots s.cur.core == 0 && s.domainAllows d)

/-- R229, R250. The current context is the resident pre-emption handler. -/
def State.isResident (s : State) : Bool := s.myCore.preempted && s.cur.slot == control

/-- R93, R229, R260. A write to DOMAIN: the core and the cluster scrub before the context issues again; the domain of the resident handler
changes neither. -/
def State.writeDomain (s : State) (v : Word) : State :=
  let d : BitVec 6 := v.setWidth 6
  let set := fun (t : State) => t.modMe (fun c => { c with dom := d })
  if d = s.me.dom then s else if s.isResident then set s else set (s.scrubFor s.cur.core d)

/-- R385. A domain of the value belongs to another virtual device. -/
def State.domsOverlap (s : State) (v : Word) : Bool :=
  (List.range 16).any (fun n => n != s.vdsel.toNat && ((s.vdev n).doms &&& v &&& 0x7FFFFFFFFFFFFFFE) != 0)

/-- R322. The fields of HMPCTL are in their ranges. -/
def hmpLegal (v : Word) : Bool :=
  decide (1 ≤ bits v 47 40) && decide (1 ≤ bits v 39 32) && decide (256 ≤ bits v 31 0) && decide (bits v 31 0 ≤ 2 ^ 24)

/-- R293. A value of XLINV is in order. -/
def xlinvLegal (v : Word) : Bool := bits v 63 55 == 0 && bits v 15 10 == 0 && bits v 7 6 == 0 && bits v 9 8 != 3

/-- The values that a register accepts; the rest raise ILLEGAL_OPERAND with TRAPVAL holding the value. -/
def State.writeLegal (s : State) (r : Creg) (v : Word) : Bool :=
  match r with
  | .fntol => tolLegal v
  | .domain => s.domainLegal v
  | .xlinv => xlinvLegal v
  | .hmpctl => hmpLegal v
  | .vddom => !s.domsOverlap v
  | .vdirq => bits v 63 5 == 0
  | _ => true

/-! ### Translations (R293) -/

/-- R293. A cached entry matches a value of XLINV. -/
def CachedEntry.matches (e : CachedEntry) (v : Word) : Bool :=
  match bits v 9 8 with
  | 0 => e.dom == v.setWidth 6 && (if e.level = 1 then e.page / 2 ^ 13 == bits v 54 29 else e.page == bits v 54 16)
  | 1 => e.dom == v.setWidth 6
  | _ => true

/-- R293. Matching entries removed from every cache. -/
def State.invalidate (s : State) (v : Word) : State := { s with xcache := s.xcache.filter (fun e => !e.matches v) }

/-- R293. A pending access of a context may have used an entry that a value of XLINV removes. -/
def PendOp.usesEntry (o : PendOp) (dom : BitVec 6) (v : Word) : Bool :=
  o.isAccess && !o.kind.isUnit && (match o.home with
    | .remote _ _ => false
    | .local l => (l.space == .main || l.space == .host) && decide (0 < o.size) &&
        (match bits v 9 8 with
          | 0 => dom == v.setWidth 6 && l.va / 2 ^ 29 == bits v 54 29
          | 1 => dom == v.setWidth 6
          | _ => true))

/-- R293. No access that used a removed entry remains unperformed. -/
def State.entriesUnused (s : State) (v : Word) : Bool :=
  s.cores.all (fun p => p.2.allCtxs.all (fun q => q.2.pend.all (fun o => !o.usesEntry o.dom v)))

/-! ### Virtual devices (R385, R387, R390) -/

/-- R287, R390. The leaf entry that maps an address, whatever it permits. -/
def State.leafBelow (s : State) (va : Word) : List Nat → Nat → Option Leaf
  | [], _ => none
  | l :: rest, t =>
    let a := t + 8 * levelIndex va l
    let e : Word := w64 (s.main.read a 8)
    if Config.memSize < t + 65536 || !Entry.valid e || Entry.mustBeZero e l then none
    else if Entry.leaf e then (if l = 0 then none else some ⟨e, l, a⟩)
    else s.leafBelow va rest (Entry.pa e * 2 ^ 16)
def State.leafOf (s : State) (xlbase va : Word) : Option Leaf :=
  if xlbase.getLsbD 0 then s.leafBelow va [0, 1, 2] (bits xlbase 47 16 * 2 ^ 16) else none

/-- R390. The leaf entries of a region made unsealed where they map its pages, whatever access they permit. -/
def State.clearSealBits (s : State) (x : SealSlot) : State :=
  (List.range (x.len / 2 ^ 16)).foldl (fun t k =>
    match t.leafOf x.who.xlbase (x.addr + w64 (2 ^ 16 * k)) with
    | none => t
    | some l =>
      if x.pages.contains (((Entry.place l.entry l.level (x.addr + w64 (2 ^ 16 * k))).off) / 2 ^ 16) then
        { t with main := t.main.write l.at_ 8 (l.entry &&& ~~~((1 : Word) <<< 53)).toNat
                 xcache := t.xcache.filter (fun e => !(e.dom == x.who.dom && e.page == bits (x.addr + w64 (2 ^ 16 * k)) 54 16)) }
      else t) s

/-- R390. A seal slot released, and its pages unsealed. -/
def State.releaseSeal (s : State) (k : Nat) : State :=
  match SMap.find s.seals k with
  | none => s
  | some x => { (s.clearSealBits x) with
      seals := SMap.erase s.seals k, sealedPages := x.pages.foldl (fun l p => NSet.del l p) s.sealedPages }

/-- R387. A virtual device is reset: its domains are terminated, its jobs are off, its seal slots are released, and its windows
are closed. -/
def State.resetDevice (s : State) (vd : Nat) : State :=
  let doms := (s.vdev vd).doms
  let mine := (List.range 62).map (fun k => BitVec.ofNat 6 (k + 1)) |>.filter (fun d => doms.getLsbD d.toNat)
  let jobs := (List.range s.joblimit).filter (fun j => s.jobState j != 0 && doms.getLsbD (s.jobDom j))
  let s1 := mine.foldl (fun t d =>
    { t with freeN := t.freeN + 1 }.terminate ⟨d, fenceCode t.freeN, dieOf t.cur.core, noCore⟩ id) s
  let s2 := jobs.foldl (fun t j => { (t.setJobState j 0) with
    cores := t.cores.map (fun (p : Nat × Core) => (p.1, { p.2 with slices := p.2.slices.filter (fun x => x.job != j) })) }) s1
  let s3 := ((List.range 64).filter (fun k => (SMap.find s2.seals k).any (·.vd == vd))).foldl (fun t k => t.releaseSeal k) s2
  s3.modVdev vd (fun d => { d with en := false })

/-- R385. A write to VDCTL of the selected device. -/
def State.writeVdctl (s : State) (v : Word) : State :=
  let vd := s.vdsel.toNat
  let s1 := s.modVdev vd (fun d => { d with fqos := v.extractLsb' 16 8, mqos := v.extractLsb' 8 8, en := v.getLsbD 0 })
  if v.getLsbD 1 then s1.resetDevice vd else s1

/-- R382. A write to DTERM clears the bits whose records are DONE. -/
def State.clearDterm (s : State) (v : Word) : State :=
  { s with dterm := (List.range 64).foldl (fun w d =>
      if v.getLsbD d && (SMap.find s.terms d).isNone then w &&& ~~~((1 : Word) <<< d) else w) s.dterm }

/-- The core's selected Stile domain changed. -/
def State.modStileDom (s : State) (f : StileDom → StileDom) : State :=
  { s with stile := SMap.set s.stile s.stdsel.toNat (f (s.stileDom s.stdsel.toNat)) }

/-- The state after a write of a value that the register accepts; fields a helper lacks ignore it, and so does a read-only
register. -/
def State.writeReg (s : State) (r : Creg) (v : Word) : State :=
  let job := s.myCore.job
  let core := s.cur.core
  let own := fun (f : Ctx → Ctx) => if s.helper then s else s.modMe f
  match r with
  | .status => own (fun c => { c with uie := v.getLsbD 6 })
  | .flags => s.modMe (fun c => { c with flags := v.setWidth 5 })
  | .rnd => s.modMe (fun c => { c with rnd := v.setWidth 2 })
  | .trapcause => s.modMe (fun c => { c with trapCause := v.setWidth 8 })
  | .trappc => s.modMe (fun c => { c with trapPc := v })
  | .trapval => s.modMe (fun c => { c with trapVal := v })
  | .trapprog => s.modMe (fun c => { c with trapProg := v })
  | .uivec => own (fun c => { c with uivec := v })
  | .uistat => own (fun c => { c with cpn := v.extractLsb' 8 8, mbp := v.getLsbD 1, cpp := v.getLsbD 0 })
  | .mbox => s.modMe (fun c => { c with mbox := if s.helper then v.setWidth 8 &&& 0x7F else v.setWidth 8 })
  | .tshape k => s.modMyCore (fun c => { c.reshaped k with tshape := SMap.set c.tshape k (masked v 0xFFF1FF7F) })
  | .fntol => s.modMyCore (fun c => { c with fntol := v })
  | .rkey k => s.modJob job (fun j => { j with rkeys := SMap.set j.rkeys k (v.setWidth 32) })
  | .tgen => s.modJob job (fun j => { j with tgen := v.setWidth 32 })
  | .tvec => s.modMe (fun c => { c with tvec := v })
  | .estatus => s.modMe (fun c => { c with estatus := v })
  | .domain => s.writeDomain v
  | .dbgctl => s.modMe (fun c => { c with dbgctl := v.getLsbD 0 })
  | .vsqctl => s.discardIf v (fun t => t.discardSeq core)
  | .mxctl => s.discardIf v (fun t => t.discardMx core)
  | .otbase => s.modMyCore (fun c => { c with otbase := masked v 0x7FFFFFFFFFFFC0 })
  | .otlimit => s.modMyCore (fun c => { c with otlimit := min 65536 (bits v 16 0) })
  | .prvec => s.modMyCore (fun c => { c with prvec := v })
  | .savebase => s.modMe (fun c => { c with savebase := masked v 0xFFFFFFFFFFFFF000 })
  | .livebase => s.modMyCore (fun c => { c with livebase := masked v 0xFFFFFFFFFFFFFFF8 })
  | .cpctl => s.discardIf v (fun t => t.discardCopyEngine core)
  | .xlbase => s.modMe (fun c => { c with xlbase := masked v 0xFFFFFFFF0001 })
  | .hmpctl => s.modDie (dieOf core) (fun d => { d with
      rmax := v.extractLsb' 40 8, dmul := v.extractLsb' 32 8, age := v.setWidth 32 })
  | .jobbase => { s with jobbase := masked v 0x7FFFFFFFFFFFC0 }
  | .joblimit => { s with joblimit := min 4096 (bits v 12 0) }
  | .stdsel => { s with stdsel := v.setWidth 4 }
  | .stdjob => s.modStileDom (fun d => { d with job := v.setWidth 12 })
  | .stdmask k => s.modStileDom (fun d => { d with mask := SMap.set d.mask k v })
  | .frbase => { s with frbase := masked v 0x7FFFFFFFFC0000 }
  | .dterm => s.clearDterm v
  | .lnctl => { s with lnctl := v.setWidth 8 &&& 0x8F }
  | .lnbase => { s with lnbase := masked v 0xFFFFFFFF8000 }
  | .vdsel => { s with vdsel := v.setWidth 4 }
  | .vdctl => s.writeVdctl v
  | .vddom => s.modVdev s.vdsel.toNat (fun d => { d with doms := masked v 0x7FFFFFFFFFFFFFFE })
  | .vdirq => s.modVdev s.vdsel.toNat (·.interrupt (bits v 4 0))
  | .grpbase => { s with grpbase := masked v 0xFFFFFFFFFFC0 }
  | .fabctl => { s with hr := v.getLsbD 16, fabid := v.setWidth 16 }
  | .hrbase => { s with hrbase := masked v 0xFFFFFFFFFE00 }
  | .xlinv => s
  | .cycle => s
  | .stepcyc => s
  | .budget => s
  | .deadline => s
  | .cnts => s
  | .parkstat => s
  | .fnstat => s
  | .scopegen => s
  | .cpseq => s
  | .mxseq => s
  | .ageing => s
  | .vsqpc => s
  | .vsqrem => s
  | .cpprog => s
  | .clstat => s
  | .memsize => s
  | .dfence => s
  | .lnstat => s
  | .portstat => s

/-- R18, R24. A write to a register need not wait. One of RND waits for the entries that a suspended sequencer holds, too: R154 exempts FLAGS
and CNTS only (log 99). -/
def State.writeReady (s : State) : Creg → Bool
  | .flags => s.flagsReady
  | .rnd => s.helper || s.myCore.seq.isEmpty
  | .xlinv => !s.me.writesPending
  | .vdirq => s.me.hostWrites.isEmpty
  | _ => true

/-- R293. A write to XLINV: once the context's stores are performed the entries are removed, and it completes once no access that
used one remains. -/
def State.writeXlinv (s : State) (v : Word) : State :=
  if s.me.writesPending then s.hold
  else
    let t := s.invalidate v
    t.waitFor (t.entriesUnused v) t.advance

/-! ## MOVFC and MOVTC -/

/-- R108. A read of a register, or its trap. -/
def State.movfcReg (s : State) (d : BitVec 5) (r : Creg) : Chk State := do
  s.needOperand (!s.helper || r.helperReads) s.openVal
  .ok (s.waitFor (s.readReady r) (s.setX d (s.readReg r)).advance)

/-- R108. A write to a register, or its trap. -/
def State.movtcReg (s : State) (r : Creg) (v : Word) : Chk State := do
  s.needOperand (!s.helper || r.helperWrites) s.openVal
  s.needOperand (s.writeLegal r v) v
  .ok (if r = .xlinv then s.writeXlinv v else s.waitFor (s.writeReady r) (s.advance.writeReg r v))

/-- R108. The register of a number, its privilege checked: PRIV at decode in user mode, ILLEGAL_OPERAND where no chapter
assigns the number. -/
def State.named (s : State) (n : Nat) : Chk Creg :=
  if regPrivileged n && !s.me.priv then .error (s.decodeFault Cause.priv s.position)
  else
    match cregOf n with
    | some r => .ok r
    | none => .error (s.trapHere Cause.illegalOperand (w64 n) s.openProg)

/-- R108. MOVFC. -/
def execMovfc (d : BitVec 5) (cr : BitVec 12) (s : State) : Out :=
  s.finish (do
    let r ← s.named cr.toNat
    s.movfcReg d r)
/-- R108. MOVTC. -/
def execMovtc (a : BitVec 5) (cr : BitVec 12) (s : State) : Out :=
  s.finish (do
    let r ← s.named cr.toNat
    s.movtcReg r (s.x a))

/-- R94. A write of a value to a privileged register, as MOVTC makes it. -/
def State.writePrivileged (s : State) (r : Creg) (v : Word) : Out := s.privileged (s.movtcReg r v)

/-- R153. VSQCTL.DISCARD. -/
def execVsqctlDiscard (s : State) : Out := s.writePrivileged .vsqctl 1
/-- R188. MXCTL.DISCARD. -/
def execMxctlDiscard (s : State) : Out := s.writePrivileged .mxctl 1
/-- R244. CPCTL.DISCARD. -/
def execCpctlDiscard (s : State) : Out := s.writePrivileged .cpctl 1

/-- The value of XLINV with a kind in place of its own. -/
def xlinvKind (v : Word) (k : Nat) : Word := (v &&& ~~~(0x300 : Word)) ||| w64 (k * 2 ^ 8)

/-- R293. XLINV of kind 0. -/
def execXlinvPage (v : BitVec 64) (s : State) : Out := s.writePrivileged .xlinv (xlinvKind v 0)
/-- R293. XLINV of kind 1. -/
def execXlinvDomain (v : BitVec 64) (s : State) : Out := s.writePrivileged .xlinv (xlinvKind v 1)
/-- R293. XLINV of kind 2. -/
def execXlinvAll (v : BitVec 64) (s : State) : Out := s.writePrivileged .xlinv (xlinvKind v 2)
/-- R93. A write to DOMAIN. -/
def execDomainWrite (v : BitVec 64) (s : State) : Out := s.writePrivileged .domain v
/-- R18. A write to RND. -/
def execRndWrite (v : BitVec 64) (s : State) : Out := s.finish (s.movtcReg .rnd v)
/-- R24. A write to FLAGS. -/
def execFlagsWrite (v : BitVec 64) (s : State) : Out := s.finish (s.movtcReg .flags v)
/-- R24. A read of FLAGS. -/
def execFlagsRead (d : BitVec 5) (s : State) : Out := s.finish (s.movfcReg d .flags)
/-- R206. A write to FNTOL. -/
def execFntolWrite (v : BitVec 64) (s : State) : Out := s.finish (s.movtcReg .fntol v)
/-- R207. A read of FNSTAT. -/
def execFnstatRead (d : BitVec 5) (s : State) : Out := s.finish (s.movfcReg d .fnstat)
/-- R382. A write to DTERM. -/
def execDtermClear (v : BitVec 64) (s : State) : Out := s.writePrivileged .dterm v
/-- R387. A write to VDCTL with RST. -/
def execVdctlRst (v : BitVec 64) (s : State) : Out := s.writePrivileged .vdctl (v ||| 2)
/-- R385. A write to VDIRQ. -/
def execVdirq (v : BitVec 64) (s : State) : Out := s.writePrivileged .vdirq v

end Sys2Proof.Machine
end

