-- ==== Sys2Proof/Machine/Signature.lean ====
section
/-!
DEFINITION. Signatures (R391): RSASSA-PSS of RFC 8017 with SHA-512, MGF1 with SHA-512, a 64-byte salt and 4096-bit keys.
-/

namespace Sys2Proof.Machine

/-- `b` to the power `e` modulo `n`, for an exponent below 2 to the `fuel`. -/
def modPow (n : Nat) : Nat → Nat → Nat → Nat
  | 0, _, _ => 1 % n
  | fuel + 1, b, e =>
    let r := modPow n fuel (b * b % n) (e / 2)
    if e % 2 = 1 then r * b % n else r

/-- RFC 8017. A number as `n` octets, the most significant first, and back. -/
def octets (n v : Nat) : List Byte := (bytesOfNum n v).reverse
def octetsNum (l : List Byte) : Nat := numOfBytes l.reverse

/-- RFC 8017 (PRESUMED, log 98). MGF1 with SHA-512: `n` octets from a seed. -/
def mgf1 (seed : List Byte) (n : Nat) : List Byte :=
  ((List.range ((n + 63) / 64)).flatMap (fun k => sha512 (seed ++ octets 4 k))).take n

/-- RFC 8017. The hash of a salted message. -/
def pssHash (msg salt : List Byte) : List Byte := sha512 (List.replicate 8 0 ++ sha512 msg ++ salt)
/-- RFC 8017. The 447 octets of a data block that the mask covers. -/
def pssBlock (salt : List Byte) : List Byte := List.replicate 382 0 ++ [1] ++ salt
/-- RFC 8017. A data block under the mask of a hash; its first bit is 0, for 4095 bits are encoded. -/
def pssMask (h db : List Byte) : List Byte :=
  match (db.zip (mgf1 h 447)).map (fun p => p.1 ^^^ p.2) with
  | [] => []
  | b :: rest => (b &&& 0x7F) :: rest

/-- RFC 8017. EMSA-PSS: the encoded message, 512 octets. -/
def pssEncode (msg salt : List Byte) : List Byte :=
  let h := pssHash msg salt
  pssMask h (pssBlock salt) ++ h ++ [0xBC]

/-- R391. The signature of a message under a private key. -/
def pssSign (n d : Nat) (msg salt : List Byte) : BitVec 4096 := BitVec.ofNat 4096 (modPow n 4096 (octetsNum (pssEncode msg salt)) d)

/-- R391. A signature of a message is good under a public key: no other padding, hash or key size is accepted. -/
def pssVerify (n e : Nat) (msg : List Byte) (sig : BitVec 4096) : Bool :=
  let em := octets 512 (modPow n 4096 sig.toNat e)
  let h := (em.drop 447).take 64
  let db := pssMask h (em.take 447)
  let salt := db.drop 383
  decide (2 ^ 4095 ≤ n) && decide (n < 2 ^ 4096) && decide (sig.toNat < n) && em.drop 511 == [0xBC] && (em.getD 0 0).toNat < 128 &&
    db.take 383 == List.replicate 382 0 ++ [1] && pssHash msg salt == h

end Sys2Proof.Machine
end

