-- ==== Sys2Proof/Machine/System.lean ====
section
/-!
DEFINITION. Sealed regions (R388 to R390), the windows of the virtual devices (R386), attestation (R392), power, bring-up and test
access (R393, R394), and what the memory stacks do of themselves (R284).
-/

namespace Sys2Proof.Machine

/-! ## SEAL (R388, R389) -/

/-- R389. A page of a region that SEAL may seal: the physical page, and its leaf entry. -/
structure SealPage where
  page : Nat
  leaf : Leaf
  deriving DecidableEq, Repr

/-- R388 check 3. A page of a region: it translates with W and TGT = 0, its leaf does not extend outside the region, and it is not
sealed. -/
def State.sealPage (s : State) (who : Who) (va : Word) (lo hi : Nat) : Res SealPage := do
  let l ← s.walk who va .store
  let span := Entry.span l.level
  let start := va.toNat / span * span
  let at_ := (Entry.place l.entry l.level va).off / 65536
  ensure (Entry.tgt l.entry == 0 && decide (lo ≤ start) && decide (start + span ≤ hi) && !NSet.has s.sealedPages at_)
    Cause.illegalOperand va
  .ok ⟨at_, l⟩

/-- R388 check 3. Every page of a region, from its `k`-th on. -/
def State.sealPages (s : State) (who : Who) (a : Word) (n : Nat) : Nat → Res (List SealPage)
  | 0 => .ok []
  | m + 1 => do
    let p ← s.sealPage who (a + w64 (65536 * (n - (m + 1)))) a.toNat (a.toNat + 65536 * n)
    let rest ← s.sealPages who a n m
    .ok (p :: rest)

/-- R389. The sealing moment: the pages are marked at their homes, S is set in each leaf entry, and the cached entries go. -/
def State.sealRegion (s : State) (dom : BitVec 6) (a : Word) (ps : List SealPage) : State :=
  ps.zipIdx.foldl (fun t p =>
    let va := a + w64 (65536 * p.2)
    let e : Word := w64 (t.main.read p.1.leaf.at_ 8)
    { t with sealedPages := NSet.add t.sealedPages p.1.page
             main := t.main.write p.1.leaf.at_ 8 (e ||| (1 : Word) <<< 53).toNat }.invalidate
      ((va &&& 0x7FFFFFFFFF0000) ||| zext dom)) s

/-- R389. The lowest free seal slot. -/
def State.freeSeal (s : State) : Option Nat := (List.range 64).find? (fun k => (SMap.find s.seals k).isNone)

/-- R388 checks 1 and 2. -/
def State.sealChecks (s : State) (r : BitVec 5) (a len : Word) : Chk Unit := do
  s.check (do
    checkCapRights (s.g r) s.me.dom s.me.priv .store a
    ensure ((s.g r).covers a.toNat len.toNat) Cause.capBounds a) (s.regProg r)
  s.needOperand (decide (a.toNat % 65536 = 0) && decide (len.toNat % 65536 = 0) && decide (1 ≤ len.toNat) &&
    decide (len.toNat ≤ 2 ^ 32) && decide (a.toNat + len.toNat ≤ 2 ^ 55)) a

/-- R389. A SEAL past its sealing moment: it completes once the digest is there, and traps where hashing met a poisoned granule. -/
def State.sealWait (s : State) (d : BitVec 5) (k : Nat) (poison : Option Word) : Chk State :=
  match poison with
  | some a => .error (s.trapHere Cause.poisonConsumed a s.openProg)
  | none => .ok (if (SMap.find s.seals k).all (·.digest.isSome) then s.completeWait d (w64 k) else s.hold)

/-- R388, R389. SEAL. -/
def execSeal (d a b : BitVec 5) (s : State) : Out :=
  match s.arrival with
  | some (.seal _ (some p)) => .next (s.dropArrival.takeTrap s.cur (s.trapHere Cause.poisonConsumed p s.openProg))
  | some (.seal k none) => s.finish (s.sealWait d k none)
  | _ => s.finish (do
    let at_ := s.x a
    let len := s.x b
    s.sealChecks a at_ len
    if s.me.writesPending then .ok s.hold
    else do
      let n := len.toNat / 65536
      let ps ← s.check (s.sealPages (s.who s.cur) at_ n n) s.openProg
      match s.freeSeal with
      | none => .ok (s.setX d (BitVec.allOnes 64)).advance
      | some k =>
        let x : SealSlot :=
          { dom := s.me.dom, vd := (s.vdOf s.me.dom).getD 16, addr := at_, len := len.toNat, pages := ps.map (·.page)
            who := s.who s.cur, owner := s.cur, uid := s.me.uid, digest := none }
        .ok (({ s.sealRegion s.me.dom at_ ps with seals := SMap.set s.seals k x }).keep (.seal k none)).hold)

/-- R389. The first poisoned granule of a sealed region, by its address there. -/
def State.sealPoison (s : State) (x : SealSlot) : Option Word :=
  (x.pages.zipIdx.findSome? (fun p =>
    (s.main.poison.find? (fun g => g * 16 / 65536 == p.1)).map (fun g => x.addr + w64 (65536 * p.2 + g * 16 % 65536))))

/-- R389. The bytes of a region in address order. -/
def State.sealBytes (s : State) (x : SealSlot) : List Byte :=
  x.pages.flatMap (fun p => (List.range 65536).map (fun k => s.main.byte (65536 * p + k)))

/-- R389. A kept SEAL learns of a poisoned granule. -/
def Ctx.sealPoisoned (c : Ctx) (k : Nat) (a : Word) : Ctx :=
  { c with arrivals := c.arrivals.map (fun p => (p.1, if p.2 = .seal k none then .seal k (some a) else p.2)) }

/-- R389. SEAL_DIGEST_DONE: hashing ends with the digest, or, at a poisoned granule, the slot is released. -/
def execSealDigestDone (k : Nat) (s : State) : Out :=
  .next (match SMap.find s.seals k with
    | none => s
    | some x =>
      if x.digest.isSome then s
      else
        match s.sealPoison x with
        | some a => (s.releaseSeal k).modOwner x.owner x.uid (fun c => c.sealPoisoned k a)
        | none => { s with seals := SMap.set s.seals k { x with digest := some (BitVec.ofNat 512 (numOfBytes (sha512 (s.sealBytes x)))) } })

/-! ## Register windows (R386) -/

/-- R386. A host write to a device's window acts where the window is open. -/
def State.hostWrite (s : State) (vd : Nat) (f : State → State) : State :=
  if decide (vd < 16) && (s.vdev vd).en then f s else s

/-- R356, R386. The 40 granules of a launch record at a physical address; none where memory does not hold them, where one is
poisoned, or where their home is fenced. -/
def State.physRecord (s : State) (a : Nat) : Option (List Reg) :=
  if decide (a % 64 = 0) && decide (a + 640 ≤ Config.memSize) && !s.main.anyPoison a 640 && !s.homeFenced ⟨.main, a, a⟩ then
    some ((List.range 40).map (fun k => Reg.loaded (BitVec.ofNat 128 (s.main.read (a + 16 * k) 16)) (s.main.tag (a + 16 * k))))
  else none

/-- R386. JSSTAT where the record or the job is refused. -/
def launchRefused : Word := 0xFFFFFFFFFFFFFFFD

/-- R361, R377, R386. The launch that JSGO makes: the state, and JSSTAT. A terminated domain's is refused as that of a job that is not
armed. -/
def State.hostLaunch (s : State) (vd : Nat) (v : Word) : State × Word :=
  let d := s.vdev vd
  let job := bits v 11 0
  let st := s.jobState job
  let ok := bits v 63 12 == 0 && decide (job < s.joblimit) && d.doms.getLsbD (s.jobDom job) &&
    (st == 2 || (st == 1 && s.jobMayStart job)) && !s.terminated (BitVec.ofNat 6 (s.jobDom job))
  match s.physRecord d.jsrec.toNat with
  | none => (s, launchRefused)
  | some l =>
    if !ok || s.terminated (launchDom l) ||
        (badLaunch l (fun x => d.doms.getLsbD x.toNat) (fun _ => true) (s.jobHas job)).isSome then (s, launchRefused)
    else
      let s1 := if st = 1 then s.startJob job else s
      match s1.launch l job (recWord l 4) (masked d.jsxl 0xFFFFFFFF0001) with
      | none => (s1, noResource)
      | some (s2, h) => (s2, h)

/-- R386. JSGO. -/
def State.jsgo (s : State) (vd : Nat) (v : Word) : State :=
  let (s1, r) := s.hostLaunch vd v
  s1.modVdev vd (fun d => { d with jsstat := r })

/-- R386. JSGO. -/
def execJsgo (vd : Nat) (v : BitVec 64) (s : State) : Out := .next (s.hostWrite vd (fun t => t.jsgo vd v))

/-- R386. Writing 1 to a bit of IRQSTAT clears it. -/
def State.irqClear (s : State) (vd : Nat) (v : Word) : State :=
  s.modVdev vd (fun d => { d with irqPend := d.irqPend &&& ~~~ v.setWidth 32 })
/-- R386. IRQSTAT. -/
def execIrqstatClear (vd : Nat) (v : BitVec 64) (s : State) : Out := .next (s.hostWrite vd (fun t => t.irqClear vd v))

/-- R384, R386. The host triggers the Lantern. -/
def State.hostTrigger (s : State) (v : Word) : State := if v.getLsbD 0 then s.lanternTrigger 2 else s
/-- R384. LNTRIG. -/
def execLntrig (vd : Nat) (v : BitVec 64) (s : State) : Out := .next (s.hostWrite vd (fun t => t.hostTrigger v))

/-- R384. Every core stopped through the halt tree resumes. -/
def State.hostResume (s : State) (v : Word) : State :=
  if v.getLsbD 0 then { s with cores := s.cores.map (fun (p : Nat × Core) => (p.1, { p.2 with lnStop := false })) } else s
/-- R384. LNRES. -/
def execLnres (vd : Nat) (v : BitVec 64) (s : State) : Out := .next (s.hostWrite vd (fun t => t.hostResume v))

/-- R392. The seal slots of a device whose digests are recorded, in slot order. -/
def State.deviceSeals (s : State) (vd : Nat) : List (Nat × SealSlot) :=
  (List.range 64).filterMap (fun k => (SMap.find s.seals k).bind (fun x => if x.vd == vd && x.digest.isSome then some (k, x) else none))
/-- R392. The length of a report's signed part. -/
def reportLength (m : Nat) : Nat := 192 + 128 * m

/-- R392. A write to ATGO: the report begins where the address lies in the device's memory, and is refused elsewhere. -/
def State.attest (s : State) (vd : Nat) (a : Word) : State :=
  let n := reportLength (s.deviceSeals vd).length + 512
  let ok := decide (a.toNat + n ≤ Config.memSize) && Config.vdMayReach vd a.toNat && Config.vdMayReach vd (a.toNat + n - 1)
  s.modVdev vd (fun d => if d.atstat = 1 then d else { d with atstat := if ok then 1 else 3, ataddr := a })
/-- R392. ATGO. -/
def execAtgo (vd : Nat) (v : BitVec 64) (s : State) : Out := .next (s.hostWrite vd (fun t => t.attest vd v))

/-- R392. The bytes of a report before its signature, as one number. -/
def State.report (s : State) (vd : Nat) : Nat :=
  let l := s.deviceSeals vd
  let entry := fun (p : Nat × SealSlot) =>
    p.1 + p.2.dom.toNat * 2 ^ 8 + p.2.addr.toNat * 2 ^ 64 + p.2.len * 2 ^ 128 + (p.2.digest.getD 0).toNat * 2 ^ 512
  (s.vdev vd).nonce.toNat + s.power.firmware.toNat * 2 ^ 512 +
    (0x5CA4 + Config.stepping.toNat * 2 ^ 16 + vd * 2 ^ 24) * 2 ^ 1024 + l.length * 2 ^ 1088 + packBytes 128 (l.map entry) * 2 ^ 1536

/-- R391, R392. The signature of a report by the identity key, as the number that its octets make in memory. -/
def State.reportSignature (s : State) (r n : Nat) : Nat :=
  numOfBytes (octets 512 (pssSign Config.identityModulus Config.identityExponent (bytesOfNum n r)
    (octets 64 (Config.freeSalt s.freeN).toNat)).toNat)

/-- R392. ATTESTATION_DONE: the report and its signature are written, ATSTAT reads 2, and vector 3 is sent. -/
def execAttestationDone (vd : Nat) (s : State) : Out :=
  .next (
    let d := s.vdev vd
    if d.atstat ≠ 1 then s
    else
      let n := reportLength (s.deviceSeals vd).length
      let r := s.report vd
      let s1 := (s.physWrite d.ataddr.toNat n r).physWrite (d.ataddr.toNat + n) 512 (s.reportSignature r n)
      { s1 with freeN := s1.freeN + 1 }.modVdev vd (fun x => { x with atstat := 2 }.interrupt 3))

/-- R386. A host write to a register of a window: the registers without behaviour of their own take the value, the others act, and
a read-only register or an offset without one ignores it. -/
def State.windowWrite (s : State) (vd off : Nat) (v : Word) : State :=
  if off = 0x000 then s.modVdev vd (fun d => { d with jsrec := v })
  else if off = 0x008 then s.modVdev vd (fun d => { d with jsxl := v })
  else if off = 0x010 then s.jsgo vd v
  else if off = 0x020 then s.irqClear vd v
  else if off = 0x028 then s.modVdev vd (fun d => { d with irqMask := v.setWidth 32 })
  else if off = 0x030 then s.hostTrigger v
  else if off = 0x038 then s.hostResume v
  else if 0x040 ≤ off ∧ off < 0x080 ∧ off % 8 = 0 then s.modVdev vd (fun d =>
    let sh := 8 * (off - 0x040)
    { d with nonce := (d.nonce &&& ~~~((BitVec.ofNat 512 (2 ^ 64 - 1)) <<< sh)) ||| (v.setWidth 512) <<< sh })
  else if off = 0x080 then s.attest vd v
  else s

/-- R386. HOST_REGISTER_WRITE. -/
def execHostRegisterWrite (vd off : Nat) (v : BitVec 64) (s : State) : Out :=
  .next (s.hostWrite vd (fun t => t.windowWrite vd off v))

/-- R386. HOST_MEMORY_WINDOW_ACCESS: within the device's ranges a write is performed as a .pkg store; a read changes nothing. -/
def execHostMemoryWindowAccess (vd : Nat) (write : Bool) (addr : BitVec 64) (size : Nat) (data : BitVec 64) (s : State) : Out :=
  .next (s.hostWrite vd (fun t =>
    if write && decide (size ≤ 8) && (List.range size).all (fun k => Config.vdMayReach vd (addr.toNat + k)) then
      t.physWrite addr.toNat size (data.toNat % 2 ^ (8 * size))
    else t))

/-! ## Power and bring-up (R393, R394) -/

/-- R3. Arithmetic-clock cycles of a microsecond. -/
def microsecond : Nat := 1250

/-- The state with its power changed. -/
def State.modPower (s : State) (f : Power → Power) : State := { s with power := f s.power }

/-- R394. PACKAGE_RESET: every part of the package is at its reset value; the host's memory and what the model keeps for itself
stay. -/
def execPackageReset (s : State) : Out := .next { State.reset with host := s.host, agenda := s.agenda, freeN := s.freeN }

/-- R393. The interval since the last wake has passed. -/
def State.wakeDue (s : State) (us : Nat) : Bool := decide (s.power.lastWake + us * microsecond ≤ s.cycle.toNat)

/-- R393. STACK_WAKE. -/
def execStackWake (s : State) : Out :=
  .next (if s.power.hbmStacks < 12 ∧ s.wakeDue 1 then
      s.modPower (fun p => { p with hbmStacks := p.hbmStacks + 1, lastWake := s.cycle.toNat })
    else s)
/-- R393. OPTICAL_ENGINE_WAKE: after the stacks; the engine's port, where it is dark, begins to train. -/
def execOpticalEngineWake (s : State) : Out :=
  .next (if s.power.hbmStacks = 12 ∧ s.power.engines < 8 ∧ s.wakeDue 10 then
      let p := s.power.engines
      let s1 := s.modPower (fun q => { q with engines := q.engines + 1, lastWake := s.cycle.toNat })
      if (s.port p).state = 0 then { s1 with ports := SMap.set s1.ports p { s.port p with state := 1 } } else s1
    else s)
/-- R393. DIE_RAIL_WAKE: after the optical engines. -/
def execDieRailWake (s : State) : Out :=
  .next (if s.power.engines = 8 ∧ s.power.rails < 4 ∧ s.wakeDue 50 then
      s.modPower (fun p => { p with rails := p.rails + 1, lastWake := s.cycle.toNat })
    else s)

/-- R391, R394 step 2. SECURITY_PROCESSOR_BOOT: the signature of the firmware image is verified under the firmware key. -/
def execSecurityProcessorBoot (f : SignedImage) (s : State) : Out :=
  .next (if s.power.rails = 4 ∧ s.power.stage = .reset then
      s.modPower (fun p => { p with
        stage := if pssVerify Config.firmwareModulus Config.firmwareExponent f.image f.signature then .booted else .refused
        firmware := BitVec.ofNat 512 (numOfBytes (sha512 f.image)) })
    else s)

/-- R229, R394 step 3. What firmware has done before the link trains: the stacks are trained, MEMSIZE is as installed, and all of device
memory, cluster memory and every core is scrubbed. No row of the table stands for these acts, which are firmware's own (DESIGN CHOICE,
log 85). -/
def State.firmwareUp (s : State) : State :=
  { s with
    main := Memory.empty, xcache := [], clusters := s.clusters.map (fun p => (p.1, p.2.scrub p.2.cldom))
    cores := s.cores.map (fun (p : Nat × Core) => (p.1, p.2.scrub p.2.lastdom)) }

/-- R394 steps 3 and 4. DECSYN_LINK_TRAIN: firmware has brought memory up; the link trains, and the register window of virtual device 0
opens. -/
def execDecsynLinkTrain (s : State) : Out :=
  .next (if s.power.stage = .booted then
      (s.firmwareUp.modPower (fun p => { p with stage := .trained })).modVdev 0 (fun d => { d with en := true })
    else s)

/-! ## Test access (R394) -/

/-- R394. Test access is open until the security processor has booted, and after that where the firmware image enables it. -/
def State.testOpen (s : State) : Bool := s.power.stage == .reset || s.power.stage == .refused || Config.testAccess
/-- R394. A test instruction with what its data register captures. -/
def State.test (s : State) (i : TapInstr) (v : BitVec 32) : State :=
  if s.testOpen then s.modPower (fun p => { p with tap := i, tapData := v }) else s
/-- R394. What IDCODE reads. -/
def idcodeWord : BitVec 32 :=
  BitVec.ofNat 32 (Config.stepping.toNat % 16 * 2 ^ 28 + 0x5CA4 * 2 ^ 12 + Config.vendor.toNat * 2 + 1)

/-- R394. BYPASS: its one-bit register captures 0. -/
def execBypass (s : State) : Out := .next (s.test .bypass 0)
/-- R394. IDCODE. -/
def execIdcode (s : State) : Out := .next (s.test .idcode idcodeWord)
/-- R394. SAMPLE/PRELOAD: the boundary-scan register captures the pins. -/
def execSamplePreload (s : State) : Out :=
  .next { s.test .sample (Config.boundaryScan s.freeN) with freeN := s.freeN + 1 }
/-- R394. EXTEST. -/
def execExtest (s : State) : Out := .next { s.test .extest (Config.boundaryScan s.freeN) with freeN := s.freeN + 1 }

/-! ## Memory stacks (R284) -/

/-- A memory stack. -/
def State.stack (s : State) (k : Nat) : Stack := SMap.getD s.hbmStacks k ⟨false, 0⟩
/-- R284. PER_BANK_REFRESH: memory keeps its contents. -/
def execPerBankRefresh (stack : Nat) (s : State) : Out :=
  .next (if stack < 12 then
      { s with hbmStacks := SMap.set s.hbmStacks stack { s.stack stack with refreshes := (s.stack stack).refreshes + 1 } }
    else s)
/-- R284. STACK_TEMPERATURE_REPORT. -/
def execStackTemperatureReport (stack : Nat) (hot : Bool) (s : State) : Out :=
  .next (if stack < 12 then { s with hbmStacks := SMap.set s.hbmStacks stack { s.stack stack with hot := hot } } else s)

end Sys2Proof.Machine
end

