-- ==== Sys2Proof/Machine/Fabric.lean ====
section
/-!
DEFINITION. The fabric (file 20): links (R399), groups and plans (R401, R402), routing (R403), remote keys (R407 to R410, R413, R414),
TGEN and STMC (R415, R416), the group barrier (R417), RECONF (R418), abort tokens (R419), and refusals (R136).
-/

namespace Sys2Proof.Machine

/-! ## Groups and plans (R401, R402) -/

/-- R401. CURPLAN of a job's group record. -/
def State.curPlan (s : State) (job : Nat) : Nat := s.main.read (s.groupAddr job + 20) 4
/-- R402. The address of a plan. -/
def State.planAddr (s : State) (job p : Nat) : Nat := s.main.read (s.groupAddr job + 8) 8 + 2 ^ 17 * p
/-- R402. The route entry of a device in a plan. -/
def State.routeByte (s : State) (job p dst : Nat) : Nat := s.main.read (s.planAddr job p + 128 + dst) 1
/-- R402. Where the set of a scope begins in a plan. -/
def setOffset (scope : Nat) : Nat := if scope = 5 then 65664 else if scope = 6 then 73856 else 82048
/-- The numbers of the bits of a byte. -/
def byteBits (b : Byte) : List Nat := (List.range 8).filter (fun k => b.getLsbD k)
/-- R402. The devices of the set of a scope in a plan, ascending. -/
def State.scopeSet (s : State) (job p scope : Nat) : List Nat :=
  let a := s.planAddr job p + setOffset scope
  (s.main.bytes.filter (fun c => decide (a ≤ c.1) && decide (c.1 < a + 8192))).flatMap (fun c =>
    (byteBits c.2).map (fun k => 8 * (c.1 - a) + k))
/-- R401. The members of a job's group: the .grp set of the plan in force. -/
def State.members (s : State) (job : Nat) : List Nat := s.scopeSet job (s.curPlan job) 7
/-- R402. The ports that a plan uses. -/
def State.planPorts (s : State) (job p : Nat) : List Nat :=
  byteBits (BitVec.ofNat 8 (s.main.read (s.planAddr job p) 1))

/-- R402. A plan is valid for a job. -/
def State.planValid (s : State) (job p : Nat) : Bool :=
  let within := fun (x y : List Nat) => x.all (fun n => y.contains n)
  s.main.read (s.planAddr job p) 4 / 2 ^ 16 % 2 ^ 12 == job && s.routeByte job p s.fabid.toNat == 0x88 &&
    (s.scopeSet job p 5).contains s.fabid.toNat && within (s.scopeSet job p 5) (s.scopeSet job p 6) &&
    within (s.scopeSet job p 6) (s.scopeSet job p 7)

/-- R401, R403. A job has a group, and this device a number. -/
def State.hasGroup (s : State) (job : Nat) : Bool := s.planCount job != 0 && s.fabid != 0xFFFF
/-- R401. This device is the root of a job's group. -/
def State.isRoot (s : State) (job : Nat) : Bool := s.groupRoot job == s.fabid.toNat

/-! ## Routing (R403) -/

/-- R400. A port is up. -/
def State.portUp (s : State) (p : Nat) : Bool := decide (p < 8) && (s.port p).state == 2
/-- R403. The port by which a request of a job to a device leaves; none where it is refused. -/
def State.nextPort (s : State) (job dst : Nat) : Option Nat :=
  if !s.hasGroup job || decide (65536 ≤ dst) then none
  else
    let r := s.routeByte job (s.curPlan job) dst
    if s.portUp (r % 16) then some (r % 16) else if s.portUp (r / 16) then some (r / 16) else none

/-- The state with a port changed. -/
def State.modPort (s : State) (p : Nat) (f : Port → Port) : State := { s with ports := SMap.set s.ports p (f (s.port p)) }
/-- R399. A flit sent on a port: it is kept until it is acknowledged, and acknowledges what has been accepted. -/
def State.sendFlit (s : State) (p : Nat) (req : Option Request) (reply : Option Reply) : State :=
  s.modPort p (fun q => { q with
    next := q.next + 1, kept := q.kept ++ [⟨q.next, q.expect, true, req, reply⟩], lastSend := s.cycle.toNat })
/-- R403. A reply leaves by the way of its device, or waits for one. -/
def State.routeReply (s : State) (r : Reply) : State :=
  match s.nextPort r.job r.dst with
  | none => { s with replies := s.replies ++ [r] }
  | some p => s.sendFlit p none (some r)
/-- R403. What answers a request: its data, or the cause of its refusal. -/
def replyTo (r : Request) (refused : Option (BitVec 8)) (data : BitVec 128) : Reply :=
  ⟨r.src, r.job, r.ctx, r.tag, refused, data⟩
/-- R403. A reply or a refusal leaves for the sender of a request; where the job has no route here, by the port by which the request
came. -/
def State.sendReply (s : State) (r : Request) (refused : Option (BitVec 8)) (data : BitVec 128) : State :=
  if !s.hasGroup r.job && s.portUp r.via then s.sendFlit r.via none (some (replyTo r refused data))
  else s.routeReply (replyTo r refused data)

/-! ## Arbitration (R398) -/

/-- R385, R398. The virtual device whose weight a request's job goes by; 16, of weight 1, for a job of no device. -/
def State.senderDevice (s : State) (job : Nat) : Nat := (s.vdOf (BitVec.ofNat 6 (s.jobDom job))).getD 16
/-- R385. FQOS of a virtual device, as a weight from 1 to 255. -/
def State.fqos (s : State) (vd : Nat) : Nat := max 1 (s.vdev vd).fqos.toNat

/-- R398. Which of the waiting virtual devices a port grants, and the grants that they have left then: in each round a device has as many
as its weight, and a round ends once none that waits has any left. -/
def State.grant (s : State) (p : Nat) (waiting : List Nat) : Option (Nat × SMap Nat) :=
  let left := (s.port p).credits
  let has := fun (m : SMap Nat) => (List.range 17).find? (fun v => waiting.contains v && decide (0 < SMap.getD m v 0))
  let take := fun (m : SMap Nat) (v : Nat) => (v, SMap.set m v (SMap.getD m v 0 - 1))
  match has left with
  | some v => some (take left v)
  | none =>
    let fresh := waiting.eraseDups.foldl (fun m v => SMap.set m v (s.fqos v)) left
    (has fresh).map (take fresh)

/-! ## The accesses of this device's contexts (R136, R254) -/

/-- A request is one of this device's own contexts'. -/
def ownRequest (r : Request) : Bool := r.uid != 0
/-- R399. The pending access that a request serves: its place and itself. -/
def Ctx.servedOp (x : Ctx) (r : Request) : Option (Nat × PendOp) :=
  (x.pend.zipIdx.find? (fun p => requestFor r x.uid p.1)).map (fun p => (p.2, p.1))

/-- R254. The pending bit of a register in a saved image cleared. -/
def State.rucksackUnmark (s : State) (c : CtxId) (x : Ctx) (op : PendOp) : State :=
  let n := 64 + op.kind.dest.toNat
  let tags := s.rucksackRead c.core x 0x380 16
  if x.saved.isSome && tags.testBit n then (s.rucksackWrite c.core x 0x380 16 (tags - 2 ^ n)).getD s else s

/-- R136. The `k`-th pending access of a context, wherever it is, is refused. -/
def State.refuseOwner (s : State) (c : CtxId) (x : Ctx) (k : Nat) (op : PendOp) (cause : BitVec 8) (addr : Word) : State :=
  (s.rucksackUnmark c x op).modOwner c x.uid (fun y => y.refuse k op cause addr)
/-- R97, R254. The `k`-th pending access of a context, wherever it is, is answered. -/
def State.answerOwner (s : State) (c : CtxId) (x : Ctx) (k : Nat) (op : PendOp) (reply : BitVec 128) : State :=
  if x.saved.isSome && op.kind.reads then s.rucksackReply c x op k reply
  else s.modOwner c x.uid (fun y => y.answer k op reply)

/-- R403, R408. What becomes of a request of this device that is refused. -/
def State.refuseOwn (s : State) (r : Request) (cause : BitVec 8) : State :=
  match s.owner r.ctx r.uid with
  | none => s
  | some x =>
    match x.servedOp r with
    | none => s
    | some (k, op) => s.refuseOwner r.ctx x k op cause r.va
/-- R408. What becomes of a request of this device that this device has served. -/
def State.answerOwn (s : State) (r : Request) (reply : BitVec 128) : State :=
  match s.owner r.ctx r.uid with
  | none => s
  | some x =>
    match x.servedOp r with
    | none => s
    | some (k, op) => s.answerOwner r.ctx x k op reply

/-- The context of a slot of a core that waits for what comes from outside: the one that runs there, or the one suspended or switched
out. -/
def State.addressee (s : State) (c : CtxId) (k : Nat) : Option Ctx :=
  ((s.core c.core).allCtxs.find? (fun p => p.1 == c.slot && decide (k < p.2.pend.length))).map (·.2)

/-- R136. REMOTE_REFUSAL: a refusal arrives from another device for the `k`-th pending access of a context. -/
def execRemoteRefusal (c : CtxId) (k : Nat) (cause : BitVec 8) (s : State) : Out :=
  .next (match s.addressee c k with
    | none => s
    | some x =>
      match x.pend.drop k with
      | [] => s
      | op :: _ =>
        match op.home with
        | .remote a _ => if op.isAccess && !op.kind.isUnit && s.sentOut x.uid op then s.refuseOwner c x k op cause a else s
        | .local _ => s)

/-! ## Requests that leave (R399, R403, R418) -/

/-- R135, R298. A context whose `k`-th access, one to this device itself, has its place settled where its request finds one now. -/
def Ctx.settle (x : Ctx) (k : Nat) (p : Option Loc) : Ctx :=
  { x with pend := x.pend.modify k (fun o => if o.own then { o with at_ := p } else o) }

/-- R298, R399. A request of this device may leave: its access may be performed, and no earlier request of its context to the same
device waits here. -/
def State.requestReady (s : State) (k : Nat) (r : Request) : Bool :=
  (s.inbound.take k).all (fun q => !(q.ctx == r.ctx && q.src == r.src && q.dst == r.dst)) &&
    (!ownRequest r ||
      (match s.owner r.ctx r.uid with
        | none => true
        | some x => (x.servedOp r).all (fun p => (x.settle p.1 (s.keyPlace r.va r.key)).mayPerform p.1 true)))

/-- R403. A request that leaves, or is refused for want of a way. -/
def State.route (s : State) (r : Request) : State :=
  match s.nextPort r.job r.dst with
  | some p => s.sendFlit p (some r) none
  | none => if ownRequest r then s.refuseOwn r Cause.linkDown else s.sendReply r (some Cause.linkDown) 0

/-- R399, R403. What a flit carries takes another way. -/
def State.reroute (s : State) (f : Flit) : State :=
  let s1 := match f.req with
    | some r => s.route r
    | none => s
  match f.reply with
  | some r => s1.routeReply r
  | none => s1

/-- R399, R403. A port is failed: what it has sent without acknowledgement takes other ways. -/
def State.failPort (s : State) (port : Nat) : State :=
  (s.port port).kept.foldl State.reroute (s.modPort port (fun q => { q with state := 3, kept := [] }))

/-- R398. The virtual devices of which a request waits for a port. -/
def State.portWaiting (s : State) (p : Nat) : List Nat :=
  (s.inbound.zipIdx.filter (fun q => decide (q.1.dst ≠ s.fabid.toNat) && s.nextPort q.1.job q.1.dst == some p &&
    s.requestReady q.2 q.1)).map (fun q => s.senderDevice q.1.job)

/-- R398, R403. A request whose turn at its port it is leaves; the port's next grant goes by the weights of the devices that wait. -/
def State.routeGranted (s t : State) (r : Request) : State :=
  match s.nextPort r.job r.dst with
  | none => t.route r
  | some p =>
    match s.grant p (s.portWaiting p) with
    | none => s
    | some (v, left) => if v = s.senderDevice r.job then (t.modPort p (fun q => { q with credits := left })).route r else s

/-- R403. The `k`-th reply that waits for a way leaves, where there is one. -/
def State.forwardReply (s : State) (k : Nat) : State :=
  match s.replies[k]? with
  | none => s
  | some r => if (s.nextPort r.job r.dst).isSome then { s with replies := s.replies.eraseIdx k }.routeReply r else s

/-- R398, R403. FORWARD_REQUEST: the `k`-th request at the network interface, to another device, leaves or is refused. The numbers past the requests stand for the replies that wait for a way. -/
def execForwardRequest (k : Nat) (s : State) : Out :=
  .next (match s.inbound[k]? with
    | none => s.forwardReply (k - s.inbound.length)
    | some r =>
      let t := { s with inbound := s.inbound.eraseIdx k }
      if r.dst = s.fabid.toNat ∧ s.fabid ≠ 0xFFFF then s
      else if !s.requestReady k r then s
      else s.routeGranted t r)

/-! ## Replies that arrive (R136, R399) -/

/-- R399. The context of this device that a reply answers, wherever it is, with the access: by the context that issued it and its
end-to-end number. -/
def State.replyOwner (s : State) (r : Reply) : Option (CtxId × Ctx × Nat × PendOp) :=
  s.cores.findSome? (fun k => k.2.allCtxs.findSome? (fun p =>
    (p.2.pend.zipIdx.find? (fun q => q.1.ctx == r.ctx && q.1.tag == r.tag && q.1.isAccess && !q.1.kind.isUnit && (match q.1.home with
      | .remote _ _ => s.sentOut p.2.uid q.1
      | .local _ => false))).map (fun q => (⟨k.1, p.1⟩, p.2, q.2, q.1))))

/-- R97, R136, R254, R403. A reply arrives: for an access of this device it answers or refuses it; for another device it goes on. -/
def State.takeReply (s : State) (r : Reply) : State :=
  if r.dst ≠ s.fabid.toNat then s.routeReply r
  else
    match s.replyOwner r with
    | none => s
    | some (c, x, k, op) =>
      match r.refused with
      | none => s.answerOwner c x k op r.data
      | some cause => s.refuseOwner c x k op cause (match op.home with
        | .remote a _ => a
        | .local l => w64 l.va)

/-! ## Links (R399) -/

/-- R399. FLIT_RECEIVE: what a flit acknowledges is kept no longer; a flit in sequence is accepted; a damaged one, one out of
sequence or one already accepted is discarded, and its sender replays it. -/
def execFlitReceive (port : Nat) (flit : Flit) (s : State) : Out :=
  .next (if !s.portUp port || !flit.crcOk then s
    else
      let acked := (s.port port).kept.any (fun f => decide (f.seq < flit.ack))
      let s1 := s.modPort port (fun q => { q with
        kept := q.kept.filter (fun f => decide (flit.ack ≤ f.seq)), lastAck := if acked then s.cycle.toNat else q.lastAck })
      if flit.seq = (s.port port).expect then
        let s2 := s1.modPort port (fun q => { q with expect := q.expect + 1 })
        let s3 := match flit.req with
          | none => s2
          | some r => { s2 with inbound := s2.inbound ++ [{ r with uid := 0, va := 0, via := port }] }
        match flit.reply with
        | none => s3
        | some r => s3.takeReply r
      else s1)

/-- R399. IDLE_FLIT: a port with nothing to send for 1 µs sends an idle flit. -/
def execIdleFlit (port : Nat) (s : State) : Out :=
  .next (if s.portUp port && decide ((s.port port).lastSend + microsecond ≤ s.cycle.toNat) then s.sendFlit port none none else s)

/-- R399. LINK_FAIL_TIMEOUT: no flit acknowledged for 1 ms fails the link, and its unacknowledged flits take other ways. -/
def execLinkFailTimeout (port : Nat) (s : State) : Out :=
  .next (
    let q := s.port port
    if s.portUp port && !q.kept.isEmpty && decide (q.lastAck + 1000 * microsecond ≤ s.cycle.toNat) then s.failPort port else s)

/-! ## Inbound requests (R408, R409) -/

/-- R407. An entry of the key table. -/
def State.keyAt (s : State) (i : Nat) : Key := SMap.getD s.keys i Key.reset

/-- R408 check 3. The right that an access needs: R, W or A. -/
def requestRight : ReqKind → Nat
  | .load => 0
  | .store => 1
  | .amo _ => 2
  | .cas => 2
  | .cas2 => 2
/-- The access reads, and writes. -/
def requestReads : ReqKind → Bool
  | .store => false
  | _ => true
def requestWrites : ReqKind → Bool
  | .load => false
  | _ => true
/-- The translation that the access needs. -/
def requestAccess : ReqKind → Access
  | .load => .load
  | .store => .store
  | .amo _ => .atomic
  | .cas => .atomic
  | .cas2 => .atomic

/-- R137, R305, R306. The access as it is performed at its home. -/
def requestOp (r : Request) : MemKind :=
  match r.kind with
  | .load => .load 0 false
  | .store => if r.size = 16 then .storeCap else .store
  | .amo f => .amo 0 f
  | .cas => .cas 0 (r.expect.setWidth 64)
  | .cas2 => .cas2 0 ⟨r.expect, r.expectTag⟩ false

/-- What an inbound request meets: a refusal, with the state that its translation leaves (R291), a retry NACK, or its effect and its
reply. -/
inductive Admit where
  | refused (s : State) (cause : BitVec 8)
  | retry
  | done (s : State) (reply : BitVec 128)

/-- R303, R408 checks 6 and 7. The request performed at its home. -/
def State.serve (s : State) (r : Request) (l : Loc) (sealed : Bool) : Admit :=
  if s.homeFenced l then .refused s Cause.linkDown
  else if requestWrites r.kind && (sealed || s.sealedAt l) then .refused s Cause.sealedWrite
  else if requestReads r.kind && s.poisonAt l r.size then .refused s Cause.poisonConsumed
  else
    let op : PendOp := { seq := 0, head := 0, kind := requestOp r, home := .local l, size := r.size, data := ⟨r.data, false⟩
                         scope := 0, acq := r.ordered && requestReads r.kind, rel := false, sc := false, swap := 0, early := none
                         bank := false, dom := 0, ctx := r.ctx, dev := 65536, own := false, at_ := some l, tag := r.tag }
    .done (s.performAt l op).1 (BitVec.ofNat 128 (s.readAt l r.size))

/-- R409. A deposit for a slot of a core, under a key of a domain: into the mailbox of the context that runs there; into the Rucksack of
one whose image stands in memory (R254); for one that is out without an image it is to be tried again. -/
def State.depositFor (s : State) (core slot : Nat) (dom : BitVec 6) (v : Word) : Admit :=
  let k := s.core core
  let out := (k.suspended ++ k.away.flatMap (·.2.1)).filter (fun p => p.1 == slot && p.2.liveIn dom)
  match if k.preempted then none else k.ctxs.find? (fun p => p.1 == slot && p.2.liveIn dom) with
  | some (_, x) => if x.mailboxOpen then .done (s.modCtx ⟨core, slot⟩ (·.deposit v)) 0 else .retry
  | none =>
    if out.isEmpty then .refused s Cause.remoteKey
    else
      match (out.find? (fun p => p.2.saved.isSome)).bind (fun p => s.spillDeposit ⟨core, slot⟩ p.2 v) with
      | some t => .done t 0
      | none => .retry

/-- R408. An inbound request against the key table. -/
def State.admitRequest (s : State) (r : Request) : Admit :=
  let e := s.keyAt (bits (zext r.key) 9 0)
  let refuse : Admit := .refused s Cause.remoteKey
  if !e.used || e.check.toNat != bits (zext r.key) 31 10 then refuse
  else if r.core ≠ (if e.kind = 0 then 0x1FF else e.core) then refuse
  else if !e.rights.getLsbD (requestRight r.kind) then refuse
  else if e.kind = 2 then
    if r.kind = .store ∧ !r.ordered ∧ r.size = 8 ∧ r.off % 8 = 0 ∧ r.off / 8 ≤ 10 then
      s.depositFor e.core (if r.off = 0 then control else r.off / 8 - 1) e.dom (r.data.setWidth 64)
    else refuse
  else if e.kind = 1 then
    if e.base ≤ r.off ∧ r.off + r.size ≤ e.base + e.length ∧ r.off + r.size ≤ Config.spadBytes then
      s.serve r ⟨.spad e.core, r.off, r.off⟩ false
    else refuse
  else if e.length < r.off + r.size then refuse
  else
    match s.translate ⟨e.core, e.dom, false, e.xlbase⟩ (w64 (e.base + r.off)) (requestAccess r.kind) with
    | .error f => if f.cause = Cause.linkDown then .refused s Cause.linkDown else refuse
    | .ok (s1, l, sealed) =>
      if l.space = .host ∧ requestRight r.kind = 2 then .refused s1 Cause.remoteKey else s1.serve r l sealed

/-- R399. The kept reply of a request's end-to-end tag. -/
def State.keptReply (s : State) (r : Request) : Option Kept :=
  s.kept.find? (fun x => x.src == r.src && x.ctx == r.ctx && x.tag == r.tag)

/-- R405, R418. A request stamped with a generation that this device has not reached yet waits. -/
def State.tooNew (s : State) (r : Request) : Bool := decide ((s.jobOf r.job).scopegen.toNat < r.gen.toNat)

/-- R399, R408. INBOUND_REQUEST_ADMIT: the `k`-th request at the network interface, to this device, is admitted or refused, and its
reply is kept; a request whose tag is kept is answered again without being performed. -/
def execInboundRequestAdmit (k : Nat) (s : State) : Out :=
  .next (match s.inbound[k]? with
    | none => s
    | some r =>
      let t := { s with inbound := s.inbound.eraseIdx k }
      if r.dst ≠ s.fabid.toNat ∨ s.fabid = 0xFFFF then s
      else if !s.requestReady k r || s.tooNew r then s
      else
        match if ownRequest r then none else s.keptReply r with
        | some x => t.sendReply r none x.reply
        | none =>
          match t.admitRequest r with
          | .retry => s
          | .refused u cause => if ownRequest r then u.refuseOwn r cause else u.sendReply r (some cause) 0
          | .done u reply =>
            if ownRequest r then u.answerOwn r reply
            else { u with kept := u.kept ++ [(⟨r.src, r.ctx, r.tag, reply, s.cycle.toNat⟩ : Kept)] }.sendReply r none reply)

/-- R399. KEPT_REPLY_EXPIRY: a kept reply is dropped after 2 ms. -/
def execKeptReplyExpiry (k : Nat) (s : State) : Out :=
  .next (match s.kept[k]? with
    | none => s
    | some x => if x.at_ + 2000 * microsecond ≤ s.cycle.toNat then { s with kept := s.kept.eraseIdx k } else s)

/-! ## RKREG and RKREVOKE (R413, R414) -/

/-- R411, R413. T2 of an RKREG. -/
def rkregT2 (kind : BitVec 2) (rights : BitVec 3) : Word := zext kind + zext rights * 4

/-- R413. The checks of a region under a window or scratchpad key: its base, as an offset for a scratchpad key, and its length. -/
def State.keyRegion (s : State) (a : BitVec 5) (kind : BitVec 2) (rights : BitVec 3) : Chk (Nat × Nat) := do
  let g := s.g a
  let addr := g.word
  let (lo, hi) := g.bounds
  let n := (hi - lo).toNat
  let use : CapUse := if rights = 1 then .load else if rights = 2 then .store else .atomic
  s.check (do
    checkCapRights g s.me.dom s.me.priv use addr
    ensure (g.covers addr.toNat n) Cause.capBounds addr) (s.regProg a)
  if kind = 0 then do
    s.needOperand (decide (0 ≤ lo) && decide (hi ≤ 2 ^ 55) && decide (n ≤ 2 ^ 35)) addr
    .ok (lo.toNat, n)
  else do
    let b : Int := 0x7E00 * 2 ^ 48
    s.needOperand (decide (b ≤ lo) && decide (hi ≤ b + Config.spadBytes)) addr
    .ok ((lo - b).toNat, n)

/-- R413. A CHECK that the device chooses: any but that of the entry's last key. -/
def State.chooseCheck (s : State) (last : Option (BitVec 22)) : BitVec 22 :=
  let c := Config.freeCheck s.freeN
  if last = some c then c + 1 else c

/-- R413. The entry and the CHECK of a new key: as requested, or chosen; or the reply that says there is none. -/
def State.newKey (s : State) (want : Word) : Except Word (Nat × BitVec 22) :=
  if want ≠ 0 then
    let i := bits want 9 0
    let c : BitVec 22 := want.extractLsb' 10 22
    if (s.keyAt i).used || (s.keyAt i).last == some c || bits want 63 32 != 0 then .error 0xFFFFFFFFFFFFFFFE else .ok (i, c)
  else
    match (List.range 1024).find? (fun i => !(s.keyAt i).used) with
    | none => .error (BitVec.allOnes 64)
    | some i => .ok (i, s.chooseCheck (s.keyAt i).last)

/-- R413. RKREG. -/
def execRkreg (d a b : BitVec 5) (kind : BitVec 2) (rights : BitVec 3) (s : State) : Out :=
  s.finish (do
    s.needOperand ((rights == 1 || rights == 2 || rights == 3 || rights == 7) && kind != 3) (rkregT2 kind rights)
    s.needOperand (kind != 2 || (a == 0 && rights == 2)) (rkregT2 kind rights)
    let (base, n) ← if kind = 2 then .ok (0, 0) else s.keyRegion a kind rights
    match s.newKey (s.x b) with
    | .error r => .ok (s.setX d r).advance
    | .ok (i, c) =>
      let m := s.me
      let e : Key := { used := true, check := c, kind := kind, rights := rights, base := base, length := n, core := s.cur.core
                       dom := m.dom, xlbase := m.xlbase, last := (s.keyAt i).last }
      let s1 := { s with keys := SMap.set s.keys i e, freeN := s.freeN + 1 }
      .ok (s1.setX d (w64 (c.toNat * 2 ^ 10 + i))).advance)

/-- R414. RKREVOKE: every request admitted earlier under the key has been performed at its admission. -/
def execRkrevoke (d a : BitVec 5) (s : State) : Out :=
  s.finish (do
    let v := s.x a
    s.needOperand (bits v 63 32 == 0) s.openVal
    let i := bits v 9 0
    let e := s.keyAt i
    if !e.used || e.check.toNat != bits v 31 10 then .ok (s.setX d 1).advance
    else do
      s.needOperand (e.dom == s.me.dom || s.me.priv) s.openVal
      .ok ({ s with keys := SMap.set s.keys i e.revoked }.setX d 0).advance)

/-! ## TGEN and STMC (R405, R415, R416) -/

/-- The job of the current context. -/
def State.myJob (s : State) : Nat := s.myCore.job

/-- R405. STALE_TOPO where TGEN and SCOPEGEN differ. -/
def State.needTopo (s : State) : Chk Unit :=
  let j := s.jobOf s.myJob
  s.need (j.tgen == j.scopegen) Cause.staleTopo (zext j.scopegen) (zext j.tgen)
/-- R401, R403. A job without a group has no way to its root or members. -/
def State.needGroup (s : State) : Chk Unit := s.need (s.hasGroup s.myJob) Cause.linkDown s.openVal s.openProg

/-- R415. TGEN. -/
def execTgen (d : BitVec 5) (s : State) : Out :=
  let j := s.jobOf s.myJob
  .next (s.waitFor j.reconf.isNone ((s.modJob s.myJob (fun k => { k with tgen := k.scopegen })).setX d (zext j.scopegen)).advance)

/-- R416. The fabric address of an STMC for a device. -/
def memberAddr (a : Word) (dev : Nat) : Word := a ||| (w64 dev) <<< 44

/-- R399, R416. The stores of an STMC, one for each member: under one issue number, each with an end-to-end number of its own. -/
def State.memberStores (s : State) (a : Word) (v : Reg) (devs : List Nat) : List PendOp :=
  devs.zipIdx.map (fun p =>
    { s.pendOp .store (.remote (memberAddr a p.1) (s.remoteKey s.cur.core a)) 8 v with tag := (s.nextTag + p.2) % 65536 })

/-- R416, R418. The stores of an STMC sent; in a RECONF that began before it issued they are held. -/
def State.multicast (s : State) (a : Word) (v : Reg) (devs : List Nat) (early : Bool) : State :=
  let ops := s.memberStores a v devs
  let reqs := (ops.zip devs).filterMap (fun p => s.requestOf s.cur p.2 (s.jobOf s.myJob).tgen p.1)
  (((s.keep (.stmc s.me.pendSeq devs [])).modMe (·.issue ops)).useTags reqs.length).enqueue reqs (s.reconfiguring && !early)

/-- R416. The bitmap of the members that refused, and the cause of the lowest. -/
def failedBitmap (failed : List (Nat × BitVec 8)) : Word :=
  (List.range 64).foldl (fun w i => if failed.any (fun p => p.1 == i) then w ||| (1 : Word) <<< i else w) 0
def lowestCause (failed : List (Nat × BitVec 8)) : BitVec 8 :=
  (((List.range 64).findSome? (fun i => failed.find? (fun p => p.1 == i))).map (·.2)).getD 0

/-- R416. An STMC that has sent its stores completes once every member has replied. -/
def State.stmcWait (s : State) (seq : Nat) (failed : List (Nat × BitVec 8)) : State :=
  if s.me.pend.any (fun o => o.isAccess && o.seq == seq && o.head == s.me.pc) then s.hold
  else if failed.isEmpty then s.dropArrival.advance
  else s.dropArrival.takeTrap s.cur
    (s.trapHere Cause.mcastPartial (failedBitmap failed) (s.byteProg (lowestCause failed).toNat))

/-- R416. An STMC past its checks: it waits for the earlier stores of its context, as a release, and sends. -/
def State.stmcSend (s : State) (a : Word) (v : Reg) (devs : List Nat) (early : Bool) : State :=
  if s.me.writesPending then (s.keep (.stmcIssued devs early)).hold
  else if devs.isEmpty then s.dropArrival.advance
  else (s.multicast a v devs early).hold

/-- R416. STMC. Its checks are made once, where it issues (R422). -/
def execStmc (a b : BitVec 5) (scope : BitVec 3) (s : State) : Out :=
  match s.arrival with
  | some (.stmc seq _ failed) => .next (s.stmcWait seq failed)
  | some (.stmcIssued devs early) => .next (s.stmcSend (s.x a) (s.g b) devs early)
  | _ => s.finish (do
    let addr := s.x a
    s.check (checkCap (s.g a) s.me.dom s.me.priv .store addr 8 8) (s.regProg a)
    s.needGroup
    let job := s.myJob
    let devs := (s.scopeSet job (s.curPlan job) scope.toNat).filter (fun n => n != s.fabid.toNat)
    s.needOperand (isFabric addr && bits addr 59 44 == 0 && decide (devs.length ≤ 64)) s.openVal
    s.needTopo
    .ok (s.stmcSend addr (s.g b) devs (!s.reconfiguring)))

/-! ## The group barrier (R417) -/

/-- A kept arrival changed in every context of a job on this device, wherever it is, but for resident handlers. -/
def State.mapJobCtxs (s : State) (job : Nat) (f : Ctx → Ctx) : State :=
  { s with cores := s.cores.map (fun (p : Nat × Core) =>
      let k := p.2
      let all := fun (m : SMap Ctx) => m.map (fun q => (q.1, if q.2.life = .live then f q.2 else q.2))
      let mine := k.job == job
      (p.1, { k with
        ctxs := if mine && !k.preempted then all k.ctxs else k.ctxs
        suspended := if mine then all k.suspended else k.suspended
        away := k.away.map (fun a => if a.1.job == job then (a.1, all a.2.1, a.2.2) else a) })) }

/-- R417. The step of an episode: that of every arrival, or all ones where they differ. -/
def commonStep (l : List Word) : Word :=
  match l with
  | [] => BitVec.allOnes 64
  | v :: rest => if rest.all (· == v) then v else BitVec.allOnes 64

/-- R417. A context's GBAR in the open episode; the device arrives at the root with the last that it takes. -/
def State.gbarJoin (s : State) (step : Word) : State :=
  let job := s.myJob
  let j := s.jobOf job
  let steps := j.gbSteps ++ [step]
  let s1 := s.keep (.gbar j.gbEpisode none)
  if steps.length < s.groupLocal job then s1.modJob job (fun k => { k with gbSteps := steps })
  else s1.modJob job (fun k => { k with
    gbSteps := [], gbEpisode := k.gbEpisode + 1
    rootArr := if s.isRoot job then k.rootArr ++ [(s.fabid.toNat, commonStep steps)] else k.rootArr })

/-- R417. GBAR. -/
def execGbar (d a : BitVec 5) (s : State) : Out :=
  match s.arrival with
  | some (.gbar _ (some v)) => .next (s.completeWait d v)
  | some (.gbar _ none) => .next s.hold
  | _ => s.finish (do
    let step := s.x a
    s.needOperand (bits step 63 32 == 0) s.openVal
    s.needGroup
    s.needTopo
    if s.me.writesPending then .ok s.hold else .ok (s.gbarJoin step).hold)

/-- R417. The arrivals without the first of each member. -/
def takeArrivals : List Nat → List (Nat × Word) → List (Nat × Word)
  | [], l => l
  | m :: ms, l => takeArrivals ms (l.eraseP (fun p => p.1 == m))

/-- R417. GBAR_EPISODE_COMPLETE: at the root, once every member has arrived. -/
def execGbarEpisodeComplete (job : Nat) (s : State) : Out :=
  .next (
    let j := s.jobOf job
    let ms := s.members job
    if !s.isRoot job || !s.hasGroup job || ms.isEmpty || !ms.all (fun m => j.rootArr.any (fun p => p.1 == m)) then s
    else
      let v := commonStep (ms.filterMap (fun m => (j.rootArr.find? (fun p => p.1 == m)).map (·.2)))
      s.modJob job (fun k => { k with
        rootArr := takeArrivals ms k.rootArr
        waypoint := if v = BitVec.allOnes 64 then k.waypoint else v.setWidth 32
        rootOut := if ms.contains s.fabid.toNat then k.rootOut ++ [.release v] else k.rootOut }))

/-- R417. A context's GBAR of an episode is released. -/
def Ctx.gbarReleased (c : Ctx) (episode : Nat) (v : Word) : Ctx :=
  { c with arrivals := c.arrivals.map (fun p => (p.1, if p.2 = .gbar episode none then .gbar episode (some v) else p.2)) }

/-- R417. The release of the oldest episode in which this device has arrived. -/
def State.gbarDeliver (s : State) (job : Nat) (v : Word) : State :=
  let j := s.jobOf job
  if j.gbReleased < j.gbEpisode then
    (s.mapJobCtxs job (·.gbarReleased j.gbReleased v)).modJob job (fun k => { k with gbReleased := k.gbReleased + 1 })
  else s

/-- R417. GBAR_RELEASE: a release arrives with its result; on the root's own device it is the oldest that the root has sent. -/
def execGbarRelease (job : Nat) (result : BitVec 64) (s : State) : Out :=
  .next (if s.isRoot job then
      (match (s.jobOf job).rootOut with
        | .release v :: rest => (s.modJob job (fun k => { k with rootOut := rest })).gbarDeliver job v
        | _ => s)
    else s.gbarDeliver job result)

/-! ## RECONF (R418) -/

/-- R422. A context executes an STMC that issued before this device's RECONF began, and has not sent its stores. -/
def Ctx.stmcEarly (c : Ctx) : Bool := c.life == .live && c.arrivals.any (fun p => match p.2 with
  | .stmcIssued _ early => early
  | _ => false)

/-- R418, R422. Every request to another device that this device's contexts have issued, but those that the RECONF holds, has its
reply, and so has what an STMC that issued before it will send. -/
def State.drained (s : State) : Bool :=
  s.cores.all (fun p => p.2.allCtxs.all (fun q => !q.2.stmcEarly && q.2.pend.all (fun o => match o.home with
    | .remote _ _ => !o.isAccess || o.kind.isUnit || o.own || s.heldReqs.any (fun r => requestFor r q.2.uid o)
    | .local _ => true)))

/-- R418. A draining device arrives at the root once it has drained. -/
def State.reconfDrain (s : State) (job : Nat) : State :=
  match (s.jobOf job).reconf with
  | some (p, .draining) =>
    if s.drained then s.modJob job (fun k => { k with
      reconf := some (p, .arrived)
      rootPlans := if s.isRoot job then SMap.set k.rootPlans s.fabid.toNat p else k.rootPlans })
    else s
  | _ => s

/-- R418. The checks of a RECONF, and its joining of the device's arrival. -/
def State.reconfJoin (s : State) (p : Nat) : Chk State := do
  let job := s.myJob
  s.needOperand (decide (p < s.planCount job) && s.planValid job p) (w64 (s.planAddr job p))
  s.needTopo
  match (s.jobOf job).reconf with
  | some (q, _) => do
    s.needOperand (q == p) (w64 p)
    .ok ((s.keep (.reconf none)).reconfDrain job).hold
  | none =>
    .ok (((s.keep (.reconf none)).modJob job (fun k => { k with reconf := some (p, .draining) })).reconfDrain job).hold

/-- R418. RECONF. -/
def execReconf (d : BitVec 5) (plan : BitVec 8) (s : State) : Out :=
  let job := s.myJob
  let j := s.jobOf job
  match s.arrival with
  | some (.reconf (some v)) => .next (s.completeWait d v)
  | some (.reconf none) => .next (s.reconfDrain job).hold
  | _ =>
    if s.hasGroup job && plan.toNat == s.curPlan job && j.tgen == j.scopegen - 1 then
      .next (s.setX d (zext j.scopegen)).advance
    else s.finish (s.reconfJoin plan.toNat)

/-- R418. RECONF_ALL_ARRIVED: at the root, once every member has arrived: SWITCH where every plan is the same, or FAIL. -/
def execReconfAllArrived (job : Nat) (s : State) : Out :=
  .next (
    let t := s.reconfDrain job
    let j := t.jobOf job
    let ms := t.members job
    let plans := ms.filterMap (fun m => SMap.find j.rootPlans m)
    if !t.isRoot job || ms.isEmpty || plans.length ≠ ms.length || j.rootVerdict.isSome then t
    else t.modJob job (fun k => { k with rootVerdict := some (plans.all (fun p => some p == plans.head?)) }))

/-- R418. A switching device whose ports have trained, or failed to, reports to the root. -/
def State.reconfReport (s : State) (job : Nat) : State :=
  match (s.jobOf job).reconf with
  | some (p, .switching ports _) =>
    if ports.any (fun q => (s.port q).state == 1) then s
    else s.modJob job (fun k => { k with
      reconf := some (p, .reported)
      rootReports := if s.isRoot job then NSet.add k.rootReports s.fabid.toNat else k.rootReports })
  | _ => s

/-- R402. The command word of a port in a plan. -/
def State.command (s : State) (job p port : Nat) : Word := w64 (s.main.read (s.planAddr job p + 8 + 8 * port) 8)

/-- R402, R418. RECONF_SWITCH: the command words of the plan's ports go out over their control channels, unchanged, and the ports
train. -/
def execReconfSwitch (job : Nat) (s : State) : Out :=
  .next (match (s.jobOf job).reconf with
    | some (p, .arrived) =>
      if s.isRoot job && (s.jobOf job).rootVerdict != some true then s
      else
        let ports := s.planPorts job p
        let s1 := ports.foldl (fun t q => t.modPort q (fun x => { x with state := 1, cmd := some (s.command job p q) })) s
        (s1.modJob job (fun k => { k with reconf := some (p, .switching ports s.cycle.toNat) })).reconfReport job
    | _ => s)

/-- R418. The reports of every job that may now be made. -/
def State.reportAll (s : State) : State := (s.jobs.map (·.1)).foldl (fun t j => t.reconfReport j) s

/-- R418. PORT_TRAINING_COMPLETE: a training port goes up. -/
def execPortTrainingComplete (port : Nat) (s : State) : Out :=
  .next (if decide (port < 8) && (s.port port).state == 1 then
      (s.modPort port (fun q => { q with state := 2, lastSend := s.cycle.toNat, lastAck := s.cycle.toNat })).reportAll
    else s)

/-- R418. A port trains in a RECONF, and 25 µs have passed since. -/
def Job.trainingLate (j : Job) (port now : Nat) : Bool :=
  match j.reconf with
  | some (_, .switching ports since) => ports.contains port && decide (since + 25 * microsecond ≤ now)
  | _ => false

/-- R399, R418. PORT_TRAIN_TIMEOUT: a port that does not come up in time is failed, and its traffic takes detours. -/
def execPortTrainTimeout (port : Nat) (s : State) : Out :=
  .next (if (s.port port).state == 1 && s.jobs.any (fun p => p.2.trainingLate port s.cycle.toNat) then
      (s.failPort port).reportAll
    else s)

/-- R418. The held requests released, behind those that issued before them, once no RECONF of the device holds them. -/
def State.releaseHeld (s : State) : State :=
  if s.reconfiguring then s else { s with inbound := s.inbound ++ s.heldReqs, heldReqs := [] }

/-- R408, R418. A RECONF is decided: held requests are released, and the waiting RECONFs have their result. -/
def State.reconfEnd (s : State) (job : Nat) (v : Word) : State :=
  let t := s.mapJobCtxs job (fun c => { c with
    arrivals := c.arrivals.map (fun p => (p.1, if p.2 = .reconf none then .reconf (some v) else p.2)) })
  (t.modJob job (fun k => { k with reconf := none, rootPlans := [], rootVerdict := none, rootReports := [] })).releaseHeld

/-- R418. RECONF_COMMIT: once every member has reported: GEN and CURPLAN move, and SCOPEGEN with them. -/
def execReconfCommit (job : Nat) (s : State) : Out :=
  .next (
    let j := s.jobOf job
    match j.reconf with
    | some (p, .reported) =>
      if s.isRoot job && !(s.members job).all (fun m => NSet.has j.rootReports m) then s
      else
        let gen := s.groupGen job + 1
        let a := s.groupAddr job
        let s1 := { s with main := (s.main.write (a + 4) 4 gen.toNat).write (a + 20) 4 p }
        (s1.modJob job (fun k => { k with scopegen := gen })).reconfEnd job (zext gen)
    | _ => s)

/-- R418. RECONF_FAIL: the members' plans differed. -/
def execReconfFail (job : Nat) (s : State) : Out :=
  .next (
    let j := s.jobOf job
    match j.reconf with
    | some (_, .arrived) => if s.isRoot job && j.rootVerdict != some false then s else s.reconfEnd job (BitVec.allOnes 64)
    | _ => s)

/-! ## What the root receives (R417 to R419) -/

/-- R417 to R419. GROUP_ARRIVAL_RECEIVE. The value holds in [34:32] what arrives: 0 a GBAR with its step in [31:0], 1 a GBAR of steps
that differ, 2 a RECONF arrival with its plan in [7:0], 3 a report, 4 an abort token with its reason in [31:0]. -/
def execGroupArrivalReceive (job device : Nat) (v : BitVec 64) (s : State) : Out :=
  .next (if !s.isRoot job || !s.hasGroup job then s
    else s.modJob job (fun k => match bits v 34 32 with
      | 0 => { k with rootArr := k.rootArr ++ [(device, w64 (bits v 31 0))] }
      | 1 => { k with rootArr := k.rootArr ++ [(device, BitVec.allOnes 64)] }
      | 2 => { k with rootPlans := SMap.set k.rootPlans device (bits v 7 0) }
      | 4 => { k with tokens := k.tokens ++ [⟨device, v.setWidth 32⟩] }
      | _ => { k with rootReports := NSet.add k.rootReports device }))

/-- R419. ABORT. -/
def execAbort (a : BitVec 5) (s : State) : Out :=
  s.finish (do
    let v := s.x a
    s.needOperand (bits v 63 32 == 0) s.openVal
    s.needGroup
    .ok (s.advance.sendToken s.myJob (v.setWidth 32)))

/-- R419. ABORT_TOKEN_BROADCAST: the root takes its oldest token, discards the arrivals of the open episode, and sends the token
behind every release. -/
def execAbortTokenBroadcast (job : Nat) (s : State) : Out :=
  .next (
    let j := s.jobOf job
    match j.tokens with
    | [] => s
    | t :: rest =>
      if !s.isRoot job then s
      else s.modJob job (fun k => { k with
        tokens := rest, rootArr := []
        rootOut := if (s.members job).contains s.fabid.toNat then k.rootOut ++ [.token t k.waypoint] else k.rootOut }))

/-- R419. A context of the job takes ABORT_TOKEN: a waiting GBAR or RECONF is abandoned. -/
def Ctx.aborted (c : Ctx) (t : Token) (waypoint : BitVec 32) : Ctx :=
  { c with
    arrivals := c.arrivals.filter (fun p => match p.2 with
      | .gbar _ _ => false
      | .reconf _ => false
      | _ => true)
    deferred := c.deferred ++
      [⟨.abort, 0, ⟨Cause.abortToken, 0, zext waypoint, w64 (t.device % 2 ^ 16 * 2 ^ 32) + zext t.reason⟩⟩] }

/-- R419. A token taken by every live context of a job; the device's open episode begins anew. -/
def State.takeToken (s : State) (job : Nat) (t : Token) (waypoint : BitVec 32) : State :=
  (s.mapJobCtxs job (·.aborted t waypoint)).modJob job (fun k => { k with
    gbSteps := [], gbEpisode := k.gbEpisode + 1, gbReleased := k.gbEpisode + 1 })

/-- R419. ABORT_TOKEN_ARRIVAL: a token arrives; on the root's own device it is the oldest that the root has sent. -/
def execAbortTokenArrival (job device : Nat) (waypoint reason : BitVec 32) (s : State) : Out :=
  .next (if s.isRoot job && s.hasGroup job then
      (match (s.jobOf job).rootOut with
        | .token t w :: rest => (s.modJob job (fun k => { k with rootOut := rest })).takeToken job t w
        | _ => s)
    else s.takeToken job ⟨device, reason⟩ waypoint)

end Sys2Proof.Machine
end

