-- ==== Sys2Proof/Machine/Scalar.lean ====
section
/-!
DEFINITION. Integer arithmetic, immediates, select and bit fields: majors 0x10 to 0x14 (R113 to R117).
-/

namespace Sys2Proof.Machine

/-- R113. a + b. -/
def execAdd (d a b : BitVec 5) (s : State) : Out := s.binary d a b (· + ·)
/-- R113. a - b. -/
def execSub (d a b : BitVec 5) (s : State) : Out := s.binary d a b (· - ·)
/-- R113. The low 64 bits of the product. -/
def execMul (d a b : BitVec 5) (s : State) : Out := s.binary d a b (· * ·)
/-- R113. The high half of the signed product. -/
def execMulh (d a b : BitVec 5) (s : State) : Out := s.binary d a b Int64.mulh
/-- R113. The high half of the unsigned product. -/
def execMulhu (d a b : BitVec 5) (s : State) : Out := s.binary d a b Int64.mulhu
/-- R113. The signed quotient. -/
def execDiv (d a b : BitVec 5) (s : State) : Out := s.binary d a b Int64.div
/-- R113. The unsigned quotient. -/
def execDivu (d a b : BitVec 5) (s : State) : Out := s.binary d a b Int64.divu
/-- R113. The signed remainder. -/
def execRem (d a b : BitVec 5) (s : State) : Out := s.binary d a b Int64.rem
/-- R113. The unsigned remainder. -/
def execRemu (d a b : BitVec 5) (s : State) : Out := s.binary d a b Int64.remu
/-- R113. a AND b. -/
def execAnd (d a b : BitVec 5) (s : State) : Out := s.binary d a b (· &&& ·)
/-- R113. a OR b. -/
def execOr (d a b : BitVec 5) (s : State) : Out := s.binary d a b (· ||| ·)
/-- R113. a XOR b. -/
def execXor (d a b : BitVec 5) (s : State) : Out := s.binary d a b (· ^^^ ·)
/-- R113. a AND NOT b. -/
def execAndn (d a b : BitVec 5) (s : State) : Out := s.binary d a b (fun x y => x &&& ~~~y)
/-- R113. A left shift by b[5:0]. -/
def execShl (d a b : BitVec 5) (s : State) : Out := s.binary d a b Int64.shl
/-- R113. A logical right shift by b[5:0]. -/
def execShr (d a b : BitVec 5) (s : State) : Out := s.binary d a b Int64.shr
/-- R113. An arithmetic right shift by b[5:0]. -/
def execSra (d a b : BitVec 5) (s : State) : Out := s.binary d a b Int64.sra
/-- R113. A right rotation by b[5:0]. -/
def execRotr (d a b : BitVec 5) (s : State) : Out := s.binary d a b Int64.rotr
/-- R113. The signed minimum. -/
def execMin (d a b : BitVec 5) (s : State) : Out := s.binary d a b Int64.min
/-- R113. The signed maximum. -/
def execMax (d a b : BitVec 5) (s : State) : Out := s.binary d a b Int64.max
/-- R113. The unsigned minimum. -/
def execMinu (d a b : BitVec 5) (s : State) : Out := s.binary d a b Int64.minu
/-- R113. The unsigned maximum. -/
def execMaxu (d a b : BitVec 5) (s : State) : Out := s.binary d a b Int64.maxu
/-- R113. 1 if a = b. -/
def execSeq (d a b : BitVec 5) (s : State) : Out := s.binary d a b Int64.seq
/-- R113. 1 if a differs from b. -/
def execSne (d a b : BitVec 5) (s : State) : Out := s.binary d a b Int64.sne
/-- R113. 1 if a < b signed. -/
def execSlt (d a b : BitVec 5) (s : State) : Out := s.binary d a b Int64.slt
/-- R113. 1 if a < b unsigned. -/
def execSltu (d a b : BitVec 5) (s : State) : Out := s.binary d a b Int64.sltu
/-- R113. 1 if a is at most b signed. -/
def execSle (d a b : BitVec 5) (s : State) : Out := s.binary d a b Int64.sle
/-- R113. 1 if a is at most b unsigned. -/
def execSleu (d a b : BitVec 5) (s : State) : Out := s.binary d a b Int64.sleu
/-- R114. A + i. -/
def execAddi (d a : BitVec 5) (imm : BitVec 16) (s : State) : Out := s.unary d a (fun x => x + sext imm)
/-- R114. A AND i. -/
def execAndi (d a : BitVec 5) (imm : BitVec 16) (s : State) : Out := s.unary d a (fun x => x &&& sext imm)
/-- R114. A OR i. -/
def execOri (d a : BitVec 5) (imm : BitVec 16) (s : State) : Out := s.unary d a (fun x => x ||| sext imm)
/-- R114. A XOR i. -/
def execXori (d a : BitVec 5) (imm : BitVec 16) (s : State) : Out := s.unary d a (fun x => x ^^^ sext imm)
/-- R114. A shifted left by i. -/
def execShli (d a : BitVec 5) (imm : BitVec 6) (s : State) : Out := s.unary d a (fun x => Int64.shl x (zext imm))
/-- R114. A shifted right logically by i. -/
def execShri (d a : BitVec 5) (imm : BitVec 6) (s : State) : Out := s.unary d a (fun x => Int64.shr x (zext imm))
/-- R114. A shifted right arithmetically by i. -/
def execSrai (d a : BitVec 5) (imm : BitVec 6) (s : State) : Out := s.unary d a (fun x => Int64.sra x (zext imm))
/-- R114. A rotated right by i. -/
def execRotri (d a : BitVec 5) (imm : BitVec 6) (s : State) : Out := s.unary d a (fun x => Int64.rotr x (zext imm))
/-- R114. 1 if a < i signed. -/
def execSlti (d a : BitVec 5) (imm : BitVec 16) (s : State) : Out := s.unary d a (fun x => Int64.slt x (sext imm))
/-- R114. 1 if a < i unsigned, i being sign-extended. -/
def execSltui (d a : BitVec 5) (imm : BitVec 16) (s : State) : Out := s.unary d a (fun x => Int64.sltu x (sext imm))
/-- R114. The low 64 bits of a times i. -/
def execMuli (d a : BitVec 5) (imm : BitVec 16) (s : State) : Out := s.unary d a (fun x => x * sext imm)
/-- R115. The number of leading zeros. -/
def execClz (d a : BitVec 5) (s : State) : Out := s.unary d a Int64.clz
/-- R115. The number of trailing zeros. -/
def execCtz (d a : BitVec 5) (s : State) : Out := s.unary d a Int64.ctz
/-- R115. The number of one bits. -/
def execPopc (d a : BitVec 5) (s : State) : Out := s.unary d a Int64.popc
/-- R115. a[7:0] sign-extended. -/
def execSextb (d a : BitVec 5) (s : State) : Out := s.unary d a (Int64.sextn 8)
/-- R115. a[15:0] sign-extended. -/
def execSexth (d a : BitVec 5) (s : State) : Out := s.unary d a (Int64.sextn 16)
/-- R115. a[31:0] sign-extended. -/
def execSextw (d a : BitVec 5) (s : State) : Out := s.unary d a (Int64.sextn 32)
/-- R115. a[7:0] zero-extended. -/
def execZextb (d a : BitVec 5) (s : State) : Out := s.unary d a (Int64.zextn 8)
/-- R115. a[15:0] zero-extended. -/
def execZexth (d a : BitVec 5) (s : State) : Out := s.unary d a (Int64.zextn 16)
/-- R115. a[31:0] zero-extended. -/
def execZextw (d a : BitVec 5) (s : State) : Out := s.unary d a (Int64.zextn 32)
/-- R115. The bits in reverse order. -/
def execBrev (d a : BitVec 5) (s : State) : Out := s.unary d a Int64.brev
/-- R115. The bytes in reverse order. -/
def execBswap (d a : BitVec 5) (s : State) : Out := s.unary d a Int64.bswap

/-- R116. The sign-extended immediate. -/
def execLdi (d : BitVec 5) (k : BitVec 32) (s : State) : Out := s.retire d (sext k)
/-- R116. The immediate in [63:32], a[31:0] in [31:0]. -/
def execLdih (d a : BitVec 5) (k : BitVec 32) (s : State) : Out := s.retire d (k ++ (s.x a).setWidth 32)
/-- R116. The address of the head plus the sign-extended immediate. -/
def execLdipc (d : BitVec 5) (k : BitVec 32) (s : State) : Out := s.retire d (s.me.pc + sext k)

/-- R117. All 129 bits of g[a] where g[c] is not zero, else those of g[b]. -/
def execSel (d a b c : BitVec 5) (s : State) : Out := .next (s.setG d (if s.x c ≠ 0 then s.g a else s.g b)).advance
/-- R117. The T2 halfword of a bit-field instruction, for TRAPVAL. -/
def fieldT2 (pos lenm : BitVec 6) (sgn : BitVec 1) : Word := w64 (pos.toNat + lenm.toNat * 2 ^ 6 + sgn.toNat * 2 ^ 12)
/-- R117. A bit field of g[a], sign-extended with S = 1. -/
def execBext (d a : BitVec 5) (pos lenm : BitVec 6) (sgn : BitVec 1) (s : State) : Out :=
  s.finish (do
    s.needOperand (fieldLegal pos lenm) (fieldT2 pos lenm sgn)
    .ok (s.setX d (extractField (s.x a) pos.toNat (lenm.toNat + 1) (sgn == 1))).advance)
/-- R117. g[b] with a bit field replaced by the low bits of g[a]. -/
def execBins (d a b : BitVec 5) (pos lenm : BitVec 6) (s : State) : Out :=
  s.finish (do
    s.needOperand (fieldLegal pos lenm) (fieldT2 pos lenm 0)
    .ok (s.setX d (insertField (s.x b) (s.x a) pos.toNat (lenm.toNat + 1))).advance)

end Sys2Proof.Machine
end

