-- ==== Sys2Proof/Machine/SoftErrors.lean ====
section
/-!
DEFINITION. Soft errors (R376): their charge, by the tables of R256, R282, R309, R326, R347 and R420, and what becomes of the operation
that owns the failed entry (R377 step 3).
-/

namespace Sys2Proof.Machine

/-! ## The operation that owns the failed entry (R377 step 3) -/

/-- A copy of a core that owns a failed entry. -/
def State.failCopy (s : State) (d : BitVec 6) (core seq : Nat) : State :=
  match (s.core core).copies.find? (fun k => k.seq == seq) with
  | none => s
  | some k => (s.retireCopy core seq).settled d ⟨2, if k.started then 2 else 3, core, k.done, w64 seq⟩
/-- An operation of the engine queue that owns a failed entry. -/
def State.failQueued (s : State) (d : BitVec 6) (core seq : Nat) : State :=
  match (s.core core).mxq.find? (fun o => o.seq == seq) with
  | none => s
  | some o =>
    let s1 := s.modCore core (fun c => { c with mxq := c.mxq.filter (fun x => x.seq != seq), mxDone := c.mxDone + 1 })
    (s1.modCtx ⟨core, control⟩ (fun x => { x with cntTile := x.cntTile - 1 }.unawait o.bank o.gdest)).settled d
      ⟨o.failKind, if o.started then 2 else 3, core, 0, w64 seq⟩
/-- A post that owns a failed entry. -/
def State.failPost (s : State) (d : BitVec 6) (cl num : Nat) : State :=
  match (s.cluster cl).posts.find? (fun p => p.num == num) with
  | none => s
  | some p => (s.retirePost cl p).settled d ⟨5, if p.started then 2 else 3, p.ctx.core, p.done, w64 num⟩
/-- A slot transfer that owns a failed entry. -/
def State.failXfer (s : State) (d : BitVec 6) (num : Nat) : State :=
  match s.xfer num with
  | none => s
  | some x => (s.discardXfer x).settled d ⟨11, if x.started then 2 else 3, x.ctx.core, x.landed, w64 num⟩
/-- The work that owns a lock. -/
def State.failLock (s : State) (d : BitVec 6) (k : Lock) : State :=
  if k.post then s.failPost d k.owner k.num
  else if 2 ^ 32 ≤ k.num then s.failXfer d (k.num - 2 ^ 32)
  else s.failCopy d k.owner k.num
/-- R326. A node that owns a failed entry, and its successors. -/
def State.failEntry (s : State) (d : BitVec 6) (die n : Nat) : State :=
  let report := fun (t : State) (i : Nat) =>
    let k := (t.die die).node i
    if k.state = .free ∨ k.state = .failed then t
    else (t.failNode die i).settled d ⟨6, 2, k.who.core, 0, nodeHandle die k.gen i⟩
  ((s.die die).successors n).eraseDups.foldl report (report s n)
/-- The contexts of a slot of a core, wherever they are. -/
def State.slotCtxs (s : State) (c : CtxId) : List Ctx := ((s.core c.core).allCtxs.filter (fun p => p.1 == c.slot)).map (·.2)

/-- A pending access that owns a failed entry: the `k`-th of the contexts of a slot. -/
def State.failAccess (s : State) (d : BitVec 6) (c : CtxId) (k : Nat) : State :=
  match pendingAt (s.slotCtxs c) k with
  | none => s
  | some (x, j, o) =>
    let s1 := s.modOwner c x.uid (fun y => y.finishOp j o)
    match o.failItem c.core 2 with
    | none => s1
    | some i => s1.settled d i

/-- R254. The `k`-th deposit that contexts of a slot have not yet received, with its context and its place there. -/
def depositAt : List Ctx → Nat → Option (Ctx × Nat × Word × BitVec 6)
  | [], _ => none
  | x :: rest, k => match x.spill.drop k with
    | (v, d) :: _ => some (x, k, v, d)
    | [] => depositAt rest (k - x.spill.length)

/-- A deposit that owns a failed entry. -/
def State.failDeposit (s : State) (d : BitVec 6) (c : CtxId) (k : Nat) : State :=
  match depositAt (s.slotCtxs c) k with
  | none => s
  | some (x, j, _, _) => (s.modOwner c x.uid (fun y => { y with spill := y.spill.eraseIdx j })).settled d (s.depositItem c 2)

/-- R347. An operation of a unit that owns a failed entry: nothing of it is written. Where its issuing context is of another domain, it
fails there with LINK_DOWN (DESIGN CHOICE, log 86). -/
def State.failUnitOp (s : State) (d : BitVec 6) (u k : Nat) : State :=
  match s.unitOpAt u k with
  | none => s
  | some o =>
    (if o.who.dom = d then s.dropUnit u k
    else s.modUnit u k (fun x => { x with phase := .failed Cause.linkDown (w64 o.rec_.base) })).settled d
      ⟨if o.mutates then 8 else 7, 2, o.ctx.core, 0, w64 o.seq⟩

/-- R377 step 3. What owns the failed entry at a site stops where it stands and is recorded as failed. -/
def State.failOwner (s : State) (d : BitVec 6) (site : ErrorSite) : State :=
  match site with
  | .engineQueue core seq => s.failQueued d core seq
  | .copyQueue core seq => s.failCopy d core seq
  | .coreLock core k => ((s.core core).locks[k]?).elim s (s.failLock d)
  | .clusterLock cl k => ((s.cluster cl).locks[k]?).elim s (s.failLock d)
  | .slotTransfer num => s.failXfer d num
  | .post cl num => s.failPost d cl num
  | .walkThread cl t =>
    let k := SMap.getD (s.cluster cl).threads t Thread.reset
    if k.state = .free then s
    else (s.modCluster cl (fun q => { q with threads := SMap.erase q.threads t })).settled d ⟨10, 2, k.who.core, 0, w64 t⟩
  | .node die n => s.failEntry d die n
  | .edge die k => (((s.die die).edges[k]?).map (·.1)).elim s (s.failEntry d die)
  | .ramble u k => s.failUnitOp d u k
  | .atomic c k => s.failAccess d c k
  | .remoteLoad c k => s.failAccess d c k
  | .deposit c k => s.failDeposit d c k
  | .key i => { s with keys := SMap.set s.keys i ((SMap.getD s.keys i Key.reset).revoked) }
  | _ => s


/-! ## The charge of an error (R376) -/

/-- The domain of a core's item: its control context's. -/
def Core.itemDom (c : Core) : Option (BitVec 6) := ((SMap.find c.itemCtxs control).filter (·.life == .live)).map (·.dom)
/-- R256. The domain that owns a core's function store: its item's, or, where none is on the core, that of the last one that ran. -/
def Core.storeDom (c : Core) : Option (BitVec 6) := c.itemDom.orElse (fun _ => if c.fns.isEmpty then none else some c.lastdom)

/-- R376, R380. Whom an error at a tagged entry is charged to, by the entry's own tag (R375); none where nothing stands there. -/
def State.chargeOf (s : State) (site : ErrorSite) : Option Charge :=
  let ofCore := fun (core struct : Nat) (dom : Option (BitVec 6)) => dom.map (fun d => (⟨d, struct, dieOf core, core⟩ : Charge))
  let ofAccess := fun (c : CtxId) (k kind struct : Nat) =>
    ((pendingAt (s.slotCtxs c) k).filter (fun p => (p.2.2.failItem c.core 2).any (fun i => i.kind == kind))).map (fun p =>
      (⟨p.2.2.dom, struct, dieOf c.core, noCore⟩ : Charge))
  match site with
  | .context c => ofCore c.core 0x01 (if (s.ctx c).life = .live then some (s.ctx c).dom else none)
  | .sequencer core => ofCore core 0x02 ((s.core core).seqEntries.head?.map (·.dom))
  | .engineQueue core seq => ofCore core 0x03 (((s.core core).mxq.find? (fun o => o.seq == seq)).map (·.dom))
  | .functionStore core => ofCore core 0x04 (s.core core).storeDom
  | .copyQueue core seq => ofCore core 0x05 (((s.core core).copies.find? (fun k => k.seq == seq)).map (·.dom))
  | .coreLock core k => ((s.core core).locks[k]?).map (fun e => ⟨e.dom, 0x06, dieOf core, core⟩)
  | .rucksack c => ((s.core c.core).outs c.slot).head?.map (fun x => ⟨x.dom, 0x07, dieOf c.core, c.core⟩)
  | .arrival c => ((s.ctx c).arrivals.findSome? (fun p => match p.2 with
      | .bsync _ tag => some tag
      | _ => none)).map (fun d => ⟨d, 0x08, dieOf c.core, noCore⟩)
  | .slotTransfer num => (s.xfer num).map (fun x => ⟨x.dom, 0x08, dieOf x.ctx.core, noCore⟩)
  | .post cl num => ((s.cluster cl).posts.find? (fun p => p.num == num)).map (fun p => ⟨p.who.dom, 0x09, cl / 10, noCore⟩)
  | .clusterLock cl k => ((s.cluster cl).locks[k]?).map (fun e => ⟨e.dom, 0x09, cl / 10, noCore⟩)
  | .walkThread cl t =>
    let k := SMap.getD (s.cluster cl).threads t Thread.reset
    if k.state = .free then none else some ⟨k.who.dom, 0x0A, cl / 10, noCore⟩
  | .node die n =>
    let k := (s.die die).node n
    if k.state = .free then none else some ⟨k.who.dom, 0x0B, die, noCore⟩
  | .edge die k => ((s.die die).edges[k]?).map (fun e => ⟨((s.die die).node e.1).who.dom, 0x0B, die, noCore⟩)
  | .ramble u k => (s.unitOpAt u k).map (fun o =>
      ⟨if o.mutates && (o.phase.isArrived || o.phase.isAdmitted) then BitVec.ofNat 6 o.rec_.dom else o.who.dom, 0x0C, u / 2, noCore⟩)
  | .atomic c k => ofAccess c k 9 0x0D
  | .walkState c second => if second then some ⟨(s.ctx c).dom, 0x0E, dieOf c.core, noCore⟩ else none
  | .eventLine cl => some ⟨(s.cluster cl).cldom, 0x0F, cl / 10, noCore⟩
  | .key i =>
    let k := SMap.getD s.keys i Key.reset
    if k.used then some ⟨k.dom, 0x10, dieOf k.core, noCore⟩ else none
  | .remoteLoad c k => ofAccess c k 12 0x10
  | .deposit c k => (depositAt (s.slotCtxs c) k).map (fun p => ⟨p.2.2.2, 0x10, dieOf c.core, noCore⟩)
  | _ => none

/-- R326. The reservation or the drain of a gang is given up: it is READY again, its failures kept. -/
def State.releaseGang (s : State) (die n : Nat) : State :=
  if (s.die die).reservations.any (fun r => r.node == n) || (s.die die).drain.any (fun k => k.node == n) then
    (s.modDie die (fun d => d.release n)).modNode die n (fun k =>
      if k.state = .reserving ∨ k.state = .stealable then { k with state := .ready } else k)
  else s

/-- R420. The domains of a job: its record's, and those of its cores' contexts. -/
def State.jobDoms (s : State) (job : Nat) : List (BitVec 6) :=
  (BitVec.ofNat 6 (s.jobDom job) :: ((List.range Config.cores).filter (fun c => (s.core c).job == job && (s.core c).current.isSome)).map
    (fun c => (s.core c).itemDom.getD (BitVec.ofNat 6 (s.jobDom job)))).eraseDups

/-- R418, R420. The domains on whose behalf requests are held for a RECONF. -/
def State.heldDoms (s : State) : List (BitVec 6) :=
  (s.heldReqs.filterMap (fun r => ((s.owner r.ctx r.uid).bind (·.servedOp r)).map (fun p => p.2.dom))).eraseDups

/-- R376, R420. The `k`-th flit that a port keeps for replay cannot be rebuilt: the request that it carries is refused with LINK_DOWN,
whoever's it is, and the request that its reply answers likewise (DEDUCED, log 116); the flit carries no more. -/
def State.loseFlit (s : State) (port k : Nat) : State :=
  match (s.port port).kept[k]? with
  | none => s
  | some f =>
    let s1 := s.modPort port (fun q => { q with kept := q.kept.modify k (fun x =>
      { x with req := none, reply := x.reply.map (fun r => { r with refused := some Cause.linkDown, data := 0 }) }) })
    match f.req with
    | none => s1
    | some r => if ownRequest r then s1.refuseOwn r Cause.linkDown else s1.sendReply r (some Cause.linkDown) 0

/-- R376. Errors that mark data, discard what can be had again, or stop a unit; the rest are charged. -/
def State.softError (s : State) (site : ErrorSite) : State :=
  match site with
  | .spadGranule core g => s.modCore core (fun c => { c with spad := c.spad.setPoison (16 * g) true })
  | .cmemGranule cl g => s.modCluster cl (fun k => { k with mem := k.mem.setPoison (16 * g) true })
  | .mainGranule g => { s with main := s.main.setPoison (16 * g) true }
  | .tileRow core t row => s.modCore core (fun c =>
      let k := c.tile t
      c.setTile t { k with poison := NSet.add k.poison row })
  | .accRow core row => s.modCore core (fun c =>
      { c with acc := SMap.set c.acc row { SMap.getD c.acc row AccRow.zero with poison := true } })
  | .latch core sh => s.modCore core (fun c =>
      if sh then { c with shadow := { c.shadow with poison := true } } else { c with active := { c.active with poison := true } })
  | .recordCache core k => s.modCore core (fun c => { c with recCache := c.recCache.eraseIdx k })
  | .translationCache k => { s with xcache := s.xcache.eraseIdx k }
  | .gang die n => s.releaseGang die n
  | .flit port k rebuilt => if rebuilt then s else s.loseFlit port k
  | .portControl p => s.failPort p
  | .dieControl die => s.fence die (fenceCode s.freeN) noCore
  | .ioControl => { s with halt := true }.interruptAll (Config.errorVector % 32)
  | .coreScrub core => s.modCore core (fun c => { c with withdrawn := true })
  | .clusterScrub cl => s.modCluster cl (fun k => { k with withdrawn := true })
  | .heldRequest k =>
    if k < s.heldReqs.length then s.heldDoms.foldl (fun t d => t.charge ⟨d, 0x10, 0, noCore⟩ id) s else s
  | .groupRoot job =>
    let s1 := (s.jobDoms job).foldl (fun t d => t.charge ⟨d, 0x10, 0, noCore⟩ id) s
    s1.modJob job (fun j => { j with tokens := j.tokens ++ [⟨s.fabid.toNat, 0xFFFFFFFF⟩] })
  | _ =>
    match s.chargeOf site with
    | none => s
    | some c => s.charge c (fun t => t.failOwner c.dom site)

/-- R376. UNCORRECTABLE_ERROR. -/
def execUncorrectableError (site : ErrorSite) (s : State) : Out := .next { s.softError site with freeN := s.freeN + 1 }

end Sys2Proof.Machine
end

