-- ==== Sys2Proof/Machine/Dispatch.lean ====
section
/-! DEFINITION. The meaning of every row of the opcode table: one arm per constructor. -/

namespace Sys2Proof.Machine

open Sys2Proof

/-- One step of the machine's table: the meaning of an instruction or of another agent's step. -/
def exec (i : Instr) (s : State) : Host.Outcome State Fault Refusal :=
  match i with
  | .nop => Sys2Proof.Machine.execNop s
  | .hend => Sys2Proof.Machine.execHend s
  | .yield => Sys2Proof.Machine.execYield s
  | .vsync => Sys2Proof.Machine.execVsync s
  | .uiret => Sys2Proof.Machine.execUiret s
  | .eret => Sys2Proof.Machine.execEret s
  | .ifence => Sys2Proof.Machine.execIfence s
  | .shfence => Sys2Proof.Machine.execShfence s
  | .xfence => Sys2Proof.Machine.execXfence s
  | .halt => Sys2Proof.Machine.execHalt s
  | .snap => Sys2Proof.Machine.execSnap s
  | .break_ => Sys2Proof.Machine.execBreak s
  | .wait_ ld st cp tl => Sys2Proof.Machine.execWait ld st cp tl s
  | .hstart slot a b off => Sys2Proof.Machine.execHstart slot a b off s
  | .hjoin d slot => Sys2Proof.Machine.execHjoin d slot s
  | .hstat d slot => Sys2Proof.Machine.execHstat d slot s
  | .hkill slot => Sys2Proof.Machine.execHkill slot s
  | .trap imm => Sys2Proof.Machine.execTrap imm s
  | .syscall imm => Sys2Proof.Machine.execSyscall imm s
  | .movfc d cr => Sys2Proof.Machine.execMovfc d cr s
  | .movtc a cr => Sys2Proof.Machine.execMovtc a cr s
  | .savectx x a cls => Sys2Proof.Machine.execSavectx x a cls s
  | .restctx x a cls => Sys2Proof.Machine.execRestctx x a cls s
  | .beq a b off => Sys2Proof.Machine.execBeq a b off s
  | .bne a b off => Sys2Proof.Machine.execBne a b off s
  | .blt a b off => Sys2Proof.Machine.execBlt a b off s
  | .bge a b off => Sys2Proof.Machine.execBge a b off s
  | .bltu a b off => Sys2Proof.Machine.execBltu a b off s
  | .bgeu a b off => Sys2Proof.Machine.execBgeu a b off s
  | .br off => Sys2Proof.Machine.execBr off s
  | .call d off => Sys2Proof.Machine.execCall d off s
  | .jmpr a => Sys2Proof.Machine.execJmpr a s
  | .callr d a => Sys2Proof.Machine.execCallr d a s
  | .ret a => Sys2Proof.Machine.execRet a s
  | .vloop u k a n => Sys2Proof.Machine.execVloop u k a n s
  | .add d a b => Sys2Proof.Machine.execAdd d a b s
  | .sub d a b => Sys2Proof.Machine.execSub d a b s
  | .mul d a b => Sys2Proof.Machine.execMul d a b s
  | .mulh d a b => Sys2Proof.Machine.execMulh d a b s
  | .mulhu d a b => Sys2Proof.Machine.execMulhu d a b s
  | .div d a b => Sys2Proof.Machine.execDiv d a b s
  | .divu d a b => Sys2Proof.Machine.execDivu d a b s
  | .rem d a b => Sys2Proof.Machine.execRem d a b s
  | .remu d a b => Sys2Proof.Machine.execRemu d a b s
  | .and_ d a b => Sys2Proof.Machine.execAnd d a b s
  | .or_ d a b => Sys2Proof.Machine.execOr d a b s
  | .xor_ d a b => Sys2Proof.Machine.execXor d a b s
  | .andn d a b => Sys2Proof.Machine.execAndn d a b s
  | .shl d a b => Sys2Proof.Machine.execShl d a b s
  | .shr d a b => Sys2Proof.Machine.execShr d a b s
  | .sra d a b => Sys2Proof.Machine.execSra d a b s
  | .rotr d a b => Sys2Proof.Machine.execRotr d a b s
  | .min_ d a b => Sys2Proof.Machine.execMin d a b s
  | .max_ d a b => Sys2Proof.Machine.execMax d a b s
  | .minu d a b => Sys2Proof.Machine.execMinu d a b s
  | .maxu d a b => Sys2Proof.Machine.execMaxu d a b s
  | .seq d a b => Sys2Proof.Machine.execSeq d a b s
  | .sne d a b => Sys2Proof.Machine.execSne d a b s
  | .slt d a b => Sys2Proof.Machine.execSlt d a b s
  | .sltu d a b => Sys2Proof.Machine.execSltu d a b s
  | .sle d a b => Sys2Proof.Machine.execSle d a b s
  | .sleu d a b => Sys2Proof.Machine.execSleu d a b s
  | .addi d a imm => Sys2Proof.Machine.execAddi d a imm s
  | .andi d a imm => Sys2Proof.Machine.execAndi d a imm s
  | .ori d a imm => Sys2Proof.Machine.execOri d a imm s
  | .xori d a imm => Sys2Proof.Machine.execXori d a imm s
  | .shli d a imm => Sys2Proof.Machine.execShli d a imm s
  | .shri d a imm => Sys2Proof.Machine.execShri d a imm s
  | .srai d a imm => Sys2Proof.Machine.execSrai d a imm s
  | .rotri d a imm => Sys2Proof.Machine.execRotri d a imm s
  | .slti d a imm => Sys2Proof.Machine.execSlti d a imm s
  | .sltui d a imm => Sys2Proof.Machine.execSltui d a imm s
  | .muli d a imm => Sys2Proof.Machine.execMuli d a imm s
  | .clz d a => Sys2Proof.Machine.execClz d a s
  | .ctz d a => Sys2Proof.Machine.execCtz d a s
  | .popc d a => Sys2Proof.Machine.execPopc d a s
  | .sextb d a => Sys2Proof.Machine.execSextb d a s
  | .sexth d a => Sys2Proof.Machine.execSexth d a s
  | .sextw d a => Sys2Proof.Machine.execSextw d a s
  | .zextb d a => Sys2Proof.Machine.execZextb d a s
  | .zexth d a => Sys2Proof.Machine.execZexth d a s
  | .zextw d a => Sys2Proof.Machine.execZextw d a s
  | .brev d a => Sys2Proof.Machine.execBrev d a s
  | .bswap d a => Sys2Proof.Machine.execBswap d a s
  | .ldi d k => Sys2Proof.Machine.execLdi d k s
  | .ldih d a k => Sys2Proof.Machine.execLdih d a k s
  | .ldipc d k => Sys2Proof.Machine.execLdipc d k s
  | .sel d a b c => Sys2Proof.Machine.execSel d a b c s
  | .bext d a pos lenm sn => Sys2Proof.Machine.execBext d a pos lenm sn s
  | .bins d a b pos lenm => Sys2Proof.Machine.execBins d a b pos lenm s
  | .sfadd w d a b => Sys2Proof.Machine.execSfadd w d a b s
  | .sfsub w d a b => Sys2Proof.Machine.execSfsub w d a b s
  | .sfmul w d a b => Sys2Proof.Machine.execSfmul w d a b s
  | .sfdiv w d a b => Sys2Proof.Machine.execSfdiv w d a b s
  | .sfmin w d a b => Sys2Proof.Machine.execSfmin w d a b s
  | .sfmax w d a b => Sys2Proof.Machine.execSfmax w d a b s
  | .sfsqrt w d a => Sys2Proof.Machine.execSfsqrt w d a s
  | .sfeq w d a b => Sys2Proof.Machine.execSfeq w d a b s
  | .sflt w d a b => Sys2Proof.Machine.execSflt w d a b s
  | .sfle w d a b => Sys2Proof.Machine.execSfle w d a b s
  | .sffma d a b c w => Sys2Proof.Machine.execSffma d a b c w s
  | .sfcvt d a src dst rnd => Sys2Proof.Machine.execSfcvt d a src dst rnd s
  | .sfclass d a w => Sys2Proof.Machine.execSfclass d a w s
  | .klim d a b => Sys2Proof.Machine.execKlim d a b s
  | .kset d a b => Sys2Proof.Machine.execKset d a b s
  | .kadv d a b => Sys2Proof.Machine.execKadv d a b s
  | .kmask d a b => Sys2Proof.Machine.execKmask d a b s
  | .klock d a b => Sys2Proof.Machine.execKlock d a b s
  | .kopen d a b => Sys2Proof.Machine.execKopen d a b s
  | .kinfo d a fsel => Sys2Proof.Machine.execKinfo d a fsel s
  | .kstrip d a => Sys2Proof.Machine.execKstrip d a s
  | .kcopy d a => Sys2Proof.Machine.execKcopy d a s
  | .klimi d a imm => Sys2Proof.Machine.execKlimi d a imm s
  | .kadvi d a imm => Sys2Proof.Machine.execKadvi d a imm s
  | .kmaski d a imm => Sys2Proof.Machine.execKmaski d a imm s
  | .ldb d a disp => Sys2Proof.Machine.execLdb d a disp s
  | .ldh d a disp => Sys2Proof.Machine.execLdh d a disp s
  | .ldw d a disp => Sys2Proof.Machine.execLdw d a disp s
  | .ldd d a disp => Sys2Proof.Machine.execLdd d a disp s
  | .ldbs d a disp => Sys2Proof.Machine.execLdbs d a disp s
  | .ldhs d a disp => Sys2Proof.Machine.execLdhs d a disp s
  | .ldws d a disp => Sys2Proof.Machine.execLdws d a disp s
  | .ldc d a disp => Sys2Proof.Machine.execLdc d a disp s
  | .stb b a disp => Sys2Proof.Machine.execStb b a disp s
  | .sth b a disp => Sys2Proof.Machine.execSth b a disp s
  | .stw b a disp => Sys2Proof.Machine.execStw b a disp s
  | .std b a disp => Sys2Proof.Machine.execStd b a disp s
  | .stc b a disp => Sys2Proof.Machine.execStc b a disp s
  | .ldbx d a b => Sys2Proof.Machine.execLdbx d a b s
  | .ldhx d a b => Sys2Proof.Machine.execLdhx d a b s
  | .ldwx d a b => Sys2Proof.Machine.execLdwx d a b s
  | .lddx d a b => Sys2Proof.Machine.execLddx d a b s
  | .stbx c a b => Sys2Proof.Machine.execStbx c a b s
  | .sthx c a b => Sys2Proof.Machine.execSthx c a b s
  | .stwx c a b => Sys2Proof.Machine.execStwx c a b s
  | .stdx c a b => Sys2Proof.Machine.execStdx c a b s
  | .ldm f l a disp => Sys2Proof.Machine.execLdm f l a disp s
  | .stm f l a disp => Sys2Proof.Machine.execStm f l a disp s
  | .amoadd d a b scope order size => Sys2Proof.Machine.execAmoadd d a b scope order size s
  | .amoand d a b scope order size => Sys2Proof.Machine.execAmoand d a b scope order size s
  | .amoor d a b scope order size => Sys2Proof.Machine.execAmoor d a b scope order size s
  | .amoxor d a b scope order size => Sys2Proof.Machine.execAmoxor d a b scope order size s
  | .amoswap d a b scope order size => Sys2Proof.Machine.execAmoswap d a b scope order size s
  | .amomin d a b scope order size => Sys2Proof.Machine.execAmomin d a b scope order size s
  | .amomax d a b scope order size => Sys2Proof.Machine.execAmomax d a b scope order size s
  | .amominu d a b scope order size => Sys2Proof.Machine.execAmominu d a b scope order size s
  | .amomaxu d a b scope order size => Sys2Proof.Machine.execAmomaxu d a b scope order size s
  | .cas d a b scope order size facq c => Sys2Proof.Machine.execCas d a b scope order size facq c s
  | .cas2 d a b scope order facq c => Sys2Proof.Machine.execCas2 d a b scope order facq c s
  | .ldaq d a scope order size => Sys2Proof.Machine.execLdaq d a scope order size s
  | .strl b a scope order size => Sys2Proof.Machine.execStrl b a scope order size s
  | .fence scope kind => Sys2Proof.Machine.execFence scope kind s
  | .vadd d a b rm m => Sys2Proof.Machine.execVadd d a b rm m s
  | .vsub d a b rm m => Sys2Proof.Machine.execVsub d a b rm m s
  | .vmul d a b rm m => Sys2Proof.Machine.execVmul d a b rm m s
  | .vmin d a b rm m => Sys2Proof.Machine.execVmin d a b rm m s
  | .vmax d a b rm m => Sys2Proof.Machine.execVmax d a b rm m s
  | .vand d a b m => Sys2Proof.Machine.execVand d a b m s
  | .vor d a b m => Sys2Proof.Machine.execVor d a b m s
  | .vxor d a b m => Sys2Proof.Machine.execVxor d a b m s
  | .vandn d a b m => Sys2Proof.Machine.execVandn d a b m s
  | .vshl d a b m => Sys2Proof.Machine.execVshl d a b m s
  | .vshr d a b m => Sys2Proof.Machine.execVshr d a b m s
  | .vsra d a b m => Sys2Proof.Machine.execVsra d a b m s
  | .vscaleb d a b rm m => Sys2Proof.Machine.execVscaleb d a b rm m s
  | .vadds d a b rm m => Sys2Proof.Machine.execVadds d a b rm m s
  | .vsubs d a b rm m => Sys2Proof.Machine.execVsubs d a b rm m s
  | .vabsd d a b rm m => Sys2Proof.Machine.execVabsd d a b rm m s
  | .vmov d a m => Sys2Proof.Machine.execVmov d a m s
  | .vneg d a m => Sys2Proof.Machine.execVneg d a m s
  | .vabs d a m => Sys2Proof.Machine.execVabs d a m s
  | .vnot d a m => Sys2Proof.Machine.execVnot d a m s
  | .vclass d a m => Sys2Proof.Machine.execVclass d a m s
  | .viota d tag rm m => Sys2Proof.Machine.execViota d tag rm m s
  | .vbcast d a tag m => Sys2Proof.Machine.execVbcast d a tag m s
  | .vrcp d a rm m => Sys2Proof.Machine.execVrcp d a rm m s
  | .vrsqrt d a rm m => Sys2Proof.Machine.execVrsqrt d a rm m s
  | .vsqrt d a rm m => Sys2Proof.Machine.execVsqrt d a rm m s
  | .vfma d a b c rm m => Sys2Proof.Machine.execVfma d a b c rm m s
  | .vfms d a b c rm m => Sys2Proof.Machine.execVfms d a b c rm m s
  | .vfnma d a b c rm m => Sys2Proof.Machine.execVfnma d a b c rm m s
  | .vsel d a b m => Sys2Proof.Machine.execVsel d a b m s
  | .vceq q a b m => Sys2Proof.Machine.execVceq q a b m s
  | .vcne q a b m => Sys2Proof.Machine.execVcne q a b m s
  | .vclt q a b m => Sys2Proof.Machine.execVclt q a b m s
  | .vcle q a b m => Sys2Proof.Machine.execVcle q a b m s
  | .vcun q a b m => Sys2Proof.Machine.execVcun q a b m s
  | .vclassm q a cls m => Sys2Proof.Machine.execVclassm q a cls m s
  | .vcvt d a p tag rm m => Sys2Proof.Machine.execVcvt d a p tag rm m s
  | .vrnd d a rm m => Sys2Proof.Machine.execVrnd d a rm m s
  | .vtag d a tag m => Sys2Proof.Machine.execVtag d a tag m s
  | .vpack d a b tag rm m => Sys2Proof.Machine.execVpack d a b tag rm m s
  | .vunpack d a tag rm m => Sys2Proof.Machine.execVunpack d a tag rm m s
  | .vredsum d a rm m => Sys2Proof.Machine.execVredsum d a rm m s
  | .vredmax d a m => Sys2Proof.Machine.execVredmax d a m s
  | .vredmin d a m => Sys2Proof.Machine.execVredmin d a m s
  | .vperm d a b m => Sys2Proof.Machine.execVperm d a b m s
  | .vextr d a b => Sys2Proof.Machine.execVextr d a b s
  | .vins d a b => Sys2Proof.Machine.execVins d a b s
  | .vld d a b tag m => Sys2Proof.Machine.execVld d a b tag m s
  | .vst c a b m => Sys2Proof.Machine.execVst c a b m s
  | .vgath d a b p tag m => Sys2Proof.Machine.execVgath d a b p tag m s
  | .vscat c a b p m => Sys2Proof.Machine.execVscat c a b p m s
  | .sbind mode sn a b => Sys2Proof.Machine.execSbind mode sn a b s
  | .spos sn a => Sys2Proof.Machine.execSpos sn a s
  | .sget d sn => Sys2Proof.Machine.execSget d sn s
  | .vexp2f d a rm m => Sys2Proof.Machine.execVexp2f d a rm m s
  | .vlog2f d a rm m => Sys2Proof.Machine.execVlog2f d a rm m s
  | .vtanh d a rm m => Sys2Proof.Machine.execVtanh d a rm m s
  | .vtopk d a c k m => Sys2Proof.Machine.execVtopk d a c k m s
  | .vtopknz d a c k m => Sys2Proof.Machine.execVtopknz d a c k m s
  | .park x a b rb => Sys2Proof.Machine.execPark x a b rb s
  | .unpark x a b rb => Sys2Proof.Machine.execUnpark x a b rb s
  | .wload t a => Sys2Proof.Machine.execWload t a s
  | .mma t a rb cq => Sys2Proof.Machine.execMma t a rb cq s
  | .mmasw t a rb cq => Sys2Proof.Machine.execMmasw t a rb cq s
  | .accz nm rb => Sys2Proof.Machine.execAccz nm rb s
  | .accrd t rb cq sat pr => Sys2Proof.Machine.execAccrd t rb cq sat pr s
  | .accwr t rb cq => Sys2Proof.Machine.execAccwr t rb cq s
  | .acccp nm rs rd => Sys2Proof.Machine.execAcccp nm rs rd s
  | .tload t a b stride => Sys2Proof.Machine.execTload t a b stride s
  | .tstore t a b cvt fmt stride => Sys2Proof.Machine.execTstore t a b cvt fmt stride s
  | .ttrans d sn => Sys2Proof.Machine.execTtrans d sn s
  | .chadd d a b => Sys2Proof.Machine.execChadd d a b s
  | .chsub d a b => Sys2Proof.Machine.execChsub d a b s
  | .chmul d a b => Sys2Proof.Machine.execChmul d a b s
  | .chcomp d a b => Sys2Proof.Machine.execChcomp d a b s
  | .chdiff d a => Sys2Proof.Machine.execChdiff d a s
  | .chint d a => Sys2Proof.Machine.execChint d a s
  | .chmov d a => Sys2Proof.Machine.execChmov d a s
  | .chfree d => Sys2Proof.Machine.execChfree d s
  | .chlen d a => Sys2Proof.Machine.execChlen d a s
  | .chnorm d a => Sys2Proof.Machine.execChnorm d a s
  | .chtrunc d a b => Sys2Proof.Machine.execChtrunc d a b s
  | .chfit d a b n => Sys2Proof.Machine.execChfit d a b n s
  | .cheval d a b => Sys2Proof.Machine.execCheval d a b s
  | .chroot d a b k => Sys2Proof.Machine.execChroot d a b k s
  | .chconst d a b c => Sys2Proof.Machine.execChconst d a b c s
  | .chx d a b => Sys2Proof.Machine.execChx d a b s
  | .chld d a b => Sys2Proof.Machine.execChld d a b s
  | .chst sn a b => Sys2Proof.Machine.execChst sn a b s
  | .chscal d a b => Sys2Proof.Machine.execChscal d a b s
  | .cpy ui a b srec drec => Sys2Proof.Machine.execCpy ui a b srec drec s
  | .cpym ui t a b srec rb cq sw => Sys2Proof.Machine.execCpym ui t a b srec rb cq sw s
  | .cpyq ui a b srec drec => Sys2Proof.Machine.execCpyq ui a b srec drec s
  | .igather i64 ev t ix n p ru => Sys2Proof.Machine.execIgather i64 ev t ix n p ru s
  | .iscatter i64 ev t ix n p ru => Sys2Proof.Machine.execIscatter i64 ev t ix n p ru s
  | .evwait ev a => Sys2Proof.Machine.execEvwait ev a s
  | .evsig ev a => Sys2Proof.Machine.execEvsig ev a s
  | .cbar a => Sys2Proof.Machine.execCbar a s
  | .wkstart d a b obj => Sys2Proof.Machine.execWkstart d a b obj s
  | .wkstat d a fsel rel => Sys2Proof.Machine.execWkstat d a fsel rel s
  | .stvec d a ix => Sys2Proof.Machine.execStvec d a ix s
  | .ldnear exact d a b ix => Sys2Proof.Machine.execLdnear exact d a b ix s
  | .delvec d b ix => Sys2Proof.Machine.execDelvec d b ix s
  | .ixstamp d ix => Sys2Proof.Machine.execIxstamp d ix s
  | .nsubmit d a arm => Sys2Proof.Machine.execNsubmit d a arm s
  | .ndone a => Sys2Proof.Machine.execNdone a s
  | .ndoneQ d a rel => Sys2Proof.Machine.execNdoneQ d a rel s
  | .narm a => Sys2Proof.Machine.execNarm a s
  | .narmEdge d a b => Sys2Proof.Machine.execNarmEdge d a b s
  | .cwait d a n => Sys2Proof.Machine.execCwait d a n s
  | .cancel d a => Sys2Proof.Machine.execCancel d a s
  | .launch d a => Sys2Proof.Machine.execLaunch d a s
  | .barrive d a ix => Sys2Proof.Machine.execBarrive d a ix s
  | .bwait a ix => Sys2Proof.Machine.execBwait a ix s
  | .bsync d a ix => Sys2Proof.Machine.execBsync d a ix s
  | .slotsend c a b slot => Sys2Proof.Machine.execSlotsend c a b slot s
  | .slotwait d slot => Sys2Proof.Machine.execSlotwait d slot s
  | .seal d a b => Sys2Proof.Machine.execSeal d a b s
  | .reconf d plan => Sys2Proof.Machine.execReconf d plan s
  | .tgen d => Sys2Proof.Machine.execTgen d s
  | .gbar d a => Sys2Proof.Machine.execGbar d a s
  | .abort a => Sys2Proof.Machine.execAbort a s
  | .stmc a b scope => Sys2Proof.Machine.execStmc a b scope s
  | .rkreg d a b kind rights => Sys2Proof.Machine.execRkreg d a b kind rights s
  | .rkrevoke d a => Sys2Proof.Machine.execRkrevoke d a s
  | .wnop => Sys2Proof.Machine.execWnop s
  | .wadd d a b => Sys2Proof.Machine.execWadd d a b s
  | .wsub d a b => Sys2Proof.Machine.execWsub d a b s
  | .wand d a b => Sys2Proof.Machine.execWand d a b s
  | .wor d a b => Sys2Proof.Machine.execWor d a b s
  | .wxor d a b => Sys2Proof.Machine.execWxor d a b s
  | .wshl d a b => Sys2Proof.Machine.execWshl d a b s
  | .wshr d a b => Sys2Proof.Machine.execWshr d a b s
  | .waddi d a imm => Sys2Proof.Machine.execWaddi d a imm s
  | .wmuli d a imm => Sys2Proof.Machine.execWmuli d a imm s
  | .wldi d imm => Sys2Proof.Machine.execWldi d imm s
  | .wldB d a c imm => Sys2Proof.Machine.execWldB d a c imm s
  | .wldH d a c imm => Sys2Proof.Machine.execWldH d a c imm s
  | .wldW d a c imm => Sys2Proof.Machine.execWldW d a c imm s
  | .wldD d a c imm => Sys2Proof.Machine.execWldD d a c imm s
  | .wstB d a c imm => Sys2Proof.Machine.execWstB d a c imm s
  | .wstH d a c imm => Sys2Proof.Machine.execWstH d a c imm s
  | .wstW d a c imm => Sys2Proof.Machine.execWstW d a c imm s
  | .wstD d a c imm => Sys2Proof.Machine.execWstD d a c imm s
  | .wflt d a b => Sys2Proof.Machine.execWflt d a b s
  | .wfle d a b => Sys2Proof.Machine.execWfle d a b s
  | .wbeq a b imm => Sys2Proof.Machine.execWbeq a b imm s
  | .wbne a b imm => Sys2Proof.Machine.execWbne a b imm s
  | .wbltu a b imm => Sys2Proof.Machine.execWbltu a b imm s
  | .wj imm => Sys2Proof.Machine.execWj imm s
  | .wdinit => Sys2Proof.Machine.execWdinit s
  | .wdabs a => Sys2Proof.Machine.execWdabs a s
  | .wdfin a c imm => Sys2Proof.Machine.execWdfin a c imm s
  | .wzrow => Sys2Proof.Machine.execWzrow s
  | .wrins d a sn imm => Sys2Proof.Machine.execWrins d a sn imm s
  | .wemit a c imm => Sys2Proof.Machine.execWemit a c imm s
  | .wsig e => Sys2Proof.Machine.execWsig e s
  | .wend a => Sys2Proof.Machine.execWend a s
  | .walkStepLimit cl th => Sys2Proof.Machine.execWalkStepLimit cl th s
  | .digestBlockCompress cl th => Sys2Proof.Machine.execDigestBlockCompress cl th s
  | .vsqctlDiscard => Sys2Proof.Machine.execVsqctlDiscard s
  | .mxctlDiscard => Sys2Proof.Machine.execMxctlDiscard s
  | .cpctlDiscard => Sys2Proof.Machine.execCpctlDiscard s
  | .xlinvPage v => Sys2Proof.Machine.execXlinvPage v s
  | .xlinvDomain v => Sys2Proof.Machine.execXlinvDomain v s
  | .xlinvAll v => Sys2Proof.Machine.execXlinvAll v s
  | .domainWrite v => Sys2Proof.Machine.execDomainWrite v s
  | .rndWrite v => Sys2Proof.Machine.execRndWrite v s
  | .flagsWrite v => Sys2Proof.Machine.execFlagsWrite v s
  | .flagsRead d => Sys2Proof.Machine.execFlagsRead d s
  | .fntolWrite v => Sys2Proof.Machine.execFntolWrite v s
  | .fnstatRead d => Sys2Proof.Machine.execFnstatRead d s
  | .dtermClear v => Sys2Proof.Machine.execDtermClear v s
  | .vdctlRst v => Sys2Proof.Machine.execVdctlRst v s
  | .vdirq v => Sys2Proof.Machine.execVdirq v s
  | .jsgo vd v => Sys2Proof.Machine.execJsgo vd v s
  | .irqstatClear vd v => Sys2Proof.Machine.execIrqstatClear vd v s
  | .lntrig vd v => Sys2Proof.Machine.execLntrig vd v s
  | .lnres vd v => Sys2Proof.Machine.execLnres vd v s
  | .atgo vd v => Sys2Proof.Machine.execAtgo vd v s
  | .hostRegisterWrite vd off v => Sys2Proof.Machine.execHostRegisterWrite vd off v s
  | .packageReset => Sys2Proof.Machine.execPackageReset s
  | .stackWake => Sys2Proof.Machine.execStackWake s
  | .opticalEngineWake => Sys2Proof.Machine.execOpticalEngineWake s
  | .dieRailWake => Sys2Proof.Machine.execDieRailWake s
  | .securityProcessorBoot firmware => Sys2Proof.Machine.execSecurityProcessorBoot firmware s
  | .decsynLinkTrain => Sys2Proof.Machine.execDecsynLinkTrain s
  | .bypass => Sys2Proof.Machine.execBypass s
  | .idcode => Sys2Proof.Machine.execIdcode s
  | .samplePreload => Sys2Proof.Machine.execSamplePreload s
  | .extest => Sys2Proof.Machine.execExtest s
  | .arrayWake cl => Sys2Proof.Machine.execArrayWake cl s
  | .arraySleep cl => Sys2Proof.Machine.execArraySleep cl s
  | .launchItemStart core => Sys2Proof.Machine.execLaunchItemStart core s
  | .takeDeferredTrap c => Sys2Proof.Machine.execTakeDeferredTrap c s
  | .enterUserHandler core => Sys2Proof.Machine.execEnterUserHandler core s
  | .mailboxDeposit c v => Sys2Proof.Machine.execMailboxDeposit c v s
  | .spillDelivery c => Sys2Proof.Machine.execSpillDelivery c s
  | .rucksackDelivery c k v => Sys2Proof.Machine.execRucksackDelivery c k v s
  | .loadComplete c k reply => Sys2Proof.Machine.execLoadComplete c k reply s
  | .storePerformed c k => Sys2Proof.Machine.execStorePerformed c k s
  | .remoteRefusal c k cause => Sys2Proof.Machine.execRemoteRefusal c k cause s
  | .translationWalk c va kind => Sys2Proof.Machine.execTranslationWalk c va kind s
  | .sequencerExecute core => Sys2Proof.Machine.execSequencerExecute core s
  | .vloopReplay core => Sys2Proof.Machine.execVloopReplay core s
  | .matrixOpStart core => Sys2Proof.Machine.execMatrixOpStart core s
  | .matrixOpComplete core => Sys2Proof.Machine.execMatrixOpComplete core s
  | .functionOpComplete core => Sys2Proof.Machine.execFunctionOpComplete core s
  | .copyStart core => Sys2Proof.Machine.execCopyStart core s
  | .copyComplete core k => Sys2Proof.Machine.execCopyComplete core k s
  | .copyFail core k => Sys2Proof.Machine.execCopyFail core k s
  | .indirectPostStart cl => Sys2Proof.Machine.execIndirectPostStart cl s
  | .indirectPostComplete cl k => Sys2Proof.Machine.execIndirectPostComplete cl k s
  | .indirectPostFail cl k => Sys2Proof.Machine.execIndirectPostFail cl k s
  | .preemption core => Sys2Proof.Machine.execPreemption core s
  | .nodeAgeing die n => Sys2Proof.Machine.execNodeAgeing die n s
  | .nodePlaceAffinity die n => Sys2Proof.Machine.execNodePlaceAffinity die n s
  | .nodeSteal die core => Sys2Proof.Machine.execNodeSteal die core s
  | .gangReserveBegin die n region => Sys2Proof.Machine.execGangReserveBegin die n region s
  | .gangCommit die n => Sys2Proof.Machine.execGangCommit die n s
  | .gangReserveFail die n => Sys2Proof.Machine.execGangReserveFail die n s
  | .gangBackoffExpiry die n => Sys2Proof.Machine.execGangBackoffExpiry die n s
  | .gangDrainStart die n region => Sys2Proof.Machine.execGangDrainStart die n region s
  | .drainCoreReserve die core => Sys2Proof.Machine.execDrainCoreReserve die core s
  | .nodeCompletion die n => Sys2Proof.Machine.execNodeCompletion die n s
  | .nodeFail die n => Sys2Proof.Machine.execNodeFail die n s
  | .rambleAdmit unit k => Sys2Proof.Machine.execRambleAdmit unit k s
  | .rambleSearch unit k => Sys2Proof.Machine.execRambleSearch unit k s
  | .rambleReply unit k => Sys2Proof.Machine.execRambleReply unit k s
  | .rambleFail unit k => Sys2Proof.Machine.execRambleFail unit k s
  | .rambleHeldReplyDelivery c => Sys2Proof.Machine.execRambleHeldReplyDelivery c s
  | .sliceRelease core k => Sys2Proof.Machine.execSliceRelease core k s
  | .sliceDispatch core => Sys2Proof.Machine.execSliceDispatch core s
  | .sliceBudgetExpiry core => Sys2Proof.Machine.execSliceBudgetExpiry core s
  | .sliceGraceExpiry core => Sys2Proof.Machine.execSliceGraceExpiry core s
  | .deadlineMiss core k => Sys2Proof.Machine.execDeadlineMiss core k s
  | .generationComplete k => Sys2Proof.Machine.execGenerationComplete k s
  | .slotTransferStart k => Sys2Proof.Machine.execSlotTransferStart k s
  | .lateLaneStart k => Sys2Proof.Machine.execLateLaneStart k s
  | .slotBeatLand k => Sys2Proof.Machine.execSlotBeatLand k s
  | .uncorrectableError site => Sys2Proof.Machine.execUncorrectableError site s
  | .terminationDone d => Sys2Proof.Machine.execTerminationDone d s
  | .lanternCoreCapture core => Sys2Proof.Machine.execLanternCoreCapture core s
  | .lanternCaptureComplete => Sys2Proof.Machine.execLanternCaptureComplete s
  | .sealDigestDone k => Sys2Proof.Machine.execSealDigestDone k s
  | .attestationDone vd => Sys2Proof.Machine.execAttestationDone vd s
  | .flitReceive port flit => Sys2Proof.Machine.execFlitReceive port flit s
  | .idleFlit port => Sys2Proof.Machine.execIdleFlit port s
  | .linkFailTimeout port => Sys2Proof.Machine.execLinkFailTimeout port s
  | .forwardRequest k => Sys2Proof.Machine.execForwardRequest k s
  | .inboundRequestAdmit k => Sys2Proof.Machine.execInboundRequestAdmit k s
  | .gbarEpisodeComplete job => Sys2Proof.Machine.execGbarEpisodeComplete job s
  | .gbarRelease job result => Sys2Proof.Machine.execGbarRelease job result s
  | .reconfAllArrived job => Sys2Proof.Machine.execReconfAllArrived job s
  | .reconfSwitch job => Sys2Proof.Machine.execReconfSwitch job s
  | .portTrainTimeout port => Sys2Proof.Machine.execPortTrainTimeout port s
  | .reconfCommit job => Sys2Proof.Machine.execReconfCommit job s
  | .reconfFail job => Sys2Proof.Machine.execReconfFail job s
  | .abortTokenBroadcast job => Sys2Proof.Machine.execAbortTokenBroadcast job s
  | .reservedMajorIssue word => Sys2Proof.Machine.execReservedMajorIssue word s
  | .sequentialLineEntry c => Sys2Proof.Machine.execSequentialLineEntry c s
  | .debuggerResume core => Sys2Proof.Machine.execDebuggerResume core s
  | .hostMemoryWindowAccess vd write addr size data => Sys2Proof.Machine.execHostMemoryWindowAccess vd write addr size data s
  | .perBankRefresh stack => Sys2Proof.Machine.execPerBankRefresh stack s
  | .stackTemperatureReport stack hot => Sys2Proof.Machine.execStackTemperatureReport stack hot s
  | .portTrainingComplete port => Sys2Proof.Machine.execPortTrainingComplete port s
  | .keptReplyExpiry k => Sys2Proof.Machine.execKeptReplyExpiry k s
  | .groupArrivalReceive job device v => Sys2Proof.Machine.execGroupArrivalReceive job device v s
  | .abortTokenArrival job device waypoint reason => Sys2Proof.Machine.execAbortTokenArrival job device waypoint reason s

end Sys2Proof.Machine
end

