-- ==== Sys2Proof/Machine/Ready.lean ====
section
/-!
DEFINITION. When a context issues (R87, R88, R97, R151, R246): the counters and queues that an instruction needs, the registers that
await a result, and the cores and slices that hold a context back.
-/

namespace Sys2Proof.Machine

/-- R97. The classes of operations that CNTS counts. -/
inductive CountClass where
  | load
  | store
  | copy
  | tile
  deriving DecidableEq, Repr

/-- R97. The class in which an instruction counts. -/
def Instr.countClass : Instr → Option CountClass
  | .ldb _ _ _ | .ldh _ _ _ | .ldw _ _ _ | .ldd _ _ _ | .ldbs _ _ _ | .ldhs _ _ _ | .ldws _ _ _ | .ldc _ _ _
  | .ldbx _ _ _ | .ldhx _ _ _ | .ldwx _ _ _ | .lddx _ _ _ | .ldm _ _ _ _ | .ldaq _ _ _ _ _
  | .amoadd _ _ _ _ _ _ | .amoand _ _ _ _ _ _ | .amoor _ _ _ _ _ _ | .amoxor _ _ _ _ _ _ | .amoswap _ _ _ _ _ _
  | .amomin _ _ _ _ _ _ | .amomax _ _ _ _ _ _ | .amominu _ _ _ _ _ _ | .amomaxu _ _ _ _ _ _
  | .cas _ _ _ _ _ _ _ _ | .cas2 _ _ _ _ _ _ _ | .nsubmit _ _ _ | .ndoneQ _ _ _ | .stvec _ _ _ | .ldnear _ _ _ _ _
  | .delvec _ _ _ | .ixstamp _ _ | .launch _ _ | .seal _ _ _ => some .load
  | .stb _ _ _ | .sth _ _ _ | .stw _ _ _ | .std _ _ _ | .stc _ _ _ | .stbx _ _ _ | .sthx _ _ _ | .stwx _ _ _
  | .stdx _ _ _ | .stm _ _ _ _ | .strl _ _ _ _ _ | .stmc _ _ _ | .narm _ | .narmEdge _ _ _ | .ndone _ => some .store
  | .cpy _ _ _ _ _ | .cpyq _ _ _ _ _ | .cpym _ _ _ _ _ _ _ _ | .igather _ _ _ _ _ _ _ | .iscatter _ _ _ _ _ _ _
  | .slotsend _ _ _ _ => some .copy
  | .wload _ _ | .mma _ _ _ _ | .mmasw _ _ _ _ | .accz _ _ | .accrd _ _ _ _ _ | .accwr _ _ _ | .acccp _ _ _
  | .tload _ _ _ _ | .tstore _ _ _ _ _ _ | .ttrans _ _ | .chadd _ _ _ | .chsub _ _ _ | .chmul _ _ _ | .chcomp _ _ _
  | .chdiff _ _ | .chint _ _ | .chmov _ _ | .chfree _ | .chlen _ _ | .chnorm _ _ | .chtrunc _ _ _ | .chfit _ _ _ _
  | .cheval _ _ _ | .chroot _ _ _ _ | .chconst _ _ _ _ | .chx _ _ _ | .chld _ _ _ | .chst _ _ _ | .chscal _ _ _
  | .park _ _ _ _ | .unpark _ _ _ _ => some .tile
  | _ => none

/-- R97. The limit of a class. -/
def CountClass.limit : CountClass → Nat
  | .load => 31
  | .store => 31
  | .copy => 15
  | .tile => 15
/-- R97. The count of a class. -/
def Ctx.count (x : Ctx) : CountClass → Nat
  | .load => x.cntLoad + x.sealing
  | .store => x.cntStore
  | .copy => x.cntCopy
  | .tile => x.cntTile

/-- R87, R97. No counter that a group needs would pass its limit. -/
def Ctx.countersAllow (x : Ctx) (g : List Instr) : Bool :=
  [CountClass.load, .store, .copy, .tile].all (fun k =>
    let n := (g.filter (fun i => Instr.countClass i == some k)).length
    n == 0 || decide (x.count k + n ≤ k.limit))

noncomputable section

/-- R78. An instruction of the vector majors 0x30 to 0x3A. -/
def isVector (i : Instr) : Bool := match i.coding with
  | some (.core r _) => decide (0x30 ≤ r.major) && decide (r.major ≤ 0x3A)
  | _ => false
/-- R211. An instruction of the matrix and function majors 0x40, 0x44 and 0x45. -/
def isEngine (i : Instr) : Bool := Instr.countClass i == some .tile && !isVector i

/-- R239, R265. The lock tables have room for the spans of a copy or of a post, if an instruction is one; a post's queue has room too. -/
def State.spansAllow (s : State) (c : CtxId) (i : Instr) : Bool :=
  let t := { s with cur := c }
  let susp := (s.core c.core).cpSusp
  match i with
  | .cpy _ a b srec drec => susp || t.copyRoom 2 (t.copyChecks a b srec drec)
  | .cpyq _ a b srec drec => susp || t.copyRoom 2 (t.copyChecks a b srec drec)
  | .cpym _ x a b srec _ _ sw => susp || t.copyRoom 1 (t.copyTileChecks x a b srec (sw == 1))
  | .igather w ev p ix n q ru => t.postRoom false w ev p ix n q ru
  | .iscatter w ev p ix n q ru => t.postRoom true w ev p ix n q ru
  | _ => true

/-- R151, R154, R239, R246, R265, R418. The queues and tables that an instruction needs have room for it, or the instruction fails at once. -/
def State.queueAllows (s : State) (c : CtxId) (i : Instr) : Bool :=
  let k := s.core c.core
  if isVector i then k.vsqSusp || k.acceptReady i
  else if isEngine i then !k.parkHeld
  else match i with
    | .gbar _ _ => (s.jobOf k.job).reconf.isNone
    | .stmc _ _ _ => (s.jobOf k.job).reconf.isNone
    | _ => s.spansAllow c i

/-- R87, R151. A register awaits the result of an earlier instruction of a context. -/
def State.awaited (s : State) (c : CtxId) (r : RegRef) : Bool :=
  let x := s.ctx c
  let k := s.core c.core
  let queued := fun (p : SeqEntry → RegRef → Bool) => c.slot == control && k.seqEntries.any (fun e => (Instr.writes e.instr).any (p e))
  match r with
  | .g n => NSet.has x.awaits n || queued (fun e w => match w with
      | .g m => x.awaitKey e.bank (BitVec.ofNat 5 m) == n
      | _ => false)
  | .v n => !k.vsqSusp && queued (fun _ w => w == .v n)
  | .q n => !k.vsqSusp && queued (fun _ w => w == .q n)
  | _ => false

/-- R87. The registers, the counters and the queues that a group needs are free. -/
def State.groupReady (s : State) (c : CtxId) (g : List Instr) : Bool :=
  g.all (fun i => (Instr.reads i ++ Instr.writes i).all (fun r => !s.awaited c r) && s.queueAllows c i) &&
    (s.ctx c).countersAllow g

end

/-- R104, R256, R364, R376, R381, R384. A core issues: it is in service and not stopped, its die is not fenced, and its time belongs to the
item that it runs. -/
def State.coreIssues (s : State) (core : Nat) : Bool :=
  let k := s.core core
  !k.stopped && !k.broken && !k.lnStop && !k.withdrawn && !s.halt && !s.coreFenced core &&
    (k.slices.isEmpty || k.preempted || k.runningSlice.any (fun x => k.current.any (·.job == x.job)))

/-- R87. A context may issue, but for what its next group needs. -/
def State.contextIssues (s : State) (c : CtxId) : Bool :=
  let x := s.ctx c
  x.life == .live && !x.halted && s.coreIssues c.core && (s.heldReply c).isNone

/-- R88. The slots of a core in the cyclic order control context, h0, …, h9, from the one after a slot on. -/
def slotsAfter (last : Nat) : List Nat :=
  let order := control :: List.range 10
  let k := if last = control then 1 else last + 2
  order.drop k ++ order.take k

noncomputable section

/-- R87. A context that issues now, but for standing aside, starts a group, or takes the trap that its next line or group raises. -/
def State.couldIssue (s : State) (c : CtxId) : Bool :=
  let x := s.ctx c
  s.contextIssues c && !x.waiting && decide (x.gpos = 0) &&
    (match s.enterLine c with
      | (_, false) => true
      | (t, true) => (groupFault (t.ctx c).line (t.ctx c).pc (c.slot != control) x.priv).isSome ||
          t.groupReady c (groupInstrs (t.ctx c).line (t.ctx c).pc))

/-- R104. A helper that has executed YIELD still stands aside: another context that is ready (R87), and does not stand aside itself, has
not issued since. -/
def State.standsAside (s : State) (c : CtxId) : Bool :=
  let x := s.ctx c
  decide (0 < x.standAside) && (slotsAfter control).any (fun n =>
    n != c.slot && !NSet.has x.passed n && (s.ctx ⟨c.core, n⟩).standAside == 0 && s.couldIssue ⟨c.core, n⟩)

/-- R87, R104. A context is ready: it could issue, and does not stand aside. -/
def State.readyNow (s : State) (c : CtxId) : Bool := s.couldIssue c && !s.standsAside c

end

end Sys2Proof.Machine
end

