-- ==== Sys2Proof/Machine/Issue.lean ====
section
/-!
DEFINITION. What an issue does before the instruction executes (R71, R77, R87, R88): what a context does at a group boundary, the
fetch and the decoding of a group, the member that executes next, and the instruction of a walk thread (R272, R277, R281).
-/

namespace Sys2Proof.Machine

/-- What an issue comes to: nothing, a state reached without an instruction, or an instruction with the state on which it executes. -/
inductive Issue where
  | idle
  | moved (s : State)
  | run (i : Instr) (s : State)

/-! ## Contexts -/

/-- R88. Another context of the core stands inside its group. -/
def State.groupOpen (s : State) (c : CtxId) : Bool :=
  (s.core c.core).ctxs.any (fun p => p.1 != c.slot && p.2.life == .live && p.2.gpos != 0)

/-- R384. A capture that waits for a core takes its record at the core's group boundary. -/
def State.captures (s : State) (core : Nat) : Bool := s.capture.any (fun k => NSet.has k.pending core)

/-- R106, R360, R377, R384. What stops a context at a group boundary: the end of its domain, a kill, the cancelling of its item, or a
capture. -/
def State.stopsHere (s : State) (c : CtxId) : Option State :=
  let x := s.ctx c
  let k := s.core c.core
  if x.life = .live ∧ !k.preempted ∧ s.terminated x.dom then some (s.terminateHere c)
  else if x.life = .live ∧ x.killing then some (s.killHelper c)
  else if x.life = .live ∧ !k.preempted ∧ k.current.any (·.cancelled) then some (s.stopCancelled c.core)
  else if x.life = .live ∧ s.captures c.core then some ((execLanternCoreCapture c.core s).stateOr s)
  else none

/-- R100, R424. What a context takes at a group boundary before its next group: a deferred trap, or its user handler. -/
def State.takesHere (s : State) (c : CtxId) : Option State :=
  let x := s.ctx c
  if x.takesDeferred then some ((execTakeDeferredTrap c s).stateOr s)
  else if c.slot = control ∧ x.takesUser then some ((execEnterUserHandler c.core s).stateOr s)
  else none

/-- R141. The first group after ERET, in which LDM and STM may resume. -/
def Resume.next : Resume → Resume
  | .armed => .active
  | _ => .none

/-- R73, R77. A context whose member at the program counter executes: `pos` is its position, `word` its word, and `ends` says that
it ends its group. -/
def Ctx.member (x : Ctx) (pos : Nat) (word : Nat) (ends : Bool) : Ctx :=
  { x with ir := w64 word, gpos := if ends then 0 else pos + 1, ghead := if pos = 0 then x.pc else x.ghead }
/-- R141, R104. A context that starts a group. -/
def Ctx.startGroup (x : Ctx) : Ctx := { x with resume := if x.waiting then x.resume else x.resume.next, standAside := 0, passed := [] }

/-- R104. Helpers that stand aside see that a context of their core has issued. -/
def Core.issued (k : Core) (slot : Nat) : Core :=
  { k with last := slot, ctxs := k.ctxs.map (fun (p : Nat × Ctx) =>
    (p.1, if 0 < p.2.standAside then { p.2 with passed := NSet.add p.2.passed slot } else p.2)) }

/-- The state in which a member executes. -/
def State.beginMember (s : State) (c : CtxId) (pos word : Nat) (ends : Bool) : State :=
  { s.modCtx c (fun x => x.member pos word ends) with cur := c }

/-- R88, R104, R141. The state once a context starts a group: the context has issued last. -/
def State.readied (s : State) (c : CtxId) : State := (s.modCore c.core (·.issued c.slot)).modCtx c Ctx.startGroup

noncomputable section

/-- What a decoded member comes to: its instruction on the state in which it executes. -/
def runDecoded (d : Decoded) (t : State) : Issue :=
  match d with
  | .instr i => .run i t
  | .illegal _ => .idle

/-- The member at the program counter of a context, from the line that it fetched last. -/
def State.member (s : State) (c : CtxId) (pos : Nat) : Issue :=
  runDecoded (memberAt (s.ctx c).line (headIndex (s.ctx c).pc)).dec
    (s.beginMember c pos (memberAt (s.ctx c).line (headIndex (s.ctx c).pc)).word
      (decide (half (s.ctx c).line (headIndex (s.ctx c).pc) / 32768 = 1)))

/-- R77, R87. A group that a context starts in the line it has fetched: a decode fault, or its first member once the group is ready. -/
def State.startGroup (s : State) (c : CtxId) : Issue :=
  let x := s.ctx c
  match groupFault x.line x.pc (c.slot != control) x.priv with
  | some t => .moved (s.takeTrap c t)
  | none =>
    if s.groupReady c (groupInstrs x.line x.pc) then
      (s.readied c).member c 0
    else .idle

/-- R88. It is a context's turn: no context between the one that issued last and it, in the cyclic order, is ready. -/
def State.turn (s : State) (c : CtxId) : Bool :=
  ((slotsAfter (s.core c.core).last).takeWhile (· != c.slot)).all (fun n => !s.readyNow ⟨c.core, n⟩)

/-- R71 to R77, R87, R88, R424. The issue of a context. A waiting instruction is tried again as it was fetched. -/
def State.issue (s : State) (c : CtxId) : Issue :=
  let x := s.ctx c
  if s.groupOpen c then .idle
  else if x.gpos ≠ 0 then (if s.contextIssues c then s.member c x.gpos else .idle)
  else
    match s.stopsHere c with
    | some t => .moved t
    | none =>
      if !s.contextIssues c || s.standsAside c then .idle
      else
        match s.takesHere c with
        | some t => .moved t
        | none =>
          if x.waiting then (s.modCtx c Ctx.startGroup).member c 0
          else if !s.turn c then .idle
          else
            match s.enterLine c with
            | (t, false) => .moved t
            | (t, true) => t.startGroup c

/-! ## Walk threads -/

/-- R272. A walk thread issues where its turn comes: it runs, and does not wait on the digest unit. -/
def Thread.ready (t : Thread) : Bool := t.state == .run && !t.awaitsDigest

/-- R272. The threads of a cluster in turn, from the one after a thread on. -/
def threadsAfter (last : Nat) : List Nat := (List.range 8).map (fun j => (last + 1 + j) % 8)

/-- R272. It is a walk thread's turn: no thread between the one that issued last and it is ready. -/
def Cluster.walkTurn (k : Cluster) (th : Nat) : Bool := ((threadsAfter k.wkLast).takeWhile (· != th)).all (fun n => !(k.thread n).ready)

/-- R272, R277, R281. The issue of a walk thread: BUDGET past its limit, BAD_TARGET outside its code, ILLEGAL_OP for a word that is
no instruction; a thread that waits on the digest unit does not issue. -/
def State.issueWalk (s : State) (cl th : Nat) : Issue :=
  let t := (s.cluster cl).thread th
  if !t.ready ∨ (s.cluster cl).withdrawn ∨ s.halt ∨ s.dfence.getLsbD (cl / 10) ∨ !(s.cluster cl).walkTurn th then .idle
  else if t.exhausted then .moved (s.walkFaultOf cl th Cause.budget s.openVal)
  else
    match if 0 ≤ t.pc then t.code[t.pc.toNat]? else none with
    | none => .moved (s.walkFaultOf cl th Cause.badTarget s.openVal)
    | some w =>
      match decodeWalk w.toNat with
      | none => .moved (s.walkFaultOf cl th Cause.illegalOp s.openVal)
      | some i => .run i { s.modCluster cl (fun k => { k with wkLast := th }) with wk := (cl, th) }

end

end Sys2Proof.Machine
end

