-- ==== Sys2Proof/Machine/Policy.lean ====
section
/-!
DEFINITION. What moves next where the agenda names nothing: the steps that the units of the package could take of themselves, in turn;
what may stand in the agenda; and what a passing cycle changes (R104, R364).
-/

namespace Sys2Proof.Machine

noncomputable section

/-! ## Steps that a unit could take -/

/-- The contexts that a core lists. -/
def Core.slots (k : Core) : List Nat := k.ctxs.map (·.1)

/-- The pending local accesses of a context, by their places. -/
def Ctx.localOps (x : Ctx) : List Nat :=
  (x.pend.zipIdx.filter (fun p => match p.1.home with
    | .local _ => true
    | .remote _ _ => false)).map (·.2)

/-- R298. The accesses of a context that could be performed. -/
def accessSteps (c : CtxId) (x : Ctx) : List Instr :=
  x.localOps.flatMap (fun k => [.loadComplete c k 0, .storePerformed c k])

/-- R362, R364. The scheduler's steps of a core. -/
def State.sliceSteps (s : State) (core : Nat) : List Instr :=
  let k := s.core core
  let wanted := k.runningSlice.isSome || (s.dueSlice core).any (fun x => k.current.any (fun it => it.job != x.job))
  (if wanted then [Instr.preemption core] else []) ++ [.sliceDispatch core, .sliceBudgetExpiry core, .sliceGraceExpiry core] ++
    k.slices.flatMap (fun x => [.sliceRelease core x.job, .deadlineMiss core x.job])

/-- The engines' steps of a core. -/
def engineSteps (core : Nat) (k : Core) : List Instr :=
  [.sequencerExecute core, .vloopReplay core, .matrixOpStart core, .matrixOpComplete core, .functionOpComplete core
  , .copyStart core] ++ k.copies.flatMap (fun x => [.copyComplete core x.seq, .copyFail core x.seq])

/-- The steps of a core other than the issue of its contexts. -/
def State.coreSteps (s : State) (core : Nat) : List Instr :=
  let k := s.core core
  [.launchItemStart core] ++ engineSteps core k ++ s.sliceSteps core ++
    k.ctxs.flatMap (fun p => accessSteps ⟨core, p.1⟩ p.2 ++ [.spillDelivery ⟨core, p.1⟩, .rambleHeldReplyDelivery ⟨core, p.1⟩]) ++
    (if s.capture.any (fun c => NSet.has c.pending core) then [.lanternCoreCapture core] else [])

/-- The steps of a cluster other than the issue of its walk threads. -/
def clusterSteps (cl : Nat) (k : Cluster) : List Instr :=
  [.indirectPostStart cl, .arrayWake cl, .arraySleep cl] ++
    k.posts.flatMap (fun p => [.indirectPostComplete cl p.num, .indirectPostFail cl p.num]) ++
    k.digestQ.map (.digestBlockCompress cl)

/-- The steps of a Hamper entry. -/
def nodeSteps (die n : Nat) : List Instr :=
  [.nodeFail die n, .nodeCompletion die n, .nodeAgeing die n, .nodePlaceAffinity die n, .gangCommit die n, .gangReserveFail die n
  , .gangBackoffExpiry die n] ++
    (List.range 10).flatMap (fun k => [Instr.gangReserveBegin die n (10 * die + k), .gangDrainStart die n (10 * die + k)])

/-- The steps of a die's Hamper. -/
def dieSteps (die : Nat) (d : Die) : List Instr :=
  d.nodes.flatMap (fun p => nodeSteps die p.1) ++
    (List.range 80).flatMap (fun k => [Instr.nodeSteal die (80 * die + k), .drainCoreReserve die (80 * die + k)])

/-- The steps of a Ramble unit. -/
def unitSteps (u : Nat) (ops : List RambleOp) : List Instr :=
  (List.range ops.length).flatMap (fun k => [Instr.rambleAdmit u k, .rambleSearch u k, .rambleReply u k, .rambleFail u k])

/-- R417 to R419. The steps of a root for a job, and of its own device. -/
def State.rootSteps (s : State) (job : Nat) : List Instr :=
  if s.isRoot job then
    [.gbarEpisodeComplete job, .gbarRelease job 0, .reconfAllArrived job, .reconfSwitch job, .reconfCommit job, .reconfFail job
    , .abortTokenBroadcast job, .abortTokenArrival job 0 0 0]
  else []

/-- The steps of the package's own units. -/
def State.packageSteps (s : State) : List Instr :=
  s.bars.flatMap (fun p => [.generationComplete p.1]) ++
    s.xfers.flatMap (fun x => [.slotTransferStart x.num, .lateLaneStart x.num, .slotBeatLand x.num]) ++
    s.terms.map (fun p => .terminationDone (BitVec.ofNat 6 p.1)) ++ [.lanternCaptureComplete] ++
    s.seals.map (fun p => .sealDigestDone p.1) ++ s.vdevs.map (fun p => .attestationDone p.1) ++
    [.stackWake, .opticalEngineWake, .dieRailWake, .decsynLinkTrain] ++
    s.ports.flatMap (fun p => [.idleFlit p.1, .linkFailTimeout p.1, .portTrainTimeout p.1]) ++
    (List.range s.inbound.length).flatMap (fun k => [.forwardRequest k, .inboundRequestAdmit k]) ++
    (List.range s.replies.length).map (fun k => .forwardRequest (s.inbound.length + k)) ++
    (List.range s.kept.length).map .keptReplyExpiry ++ s.jobs.flatMap (fun p => s.rootSteps p.1)

/-- Every step that some unit could take. -/
def State.unitsSteps (s : State) : List Instr :=
  s.cores.flatMap (fun p => s.coreSteps p.1) ++ s.clusters.flatMap (fun p => clusterSteps p.1 p.2) ++
    s.dies.flatMap (fun p => dieSteps p.1 p.2) ++ s.units.flatMap (fun p => unitSteps p.1 p.2) ++ s.packageSteps

/-- R88. The issues of a core, in the order in which its contexts are tried. -/
def Core.issues (core : Nat) (k : Core) : List Action := (slotsAfter k.last).map (fun n => .issue ⟨core, n⟩)
/-- R272. The issues of a cluster's walk threads, in turn. -/
def Cluster.issues (cl : Nat) (k : Cluster) : List Action :=
  (threadsAfter k.wkLast).map (.walk cl)

/-- What could move, in groups of which each is tried in order. -/
def State.choices (s : State) : List (List Action) :=
  s.cores.map (fun p => p.2.issues p.1) ++ s.clusters.map (fun p => p.2.issues p.1) ++ s.unitsSteps.map (fun i => [.event i])

/-- A list begun at a place and continued from its start. -/
def rotate {α : Type} (k : Nat) (l : List α) : List α := l.drop (k % l.length) ++ l.take (k % l.length)

/-- What could move, in the order in which it is tried: each in its turn. -/
def State.inTurn (s : State) : List Action := (rotate s.cycle.toNat s.choices).flatten

/-! ## What the agenda may name -/

/-- The package has a context of a name. -/
def CtxId.known (c : CtxId) : Bool := decide (c.core < Config.cores) && (decide (c.slot < 10) || c.slot == control)

/-- The rows of the table that a MOVTC, a MOVFC or an issue reaches: they are no steps of their own. -/
def Instr.viaRegister : Instr → Bool
  | .vsqctlDiscard | .mxctlDiscard | .cpctlDiscard | .xlinvPage _ | .xlinvDomain _ | .xlinvAll _ | .domainWrite _ | .rndWrite _
  | .flagsWrite _ | .flagsRead _ | .fntolWrite _ | .fnstatRead _ | .dtermClear _ | .vdctlRst _ | .vdirq _
  | .reservedMajorIssue _ => true
  | _ => false

/-- The package has the agents that a step names: cores, clusters and their threads, dies, Ramble units, virtual devices, optical
ports and contexts. -/
def Instr.agentsKnown : Instr → Bool
  | .launchItemStart n | .enterUserHandler n | .sequencerExecute n | .vloopReplay n | .matrixOpStart n | .matrixOpComplete n
  | .functionOpComplete n | .copyStart n | .copyComplete n _ | .copyFail n _ | .preemption n | .sliceRelease n _
  | .sliceDispatch n | .sliceBudgetExpiry n | .sliceGraceExpiry n | .deadlineMiss n _ | .lanternCoreCapture n
  | .debuggerResume n => decide (n < Config.cores)
  | .takeDeferredTrap c | .mailboxDeposit c _ | .spillDelivery c | .rucksackDelivery c _ _ | .loadComplete c _ _
  | .storePerformed c _ | .remoteRefusal c _ _ | .translationWalk c _ _ | .rambleHeldReplyDelivery c
  | .sequentialLineEntry c => CtxId.known c
  | .walkStepLimit cl th | .digestBlockCompress cl th => decide (cl < Config.clusters) && decide (th < 8)
  | .arrayWake cl | .arraySleep cl | .indirectPostStart cl | .indirectPostComplete cl _ | .indirectPostFail cl _ =>
    decide (cl < Config.clusters)
  | .nodeAgeing d _ | .nodePlaceAffinity d _ | .gangReserveBegin d _ _ | .gangCommit d _ | .gangReserveFail d _
  | .gangBackoffExpiry d _ | .gangDrainStart d _ _ | .nodeCompletion d _ | .nodeFail d _ => decide (d < Config.dies)
  | .nodeSteal d n | .drainCoreReserve d n => decide (d < Config.dies) && decide (n < Config.cores)
  | .rambleAdmit u _ | .rambleSearch u _ | .rambleReply u _ | .rambleFail u _ => decide (u < 8)
  | .jsgo v _ | .irqstatClear v _ | .lntrig v _ | .lnres v _ | .atgo v _ | .hostRegisterWrite v _ _
  | .attestationDone v | .hostMemoryWindowAccess v _ _ _ _ => decide (v < 16)
  | .flitReceive p _ | .idleFlit p | .linkFailTimeout p | .portTrainTimeout p | .portTrainingComplete p => decide (p < 8)
  | .perBankRefresh n | .stackTemperatureReport n _ => decide (n < 12)
  | _ => true

/-- R381. The die whose agent takes a step: a core's, a cluster's or a Hamper's; none for the units of the package and for what arrives from
outside. -/
def Instr.agentDie : Instr → Option Nat
  | .launchItemStart n | .enterUserHandler n | .sequencerExecute n | .vloopReplay n | .matrixOpStart n | .matrixOpComplete n
  | .functionOpComplete n | .copyStart n | .copyComplete n _ | .copyFail n _ | .preemption n | .sliceRelease n _
  | .sliceDispatch n | .sliceBudgetExpiry n | .sliceGraceExpiry n | .deadlineMiss n _ | .debuggerResume n => some (dieOf n)
  | .takeDeferredTrap c | .mailboxDeposit c _ | .spillDelivery c | .rucksackDelivery c _ _ | .loadComplete c _ _
  | .storePerformed c _ | .translationWalk c _ _ | .rambleHeldReplyDelivery c | .sequentialLineEntry c => some (dieOf c.core)
  | .walkStepLimit cl _ | .digestBlockCompress cl _ | .arrayWake cl | .arraySleep cl | .indirectPostStart cl
  | .indirectPostComplete cl _ | .indirectPostFail cl _ => some (cl / 10)
  | .nodeAgeing d _ | .nodePlaceAffinity d _ | .gangReserveBegin d _ _ | .gangCommit d _ | .gangReserveFail d _
  | .gangBackoffExpiry d _ | .gangDrainStart d _ _ | .nodeCompletion d _ | .nodeFail d _ | .nodeSteal d _
  | .drainCoreReserve d _ => some d
  | _ => none

/-- R376, R381. Nothing of a stopped package moves until its reset, and no agent of a fenced die. -/
def State.stops (s : State) (i : Instr) : Bool :=
  (s.halt && i != .packageReset) || (Instr.agentDie i).any (fun d => s.dfence.getLsbD d)

/-- The state with the agenda's first entry taken. -/
def State.pop (s : State) : State := { s with agenda := s.agenda.tail }

/-! ## A cycle passes -/

/-- R109. A head is a SAVECTX or a RESTCTX. -/
def movesImage : Decoded → Bool
  | .instr (.savectx _ _ _) => true
  | .instr (.restctx _ _ _) => true
  | _ => false

/-- R141, R253. The bits of TRAPPROG that the first group after ERET clears: the resume bit of LDM and STM, whatever the group
contains; and that of SAVECTX and RESTCTX where the group returned to one. -/
def Ctx.resumeBits (x : Ctx) : Word :=
  if x.ghead = x.trapPc ∧ movesImage (memberAt x.line (headIndex x.ghead)).dec then 0x100001000 else 0x1000

/-- R141. A context whose first group after ERET has completed clears the resume bit. -/
def Ctx.closeResume (x : Ctx) : Ctx :=
  if x.resume = .active ∧ x.gpos = 0 ∧ x.waiting = false then
    { x with resume := .none, trapProg := x.trapProg &&& ~~~x.resumeBits }
  else x

/-- R104, R141, R364. What passing cycles change of a core: the helpers that stand aside, the resume bits of a context whose first
group after ERET has completed, and the budget of its RUNNING slice, which does not count while the Lantern stops the core (R384). -/
def Core.pass (k : Core) (n : Nat) : Core :=
  { k with
    ctxs := k.ctxs.map (fun (p : Nat × Ctx) => (p.1, { p.2.closeResume with standAside := p.2.standAside - n }))
    slices := k.slices.map (fun x => if x.running && !k.lnStop then { x with left := x.left - n } else x) }

/-- R364. The RUNNING slice of a core whose job has no item left there is DONE. -/
def Core.dropIdle (k : Core) : Core :=
  match k.runningSlice with
  | none => k
  | some x =>
    if k.current.any (·.job == x.job) || k.preempted || k.queue.any (·.job == x.job) || k.away.any (fun a => a.1.job == x.job)
    then k else k.endSlice

/-- R95. Cores whose control contexts have halted report their items. -/
def State.reportHalts (s : State) : State := (s.cores.map (·.1)).foldl (fun t n => t.reportHalt n) s

/-- A step has taken place: one cycle, and as many more as are open, have passed. -/
def State.tick (s : State) : State :=
  let n := 1 + Config.freeStall s.freeN
  let t := s.reportHalts
  { t with
    cores := t.cores.map (fun (p : Nat × Core) => (p.1, (p.2.pass n).dropIdle))
    cycle := t.cycle + w64 n
    freeN := t.freeN + 1 }

/-- An outcome once its cycle has passed. -/
def passCycle (o : Out) : Out :=
  match o with
  | .next t => .next t.tick
  | .fault f => .fault f
  | .refused r => .refused r

end

end Sys2Proof.Machine
end

