-- ==== Sys2Proof/Machine/Step.lean ====
section
/-!
DEFINITION. One step of the package: what the agenda names, or, where it names nothing, the next of the moves that the package could
make that changes something; then a cycle passes. And the placing of an instruction where the next step fetches.
-/

namespace Sys2Proof.Machine

noncomputable section

/-- The outcome of an issue. -/
def Issue.outcome (i : Issue) (s : State) : Out :=
  match i with
  | .idle => .next s
  | .moved t => .next t
  | .run ins t => exec ins t

/-- What an action does; an action of an agent that the package does not have, or a row that is no step of an agent, is a fault. An agent
that is stopped does nothing (R376, R381). -/
def State.act (s : State) (a : Action) : Out :=
  match a with
  | .event i =>
    if i.coding.isSome || Instr.viaRegister i || !Instr.agentsKnown i then .fault .noSuchAgent
    else if s.stops i then .next s
    else exec i s
  | .issue c => if CtxId.known c then (s.issue c).outcome s else .fault .noSuchAgent
  | .walk cl th => if cl < Config.clusters ∧ th < 8 then (s.issueWalk cl th).outcome s else .fault .noSuchAgent
  | .copy core k n =>
    if Config.cores ≤ core then .fault .noSuchAgent
    else .next (if s.stops (.copyStart core) then s else s.copyProgress core k n)
  | .post cl k n =>
    if Config.clusters ≤ cl then .fault .noSuchAgent
    else .next (if s.stops (.indirectPostStart cl) then s else s.postProgress cl k n)

/-- A state without the marks of which context and which thread has issued last. -/
def State.unmarked (t s : State) (a : Action) : State :=
  match a with
  | .issue c => { t.modCore c.core (fun k => { k with last := (s.core c.core).last }) with cur := s.cur }
  | .walk cl _ => { t.modCluster cl (fun k => { k with wkLast := (s.cluster cl).wkLast }) with wk := s.wk }
  | _ => t

/-- The state after an action that changes something beyond those marks. -/
def State.moves (s : State) (a : Action) : Option State :=
  match s.act a with
  | .next t => if t.unmarked s a = s then none else some t
  | _ => none

/-- The state after the first of the package's moves that changes something; the state itself where none does. -/
def State.free (s : State) : State := (s.inTurn.findSome? s.moves).getD s

/-- The outcome of a step before its cycle has passed. -/
def State.next (s : State) : Out :=
  match s.agenda with
  | a :: _ => s.pop.act a
  | [] => .next s.free

/-- One step. -/
def step (s : State) : Host.Outcome State Fault Refusal := passCycle s.next

/-! ## Placing an instruction -/

/-- Where `withFetchWord` places the line, the tables that map it, and the line's virtual address. -/
def fetchTables : Nat := 0
def fetchLineAt : Nat := 0x30000
def fetchVa : Word := 0x30000

/-- The head that closes the group of an instruction whose G bit is 0: a NOP, or a FENCE beside a scalar instruction. -/
def closingHead (w : Nat) : Nat := if slotClass (fieldOp.get w) = .scalar then 0x8AC0 else 0x8000

/-- A line whose first head is an instruction of `n` halfwords: the header, the heads, and the tails at the end of the line. -/
def lineOf (n w : Nat) : Nat :=
  let tails := w / 65536 * 2 ^ (16 * (33 - n))
  if w % 65536 / 32768 = 1 then 1 + w % 65536 * 2 ^ 16 + tails
  else 2 + w % 65536 * 2 ^ 16 + closingHead w * 2 ^ 32 + tails

/-- The control context of core 0 at the line's first head: live and privileged; its turn is next (R88). -/
def fetchCtx (x : Ctx) : Ctx :=
  { x with life := .live, pc := fetchVa + 2, priv := true, xlbase := 1, gpos := 0, waiting := false, lineVa := noLine, lines := [] }

/-- The state with the tables that map the line, and the line. -/
def State.placeLine (s : State) (n w : Nat) : State :=
  let tables := ((s.main.write fetchTables 8 0x10001).write 0x10000 8 0x20001).write 0x20018 8 (fetchLineAt + 0xFF)
  { s with main := tables.write fetchLineAt 64 (lineOf n w) }

/-- A walk thread that runs one word of code. -/
def fetchThread (w : Nat) : Thread := { Thread.reset with state := .run, code := [BitVec.ofNat 32 w] }

/-- A word that is a core instruction: its halfwords are those of its form. -/
def isCoreWord (nbits w : Nat) : Bool := match decodeCore w with
  | .instr _ => decide (coreBits w = nbits)
  | .illegal _ => false

/-- A word that is an instruction of the walkers and none of the core's. -/
def isWalkWord (nbits w : Nat) : Bool := !isCoreWord nbits w && nbits == 32 && (decodeWalk w).isSome

/-- The state with an instruction where the next step fetches: a line of the control context of core 0, or the first word of the code
of thread 0 of cluster 0; the agenda names it. -/
def State.withFetchWord (s : State) (nbits w : Nat) : State :=
  if isWalkWord nbits w then
    { (s.modThread 0 0 (fun _ => fetchThread w)).modCluster 0 (fun k => { k with wkLast := 7 }) with agenda := [.walk 0 0] }
  else { ((s.placeLine (nbits / 16) w).modCore 0 (fun k => { k with last := 9 })).modCtx ⟨0, control⟩ fetchCtx with
    agenda := [.issue ⟨0, control⟩] }

end

end Sys2Proof.Machine
end

