-- ==== Sys2Proof/Safety.lean ====
section
/-!
DEFINITION. The terms in which claims are stated: what a step leaves unchanged, the contexts that a trap changes, and the invariants of
the state.
-/

namespace Sys2Proof.Machine

/-! ## What is left unchanged -/

/-- Every byte of every memory reads the same. -/
def SameBytes (s t : State) : Prop := ∀ sp a, (t.memory sp).byte a = (s.memory sp).byte a

/-- Everything outside the current context is the same: every field of the state beside the cores, every other core, everything of the
current core beside its contexts, and its other contexts. -/
def SameElsewhere (s t : State) : Prop :=
  { t with cores := s.cores } = s ∧ (∀ n, n ≠ s.cur.core → t.core n = s.core n) ∧
    { t.myCore with ctxs := s.myCore.ctxs } = s.myCore ∧ ∀ c, c ≠ s.cur → t.ctx c = s.ctx c

/-- R290, R291. Every byte of every memory reads the same but those of the leaf entry that a walk on someone's behalf finds. -/
def SameBytesButWalk (w : Who) (s t : State) (va : Word) (k : Access) : Prop :=
  ∀ sp x, (sp = .main → ∀ l, s.walk w va k = .ok l → x < l.at_ ∨ l.at_ + 8 ≤ x) → (t.memory sp).byte x = (s.memory sp).byte x

/-- R290, R291. Everything outside the current context is the same but what a walk on someone's behalf changes: the A and D bits of the leaf
entry that it finds, the cached translations, and the free-value counter. -/
def SameButWalkOf (w : Who) (s t : State) (va : Word) (k : Access) : Prop :=
  { t with cores := s.cores, main := s.main, xcache := s.xcache, freeN := s.freeN } = s ∧
    (∀ n, n ≠ s.cur.core → t.core n = s.core n) ∧ { t.myCore with ctxs := s.myCore.ctxs } = s.myCore ∧
    (∀ c, c ≠ s.cur → t.ctx c = s.ctx c) ∧ SameBytesButWalk w s t va k

/-- R290, R291. The same for a walk on the current context's behalf. -/
def SameButWalk (s t : State) (va : Word) (k : Access) : Prop := SameButWalkOf (s.who s.cur) s t va k

/-- R95, R291. The same for an instruction that traps: the walk of its own address, and on the state that it leaves, in privileged mode,
that of TVEC's line. -/
def SameButTrapWalks (s t : State) (va : Word) (k : Access) : Prop :=
  ∃ u, SameButWalk s u va k ∧ u.me = s.me ∧ SameButWalkOf (s.trapReader s.cur) u t (lineAddr s.me.tvec) .fetch

/-- A context differs at most in its program counter and in one general register. -/
def OnlyRegister (d : BitVec 5) (x y : Ctx) : Prop :=
  y = { x with pc := y.pc, waiting := y.waiting, regs := y.regs } ∧ ∀ n, n ≠ d.toNat → y.reg n = x.reg n

/-- R22. The same, but that flags may have been raised. -/
def OnlyRegisterAndFlags (d : BitVec 5) (x y : Ctx) : Prop :=
  y = { x with pc := y.pc, waiting := y.waiting, regs := y.regs, flags := y.flags } ∧ y.flags &&& x.flags = x.flags ∧
    ∀ n, n ≠ d.toNat → y.reg n = x.reg n

/-- R95. A context differs at most in what a trap writes: no general register, no flag, no other special register. -/
def OnlyTrap (x y : Ctx) : Prop :=
  y = { x with
    pc := y.pc, halted := y.halted, trapCause := y.trapCause, trapPc := y.trapPc, trapVal := y.trapVal
    trapProg := y.trapProg, estatus := y.estatus, priv := y.priv, uie := y.uie, waiting := y.waiting
    gpos := y.gpos, resume := y.resume, depth := y.depth }

/-- R137, R306. The bytes that an access touches at its place: sixteen for a capability, else its size. -/
def PendOp.span (o : PendOp) : Nat :=
  match o.kind with
  | .storeCap => 16
  | .cas2 _ _ _ => 16
  | _ => o.size

/-! ## The bytes that are stored to -/

/-- R290, R291. Every byte outside those stored to reads the same, but for the A and D bits of leaf entries in device memory, which may have
been set. -/
def KeptOutside (s t : State) (stored : Space → Nat → Prop) : Prop :=
  ∀ sp x, ¬stored sp x → (t.memory sp).byte x = (s.memory sp).byte x ∨
    (sp = .main ∧ (t.memory sp).byte x &&& 0x3F = (s.memory sp).byte x &&& 0x3F ∧
      (s.memory sp).byte x &&& (t.memory sp).byte x = (s.memory sp).byte x)

/-- A byte is one of `n` from a place on. -/
def spanByte (l : Loc) (n : Nat) (sp : Space) (x : Nat) : Prop := sp = l.space ∧ l.off ≤ x ∧ x < l.off + n

/-- A byte is at one of some places. -/
def placeByte (ls : List Loc) (sp : Space) (x : Nat) : Prop := ∃ l ∈ ls, l.space = sp ∧ l.off = x

/-- R137. A byte is one that accesses write at their places. -/
def opsByte (ops : List PendOp) (sp : Space) (x : Nat) : Prop :=
  ∃ o ∈ ops, o.kind.writes = true ∧ ∃ l, o.home = .local l ∧ spanByte l o.span sp x

/-- R14. A byte is one that a write of element `n` of an array in a core's own memories touches: those of its bits, and up to the padding of
the word of a 6-bit element. -/
def elemByte (core : Nat) (base : Word) (t : Elem) (n : Int) (sp : Space) (x : Nat) : Prop :=
  ∃ l k, elemPlace core base t n = some (l, k) ∧ spanByte l (t.writeSpan n).2 sp x

/-- R201, R227. A byte is one that an operation of the matrix or function engine stores to: the elements of a TSTORE's rows, the image of a
CHST. -/
def State.mxByte (s : State) (core : Nat) (op : MxOp) (sp : Space) (x : Nat) : Prop :=
  match op.instr with
  | .tstore _ _ _ cvt fmt stride =>
    let sh := tshapeOf op.shapeX
    let out := storeFmt sh cvt fmt
    ∃ i c : Nat, i < sh.rows ∧ c < sh.cols ∧
      elemByte core (moveAddr op.a op.b + BitVec.ofNat 64 (i * moveStride out sh.cols stride)) (mxElem out) c sp x
  | .chst f _ _ =>
    let n := 24 + 8 * ((s.core core).fn f.toNat).len
    ∃ l, ownPlace core op.addr.toNat n = some l ∧ spanByte l n sp x
  | _ => False

/-- R240. The places that element `done` of a copy stores to; a CPYM stores to its tile. -/
def State.elementPlaces (s : State) (core : Nat) (c : Copy) : List Loc :=
  let src := c.srcRec.elemAddr c.src.word c.done
  let dst := c.dstRec.writeAddr c.dst.word c.done
  if c.fn = 1 then []
  else match s.copyBytes (s.copyWho core c) src.1 false src.2 with
    | .error _ => []
    | .ok (u, _, _) =>
      match u.copyBytes (s.copyWho core c) dst.1 true dst.2 with
      | .error _ => []
      | .ok (_, ls, _) => ls

/-- R240. The places that up to `n` more elements of a copy store to. -/
def State.copyPlaces (s : State) (core : Nat) (c : Copy) : Nat → List Loc
  | 0 => []
  | n + 1 => s.elementPlaces core c ++
    match s.copyElement core c with
    | .error _ => []
    | .ok (u, d) => u.copyPlaces core d n

/-- R266. The places that row `done` of a post stores to: the row that its index names where it scatters, else the packed row. -/
def State.rowPlaces (s : State) (p : Post) : List Loc :=
  match s.copyBytes p.who (p.index.word.toNat + p.es * p.done) false p.es with
  | .error _ => []
  | .ok (u, il, _) =>
    let row := p.table.word + BitVec.ofNat 64 (u.bytesAt il * p.rb)
    match u.copyBytes p.who row.toNat p.scatter p.rb with
    | .error _ => []
    | .ok (v, rl, _) =>
      match v.copyBytes p.who (p.packed.word.toNat + p.rb * p.done) (!p.scatter) p.rb with
      | .error _ => []
      | .ok (_, pl, _) => if p.scatter then rl else pl

/-- R266. The places that up to `n` more rows of a post store to. -/
def State.postPlaces (s : State) (p : Post) : Nat → List Loc
  | 0 => []
  | n + 1 => s.rowPlaces p ++
    match s.postRow p with
    | .error _ => []
    | .ok (u, q) => u.postPlaces q n

/-! ## Vector instructions -/

noncomputable section

/-- R148, R169, R170, R246. A byte is one that a sequencer entry stores to: the image of a PARK, the elements of a VST's lanes whose mask bit is set,
the elements that a VSCAT's index lanes name, or the elements of the slice that a stream destination takes. -/
def State.entryByte (s : State) (core : Nat) (e : SeqEntry) (sp : Space) (x : Nat) : Prop :=
  match e.instr with
  | .park o _ _ rb => ∃ l, ownPlace core e.parkAddr.toNat (parkObject o rb).size = some l ∧ spanByte l (parkObject o rb).size sp x
  | .unpark _ _ _ _ => False
  | i =>
    ∃ v sl, vop e = some v ∧ s.slices core v.operands = .ok sl ∧
      match i with
      | .vst c _ _ m =>
        let tag := (s.core core).tagOf c.toNat
        ∃ n : Nat, n < lanes tag ∧ ((s.core core).mask m.toNat).getLsbD n = true ∧ elemByte core e.addr (tagElem tag) n sp x
      | .vscat c _ b _ _ =>
        ∃ y ∈ s.source core sl b.toNat, elemByte core e.a.word (tagElem ((s.core core).tagOf c.toNat)) (Elem.int32.intVal y) sp x
      | _ =>
        ∃ d n, v.dst = some d ∧ 16 ≤ d ∧ some n ∈ sliceOf sl d ∧
          elemByte core ((s.core core).stream (d - 16)).cap.word ((s.core core).stream (d - 16)).shape.elem n sp x

/-- The instructions that the sequencer accepts under majors 0x30 to 0x39, with the two general registers that each reads at acceptance (R151); 0
where it reads none. -/
def vectorForms (d a b c tag : BitVec 5) (rm m q st : BitVec 3) (p : BitVec 4) (mode : BitVec 2) (cls k : BitVec 10) :
    List (Instr × BitVec 5 × BitVec 5) :=
  [ (Instr.vadd d a b rm m, 0, 0), (.vsub d a b rm m, 0, 0), (.vmul d a b rm m, 0, 0), (.vmin d a b rm m, 0, 0)
  , (.vmax d a b rm m, 0, 0), (.vand d a b m, 0, 0), (.vor d a b m, 0, 0), (.vxor d a b m, 0, 0), (.vandn d a b m, 0, 0)
  , (.vshl d a b m, 0, 0), (.vshr d a b m, 0, 0), (.vsra d a b m, 0, 0), (.vscaleb d a b rm m, 0, 0), (.vadds d a b rm m, 0, 0)
  , (.vsubs d a b rm m, 0, 0), (.vabsd d a b rm m, 0, 0), (.vmov d a m, 0, 0), (.vneg d a m, 0, 0), (.vabs d a m, 0, 0)
  , (.vnot d a m, 0, 0), (.vclass d a m, 0, 0), (.viota d tag rm m, 0, 0), (.vbcast d a tag m, a, 0), (.vrcp d a rm m, 0, 0)
  , (.vrsqrt d a rm m, 0, 0), (.vsqrt d a rm m, 0, 0), (.vfma d a b c rm m, 0, 0), (.vfms d a b c rm m, 0, 0)
  , (.vfnma d a b c rm m, 0, 0), (.vsel d a b m, 0, 0), (.vceq q a b m, 0, 0), (.vcne q a b m, 0, 0), (.vclt q a b m, 0, 0)
  , (.vcle q a b m, 0, 0), (.vcun q a b m, 0, 0), (.vclassm q a cls m, 0, 0), (.vcvt d a p tag rm m, 0, 0)
  , (.vrnd d a rm m, 0, 0), (.vtag d a tag m, 0, 0), (.vpack d a b tag rm m, 0, 0), (.vunpack d a tag rm m, 0, 0)
  , (.vredsum d a rm m, 0, 0), (.vredmax d a m, 0, 0), (.vredmin d a m, 0, 0), (.vperm d a b m, 0, 0), (.vextr d a b, 0, b)
  , (.vins d a b, a, b), (.vld d a b tag m, a, b), (.vst c a b m, a, b), (.vgath d a b p tag m, a, 0), (.vscat c a b p m, a, 0)
  , (.sbind mode st a b, a, b), (.spos st a, a, 0), (.sget d st, 0, 0), (.vexp2f d a rm m, 0, 0), (.vlog2f d a rm m, 0, 0)
  , (.vtanh d a rm m, 0, 0), (.vtopk d a c k m, 0, 0), (.vtopknz d a c k m, 0, 0) ]

end

/-! ## Invariants -/

/-- R364. A RUNNING slice has an item of its job on the core: the current one, a queued one, one switched out, or a pre-empted one. -/
def Core.SliceHasWork (k : Core) : Prop :=
  ∀ x, k.runningSlice = some x →
    k.preempted ∨ (∃ it ∈ k.current, it.job = x.job) ∨ (∃ it ∈ k.queue, it.job = x.job) ∨ ∃ a ∈ k.away, a.1.job = x.job

/-- Every core that the state lists is such a core. -/
def State.SlicesHaveWork (s : State) : Prop := ∀ p ∈ s.cores, Core.SliceHasWork p.2

/-- Every memory is in its canonical form. -/
def State.MemoriesCanonical (s : State) : Prop := ∀ sp, (s.memory sp).wf = true

end Sys2Proof.Machine
end

