-- ==== Sys2Proof/Certificates/Slice0/Obligations.lean ====
section
/-!
DEFINITION. The statements for the provers. A statement names an instruction's next state by the model's own operations on the state
(`setX`, `advance`, `takeTrap`, …), whose effect further statements say in full.
-/

open Sys2Proof Sys2Proof.Machine

noncomputable section

/-! ## Encoding, steps, invariants -/

/-- R64 to R66, R83, R276. Decoding reads back every well-formed instruction from its word, with either value of the G bit, and the word
has the length of its form. -/
def Obligations.DecodeOfEncode : Prop :=
  ∀ (i : Instr) (g : Bool) (w : Nat), i.wf = true → encode g i = some w →
    match i.coding with
    | some (.core _ _) => decodeCore w = .instr i ∧ coreBits w = i.bits ∧ w < 2 ^ i.bits ∧ fieldG.get w = g.toNat
    | some (.walk _ _) => decodeWalk w = some i ∧ w < 2 ^ 32
    | none => False

/-- R66, R81. No instruction has two words: one that decodes is the encoding of what it decodes to. -/
def Obligations.EncodeOfDecode : Prop :=
  (∀ (w : Nat) (i : Instr), decodeCore w = .instr i → i.wf = true ∧ encode (fieldG.get w == 1) i = some w) ∧
    ∀ (w : Nat) (i : Instr), decodeWalk w = some i → encode false i = some w

/-- Words written out from the encodings of R79 and R276, one or more of every group of majors, decode to their instructions:
head (G, TL, OP, X), then T1 with its FN, then T2. -/
def Obligations.DecodeOfWrittenWords : Prop :=
  decodeCore (0b1_00_0000000_000000) = .instr .nop ∧
  decodeCore (0b000000_00010_00001 * 2 ^ 16 + 0b1_01_0010000_000011) = .instr (.add 3 1 2) ∧
  decodeCore (0xFFFF * 2 ^ 32 + 0b000000_00000_00101 * 2 ^ 16 + 0b1_10_0010001_000100) = .instr (.addi 4 5 0xFFFF) ∧
  decodeCore (0x0008 * 2 ^ 32 + 0b000011_00000_00111 * 2 ^ 16 + 0b0_10_0100000_001001) = .instr (.ldd 9 7 8) ∧
  decodeCore (0x0010 * 2 ^ 32 + 0b000001_00010_00001 * 2 ^ 16 + 0b1_10_0001000_000000) = .instr (.bne 1 2 0x10) ∧
  decodeCore (0x001F * 2 ^ 32 + 0b000000_00000_00000 * 2 ^ 16 + 0b1_10_0000100_000000) = .instr (.trap 0x1F) ∧
  decodeCore (0b000000_00010_00001 * 2 ^ 16 + 0b1_01_0111111_000000) = .illegal 1 ∧
  decodeWalk (0b000001_0011_0001_0010_00000000000000) = some (.wadd 3 1 2) ∧
  decodeWalk (0b100000_0000_0101_00000000000000_0000) = some (.wend 5)

/-- A step runs the instruction that it decodes. Where the agenda names the issue of a context that stands inside its group, on a core
that may issue and whose other contexts stand at their boundaries, the member at its program counter executes: `exec` of the decoded
instruction, on the state with the agenda's entry taken, the context current, its member word held, and its group position moved on;
then a cycle passes. The same at a group boundary where nothing else is due, it is the context's turn, the line is entered, and the group has no decode fault and is
ready; and of a walk thread that runs, whose turn in its cluster it is, within its limit. -/
def Obligations.StepRunsDecoded : Prop :=
  (∀ (s : State) (c : CtxId) (rest : List Action) (i : Instr), CtxId.known c = true → s.agenda = .issue c :: rest →
    s.groupOpen c = false → (s.ctx c).gpos ≠ 0 → s.pop.contextIssues c = true →
    (memberAt (s.ctx c).line (headIndex (s.ctx c).pc)).dec = .instr i →
    step s = passCycle (exec i (s.pop.beginMember c (s.ctx c).gpos
          (memberAt (s.ctx c).line (headIndex (s.ctx c).pc)).word
          (decide (half (s.ctx c).line (headIndex (s.ctx c).pc) / 32768 = 1))))) ∧
  (∀ (s : State) (c : CtxId) (rest : List Action) (t : State) (i : Instr), CtxId.known c = true → s.agenda = .issue c :: rest →
    s.groupOpen c = false → (s.ctx c).gpos = 0 → (s.ctx c).waiting = false →
    s.pop.stopsHere c = none → s.pop.contextIssues c = true →
    s.pop.standsAside c = false → s.pop.takesHere c = none → s.pop.turn c = true →
    s.pop.enterLine c = (t, true) →
    groupFault (t.ctx c).line (t.ctx c).pc (c.slot != control) (t.ctx c).priv = none →
    t.groupReady c (groupInstrs (t.ctx c).line (t.ctx c).pc) = true →
    (memberAt (t.ctx c).line (headIndex (t.ctx c).pc)).dec = .instr i →
    step s = passCycle (exec i ((t.readied c).beginMember c 0 (memberAt (t.ctx c).line (headIndex (t.ctx c).pc)).word
          (decide (half (t.ctx c).line (headIndex (t.ctx c).pc) / 32768 = 1))))) ∧
  ∀ (s : State) (cl th : Nat) (rest : List Action) (w : BitVec 32) (i : Instr), cl < Config.clusters → th < 8 →
    s.agenda = .walk cl th :: rest → ((s.cluster cl).thread th).state = .run → ((s.cluster cl).thread th).awaitsDigest = false →
    (s.cluster cl).withdrawn = false → (s.cluster cl).walkTurn th = true → s.halt = false → s.dfence.getLsbD (cl / 10) = false → ((s.cluster cl).thread th).exhausted = false →
    0 ≤ ((s.cluster cl).thread th).pc → ((s.cluster cl).thread th).code[((s.cluster cl).thread th).pc.toNat]? = some w →
    decodeWalk w.toNat = some i →
    step s = passCycle (exec i { s.pop.modCluster cl (fun k => { k with wkLast := th }) with wk := (cl, th) })

/-- R364. After every step, a RUNNING slice has an item of its job on its core. -/
def Obligations.StepKeepsSlicesAtWork : Prop := ∀ s t : State, s.SlicesHaveWork → step s = .next t → t.SlicesHaveWork

/-- The reset state has that property, and every memory of it is in canonical form. -/
def Obligations.ResetHoldsInvariants : Prop := State.reset.SlicesHaveWork ∧ State.reset.MemoriesCanonical


/-! ## Registers, program counter, traps -/

/-- R89. g0 reads as untagged zero and a write to it is discarded; a write to another register gives what was written, plain data with the
upper half zero and the tag clear, and leaves every other register. -/
def Obligations.RegisterWrites : Prop :=
  ∀ (s : State) (d n : BitVec 5) (r : Reg) (w : Word),
    (s.setG d r).g 0 = Reg.zero ∧ (d = 0 → ∀ c, (s.setG d r).ctx c = s.ctx c) ∧ (d ≠ 0 → (s.setG d r).g d = r) ∧
      (n ≠ d → (s.setG d r).g n = s.g n) ∧ s.setX d w = s.setG d ⟨w.setWidth 128, false⟩ ∧
      (d ≠ 0 → (s.setX d w).x d = w ∧ ((s.setX d w).g d).tag = false)

/-- R67, R68. Completing moves the program counter from head i to head i+1 of its line, and from the line's last head to head 1 of the
line at the next 64-byte address; nothing else but the mark of a wait changes. -/
def Obligations.AdvanceMovesToNextHead : Prop :=
  ∀ s : State,
    s.advance = s.setCtx s.cur { s.me with
      waiting := false
      pc := if headIndex s.me.pc < lineHeads s.me.line then s.me.pc + 2 else lineAddr s.me.pc + 64 + 2 } ∧
    (s.jump = fun a => s.setCtx s.cur { s.me with pc := a, waiting := false })

/-- R95. Taking a trap: TRAPCAUSE, TRAPPC, TRAPVAL and TRAPPROG hold the trap's, ESTATUS the STATUS before it, PRIV is set and UIE
clear; the program counter is TVEC where TVEC passes the checks of R70 in privileged mode, and else the context has halted at the old
one. No general register, no flag and no other context changes, and no byte of memory but those of the entry by which TVEC's line
translates: that this fetch leaves its A bit as R291 has it, whether TVEC passes or fails, is the model's reading (log 19). -/
def Obligations.TrapEntry : Prop :=
  ∀ (s : State) (c : CtxId) (t : Trap),
    let x := s.ctx c
    let u := s.takeTrap c t
    let y := u.ctx c
    y.trapCause = t.cause ∧ y.trapPc = t.pc ∧ y.trapVal = t.val ∧ y.trapProg = t.prog ∧ y.estatus = x.statusWord c.slot ∧
      y.priv = true ∧ y.uie = false ∧ y.uia = x.uia ∧ y.dom = x.dom ∧
      (s.targetFor (s.trapReader c) x.lines x.tvec = .ok () → y.pc = x.tvec ∧ y.halted = x.halted) ∧
      (s.targetFor (s.trapReader c) x.lines x.tvec ≠ .ok () → y.pc = x.pc ∧ y.halted = true) ∧
      OnlyTrap x y ∧ u = (s.fetchedFor (s.trapReader c) x.tvec).setCtx c y ∧
      SameBytesButWalk (s.trapReader c) s u (lineAddr x.tvec) .fetch

/-! ## Integer and field instructions (file 05) -/

/-- R113. Each register-register operation writes its function of g[A] and g[B] as plain data to g[D] and completes. -/
def Obligations.IntegerResults : Prop :=
  ∀ (s : State) (d a b : BitVec 5),
    let x := s.x a
    let y := s.x b
    let n := y.toNat % 64
    ∀ p ∈
      [ (Instr.add d a b, x + y), (.sub d a b, x - y), (.mul d a b, x * y)
      , (.mulh d a b, BitVec.ofInt 64 (x.toInt * y.toInt / 2 ^ 64)), (.mulhu d a b, BitVec.ofNat 64 (x.toNat * y.toNat / 2 ^ 64))
      , (.div d a b, if y = 0 then BitVec.allOnes 64 else BitVec.ofInt 64 (x.toInt.tdiv y.toInt))
      , (.divu d a b, if y = 0 then BitVec.allOnes 64 else BitVec.ofNat 64 (x.toNat / y.toNat))
      , (.rem d a b, if y = 0 then x else BitVec.ofInt 64 (x.toInt.tmod y.toInt))
      , (.remu d a b, if y = 0 then x else BitVec.ofNat 64 (x.toNat % y.toNat))
      , (.and_ d a b, x &&& y), (.or_ d a b, x ||| y), (.xor_ d a b, x ^^^ y), (.andn d a b, x &&& ~~~y)
      , (.shl d a b, x <<< n), (.shr d a b, x >>> n), (.sra d a b, x.sshiftRight n), (.rotr d a b, x.rotateRight n)
      , (.min_ d a b, if x.toInt < y.toInt then x else y), (.max_ d a b, if x.toInt < y.toInt then y else x)
      , (.minu d a b, if x.toNat < y.toNat then x else y), (.maxu d a b, if x.toNat < y.toNat then y else x)
      , (.seq d a b, if x = y then 1 else 0), (.sne d a b, if x = y then 0 else 1)
      , (.slt d a b, if x.toInt < y.toInt then 1 else 0), (.sltu d a b, if x.toNat < y.toNat then 1 else 0)
      , (.sle d a b, if x.toInt ≤ y.toInt then 1 else 0), (.sleu d a b, if x.toNat ≤ y.toNat then 1 else 0) ],
      exec p.1 s = .next (s.setX d p.2).advance

/-- R114 to R117. The immediate forms (a sign-extended 16-bit immediate, a shift amount of six bits), the loads of an immediate, and SEL, which moves all
129 bits; and the one-register operations by what their results are: CLZ and CTZ the length of the run of zeros at the top and at the bottom, POPC the number
of one bits, the extensions, and the reversals bit by bit and byte by byte. -/
def Obligations.ImmediateAndUnaryResults : Prop :=
  (∀ (s : State) (d a b c : BitVec 5) (i : BitVec 16) (k : BitVec 6) (j : BitVec 32),
    let x := s.x a
    let y := i.signExtend 64
    (∀ p ∈
      [ (Instr.addi d a i, x + y), (.andi d a i, x &&& y), (.ori d a i, x ||| y), (.xori d a i, x ^^^ y)
      , (.shli d a k, x <<< k.toNat), (.shri d a k, x >>> k.toNat), (.srai d a k, x.sshiftRight k.toNat)
      , (.rotri d a k, x.rotateRight k.toNat), (.slti d a i, if x.toInt < y.toInt then 1 else 0)
      , (.sltui d a i, if x.toNat < y.toNat then 1 else 0), (.muli d a i, x * y)
      , (.ldi d j, j.signExtend 64), (.ldih d a j, j ++ x.setWidth 32), (.ldipc d j, s.me.pc + j.signExtend 64) ],
      exec p.1 s = .next (s.setX d p.2).advance) ∧
    exec (.sel d a b c) s = .next (s.setG d (if s.x c ≠ 0 then s.g a else s.g b)).advance) ∧
  ∀ (s : State) (d a : BitVec 5),
    let x := s.x a
    (∃ n : Nat, n ≤ 64 ∧ (∀ k < n, x.getLsbD (63 - k) = false) ∧ (n < 64 → x.getLsbD (63 - n) = true) ∧
      exec (.clz d a) s = .next (s.setX d (BitVec.ofNat 64 n)).advance) ∧
    (∃ n : Nat, n ≤ 64 ∧ (∀ k < n, x.getLsbD k = false) ∧ (n < 64 → x.getLsbD n = true) ∧
      exec (.ctz d a) s = .next (s.setX d (BitVec.ofNat 64 n)).advance) ∧
    exec (.popc d a) s = .next (s.setX d (BitVec.ofNat 64 ((List.range 64).filter (fun k => x.getLsbD k)).length)).advance ∧
    (∃ w : Word, (∀ k < 64, w.getLsbD k = x.getLsbD (63 - k)) ∧ exec (.brev d a) s = .next (s.setX d w).advance) ∧
    (∃ w : Word, (∀ k < 64, w.getLsbD k = x.getLsbD (8 * (7 - k / 8) + k % 8)) ∧
      exec (.bswap d a) s = .next (s.setX d w).advance) ∧
    ∀ p ∈
      [ (Instr.sextb d a, (x.setWidth 8).signExtend 64), (.sexth d a, (x.setWidth 16).signExtend 64)
      , (.sextw d a, (x.setWidth 32).signExtend 64), (.zextb d a, x &&& 0xFF), (.zexth d a, x &&& 0xFFFF)
      , (.zextw d a, x &&& 0xFFFFFFFF) ],
      exec p.1 s = .next (s.setX d p.2).advance

/-- R117. BEXT and BINS of len = lenm + 1 bits at pos: with pos + len at most 64, the field of g[A] zero- or sign-extended, and g[B] with
the field replaced by the low bits of g[A]; else ILLEGAL_OPERAND at the head, TRAPVAL holding the T2 halfword. -/
def Obligations.BitFieldResults : Prop :=
  ∀ (s : State) (d a b : BitVec 5) (pos lenm : BitVec 6) (sgn : BitVec 1),
    let x := s.x a
    let y := s.x b
    let len := lenm.toNat + 1
    (pos.toNat + len ≤ 64 →
      (∃ w : Word, exec (.bext d a pos lenm sgn) s = .next (s.setX d w).advance ∧
        ∀ k < 64, w.getLsbD k = if k < len then x.getLsbD (pos.toNat + k) else (sgn == 1 && x.getLsbD (pos.toNat + len - 1))) ∧
      (∃ w : Word, exec (.bins d a b pos lenm) s = .next (s.setX d w).advance ∧
        ∀ k < 64, w.getLsbD k = if pos.toNat ≤ k ∧ k < pos.toNat + len then x.getLsbD (k - pos.toNat) else y.getLsbD k)) ∧
    (64 < pos.toNat + len →
      (∃ prog, exec (.bext d a pos lenm sgn) s = .next (s.takeTrap s.cur
        ⟨0x03, s.me.pc, BitVec.ofNat 64 (pos.toNat + 64 * lenm.toNat + 4096 * sgn.toNat), prog⟩)) ∧
      ∃ prog, exec (.bins d a b pos lenm) s = .next (s.takeTrap s.cur
        ⟨0x03, s.me.pc, BitVec.ofNat 64 (pos.toNat + 64 * lenm.toNat), prog⟩))

/-- The frame of the instructions that only write g[D]: no flag, no special register, no other general register, no byte of memory, no
other context and no engine changes. -/
def Obligations.IntegerFrame : Prop :=
  ∀ (s t : State) (d a b c sel : BitVec 5) (i : BitVec 16) (k : BitVec 6) (j : BitVec 32) (w : BitVec 1),
    ∀ p ∈
      [ Instr.add d a b, .sub d a b, .mul d a b, .mulh d a b, .mulhu d a b, .div d a b, .divu d a b, .rem d a b, .remu d a b
      , .and_ d a b, .or_ d a b, .xor_ d a b, .andn d a b, .shl d a b, .shr d a b, .sra d a b, .rotr d a b, .min_ d a b
      , .max_ d a b, .minu d a b, .maxu d a b, .seq d a b, .sne d a b, .slt d a b, .sltu d a b, .sle d a b, .sleu d a b
      , .addi d a i, .andi d a i, .ori d a i, .xori d a i, .shli d a k, .shri d a k, .srai d a k, .rotri d a k, .slti d a i
      , .sltui d a i, .muli d a i, .clz d a, .ctz d a, .popc d a, .sextb d a, .sexth d a, .sextw d a, .zextb d a, .zexth d a
      , .zextw d a, .brev d a, .bswap d a, .ldi d j, .ldih d a j, .ldipc d j, .sel d a b c, .sfclass d a w, .kinfo d a sel
      , .kstrip d a, .kcopy d a ],
      exec p s = .next t → OnlyRegister d s.me t.me ∧ SameElsewhere s t ∧ SameBytes s t

/-! ## Scalar floating point (file 05) -/

/-- R118, R119. The two-operand operations in the width of W: with `f` the format of the width, `m` the mode of RND and `x`, `y` the
operands' values, the correctly rounded sum, difference, product, quotient, root and fused product-sum of R15 to R24, the minimum and
maximum of R21 and the comparisons; the result is plain data in g[D] and its flags are merged into FLAGS. SFCVT converts between the formats of its two
codes (R121), and SFCLASS gives the class (R122). -/
def Obligations.FloatResults : Prop :=
  ∀ (s : State) (w : BitVec 1) (d a b c : BitVec 5) (src dst : BitVec 4) (rnd : BitVec 3),
    let f := widthFmt w
    let m := s.mode
    let x := f.value (s.fp w a)
    let y := f.value (s.fp w b)
    let z := f.value (s.fp w c)
    (∀ p ∈
      [ (Instr.sfadd w d a b, f.add m false x y), (.sfsub w d a b, f.sub m false x y), (.sfmul w d a b, f.mul m x y)
      , (.sfdiv w d a b, f.div m x y), (.sfsqrt w d a, f.sqrt m x), (.sffma d a b c w, f.fma m x y z)
      , (.sfmin w d a b, f.minMax false (s.fp w a) (s.fp w b)), (.sfmax w d a b, f.minMax true (s.fp w a) (s.fp w b)) ],
      exec p.1 s = .next ((s.mergeFlags p.2.2).setX d (BitVec.ofNat 64 p.2.1)).advance) ∧
    (∀ p ∈
      [ (Instr.sfeq w d a b, Val.eq x y, x.isSignalling || y.isSignalling), (.sflt w d a b, Val.lt x y, x.isNaN || y.isNaN)
      , (.sfle w d a b, (Val.lt x y || Val.eq x y), x.isNaN || y.isNaN) ],
      exec p.1 s = .next ((s.mergeFlags (if p.2.2 then nv else 0)).setX d
        (if !x.isNaN && !y.isNaN && p.2.1 then 1 else 0)).advance) ∧
    (∃ r : Nat × Flags, r = convert (elemOfScalar src.toNat) (elemOfScalar dst.toNat) (s.roundField rnd) false
        ((s.x a).toNat % 2 ^ (elemOfScalar src.toNat).width) ∧
      exec (.sfcvt d a src dst rnd) s =
        .next ((s.mergeFlags r.2).setX d (BitVec.ofNat 64 (scalarResult dst ((elemOfScalar dst.toNat).pad r.1)))).advance) ∧
    exec (.sfclass d a w) s = .next (s.setX d (BitVec.ofNat 64 (2 ^ f.classOf (s.fp w a)))).advance

/-- R22, R24. The frame of the scalar float instructions: beside g[D] only FLAGS changes, and no flag that was set is cleared. -/
def Obligations.FloatFrame : Prop :=
  ∀ (s t : State) (w : BitVec 1) (d a b c : BitVec 5) (src dst : BitVec 4) (rnd : BitVec 3),
    ∀ p ∈
      [ Instr.sfadd w d a b, .sfsub w d a b, .sfmul w d a b, .sfdiv w d a b, .sfsqrt w d a, .sffma d a b c w, .sfmin w d a b
      , .sfmax w d a b, .sfeq w d a b, .sflt w d a b, .sfle w d a b, .sfcvt d a src dst rnd ],
      exec p s = .next t → OnlyRegisterAndFlags d s.me t.me ∧ SameElsewhere s t ∧ SameBytes s t

/-! ## Capabilities (file 05) -/

/-- R126 to R130. The capability instructions where their checks pass: KSET, KADV and KADVI another address (on an untagged register integer arithmetic), KMASK and
KMASKI fewer permissions, KLIM and KLIMI the bounds of R128 (of the exponents from 0 to 42 the first that serves, and its span around the request; where none serves,
the whole space), KLOCK and KOPEN the seal, KINFO a field, KSTRIP the bits without the tag, KCOPY all 129 bits. Where a check fails, CAP_BOUNDS where the source does not
hold the new bounds among them and the key's checks in the order of R129, they trap at their own head with g[A][63:0] in TRAPVAL and the failing register in
TRAPPROG[4:0], g[D] unchanged. -/
def Obligations.CapabilityResults : Prop :=
  (∀ (s : State) (d a b sel : BitVec 5) (i : BitVec 16) (m : BitVec 7),
    let r := s.g a
    let k := s.g b
    let keyed := k.tag && !k.isSealed && decide (k.dom = r.dom) && k.permW && decide (k.bounds.1 ≤ r.bounds.1) &&
      decide (r.bounds.2 ≤ k.bounds.2)
    (∀ p ∈ [(Instr.kset d a b, s.x b), (.kadv d a b, s.x a + s.x b), (.kadvi d a i, s.x a + i.signExtend 64)],
      (r.tag = true → r.isSealed = false → exec p.1 s = .next (s.setG d (r.withAddr p.2)).advance) ∧
      (r.tag = false → exec p.1 s = .next (s.setX d p.2).advance)) ∧
    (r.tag = true → r.isSealed = false →
      exec (.kmask d a b) s = .next (s.setG d (r.maskPerms ((s.x b).setWidth 7))).advance ∧
      exec (.kmaski d a m) s = .next (s.setG d (r.maskPerms m)).advance ∧
      (∀ q, r.limit (s.x b).toNat = some q → exec (.klim d a b) s = .next (s.setG d q).advance) ∧
      (∀ q, r.limit i.toNat = some q → exec (.klimi d a i) s = .next (s.setG d q).advance) ∧
      (keyed = true → exec (.klock d a b) s = .next (s.setG d (r.setSealed true)).advance)) ∧
    (r.tag = true → r.isSealed = true → keyed = true →
      exec (.kopen d a b) s = .next (s.setG d (r.setSealed false)).advance) ∧
    exec (.kinfo d a sel) s = .next (s.setX d (r.info sel.toNat)).advance ∧
    exec (.kstrip d a) s = .next (s.setG d ⟨r.bits, false⟩).advance ∧
    exec (.kcopy d a) s = .next (s.setG d r).advance) ∧
  (∀ (r : Reg) (n : Nat),
    let a := r.word.toNat
    let lo := fun e : Nat => a / 2 ^ e * 2 ^ e
    let hi := fun e : Nat => (a + n + 2 ^ e - 1) / 2 ^ e * 2 ^ e
    let serves := fun e : Nat => (hi e - lo e) / 2 ^ e ≤ 2 ^ 21 - 1
    let holds := fun x y : Nat => r.bounds.1 ≤ x ∧ (y : Int) ≤ r.bounds.2
    (2 ^ 64 < a + n → r.limit n = none) ∧
    (a + n ≤ 2 ^ 64 → ∀ e ≤ 42, serves e → (∀ f < e, ¬serves f) →
      (holds (lo e) (hi e) → ∃ q, r.limit n = some q ∧ q.exp = e ∧ q.bounds = ((lo e : Int), (hi e : Int))) ∧
      (¬holds (lo e) (hi e) → r.limit n = none)) ∧
    (a + n ≤ 2 ^ 64 → (∀ e ≤ 42, ¬serves e) →
      (holds 0 (2 ^ 64) → ∃ q, r.limit n = some q ∧ q.exp = 63 ∧ q.bounds = (0, 2 ^ 64)) ∧ (¬holds 0 (2 ^ 64) → r.limit n = none))) ∧
  ∀ (s : State) (d a b : BitVec 5) (i : BitVec 16) (m : BitVec 7),
    let r := s.g a
    let k := s.g b
    let traps := fun (p : Instr) (cause : BitVec 8) (n : BitVec 5) =>
      ∃ prog, prog.setWidth 5 = n ∧ exec p s = .next (s.takeTrap s.cur ⟨cause, s.me.pc, s.x a, prog⟩)
    (∀ p ∈ [Instr.kmask d a b, .kmaski d a m, .klim d a b, .klimi d a i, .klock d a b, .kopen d a b],
      r.tag = false → traps p 0x10 a) ∧
    (∀ p ∈ [Instr.kmask d a b, .kmaski d a m, .klim d a b, .klimi d a i, .klock d a b, .kset d a b, .kadv d a b, .kadvi d a i],
      r.tag = true → r.isSealed = true → traps p 0x13 a) ∧
    (r.tag = true → r.isSealed = false → traps (.kopen d a b) 0x03 a) ∧
    (r.tag = true → r.isSealed = false →
      (r.limit (s.x b).toNat = none → traps (.klim d a b) 0x11 a) ∧ (r.limit i.toNat = none → traps (.klimi d a i) 0x11 a)) ∧
    ∀ p ∈ [(Instr.klock d a b, false), (.kopen d a b, true)], r.tag = true → r.isSealed = p.2 →
      (k.tag = false → traps p.1 0x10 b) ∧ (k.tag = true → k.isSealed = true → traps p.1 0x13 b) ∧
      (k.tag = true → k.isSealed = false → (k.dom ≠ r.dom ∨ k.permW = false) → traps p.1 0x12 b) ∧
      (k.tag = true → k.isSealed = false → k.dom = r.dom → k.permW = true → (r.bounds.1 < k.bounds.1 ∨ k.bounds.2 < r.bounds.2) →
        traps p.1 0x11 b)

/-- R91, R126 to R128, R130. A capability instruction never raises authority: of every capability that KMASK, KMASKI, KSET, KADV, KADVI, KLIM or KLIMI
writes, tagged, the source is tagged, the permissions are among the source's, the domain and the seal are the source's, and the bounds are the source's, with
another address as long as the tag stays set, and within the source's where KLIM or KLIMI sets them. -/
def Obligations.CapabilitiesNeverGrow : Prop :=
  (∀ (r : Reg) (m : BitVec 7), (r.maskPerms m).tag = r.tag ∧ (r.maskPerms m).dom = r.dom ∧ (r.maskPerms m).bounds = r.bounds ∧
    (r.maskPerms m).isSealed = r.isSealed ∧
    ∀ k < 7, (r.maskPerms m).bits.getLsbD (114 + k) = (r.bits.getLsbD (114 + k) && m.getLsbD k)) ∧
  (∀ (r : Reg) (a : Word), (r.withAddr a).word = a ∧ (r.withAddr a).dom = r.dom ∧
    (∀ k, 64 ≤ k → (r.withAddr a).bits.getLsbD k = r.bits.getLsbD k) ∧
    ((r.withAddr a).tag = true → r.tag = true ∧ (r.withAddr a).bounds = r.bounds)) ∧
  ∀ (r q : Reg) (n : Nat), r.limit n = some q → q.tag = r.tag ∧ q.dom = r.dom ∧
    (∀ k, k < 65 ∨ 114 ≤ k → q.bits.getLsbD k = r.bits.getLsbD k) ∧ r.bounds.1 ≤ q.bounds.1 ∧ q.bounds.2 ≤ r.bounds.2


/-! ## Lines, branches and calls (files 03, 05) -/

/-- R63. Two lines that agree in the header, the heads and the tails are the same line to the core: framed alike, with the same heads, the same
instruction at each, and the same next head after each, whatever their other bytes hold. -/
def Obligations.IgnoredBytes : Prop :=
  ∀ (l m : BitVec 512), (∀ i, i ≤ lineHeads l → half m i = half l i) →
    (∀ i, 32 - tailsUpTo l (lineHeads l) ≤ i → i < 32 → half m i = half l i) →
    lineFramed m = lineFramed l ∧ lineHeads m = lineHeads l ∧
      (lineFramed l = true → ∀ i, 1 ≤ i → i ≤ lineHeads l → lineWord m i = lineWord l i) ∧
      ∀ (c : Ctx) (pc : Word), { c with line := m }.nextHead pc = { c with line := l }.nextHead pc

/-- R69, R70, R123 to R125. A conditional branch that is not taken completes. A transfer whose target passes the checks of R70 (and, for a
tagged register, checks 2 to 5 of R92) goes there, CALL and CALLR writing the link, NextHead of the head, as plain data; one whose target
fails them traps at its own head with the check's cause and the target in TRAPVAL, and no link is written. Either way the effect stands on
the state that the check's fetch leaves (TargetChecks): that the fetch of a target sets A, taken or failed, is the model's reading of R291
(log 19). -/
def Obligations.BranchResults : Prop :=
  ∀ (s : State) (d a b : BitVec 5) (o : BitVec 16) (o32 : BitVec 32),
    let x := s.x a
    let y := s.x b
    let near := s.me.pc + 2 * o.signExtend 64
    let far := s.me.pc + 2 * o32.signExtend 64
    let plain := fun u : State => u
    let link := fun u : State => u.setX d (s.me.nextHead s.me.pc)
    let goes := fun (i : Instr) (tgt : Word) (then_ : State → State) =>
      let u := s.targetTouched s.cur tgt
      (s.checkTarget s.cur tgt = .ok () → exec i s = .next ((then_ u).jump tgt)) ∧
        ∀ f, s.checkTarget s.cur tgt = .error f → ∃ prog, exec i s = .next (u.takeTrap s.cur ⟨f.cause, s.me.pc, tgt, prog⟩)
    (∀ p ∈ [(Instr.beq a b o, decide (x = y)), (.bne a b o, decide (x ≠ y)), (.blt a b o, decide (x.toInt < y.toInt))
      , (.bge a b o, decide (y.toInt ≤ x.toInt)), (.bltu a b o, decide (x.toNat < y.toNat))
      , (.bgeu a b o, decide (y.toNat ≤ x.toNat))],
      (p.2 = false → exec p.1 s = .next s.advance) ∧ (p.2 = true → goes p.1 near plain)) ∧
    goes (.br o32) far plain ∧ goes (.call d o32) far link ∧
    ((s.g a).tag = false ∨ (checkCapRights (s.g a) s.me.dom s.me.priv .transfer x = .ok () ∧ (s.g a).covers x.toNat 2 = true) →
      goes (.jmpr a) x plain ∧ goes (.callr d a) x link ∧ goes (.ret a) x plain) ∧
    ∀ p ∈ [Instr.jmpr a, .callr d a, .ret a], (s.g a).tag = true →
      (∀ f, checkCapRights (s.g a) s.me.dom s.me.priv .transfer x = .error f →
        ∃ prog, exec p s = .next (s.takeTrap s.cur ⟨f.cause, s.me.pc, x, prog⟩)) ∧
      (checkCapRights (s.g a) s.me.dom s.me.priv .transfer x = .ok () → (s.g a).covers x.toNat 2 = false →
        ∃ prog, exec p s = .next (s.takeTrap s.cur ⟨0x11, s.me.pc, x, prog⟩))

/-- R70, R291, R381. The checks of a control transfer, in their order: the bits of the target, the translation of its line with execute
permission, a home that no fence stops (that this check stands here is the model's reading, log 88), the line's header, the head index; each failure
with its cause and the target. The fetch leaves what its translation leaves. -/
def Obligations.TargetChecks : Prop :=
  ∀ (s : State) (c : CtxId) (a : Word),
    (a.toNat / 2 ^ 55 ≠ 0 ∨ a.toNat % 2 = 1 → s.checkTarget c a = .error ⟨0x04, a⟩ ∧ s.targetTouched c a = s) ∧
    (a.toNat < 2 ^ 55 → a.toNat % 2 = 0 →
      (∀ f, s.translate (s.who c) (lineAddr a) .fetch = .error f →
        s.checkTarget c a = .error ⟨f.cause, a⟩ ∧ s.targetTouched c a = s) ∧
      ∀ u l sl, s.translate (s.who c) (lineAddr a) .fetch = .ok (u, l, sl) →
        let line := u.chooseLine (SMap.find (u.ctx c).lines (lineKey l)) l
        s.targetTouched c a = u ∧
        (u.homeFenced l = true → s.checkTarget c a = .error ⟨0x44, a⟩) ∧
        (u.homeFenced l = false → lineFramed line = false → s.checkTarget c a = .error ⟨0x01, a⟩) ∧
        (u.homeFenced l = false → lineFramed line = true →
          s.checkTarget c a =
            if 1 ≤ a.toNat / 2 % 32 ∧ a.toNat / 2 % 32 ≤ lineHeads line then .ok () else .error ⟨0x04, a⟩))

/-- R68 to R70, R291. The frame of the transfers: of the context a branch, jump, call or return that completes changes only the program counter and,
for a call, g[D], and beside the context at most what the walk of its target's line changes; a branch that is not taken checks nothing, and changes
nothing there. One that traps changes of the context what a trap writes, and beside it at most what the walks of its target's line and of TVEC's change.
That these checks leave A bits is the model's reading (log 19). -/
def Obligations.TransferFrame : Prop :=
  ∀ (s t : State) (d a b : BitVec 5) (o : BitVec 16) (o32 : BitVec 32),
    let near := s.me.pc + 2 * o.signExtend 64
    let far := s.me.pc + 2 * o32.signExtend 64
    let frame := fun (d : BitVec 5) (p : Instr × Word) => exec p.1 s = .next t →
      (OnlyRegister d s.me t.me ∧ SameButWalk s t (lineAddr p.2) .fetch) ∨
        (OnlyTrap s.me t.me ∧ SameButTrapWalks s t (lineAddr p.2) .fetch)
    (∀ p ∈ [(Instr.beq a b o, near), (.bne a b o, near), (.blt a b o, near), (.bge a b o, near), (.bltu a b o, near), (.bgeu a b o, near)
      , (.br o32, far), (.jmpr a, s.x a), (.ret a, s.x a)], frame 0 p) ∧
    (∀ p ∈ [(Instr.call d o32, far), (.callr d a, s.x a)], frame d p) ∧
    ∀ p ∈ [(Instr.beq a b o, decide (s.x a = s.x b)), (.bne a b o, decide (s.x a ≠ s.x b))
      , (.blt a b o, decide ((s.x a).toInt < (s.x b).toInt)), (.bge a b o, decide ((s.x b).toInt ≤ (s.x a).toInt))
      , (.bltu a b o, decide ((s.x a).toNat < (s.x b).toNat)), (.bgeu a b o, decide ((s.x b).toNat ≤ (s.x a).toNat))],
      p.2 = false → exec p.1 s = .next t → OnlyRegister 0 s.me t.me ∧ SameElsewhere s t ∧ SameBytes s t

/-! ## Context control (files 03, 04) -/

/-- R72, R97, R98, R104, R233. NOP; and the fences and waits, which complete once what they wait for holds and until then hold the context at
their head: IFENCE and SHFENCE the context's stores, XFENCE the engine operations too, VSYNC the sequencer, WAIT each counter within its
bound (15 places none; a helper's tile bound counts as 15), merging the pending matrix flags where the tile bound is not 15. -/
def Obligations.FencesAndWaits : Prop :=
  ∀ (s : State) (ld st cp tl : BitVec 4),
    let held := s.setCtx s.cur { s.me with waiting := true, gpos := 0 }
    let within := fun (n : Nat) (b : BitVec 4) => b = 15 ∨ n ≤ b.toNat
    exec .nop s = .next s.advance ∧
    exec .ifence s = .next (if s.me.writesPending then held else s.advance.modMe (fun c => { c with lines := [], lineVa := noLine })) ∧
    exec .shfence s = .next (if s.me.writesPending then held else s.advance.modMyCore (fun k => { k with recCache := [] })) ∧
    exec .xfence s = .next (if s.enginesDone ∧ s.me.writesPending = false then s.advance else held) ∧
    (s.helper = false → s.myCore.vsqSusp = false →
      exec .vsync s = .next (if s.myCore.seq = [] then s.advance.modMyCore (fun k => { k with window := [] }) else held)) ∧
    ((tl = 15 ∨ s.helper = true ∨ s.myCore.mxSusp = false) → (s.helper = true ∨ cp = 15 ∨ s.myCore.cpSusp = false) →
      (within s.me.cntLoad ld ∧ within s.me.cntStore st ∧ within s.me.cntCopy cp ∧
          (s.helper = true ∨ within s.tileCount tl) →
        exec (.wait_ ld st cp tl) s =
          .next (if tl = 15 ∨ s.helper = true then s.advance
            else s.advance.modMe (fun c => { c with flags := c.flags ||| c.mxFlags, mxFlags := 0 }))) ∧
      (¬(within s.me.cntLoad ld ∧ within s.me.cntStore st ∧ within s.me.cntCopy cp ∧
          (s.helper = true ∨ within s.tileCount tl)) →
        exec (.wait_ ld st cp tl) s = .next held))

/-- R85, R86, R104. HEND with the counters zero ends a helper, its exit value g1; in the control context, with no suspended engine, every
helper slot FREE and the sequencer empty, it ends the core's item. HALT, in privileged mode, waits alike and stops the core. YIELD completes:
a helper stands aside, the control context's slice is over. -/
def Obligations.EndsAndYields : Prop :=
  ∀ s : State,
    let quiet := s.me.cntLoad = 0 ∧ s.me.cntStore = 0 ∧ s.me.cntCopy = 0 ∧ s.me.cntTile = 0
    (s.helper = true → quiet →
      exec .hend s = .next (s.setCtx s.cur { s.me with
        life := .ended, exitVal := (s.me.reg 1).word, waiting := false, gpos := 0, deferred := [], arrivals := [] })) ∧
    (s.helper = false → s.myCore.vsqSusp = false → s.myCore.mxSusp = false → s.myCore.cpSusp = false →
      s.busySlots s.cur.core = 0 → quiet → s.myCore.seq = [] → exec .hend s = .next s.endControl) ∧
    (s.me.priv = true → quiet → (s.helper = true ∨ s.myCore.seq = []) →
      exec .halt s = .next (s.advance.modMyCore (fun k => { k with stopped := true }))) ∧
    (s.helper = true → exec .yield s = .next (s.advance.modMe (fun c => { c with standAside := 11, passed := [] }))) ∧
    (s.helper = false → s.myCore.preempted = false → exec .yield s = .next (s.advance.modMyCore (·.endSlice)))

/-- R78, R101, R104 to R107, R384. TRAP and SYSCALL take their trap with the immediate in TRAPVAL and TRAPPROG zero; BREAK stops the core with DBGCTL.BE
and else traps with all ones in TRAPVAL; SNAP requests a snapshot and completes; a debugger lets a stopped core run again. In a helper, HSTART, HJOIN, HSTAT,
HKILL, VSYNC and UIRET raise NOT_IN_HELPER at decode: TRAPPC the group's first head, TRAPVAL the member's word. HALT in user mode raises PRIV. -/
def Obligations.SoftwareAndDecodeTraps : Prop :=
  (∀ (s : State) (i : BitVec 16) (core : Nat),
    exec (.trap i) s = .next (s.takeTrap s.cur ⟨0x70, s.me.pc, i.setWidth 64, 0⟩) ∧
    exec (.syscall i) s = .next (s.takeTrap s.cur ⟨0x71, s.me.pc, i.setWidth 64, 0⟩) ∧
    (s.me.dbgctl = true → exec .break_ s = .next (s.modMyCore (fun k => { k with broken := true }))) ∧
    (s.me.dbgctl = false →
      ∃ prog, exec .break_ s = .next (s.takeTrap s.cur ⟨0x70, s.me.pc, BitVec.allOnes 64, prog⟩)) ∧
    exec .snap s = .next s.snap.advance ∧
    exec (.debuggerResume core) s = .next (s.modCore core (fun k => { k with stopped := false, broken := false }))) ∧
  ∀ (s : State) (slot : BitVec 4) (n a b d : BitVec 5) (o : BitVec 16),
    (s.helper = true → ∀ i ∈ [Instr.hstart slot a b o, .hjoin d n, .hstat d n, .hkill n, .vsync, .uiret],
      ∃ prog, exec i s = .next (s.takeTrap s.cur ⟨0x06, s.me.ghead, s.me.ir, prog⟩)) ∧
    (s.me.priv = false → ∃ prog, exec .halt s = .next (s.takeTrap s.cur ⟨0x05, s.me.ghead, s.me.ir, prog⟩))

/-- R101, R104. ERET in privileged mode, outside a resident bank, goes to TRAPPC, which must pass R70, with UIE, UIA and PRIV from
ESTATUS (a helper's UIE stays 0); in user mode it raises PRIV at decode. UIRET in a user handler goes to the head in g30 with the banks
swapped back. These clauses are the model's readings: that the check of the target leaves the A bit of its fetch (log 19), that UIRET
leaves PRIV clear (log 73), and that ERET lets the deferred traps held since entry be taken, a second ABORT_TOKEN once the first one's handler
has ended (log 89). -/
def Obligations.TrapReturns : Prop :=
  ∀ s : State,
    (s.me.priv = true → (s.helper = true ∨ s.myCore.preempted = false ∨ s.me.depth ≠ 0) →
      s.checkTarget s.cur s.me.trapPc = .ok () → ∃ t, exec .eret s = .next t ∧
        t.me = { s.me with
          pc := s.me.trapPc, uie := s.me.estatus.getLsbD 6 && !s.helper, uia := s.me.estatus.getLsbD 7
          priv := s.me.estatus.getLsbD 5, resume := .armed, depth := s.me.depth - 1, trapsHeld := false, waiting := false
          tokenDepth := if s.me.depth ≤ s.me.tokenDepth then 0 else s.me.tokenDepth } ∧
        SameBytesButWalk (s.who s.cur) s t (lineAddr s.me.trapPc) .fetch) ∧
    (s.me.priv = false → ∃ t, exec .eret s = .next (s.takeTrap s.cur t) ∧ t.cause = 0x05 ∧ t.pc = s.me.ghead ∧ t.val = s.me.ir) ∧
    (s.helper = false → s.me.uia = true → s.checkTarget s.cur (s.me.reg 30).word = .ok () →
      ∃ t, exec .uiret s = .next t ∧ t = (s.targetTouched s.cur (s.me.reg 30).word).setCtx s.cur t.me ∧ t.me.pc = (s.me.reg 30).word ∧ t.me.uia = false ∧ t.me.priv = s.me.priv ∧
        (∀ n < 24, t.me.reg n = s.me.reg n) ∧
        ∀ k < 8, t.me.reg (24 + k) = SMap.getD s.me.shadow (24 + k) Reg.zero ∧
          SMap.getD t.me.shadow (24 + k) Reg.zero = SMap.getD s.me.regs (24 + k) Reg.zero)

/-- R105, R106. HSTART of a FREE slot whose entry passes R70 starts a helper: LIVE at the entry, g1 and g31 copies of g[A] and g[B] with their
tags, every other register untagged zero, FLAGS, RND, MBOX and the counters zero, DOM, TVEC and XLBASE the starting context's. HSTAT reads
a slot's state; HJOIN of one that has ended frees it and writes its exit value, and of a LIVE one waits; HKILL of a slot that is not LIVE
only completes. -/
def Obligations.HelperControl : Prop :=
  ∀ (s : State) (slot : BitVec 4) (n a b d : BitVec 5) (o : BitVec 16), s.helper = false →
    let entry := s.me.pc + 2 * o.signExtend 64
    let h := s.slot s.cur.core n.toNat
    (slot.toNat < 10 → s.checkTarget s.cur entry = .ok () → (s.slot s.cur.core slot.toNat).life = .free →
      ∃ t y, exec (.hstart slot a b o) s = .next t ∧ y = t.ctx ⟨s.cur.core, slot.toNat⟩ ∧ y.life = .live ∧ y.pc = entry ∧
        y.reg 1 = s.g a ∧ y.reg 31 = s.g b ∧ (∀ k, k ≠ 1 → k ≠ 31 → y.reg k = Reg.zero) ∧ y.flags = 0 ∧ y.rnd = 0 ∧ y.mbox = 0 ∧
        y.cntLoad = 0 ∧ y.cntStore = 0 ∧ y.cntCopy = 0 ∧ y.cntTile = 0 ∧ y.dom = s.me.dom ∧ y.tvec = s.me.tvec ∧
        y.xlbase = s.me.xlbase ∧ t.me = { s.me with pc := s.me.nextHead s.me.pc, waiting := false }) ∧
    exec (.hstat d n) s = .next (s.setX d (BitVec.ofNat 64 h.life.code)).advance ∧
    (h.life = .ended ∨ h.life = .killed →
      exec (.hjoin d n) s = .next ((s.modSlot s.cur.core n.toNat Ctx.joined).setX d h.exitVal).advance) ∧
    (h.life = .live → exec (.hjoin d n) s = .next (s.setCtx s.cur { s.me with waiting := true, gpos := 0 })) ∧
    (h.life = .free → ∃ prog, exec (.hjoin d n) s =
      .next (s.takeTrap s.cur ⟨0x03, s.me.pc, n.setWidth 64, prog⟩)) ∧
    (h.life ≠ .live → exec (.hkill n) s = .next s.advance) ∧
    (h.life = .live → h.gpos = 0 → s.myCore.preempted = false →
      exec (.hkill n) s = .next (s.advance.killHelper ⟨s.cur.core, n.toNat⟩))

/-- R71, R80 to R83, R100, R419, R424. The steps of a context itself. A pending deferred trap is taken at a group boundary, with TRAPPC the head at
which the context stands; those that met it there are held until ERET, and in the handler of an ABORT_TOKEN no second one is taken (R419). A due user handler is entered at UIVEC, if that passes R70: UIA set, PRIV clear, g30 the
interrupted head. A head of a reserved major or an unassigned minor raises ILLEGAL_OP with its word in TRAPVAL. A context at head 1 of a line fetches
it. -/
def Obligations.ContextSteps : Prop :=
  (∀ (s : State) (c : CtxId) (d : Deferred),
    let due := (s.ctx c).deferred.filter (fun e => decide ((s.ctx c).tokenDepth = 0) || e.cls != .abort)
    (s.ctx c).takesDeferred = true → nextDeferred due = some d →
    exec (.takeDeferredTrap c) s =
      .next (((s.abandonWait c).modCtx c (fun x => { x with
        deferred := dropDeferred x.deferred d, trapsHeld := !(dropDeferred x.deferred d).isEmpty
        tokenDepth := if d.cls = .abort then x.depth + 1 else x.tokenDepth })).takeTrap c
        { d.trap with pc := ((s.abandonWait c).ctx c).pc })) ∧
  (∀ (s : State) (core : Nat), (s.ctx ⟨core, control⟩).takesUser = true →
    (s.abandonWait ⟨core, control⟩).checkTarget ⟨core, control⟩ (s.ctx ⟨core, control⟩).uivec = .ok () →
    ∃ t, exec (.enterUserHandler core) s = .next t ∧ (t.ctx ⟨core, control⟩).uia = true ∧ (t.ctx ⟨core, control⟩).priv = false ∧
      (t.ctx ⟨core, control⟩).pc = ((s.abandonWait ⟨core, control⟩).ctx ⟨core, control⟩).uivec ∧
      (t.ctx ⟨core, control⟩).reg 30 = Reg.plain ((s.abandonWait ⟨core, control⟩).ctx ⟨core, control⟩).pc) ∧
  (∀ (s : State) (w : Word) (sub : Nat), reservedSubcode w = some sub → s.me.gpos = 0 →
    exec (.reservedMajorIssue w) s = .next (s.takeTrap s.cur ⟨0x02, s.me.pc, w, BitVec.ofNat 64 sub⟩)) ∧
  ∀ (s : State) (c : CtxId), (s.ctx c).life = .live → (s.ctx c).halted = false → (s.ctx c).gpos = 0 → headIndex (s.ctx c).pc = 1 →
    exec (.sequentialLineEntry c) s = .next (s.enterLine c).1


/-! ## Memory (files 05, 09, 12) -/

/-- R92, R133, R138. The checks of an access through a capability register, in their order: tag, seal, domain and rights (with SH for a peer
scratchpad or a fabric address); bounds; alignment; SC and G for a tagged value (that these come last is the model's reading, log 70); then the region,
translation and range locks, and, unless it only stores, the poison marks that no earlier STC of the context will clear (that those are passed over is the model's
reading, log 71). The first that fails decides the cause; TRAPVAL is the address. A trap of the first six is taken on the state as it stands, a later one on what the translation leaves. -/
def Obligations.AccessChecks : Prop :=
  ∀ (s : State) (base : BitVec 5) (a : Word) (n : Nat) (k : CapUse) (v : Reg),
    let r := s.g base
    let fails := fun cause => ∃ prog, s.access base a n k v = .error ⟨cause, s.me.pc, a, prog⟩
    let traps := fun cause => fails cause ∧ s.afterAccess base a n k v = s
    let owned := decide (r.dom = s.me.dom.toNat) || decide (r.dom = 63) || s.me.priv
    let mayStore := !v.tag || (r.permSC && (v.permG || isOwnSpad a) && !isFabric a)
    (r.tag = false → traps 0x10) ∧
    (r.tag = true → r.isSealed = true → traps 0x13) ∧
    (r.tag = true → r.isSealed = false → owned = false → traps 0x14) ∧
    (r.tag = true → r.isSealed = false → owned = true → r.permits k a = false → traps 0x12) ∧
    (r.tag = true → r.isSealed = false → owned = true → r.permits k a = true →
      (r.covers a.toNat n = false → traps 0x11) ∧
      (r.covers a.toNat n = true → a.toNat % n ≠ 0 → traps 0x18) ∧
      (r.covers a.toNat n = true → a.toNat % n = 0 → mayStore = false → traps 0x12) ∧
      (r.covers a.toNat n = true → a.toNat % n = 0 → mayStore = true → s.afterAccess base a n k v = s.touched (s.who s.cur) a k ∧
        (∀ f, s.resolve (s.who s.cur) a n k = .error f → ∃ prog, s.access base a n k v = .error ⟨f.cause, s.me.pc, f.val, prog⟩) ∧
        ∀ u p, s.resolve (s.who s.cur) a n k = .ok (u, p) →
          (k = .store ∨ (∀ l, p = .local l → u.readsMarked l n = false) → s.access base a n k v = .ok (u, p)) ∧
          (k ≠ .store → (∃ l, p = .local l ∧ u.readsMarked l n = true) → fails 0x32)))

/-- R131, R133, R235. Where an address leads: the own scratchpad, a peer's and the cluster memory by their windows, within their sizes; RANGE_LOCKED
where a lock refuses; a fabric address to another device; below 2^55 by translation, SEALED_WRITE for a write of a sealed page; PAGE_FAULT
elsewhere, beyond a window's size among it. An access whose walk a fenced die stops goes to that die, which refuses it when it is performed (R381, log 59). -/
def Obligations.RegionsOfAddresses : Prop :=
  ∀ (s : State) (w : Who) (a : Word) (n : Nat) (k : CapUse),
    let top := a.toNat / 2 ^ 48
    let off := a.toNat % 2 ^ 48
    let lands := fun (sp : Space) (o : Nat) =>
      (s.locked w.core ⟨sp, o, a.toNat⟩ n k.writes = false → s.resolve w a n k = .ok (s, .local ⟨sp, o, a.toNat⟩)) ∧
      (s.locked w.core ⟨sp, o, a.toNat⟩ n k.writes = true → s.resolve w a n k = .error ⟨0x28, a⟩)
    (top = 0x7E00 → off < 0xC0000 → lands (.spad w.core) off) ∧
    (top = 0x7D00 → off < 0x800000 → lands (.cmem (w.core / 8)) off) ∧
    (top = 0x7C00 → off / 2 ^ 24 < 320 → off % 2 ^ 24 < 0xC0000 → lands (.spad (off / 2 ^ 24)) (off % 2 ^ 24)) ∧
    (2 ^ 63 ≤ a.toNat → s.resolve w a n k = .ok (s, .remote a (s.remoteKey w.core a))) ∧
    (2 ^ 55 ≤ a.toNat → a.toNat < 2 ^ 63 → ¬(top = 0x7E00 ∧ off < 0xC0000) → ¬(top = 0x7D00 ∧ off < 0x800000) →
      ¬(top = 0x7C00 ∧ off / 2 ^ 24 < 320 ∧ off % 2 ^ 24 < 0xC0000) → s.resolve w a n k = .error ⟨0x20, a⟩) ∧
    (a.toNat < 2 ^ 55 →
      (∀ f, s.translate w a k.access = .error f → s.touched w a k = s ∧
        (f.cause ≠ 0x44 → s.resolve w a n k = .error f) ∧
        (f.cause = 0x44 → ∃ l, s.resolve w a n k = .ok (s, .local l) ∧ s.homeFenced l = true ∧ l.va = a.toNat)) ∧
      ∀ u l sl, s.translate w a k.access = .ok (u, l, sl) → s.touched w a k = u ∧
        s.resolve w a n k =
          if sl = true ∧ k.writes = true then .error ⟨0x50, a⟩
          else if u.locked w.core l n k.writes = true then .error ⟨0x28, a⟩ else .ok (u, .local l))

/-- R137 to R139. A load or store whose access passes its checks is issued and completes: base plus displacement, or base plus
index times size; LDC with the LC right of its capability, STC with all 129 bits. One that fails traps at its head, on the state that its
translation leaves (AccessChecks). -/
def Obligations.LoadsAndStoresIssue : Prop :=
  ∀ (s : State) (d a b c : BitVec 5) (i : BitVec 16),
    let near := s.x a + i.signExtend 64
    let at_ := fun n : Nat => s.x a + s.x b * BitVec.ofNat 64 n
    let issues := fun (p : Instr) (tgt : Word) (n : Nat) (use : CapUse) (v : Reg) (kind : MemKind) (data : Reg) =>
      (∀ u home, s.access a tgt n use v = .ok (u, home) → exec p s = .next (u.issueOps [s.pendOp kind home n data]).advance) ∧
      ∀ t, s.access a tgt n use v = .error t → exec p s = .next ((s.afterAccess a tgt n use v).takeTrap s.cur t)
    (∀ p ∈
      [ (Instr.ldb d a i, near, 1, false), (.ldh d a i, near, 2, false), (.ldw d a i, near, 4, false), (.ldd d a i, near, 8, false)
      , (.ldbs d a i, near, 1, true), (.ldhs d a i, near, 2, true), (.ldws d a i, near, 4, true)
      , (.ldbx d a b, at_ 1, 1, false), (.ldhx d a b, at_ 2, 2, false), (.ldwx d a b, at_ 4, 4, false)
      , (.lddx d a b, at_ 8, 8, false) ],
      issues p.1 p.2.1 p.2.2.1 .load Reg.zero (.load d p.2.2.2) Reg.zero) ∧
    (∀ p ∈
      [ (Instr.stb c a i, near, 1), (.sth c a i, near, 2), (.stw c a i, near, 4), (.std c a i, near, 8)
      , (.stbx c a b, at_ 1, 1), (.sthx c a b, at_ 2, 2), (.stwx c a b, at_ 4, 4), (.stdx c a b, at_ 8, 8) ],
      issues p.1 p.2.1 p.2.2 .store Reg.zero .store (s.g c)) ∧
    issues (.ldc d a i) near 16 .load Reg.zero (.loadCap d (s.g a).permLC) Reg.zero ∧
    issues (.stc c a i) near 16 .store (s.g c) .storeCap (s.g c)

/-- R140, R141. LDM and STM of g[F] to g[L] with a legal range and checks that pass, where every element from the resume count on finds its
place: the elements are issued under one issue number and the instruction completes. Where an element traps, those before it are transferred,
once the accesses they must follow are performed, and TRAPPROG holds their count and the resume bit. An illegal range is ILLEGAL_OPERAND with F and L in TRAPVAL. -/
def Obligations.MultiplesIssue : Prop :=
  ∀ (s : State) (f l a : BitVec 5) (i : BitVec 16) (load : Bool),
    let p : Instr := if load then .ldm f l a i else .stm f l a i
    let addr := s.x a + i.signExtend 64
    let n := l.toNat - f.toNat + 1
    let k := s.me.resumeCount
    let legal := f ≠ 0 ∧ f.toNat ≤ l.toNat ∧ (load = true → a.toNat < f.toNat ∨ l.toNat < a.toNat)
    (legal → checkCap (s.g a) s.me.dom s.me.priv (if load then .load else .store) addr (8 * n) 8 = .ok () → isFabric addr = false →
      ∀ u ops, s.multiple load f a addr (n - k) k [] = (u, ops, none) →
        ops.length = n - k ∧ (∀ o ∈ ops, o.seq = s.me.pendSeq ∧ o.size = 8) ∧ exec p s = .next (u.modMe (·.issue ops)).advance) ∧
    (legal → checkCap (s.g a) s.me.dom s.me.priv (if load then .load else .store) addr (8 * n) 8 = .ok () → isFabric addr = false →
      ∀ u ops t, s.multiple load f a addr (n - k) k [] = (u, ops, some t) → ∃ j,
        j = k + ops.length ∧ t.pc = s.me.pc ∧ t.prog = BitVec.ofNat 64 (a.toNat + (if load then 0 else 32) + 64 * j + 4096) ∧
        exec p s = .next (if ops.any (fun o => heldBack (s.me.pend.map (·.swapped)) o) then s.hold
          else (u.transferNow ops).takeTrap s.cur t)) ∧
    (¬legal → ∃ prog, exec p s = .next (s.takeTrap s.cur ⟨0x03, s.me.pc, BitVec.ofNat 64 (f.toNat + 256 * l.toNat), prog⟩))

/-- R304 to R308. The atomic, acquire and release instructions whose access passes its checks and does not lie in host memory are issued with their order and scope and complete; a CAS or CAS2 takes effect by its order only where it swaps (AccessesPerformed), and
is an acquire with FACQ whatever it does. FENCE
completes, standing between the accesses issued before it and those issued after; one of kind 4 waits until every earlier store of the context has been performed. -/
def Obligations.AtomicsAndFencesIssue : Prop :=
  (∀ (s : State) (d a b c : BitVec 5) (scope order : BitVec 3) (size : BitVec 2) (fa : BitVec 1) (u : State) (home : Place),
    let n := if size = 0 then 4 else 8
    let remoteOrDevice := ∀ l, home = .local l → l.space ≠ .host
    let op := fun (k : MemKind) (m : Nat) (data : Reg) (o : BitVec 3) => (s.pendOp k home m data).ordered o scope
    let swap := fun (k : MemKind) (m : Nat) => { s.pendOp k home m (s.g c) with scope := scope, acq := fa = 1, swap := order }
    remoteOrDevice →
      (s.access a (s.x a) n .atomic Reg.zero = .ok (u, home) →
        (∀ p ∈
          [ (Instr.amoadd d a b scope order size, AmoOp.add), (.amoand d a b scope order size, .and)
          , (.amoor d a b scope order size, .or), (.amoxor d a b scope order size, .xor)
          , (.amoswap d a b scope order size, .swap), (.amomin d a b scope order size, .min)
          , (.amomax d a b scope order size, .max), (.amominu d a b scope order size, .minu)
          , (.amomaxu d a b scope order size, .maxu) ],
          exec p.1 s = .next (u.issueOps [op (.amo d p.2) n (s.g b) order]).advance) ∧
        exec (.cas d a b scope order size fa c) s = .next (u.issueOps [swap (.cas d (s.x b)) n]).advance) ∧
      (s.access a (s.x a) 16 .atomic (s.g c) = .ok (u, home) →
        exec (.cas2 d a b scope order fa c) s = .next (u.issueOps [swap (.cas2 d (s.g b) (s.g a).permLC) 16]).advance) ∧
      (s.access a (s.x a) n .load Reg.zero = .ok (u, home) →
        exec (.ldaq d a scope order size) s =
          .next (u.issueOps [op (.load d false) n Reg.zero (if order = 4 then 4 else 1)]).advance) ∧
      (s.access a (s.x a) n .store Reg.zero = .ok (u, home) →
        exec (.strl b a scope order size) s = .next (u.issueOps [op .store n (s.g b) (if order = 4 then 4 else 2)]).advance)) ∧
  ∀ (s : State) (scope kind : BitVec 3),
    let op : PendOp := { s.pendOp (.fence kind) (.remote 0 0) 0 Reg.zero with scope := scope }
    let done := (s.setCtx s.cur (if s.me.pend = [] then s.me else { s.me with pend := s.me.pend ++ [op] })).advance
    let held := s.setCtx s.cur { s.me with waiting := true, gpos := 0 }
    let performed := ∀ o ∈ s.me.pend, o.kind.writes = true → o.kind.isUnit = true
    (kind ≠ 4 ∨ performed → exec (.fence scope kind) s = .next done) ∧
    (kind = 4 → ¬performed → exec (.fence scope kind) s = .next held)

/-- R97, R137, R184, R298, R305 to R307. An issued access of this device that may be performed, its home neither fenced nor sealed, is performed at its place. A
load writes the value, extended, to its register, and an LDAQ clears the granule's tag; an AMO reads, applies its operation and writes, as one; a CAS writes where the
old value equals the expected one; a store writes its bytes; and the instruction's count falls with its last access. A load that an earlier CAS held back may have
taken its value before: it stands unless that CAS swaps (the model's reading, log 94). A read whose granule has been marked since it issued is refused with
POISON_CONSUMED (that this trap has the form of a refusal is the model's reading, log 71). The reply of another device's access is written to its register; that a
remote CAS with an order field counts as one that swaps is the model's reading too (log 94). -/
def Obligations.AccessesPerformed : Prop :=
  ∀ (s : State) (c : CtxId) (k : Nat) (reply : BitVec 128) (o : PendOp) (rest : List PendOp),
    (s.ctx c).pend.drop k = o :: rest → (s.ctx c).mayPerform k (s.swaps o) = true →
    (∀ l, o.home = .local l → s.homeFenced l = false → (s.sealedAt l = false ∨ o.kind.writes = false) →
      (o.kind.reads = true → o.kind.isUnit = false → o.size ≠ 0 → o.early = none → s.poisonAt l o.size = true →
        exec (.loadComplete c k reply) s = .next (s.refuse c k o 0x32 (BitVec.ofNat 64 l.va))) ∧
      (o.size = 0 ∨ o.early ≠ none ∨ s.poisonAt l o.size = false ∨ o.kind.reads = false →
      let old := s.readAt l o.size
      let done := fun (u : State) (d : BitVec 5) (r : Reg) =>
        u.modCtx c (fun x => ((x.finishOp k o).dropEarly (o.swap ≠ 0 ∧ s.swapsAt l o = true)).deliver o.bank d (o.early.getD r))
      (∀ d sgn, o.kind = .load d sgn → exec (.loadComplete c k reply) s =
        .next (done (if o.acq then s.setMemory l.space ((s.memory l.space).setTag l.off false) else s) d
          (Reg.plain (extend o.size old sgn)))) ∧
      (∀ d lc, o.kind = .loadCap d lc →
        exec (.loadComplete c k reply) s = .next (done s d (Reg.loaded (BitVec.ofNat 128 old) (s.tagAt l && lc)))) ∧
      (∀ d f, o.kind = .amo d f →
        exec (.loadComplete c k reply) s =
          .next (done (s.writeAt l o.size (amoApply f o.size old (o.data.bits.toNat % 2 ^ (8 * o.size)))) d
            (Reg.plain (BitVec.ofNat 64 old)))) ∧
      (∀ d e, o.kind = .cas d e →
        exec (.loadComplete c k reply) s =
          .next (done (if old = e.toNat % 2 ^ (8 * o.size) then s.writeAt l o.size (o.data.bits.toNat % 2 ^ (8 * o.size)) else s) d
            (Reg.plain (BitVec.ofNat 64 old)))) ∧
      (∀ d e lc, o.kind = .cas2 d e lc →
        exec (.loadComplete c k reply) s =
          .next (done (if old = e.bits.toNat ∧ s.tagAt l = e.tag then s.writeCapAt l o.data else s) d
            (Reg.loaded (BitVec.ofNat 128 old) (s.tagAt l && lc)))) ∧
      (o.kind = .store → exec (.storePerformed c k) s = .next (done (s.writeAt l o.size o.data.bits.toNat) 0 Reg.zero)) ∧
      (o.kind = .storeCap → exec (.storePerformed c k) s = .next (done (s.writeCapAt l o.data) 0 Reg.zero)))) ∧
    ∀ a key, o.home = .remote a key → s.sentOut (s.ctx c).uid o = true →
      let done := fun (u : State) (d : BitVec 5) (r : Reg) =>
        u.modCtx c (fun x => ((x.finishOp k o).deliver o.bank d r).dropEarly (o.swap ≠ 0))
      (o.kind.reads = true → o.kind.isUnit = false →
        exec (.loadComplete c k reply) s = .next (done s o.kind.dest (o.replyReg reply))) ∧
      (o.kind = .store ∨ o.kind = .storeCap → exec (.storePerformed c k) s = .next (done s 0 (o.replyReg 0)))

/-- R290 to R292. A walk of the die's walker that succeeds sets A (and D on a store or atomic) and caches the entry; one that fails changes
nothing. -/
def Obligations.TranslationWalks : Prop :=
  ∀ (s : State) (c : CtxId) (va : Word) (k : Access),
    (∀ u l b, s.translate (s.who c) va k = .ok (u, l, b) → exec (.translationWalk c va k) s = .next u) ∧
    (∀ f, s.translate (s.who c) va k = .error f → exec (.translationWalk c va k) s = .next s) ∧
    ∀ lf, s.staleEntry (s.who c) va k (s.walk (s.who c) va k) = none → s.walk (s.who c) va k = .ok lf →
      ∃ u, exec (.translationWalk c va k) s = .next u ∧
        (lf.entry.getLsbD 7 = true → (k = .load ∨ k = .fetch ∨ lf.entry.getLsbD 6 = true) → u.main = s.main) ∧
        ((lf.entry.getLsbD 7 = false ∨ ((k = .store ∨ k = .atomic) ∧ lf.entry.getLsbD 6 = false)) →
          u.main = s.main.write lf.at_ 8 (lf.entry ||| (if k = .load ∨ k = .fetch then 0x80 else 0xC0)).toNat)

/-- R133, R291, R399. The frame of issuing: an answered load, store, atomic or FENCE writes no register, no flag and no byte of a scratchpad, of a cluster's
memory or of host memory; of device memory at most the eight bytes of the leaf entry that the walk of its address finds, and where it traps those of the entry for
TVEC's line (that this check leaves its A bit is the model's reading, log 19). Beside the context, its own device changes only in device memory's A and D bits, the
cached translations, the core's count of request tags and the requests at the network interface. -/
def Obligations.IssueFrame : Prop :=
  ∀ (s t : State) (d a b c : BitVec 5) (i : BitVec 16) (scope order : BitVec 3) (size : BitVec 2) (fa : BitVec 1),
    let near := s.x a + i.signExtend 64
    let at_ := fun n : Nat => s.x a + s.x b * BitVec.ofNat 64 n
    ∀ p ∈
      [ (Instr.ldb d a i, near, Access.load), (.ldh d a i, near, .load), (.ldw d a i, near, .load), (.ldd d a i, near, .load)
      , (.ldbs d a i, near, .load), (.ldhs d a i, near, .load), (.ldws d a i, near, .load), (.ldc d a i, near, .load)
      , (.ldbx d a b, at_ 1, .load), (.ldhx d a b, at_ 2, .load), (.ldwx d a b, at_ 4, .load), (.lddx d a b, at_ 8, .load)
      , (.stb c a i, near, .store), (.sth c a i, near, .store), (.stw c a i, near, .store), (.std c a i, near, .store)
      , (.stc c a i, near, .store), (.stbx c a b, at_ 1, .store), (.sthx c a b, at_ 2, .store), (.stwx c a b, at_ 4, .store)
      , (.stdx c a b, at_ 8, .store), (.ldaq d a scope order size, s.x a, .load), (.strl b a scope order size, s.x a, .store)
      , (.amoadd d a b scope order size, s.x a, .atomic), (.amoand d a b scope order size, s.x a, .atomic)
      , (.amoor d a b scope order size, s.x a, .atomic), (.amoxor d a b scope order size, s.x a, .atomic)
      , (.amoswap d a b scope order size, s.x a, .atomic), (.amomin d a b scope order size, s.x a, .atomic)
      , (.amomax d a b scope order size, s.x a, .atomic), (.amominu d a b scope order size, s.x a, .atomic)
      , (.amomaxu d a b scope order size, s.x a, .atomic), (.cas d a b scope order size fa c, s.x a, .atomic)
      , (.cas2 d a b scope order fa c, s.x a, .atomic), (.fence scope order, 0, .load) ],
      exec p.1 s = .next t →
        (∀ n, t.me.reg n = s.me.reg n) ∧ t.me.flags = s.me.flags ∧
        (SameButWalk s (({ t with inbound := s.inbound, heldReqs := s.heldReqs } : State).modMyCore
            (fun q => { q with tags := s.myCore.tags })) p.2.1 p.2.2 ∨
          (OnlyTrap s.me t.me ∧ SameButTrapWalks s t p.2.1 p.2.2))

/-- R134, R137. The frame of performing: LOAD_COMPLETE and STORE_PERFORMED change no byte outside the bytes of the access they perform, which start at
its place and are its size in number, sixteen for a capability; a load changes none. And each keeps every memory in its canonical form. -/
def Obligations.PerformFrame : Prop :=
  ∀ (s t : State) (c : CtxId) (k : Nat) (reply : BitVec 128),
    exec (.loadComplete c k reply) s = .next t ∨ exec (.storePerformed c k) s = .next t →
      (∀ sp x,
        (∀ o rest l, (s.ctx c).pend.drop k = o :: rest → o.home = .local l → o.kind.writes = true → ¬spanByte l o.span sp x) →
        (t.memory sp).byte x = (s.memory sp).byte x) ∧
      (s.MemoriesCanonical → t.MemoriesCanonical)

/-- R140, R141, R147 to R149, R169, R170, R201, R227, R246. The frame of LDM and STM, of the sequencer and of the engine: beside A and D bits of leaf
entries, LDM changes no byte, and STM no byte but those of the elements that it stores before one that traps; an entry of the sequencer none but
those of a PARK's image, of a VST's lanes whose mask bit is set, of the elements that a VSCAT's indices name, or of the slice that its stream
destination takes; an operation of the engine none but the elements of a TSTORE's rows or a CHST's image. -/
def Obligations.EngineStoresFrame : Prop :=
  (∀ (s t : State) (f l a : BitVec 5) (i : BitVec 16) (load : Bool),
    exec (if load then .ldm f l a i else .stm f l a i) s = .next t →
      KeptOutside s t (fun sp x => load = false ∧ ∃ u ops e,
        s.multiple load f a (s.x a + i.signExtend 64) (l.toNat - f.toNat + 1 - s.me.resumeCount) s.me.resumeCount [] = (u, ops, some e) ∧
        opsByte ops sp x)) ∧
  (∀ (s t : State) (core : Nat), exec (.sequencerExecute core) s = .next t →
    KeptOutside s t (fun sp x => ∃ e, (s.core core).seqHead = some e ∧ s.entryByte core e sp x)) ∧
  ∀ (s t : State) (core : Nat), (exec (.matrixOpComplete core) s = .next t ∨ exec (.functionOpComplete core) s = .next t) →
    KeptOutside s t (fun sp x => ∃ op rest, (s.core core).mxq = op :: rest ∧ s.mxByte core op sp x)

/-- R240, R266, R277, R278. The frame of the copy engine, of the indirect copies and of the walker: beside A and D bits of leaf entries, no byte changes
but those at the places of the destination elements that a copy moves, of the rows that a post moves, or of a walker's store, WEMIT or
WDFIN. -/
def Obligations.CopiesAndWalkersFrame : Prop :=
  (∀ (s t : State) (core n : Nat), (exec (.copyComplete core n) s = .next t ∨ exec (.copyFail core n) s = .next t) →
    KeptOutside s t (fun sp x => ∃ c, (s.core core).running n = some c ∧ placeByte (s.copyPlaces core c (c.count - c.done)) sp x)) ∧
  (∀ (s t : State) (cl n : Nat), (exec (.indirectPostComplete cl n) s = .next t ∨ exec (.indirectPostFail cl n) s = .next t) →
    KeptOutside s t (fun sp x => ∃ p, (s.cluster cl).runningPost n = some p ∧ placeByte (s.postPlaces p (p.n - p.done)) sp x)) ∧
  ∀ (s t : State) (d a b : BitVec 4) (c sn : BitVec 2) (i : BitVec 14) (j : BitVec 18) (e : BitVec 4),
    let win := (s.thread.win.getD c.toNat Reg.zero).word
    (∀ p ∈ [(Instr.wstB d a c i, win + s.w a + i.signExtend 64, 1), (.wstH d a c i, win + s.w a + i.signExtend 64, 2)
      , (.wstW d a c i, win + s.w a + i.signExtend 64, 4), (.wstD d a c i, win + s.w a + i.signExtend 64, 8)
      , (.wemit a c i, win + s.w a, i.toInt.toNat), (.wdfin a c i, win + s.w a + i.signExtend 64, 64)],
      exec p.1 s = .next t →
        KeptOutside s t (fun sp x => ∃ u ls, s.walkAccess c p.2.1 p.2.2 true = .ok (u, ls) ∧ placeByte ls sp x)) ∧
    ∀ p ∈ [Instr.wldB d a c i, .wldH d a c i, .wldW d a c i, .wldD d a c i, .wnop, .wadd d a b, .wsub d a b, .wand d a b, .wor d a b
      , .wxor d a b, .wshl d a b, .wshr d a b, .waddi d a i, .wmuli d a i, .wldi d j, .wflt d a b, .wfle d a b, .wbeq a b i, .wbne a b i
      , .wbltu a b i, .wj i, .wzrow, .wrins d a sn i, .wdinit, .wdabs a, .wsig e, .wend a],
      exec p s = .next t → KeptOutside s t (fun _ _ => False)

/-- R134, R184. The operations over memories: what a write leaves in every byte, that reading it back gives the value, that it clears the tags of
the granules it touches and no other, and that every operation keeps the canonical form. -/
def Obligations.MemoryOperations : Prop :=
  ∀ (m : Memory) (a n v x : Nat) (b : Byte) (f : Bool),
    (m.write a n v).byte x = (if a ≤ x ∧ x < a + n then BitVec.ofNat 8 (v / 256 ^ (x - a)) else m.byte x) ∧
    (m.write a n v).read a n = v % 256 ^ n ∧
    ((m.write a n v).tag x = true ↔ m.tag x = true ∧ ¬∃ y, a ≤ y ∧ y < a + n ∧ y / 16 = x / 16) ∧
    (m.write a n v).poison = m.poison ∧
    (m.wf = true → (m.write a n v).wf = true ∧ (m.setByte a b).wf = true ∧ (m.setTag a f).wf = true ∧
      (m.setPoison a f).wf = true ∧ (m.clearCovered [(a, n)]).wf = true ∧ (m.scrub a n).wf = true)


/-! ## Vector instructions (file 06) -/

/-- R97, R151, R154, R157, R246. Every vector instruction, in the control context, with the sequencer not suspended and room for it: where the checks of acceptance pass it joins the
sequencer with its scalar operands as they stand and completes, and where they fail it traps at its own head; with the sequencer suspended it raises ILLEGAL_OPERAND with 0x810, in a
helper NOT_IN_HELPER at decode, and with no room it waits. PARK and UNPARK likewise, counting in TILE; VLOOP of a body of at most the window's length and without them is queued
for its count of passes and empties the window. -/
def Obligations.SequencerAccepts : Prop :=
  (∀ (s : State) (d a b c tag : BitVec 5) (rm m q st : BitVec 3) (pr : BitVec 4) (mode : BitVec 2) (cls k : BitVec 10),
    ∀ p ∈ vectorForms d a b c tag rm m q st pr mode cls k,
      let e := s.seqEntry p.1 (s.g p.2.1) (s.g p.2.2)
      (s.helper = false → s.myCore.vsqSusp = false → s.myCore.acceptReady p.1 = true →
        ∃ v, vop e = some v ∧
          (s.acceptChecks v e p.2.1 = .ok () → exec p.1 s = .next (s.modMyCore (·.push e)).advance) ∧
          ∀ t, s.acceptChecks v e p.2.1 = .error t → exec p.1 s = .next (s.takeTrap s.cur t)) ∧
      (s.helper = false → s.myCore.vsqSusp = false → s.myCore.acceptReady p.1 = false →
        exec p.1 s = .next (s.setCtx s.cur { s.me with waiting := true, gpos := 0 })) ∧
      (s.helper = false → s.myCore.vsqSusp = true → ∃ prog, exec p.1 s = .next (s.takeTrap s.cur ⟨0x03, s.me.pc, 0x810, prog⟩)) ∧
      (s.helper = true → ∃ prog, exec p.1 s = .next (s.takeTrap s.cur ⟨0x06, s.me.ghead, s.me.ir, prog⟩))) ∧
  ∀ (s : State) (x : BitVec 6) (a b k : BitVec 5) (rb : BitVec 10) (u : BitVec 1) (n : BitVec 16), s.helper = false →
    s.myCore.vsqSusp = false →
    (∀ p ∈ [(Instr.park x a b rb, true), (.unpark x a b rb, false)],
      let e := s.seqEntry p.1 (s.g a) (s.g b)
      s.myCore.acceptReady p.1 = true → s.parkChecks e p.2 (parkObject x rb) a = .ok () →
      exec p.1 s = .next ((s.modMyCore (fun c => { c.push e with parkBusy := c.parkBusy + 1 })).modMe
        (fun c => { c with cntTile := c.cntTile + 1 })).advance) ∧
    (let w := s.myCore.window
     let body := w.drop (w.length - k.toNat)
     let count := if a = 0 then n.toNat else (s.x a).toNat
     k.toNat ≤ w.length → (∀ e ∈ body, e.parks = none) → (a = 0 ∨ (s.x a).toNat < 2 ^ 32) →
      exec (.vloop u k a n) s = .next (s.modMyCore (fun c => { c with
        seq := c.seq ++ (if count = 0 then [] else [SeqItem.replay body 0 count (u == 1) false]), window := [] })).advance)

/-- R151, R152, R156, R157, R246. SEQUENCER_EXECUTE: the head entry, once the context's earlier accesses are performed, executes and
leaves the sequencer, its flags merged into the control context's; where it fails nothing of it stays but what the read of an SBIND's record leaves, the sequencer is suspended with
VSQPC its head, and the trap is deferred. VLOOP_REPLAY begins the next pass of a replay or ends it. -/
def Obligations.SequencerSteps : Prop :=
  ∀ (s : State) (core : Nat),
    let c := s.core core
    (c.vsqSusp = true → exec (.sequencerExecute core) s = .next s ∧ exec (.vloopReplay core) s = .next s) ∧
    (c.vsqSusp = false → ∀ e, c.seqHead = some e → s.mayExecute core e = true →
      (∀ u fl, s.executeEntry core e = .ok (u, fl) →
        exec (.sequencerExecute core) s = .next ((u.modCore core (fun k =>
          { k with seq := seqAfter k.seq, vsqEnded := NSet.put k.vsqEnded e.id (endedBy c k e) })).modCtx ⟨core, control⟩
            (fun x => { x with flags := x.flags ||| fl }))) ∧
      ∀ f, s.executeEntry core e = .error f →
        exec (.sequencerExecute core) s =
          .next (((s.entryRead core e).modCore core (fun k => { k with vsqSusp := true, vsqPc := e.head })).modCtx ⟨core, control⟩ (fun x =>
            { x with deferred := x.deferred ++ [⟨.vector, e.id, ⟨f.cause, 0, f.val, BitVec.ofNat 64 (3 * 2 ^ 62 + f.code)⟩⟩] }))) ∧
    (c.vsqSusp = false → ∀ body pos rem toEnd rest, c.seq = .replay body pos rem toEnd false :: rest →
      exec (.vloopReplay core) s = .next (s.modCore core (fun k => { k with
        seq := if rem = 0 ∨ (toEnd = true ∧ c.loopEnded body = true) then rest
          else .replay body pos (rem - 1) toEnd true :: rest })))


/-! ## The matrix engine (file 07) -/

/-- R185, R186, R195 to R202. Every matrix instruction whose checks pass, in the control context, the engine not suspended and no PARK or UNPARK held, joins the
engine's queue with what it captures, wakes the arrays, counts in TILE and completes; TTRANS also gives its destination the transposed
shape. -/
def Obligations.MatrixInstructionsIssue : Prop :=
  ∀ (s : State) (t x : BitVec 3) (a b fmt : BitVec 5) (rb rd nm stride : BitVec 10) (n : BitVec 6) (cq pr : BitVec 2)
    (sat cvt : BitVec 1), s.helper = false → s.myCore.mxSusp = false → s.myCore.parkBusy = 0 →
    let k := s.myCore
    let sh := tshapeOf (k.tshapeWord t.toNat)
    let tile := sh.valid = true ∧ k.copyTargets t.toNat = false
    let z := Reg.zero
    let w := s.shapeWord t
    let joins := fun (i : Instr) (op : MxOp) => exec i s = .next (s.submitMx op).advance
    (tile → wloadCheck k s.mxWho t a (s.g a) s.me.ir = .ok () → joins (.wload t a) (s.mxOp (.wload t a) w 0 (s.g a) z z)) ∧
    (tile → ∀ kind, mmaCheck s.mxWho k.latchViews.1 k.kindView sh a (s.g a) rb cq s.me.ir = .ok kind →
      joins (.mma t a rb cq) { s.mxOp (.mma t a rb cq) w 0 (s.g a) z z with kind := kind }) ∧
    (tile → ∀ kind, mmaCheck s.mxWho k.latchViews.2 k.kindView sh a (s.g a) rb cq s.me.ir = .ok kind →
      joins (.mmasw t a rb cq) { s.mxOp (.mmasw t a rb cq) w 0 (s.g a) z z with kind := kind }) ∧
    (rb.toNat + countOf nm ≤ 1024 → joins (.accz nm rb) (s.mxOp (.accz nm rb) 0 0 z z z)) ∧
    (tile → sh.sp = 0 → rb.toNat + sh.rows ≤ 1024 → 32 * cq.toNat + sh.cols ≤ 128 →
      joins (.accrd t rb cq sat pr) (s.mxOp (.accrd t rb cq sat pr) w 0 z z z) ∧
      joins (.accwr t rb cq) (s.mxOp (.accwr t rb cq) w 0 z z z)) ∧
    (rb.toNat + countOf n ≤ 1024 → rd.toNat + countOf n ≤ 1024 → joins (.acccp n rb rd) (s.mxOp (.acccp n rb rd) 0 0 z z z)) ∧
    (tile → mxRange (s.g a) a s.me.dom s.me.priv .load (moveAddr (s.g a) (s.g b)) (moveSpan sh sh.fmt stride) true s.me.ir = .ok () →
      joins (.tload t a b stride) (s.mxOp (.tload t a b stride) w 0 (s.g a) (s.g b) z)) ∧
    (tile → (cvt = 0 ∨ fmt.toNat ≤ 13) →
      mxRange (s.g a) a s.me.dom s.me.priv .store (moveAddr (s.g a) (s.g b)) (moveSpan sh (storeFmt sh cvt fmt) stride) true
        s.me.ir = .ok () →
      joins (.tstore t a b cvt fmt stride) (s.mxOp (.tstore t a b cvt fmt stride) w 0 (s.g a) (s.g b) z)) ∧
    (tile → x ≠ t → sh.sp = 0 → sh.cols ≤ 256 → sh.transposed.valid = true → k.copyTargets x.toNat = false →
      exec (.ttrans x t) s =
        .next (((s.submitMx (s.mxOp (.ttrans x t) sh.transposed.word w z z (Reg.plain (s.shapeWord x)))).modMyCore
          (fun c => { c with tshape := SMap.set c.tshape x.toNat sh.transposed.word })).advance))

/-- R185, R211, R217 to R221. Every function instruction whose checks pass (the registers it reads VALID, its operands within their limits, the
rights of its capability) joins the queue with its operands, a general destination awaits its result, and it completes. -/
def Obligations.FunctionInstructionsIssue : Prop :=
  ∀ (s : State) (d a b : BitVec 3) (e f h : BitVec 5) (n : BitVec 13) (k : BitVec 12), s.helper = false →
    s.myCore.mxSusp = false → s.myCore.parkBusy = 0 →
    let z := Reg.zero
    let valid := fun r : BitVec 3 => s.myCore.fnValid r = true
    let may := fun use => checkCapRights (s.g e) s.me.dom s.me.priv use (s.x e + s.x f) = .ok ()
    let joins := fun (i : Instr) (ra rb rc : Reg) =>
      exec i s = .next ((s.enqueueMx s.cur.core (s.mxOp i 0 0 ra rb rc)).modMe
        (fun c => c.await (s.mxOp i 0 0 ra rb rc).gdest)).advance
    (valid a → valid b →
      joins (.chadd d a b) z z z ∧ joins (.chsub d a b) z z z ∧ joins (.chmul d a b) z z z ∧ joins (.chcomp d a b) z z z) ∧
    (valid a →
      joins (.chdiff d a) z z z ∧ joins (.chint d a) z z z ∧ joins (.chmov d a) z z z ∧ joins (.chlen e a) z z z ∧
      joins (.chnorm e a) z z z ∧ joins (.chscal d a f) z (s.g f) z ∧ joins (.cheval e a f) z (s.g f) z ∧
      (s.x f ≠ 0 → joins (.chtrunc d a f) z (s.g f) z) ∧ (k.toNat ≤ 4094 → joins (.chroot e a f k) z (s.g f) z) ∧
      (may .store → joins (.chst a e f) (s.g e) (s.g f) z)) ∧
    joins (.chfree d) z z z ∧
    (2 ≤ n.toNat → n.toNat ≤ 4096 → may .load → joins (.chfit d e f n) (s.g e) (s.g f) z) ∧
    (may .load → joins (.chld d e f) (s.g e) (s.g f) z) ∧
    (domainValid (s.x e) (s.x f) = true →
      joins (.chconst d e f h) (s.g e) (s.g f) (s.g h) ∧ joins (.chx d e f) (s.g e) (s.g f) z)

/-- R186, R188, R212. A suspended engine makes every instruction of majors 0x40, 0x44 and 0x45 raise ILLEGAL_OPERAND with 0x818, and in a helper each
raises NOT_IN_HELPER at decode; with a PARK or UNPARK held each waits. -/
def Obligations.EngineInstructionsRefused : Prop :=
  ∀ (s : State) (t x d : BitVec 3) (a b c fmt : BitVec 5) (rb rd nm stride : BitVec 10) (n : BitVec 6) (cq pr : BitVec 2)
    (sat cvt : BitVec 1) (m : BitVec 13) (k : BitVec 12),
    ∀ i ∈
      [ Instr.wload t a, .mma t a rb cq, .mmasw t a rb cq, .accz nm rb, .accrd t rb cq sat pr, .accwr t rb cq, .acccp n rb rd
      , .tload t a b stride, .tstore t a b cvt fmt stride, .ttrans x t, .chadd d t x, .chsub d t x, .chmul d t x, .chcomp d t x
      , .chdiff d t, .chint d t, .chmov d t, .chfree d, .chlen a t, .chnorm a t, .chtrunc d t b, .chfit d a b m, .cheval a t b
      , .chroot a t b k, .chconst d a b c, .chx d a b, .chld d a b, .chst t a b, .chscal d t b ],
      (s.helper = true → ∃ prog, exec i s = .next (s.takeTrap s.cur ⟨0x06, s.me.ghead, s.me.ir, prog⟩)) ∧
      (s.helper = false → s.myCore.mxSusp = true → ∃ prog, prog.setWidth 8 = (0 : BitVec 8) ∧
        exec i s = .next (s.takeTrap s.cur ⟨0x03, s.me.pc, 0x818, prog⟩)) ∧
      (s.helper = false → s.myCore.mxSusp = false → s.myCore.parkBusy ≠ 0 →
        exec i s = .next (s.setCtx s.cur { s.me with waiting := true, gpos := 0 }))

/-- R25, R187 to R191, R213. The engine's steps: the oldest operation starts when it may; the operation at the head completes, its result in place,
its flags pending (matrix) or merged (function), and leaves the queue; a failing one suspends the engine with a deferred trap; the
arrays of a cluster wake and sleep, and an operation that still waits there asks for them again (the model's reading, log 79). -/
def Obligations.EngineSteps : Prop :=
  ∀ (s : State) (core cl : Nat),
    (s.mayStartMx core = true → exec (.matrixOpStart core) s = .next (s.modCore core (fun c => { c with mxq := startFirst c.mxq }))) ∧
    (∀ op rest, (s.core core).mxq = op :: rest → op.started = true →
      (op.isMatrix = true → (∀ u f, s.runMatrix core op = .ok (u, f) →
        exec (.matrixOpComplete core) s = .next (((u.retireMx core).modCtx ⟨core, control⟩
          (fun x => { x with mxFlags := x.mxFlags ||| f })).modCluster (core / 8) (fun k => { k with lastMatrix := s.cycle.toNat }))) ∧
        ∀ e, s.runMatrix core op = .error e → exec (.matrixOpComplete core) s = .next (s.failMx core op e false)) ∧
      (op.isMatrix = false → (∀ u f, s.runFunction core op = .ok (u, f) →
        exec (.functionOpComplete core) s = .next ((u.retireMx core).modCtx ⟨core, control⟩
          (fun x => { x with flags := x.flags ||| f }))) ∧
        ∀ e, s.runFunction core op = .error e →
          exec (.functionOpComplete core) s = .next (s.failMx core op ⟨e.cause, e.val⟩ e.buffer))) ∧
    (∀ t, (s.cluster cl).wakeAt = some t → t + 16 * cl ≤ s.cycle.toNat →
      exec (.arrayWake cl) s = .next (s.modCluster cl (fun c => { c with
        awake := true, wakeAt := none, lastMatrix := s.cycle.toNat }))) ∧
    ((s.cluster cl).awake = true → s.clusterBusy cl = false → (s.cluster cl).lastMatrix + 65536 ≤ s.cycle.toNat →
      exec (.arraySleep cl) s = .next ((List.range 8).foldl (fun t i => t.wakeForQueue (8 * cl + i))
        (s.modCluster cl (fun c => { c with awake := false }))))


/-! ## Copies and the cluster (files 09, 11) -/

/-- R237 to R244. A copy whose checks pass, in the control context, with room in the lock tables and fewer than fifteen copies counted, registers its locks, joins the
copy queue, counts in COPY and completes; a suspended engine is ILLEGAL_OPERAND with 0x830. A queued copy starts when it may; a running one completes when every
element is copied, or fails with the engine suspended and a deferred trap. A CPYM with FN = 1 that completes issues its follow-on MMA or MMASW: it joins the matrix
queue after the operations there, under the next issue number, with the CPYM's tile, shape, bias register, row, quarter and own head and word, and counts in TILE;
where the engine is suspended it fails there with 0x818 (R203, R243; that it makes its other checks at the queue's head is the model's choice, log 80). -/
def Obligations.CopiesIssueAndRun : Prop :=
  (∀ (s : State) (ui : BitVec 1) (t : BitVec 3) (a b : BitVec 5) (sr dr : BitVec 16) (rb : BitVec 10) (cq : BitVec 2) (sw : BitVec 1),
    s.helper = false →
    let tiled := fun p => { s.newCopy 1 ui a b p with
      tile := t.toNat, tshape := s.shapeWord t, rb := rb.toNat, cq := cq.toNat, sw := sw == 1 }
    ∀ x ∈ [(Instr.cpy ui a b sr dr, s.copyChecks a b sr dr, s.newCopy 0 ui a b)
      , (.cpyq ui a b sr dr, s.copyChecks a b sr dr, s.newCopy 2 ui a b)
      , (.cpym ui t a b sr rb cq sw, s.copyTileChecks t a b sr (sw == 1), tiled)],
      (s.myCore.cpSusp = false → ∀ u p, x.2.1 = .ok (u, p) → s.lockSpace s.cur.core p = true → s.me.cntCopy < 15 →
        exec x.1 s = .next (((u.registerLocks s.cur.core (x.2.2 p).seq s.me.dom p).modMyCore (fun k =>
          { k with copies := k.copies ++ [x.2.2 p], cpIssued := k.cpIssued + 1 })).modMe
            (fun c => { c with cntCopy := c.cntCopy + 1 })).advance) ∧
      (s.myCore.cpSusp = true → ∃ prog, exec x.1 s = .next (s.takeTrap s.cur ⟨0x03, s.me.pc, 0x830, prog⟩))) ∧
  ∀ (s : State) (core n : Nat) (c : Copy),
    ((s.core core).nextCopy = some c → s.mayStartCopy core c = true →
      ∃ t, exec (.copyStart core) s = .next t ∧ t.main = s.main ∧
        ∀ x ∈ (t.core core).copies, x.seq = c.seq → x.started = true) ∧
    ((s.core core).running n = some c →
      (∀ u c', s.copyElements core c (c.count - c.done) = (u, c', none) → c'.fn ≠ 1 →
        exec (.copyComplete core n) s =
          .next ((u.retireCopy core n).modCtx ⟨core, control⟩ (·.copyDone c'))) ∧
      (∀ u c', s.copyElements core c (c.count - c.done) = (u, c', none) → c'.fn = 1 →
        let tile := BitVec.ofNat 3 c'.tile
        let rb := BitVec.ofNat 10 c'.rb
        let cq := BitVec.ofNat 2 c'.cq
        ∃ t op, exec (.copyComplete core n) s = .next t ∧ (t.core core).mxq = (s.core core).mxq ++ [op] ∧
          op.instr = (if c'.sw then .mmasw tile c'.breg rb cq else .mma tile c'.breg rb cq) ∧ op.follow = true ∧
          op.seq = (s.core core).mxIssued.toNat ∧ (t.core core).mxIssued = (s.core core).mxIssued + 1 ∧
          op.shapeX = c'.tshape ∧ op.a = c'.dst ∧ op.head = c'.head ∧ op.word = c'.word ∧ op.dom = c'.dom ∧
          (t.ctx ⟨core, control⟩).cntTile = (s.ctx ⟨core, control⟩).cntTile + 1 ∧
          (t.ctx ⟨core, control⟩).cntCopy = (s.ctx ⟨core, control⟩).cntCopy - 1 ∧ (t.core core).cpDone = (s.core core).cpDone + 1 ∧
          ((s.core core).mxSusp = true → ∃ d ∈ (t.ctx ⟨core, control⟩).deferred, d.cls = .matrix ∧ d.seq = op.seq ∧ d.trap.cause = 0x03 ∧
            d.trap.val = 0x818)) ∧
      ∀ u c' f, s.copyElements core c (c.count - c.done) = (u, c', some f) →
        ∃ t, exec (.copyFail core n) s = .next t ∧ (t.core core).cpSusp = true ∧
          ∃ d ∈ (t.ctx ⟨core, control⟩).deferred, d.cls = .copy ∧ d.trap.cause = f.cause ∧ d.trap.val = f.val)

/-- R263 to R271. The cluster's instructions: EVSIG adds to its event line once the context's accesses are performed; EVWAIT takes its number from a line that
nobody waits on and that holds enough, and else joins its queue; CBAR arrives in the open episode, or opens one, and the last arrival lets everyone go. IGATHER and
ISCATTER whose checks pass and whose ranges lie in the core's own memories register their locks, join the posts, and count in COPY. The
posts start, four at a time, and complete or fail. -/
def Obligations.ClusterInstructions : Prop :=
  (∀ (s : State) (ev : BitVec 4) (a : BitVec 5),
    let cl := s.cur.core / 8
    let m := if a = 0 then 1 else (s.x a).toNat
    let l := (s.cluster cl).line ev.toNat
    (m ≤ 65535 → exec (.evsig ev a) s = .next (if s.me.accessesPending then s.hold else s.advance.eventAdd cl ev.toNat m)) ∧
    (1 ≤ m → m ≤ 65535 → l.waiters = [] → m ≤ l.count →
      exec (.evwait ev a) s = .next (s.modCluster cl (fun k => k.setLine ev.toNat { l with count := l.count - m })).advance) ∧
    (1 ≤ m → m ≤ 65535 → (∀ w ∈ l.waiters, w.1 ≠ s.cur) → (l.waiters ≠ [] ∨ l.count < m) →
      exec (.evwait ev a) s =
        .next (s.modCluster cl (fun k => k.setLine ev.toNat { l with waiters := l.waiters ++ [(s.cur, m)] })).hold) ∧
    (let mask := if a = 0 then 0xFF else s.x a
     mask.toNat < 256 → mask.getLsbD (s.cur.core % 8) = true →
      ((s.cluster cl).cbOpen = false ∨ (s.cluster cl).cbMask = mask.setWidth 8) → s.me.writesPending = false →
      s.arrival = none →
      exec (.cbar a) s = .next ((s.keep (.cbar false)).cbarArrive s.cur.core (mask.setWidth 8)).cbarWait) ∧
    (s.arrival = some (.cbar true) → exec (.cbar a) s = .next s.dropArrival.advance)) ∧
  (∀ (s : State) (wide : BitVec 1) (ev : BitVec 4) (t ix n p : BitVec 5) (ru : BitVec 10) (sc : Bool),
    let rb := if ru = 0 then 16384 else 16 * ru.toNat
    let k := s.newPost sc wide ev t ix n p rb
    let i : Instr := if sc then .iscatter wide ev t ix n p ru else .igather wide ev t ix n p ru
    1 ≤ k.n → k.n ≤ 65535 → s.postRights t (if sc then .store else .load) = .ok () → s.postRights ix .load = .ok () →
    s.postRights p (if sc then .load else .store) = .ok () → s.postBounds ix (k.es * k.n) = .ok () →
    s.postBounds p (rb * k.n) = .ok () →
    (s.x ix).toNat % k.es = 0 → (s.x p).toNat % 16 = 0 → (s.x t).toNat % 16 = 0 →
    ∀ ir pr, ownRange s.cur.core (s.x ix) (k.es * k.n) true = some ir → ownRange s.cur.core (s.x p) (rb * k.n) false = some pr →
    s.me.cntCopy < 15 → s.postSpace s.cur.core (k.spans ir pr) = true →
      exec i s = .next (((s.registerPost s.cur.core k (k.spans ir pr)).modCluster (s.cur.core / 8) (fun c =>
        { c with posts := c.posts ++ [k], postNext := c.postNext + 1 })).modMe (fun x => { x with cntCopy := x.cntCopy + 1 })).advance) ∧
  ∀ (s : State) (cl num : Nat) (p : Post),
    ((s.cluster cl).posts.find? (fun x => !x.started) = some p → ((s.cluster cl).posts.filter (·.started)).length < 4 →
      exec (.indirectPostStart cl) s = .next (s.modCluster cl (fun k => k.setPost { p with started := true }))) ∧
    ((s.cluster cl).runningPost num = some p →
      (∀ u q, s.postRows p (p.n - p.done) = (u, q, none) → u.postOrdered q = true →
        exec (.indirectPostComplete cl num) s = .next (u.retirePost cl q)) ∧
      ∀ u q c v, s.postRows p (p.n - p.done) = (u, q, some (.failed c v)) → u.postOrdered q = true →
        exec (.indirectPostFail cl num) s =
          .next ((u.retirePost cl q).deferOwner p.ctx p.uid ⟨.post, num, ⟨c, 0, v, q.prog⟩⟩))

/-! ## The format walker (file 11) -/

/-- R277. The walker's register instructions and branches: each writes its value to w[D], or goes on by the immediate where its
condition holds and to the next word where not, and counts one step; nothing else of the machine changes. -/
def Obligations.WalkerRegisterInstructions : Prop :=
  ∀ (s : State) (d a b : BitVec 4) (i : BitVec 14) (j : BitVec 18),
    let x := s.w a
    let y := s.w b
    let n := y.toNat % 64
    let y' := i.signExtend 64
    let fp := fun v : Word => (widthFmt 0).value (v.toNat % 2 ^ 32)
    let puts := fun (v : Word) => State.walkNext (s.modWk (fun t => { t with regs := SMap.set t.regs d.toNat v }))
    let goes := fun (t : Bool) => s.modWk (fun k => { k with
      pc := k.pc + (if t then i.toInt else 1), last := k.pc, steps := k.steps + 1 })
    exec .wnop s = .next s.walkNext ∧
    (∀ p ∈
      [ (Instr.wadd d a b, x + y), (.wsub d a b, x - y), (.wand d a b, x &&& y), (.wor d a b, x ||| y), (.wxor d a b, x ^^^ y)
      , (.wshl d a b, x <<< n), (.wshr d a b, x >>> n), (.waddi d a i, x + y'), (.wmuli d a i, x * y'), (.wldi d j, j.signExtend 64)
      , (.wflt d a b, if !(fp x).isNaN && !(fp y).isNaN && (fp x).lt (fp y) then 1 else 0)
      , (.wfle d a b, if !(fp x).isNaN && !(fp y).isNaN && ((fp x).lt (fp y) || (fp x).eq (fp y)) then 1 else 0) ],
      exec p.1 s = .next (puts p.2)) ∧
    ∀ p ∈ [(Instr.wbeq a b i, decide (x = y)), (.wbne a b i, decide (x ≠ y)), (.wbltu a b i, decide (x.toNat < y.toNat)), (.wj i, true)],
      exec p.1 s = .next (goes p.2)

/-- R277 to R281. The walker's memory, row, digest and end instructions where their accesses and operands pass: loads and stores of 1 to 8
bytes through a window, a granule written whole losing its mark, WZROW, WRINS and WEMIT on the row buffer, WDINIT, WDABS and WDFIN on the digest, WSIG, WEND. An access that fails makes the thread FAULTED with its cause and adds 1 to its fault line; so does the
step past its limit. The digest unit compresses a block for the thread at the head of its queue. -/
def Obligations.WalkerMemoryAndDigest : Prop :=
  (∀ (s : State) (d a : BitVec 4) (c sn : BitVec 2) (i : BitVec 14) (e : BitVec 4),
    let addr := (s.thread.win.getD c.toNat Reg.zero).word + s.w a + i.signExtend 64
    let puts := fun (u : State) (ls : List Loc) (v : Nat) => (u.putBytes ls v).clearCovered (ls.map (fun l => (l, 1)))
    (∀ p ∈ [(Instr.wldB d a c i, 1), (.wldH d a c i, 2), (.wldW d a c i, 4), (.wldD d a c i, 8)],
      (∀ u ls, s.walkAccess c addr p.2 false = .ok (u, ls) →
        exec p.1 s = .next (State.walkNext (u.modWk (fun t => { t with regs := SMap.set t.regs d.toNat (BitVec.ofNat 64 (u.bytesAt ls)) })))) ∧
      ∀ u f, s.walkAccess c addr p.2 false = .error (u, f) → exec p.1 s = .next (u.walkFault f.cause f.val)) ∧
    (∀ p ∈ [(Instr.wstB d a c i, 1), (.wstH d a c i, 2), (.wstW d a c i, 4), (.wstD d a c i, 8)],
      (∀ u ls, s.walkAccess c addr p.2 true = .ok (u, ls) → exec p.1 s = .next (puts u ls (s.w d).toNat).walkNext) ∧
      ∀ u f, s.walkAccess c addr p.2 true = .error (u, f) → exec p.1 s = .next (u.walkFault f.cause f.val)) ∧
    exec .wzrow s = .next (State.walkNext (s.modWk (fun t => { t with row := 0 }))) ∧
    (let o := (s.w a + i.signExtend 64).toNat
     o % 2 ^ sn.toNat = 0 → o + 2 ^ sn.toNat ≤ 256 →
      exec (.wrins d a sn i) s = .next (State.walkNext (s.modWk (fun t => { t with row := putRow t.row o (2 ^ sn.toNat) (s.w d).toNat })))) ∧
    (1 ≤ i.toInt → i.toInt ≤ 256 →
      ∀ u ls, s.walkAccess c ((s.thread.win.getD c.toNat Reg.zero).word + s.w a) i.toInt.toNat true = .ok (u, ls) →
        exec (.wemit a c i) s = .next (puts u ls s.thread.row.toNat).walkNext) ∧
    exec .wdinit s = .next (State.walkNext (s.modWk (fun t => { t with digest := some ⟨shaInit, [], 0, false⟩ }))) ∧
    (∀ g, s.thread.digest = some g → g.msg.length < 120 →
      exec (.wdabs a) s = .next (State.walkNext (s.modWk (fun t => { t with
        digest := some { g with msg := g.msg ++ bytesOfNum 8 (s.w a).toNat, len := g.len + 8 } })))) ∧
    (∀ g u ls, s.thread.digest = some g → g.padded = true → g.msg.length < 128 → s.walkAccess c addr 64 true = .ok (u, ls) →
      exec (.wdfin a c i) s = .next (State.walkNext ((puts u ls (numOfBytes (g.h.flatMap bytesOfWord))).modWk
        (fun t => { t with digest := none })))) ∧
    exec (.wsig e) s = .next (s.walkNext.eventAdd s.wk.1 e.toNat 1) ∧
    exec (.wend a) s = .next (s.modWk (fun t => { t with
      pc := t.pc, last := t.pc, steps := t.steps + 1, state := .ended, exitVal := s.w a }))) ∧
  ∀ (s : State) (cl th : Nat),
    (((s.cluster cl).thread th).state = .run → ((s.cluster cl).thread th).limit ≠ 0 →
      ((s.cluster cl).thread th).limit ≤ ((s.cluster cl).thread th).steps →
      ∃ v, exec (.walkStepLimit cl th) s = .next (s.walkFaultOf cl th 0x40 v)) ∧
    ∀ qs g, (s.cluster cl).digestQ = th :: qs → ((s.cluster cl).thread th).digest = some g → 128 ≤ g.msg.length →
      ∃ t, exec (.digestBlockCompress cl th) s = .next t ∧
        ((t.cluster cl).thread th).digest = some { g with h := shaCompress g.h (g.msg.take 128), msg := g.msg.drop 128 }

/-- R273 to R275. WKSTART of a readable WALK record and code, with four window registers that pass their checks, starts the lowest FREE thread of the cluster and gives
its number; with none FREE it gives 2^64 - 1. WKSTAT reads a field of a thread of the same domain, 0 of another's, and with REL frees
one that has ended. -/
def Obligations.WalkerStartAndStatus : Prop :=
  ∀ (s : State) (d a b : BitVec 5) (obj : BitVec 16) (sel : BitVec 2) (rel : BitVec 1),
    let cl := s.cur.core / 8
    (1 ≤ a.toNat → a.toNat ≤ 28 → ∀ u r code, s.walkProgram obj = .ok (u, r, code) →
      (∀ k ∈ [a, a + 1, a + 2, a + 3], s.checkWindow k = .ok ()) →
      ((u.cluster cl).freeThread = none → exec (.wkstart d a b obj) s = .next (u.setX d 0xFFFFFFFFFFFFFFFF).advance) ∧
      ∀ j k words, (u.cluster cl).freeThread = some j →
        (u.cluster cl).loadProgram (BitVec.ofNat 64 (recBits r 64 64)) (s.who s.cur) code = some (k, words) →
        exec (.wkstart d a b obj) s =
          .next ((u.modCluster cl (fun _ => (k.dropDigest j).setThread j (s.newThread a b r words))).setX d (BitVec.ofNat 64 j)).advance) ∧
    ((s.x a).toNat ≤ 7 → sel ≠ 3 →
      let t := (s.cluster cl).thread (s.x a).toNat
      (t.who.dom ≠ s.me.dom → exec (.wkstat d a sel rel) s = .next (s.setX d 0).advance) ∧
      (t.who.dom = s.me.dom → (rel = 0 ∨ t.state = .free ∨ t.state = .run) →
        exec (.wkstat d a sel rel) s = .next (s.setX d (t.field sel.toNat)).advance) ∧
      (t.who.dom = s.me.dom → rel = 1 → (t.state = .ended ∨ t.state = .faulted) →
        exec (.wkstat d a sel rel) s =
          .next ((s.modCluster cl (fun k => (k.dropDigest (s.x a).toNat).setThread (s.x a).toNat Thread.reset)).setX d
            (t.field sel.toNat)).advance))


/-! ## Control registers (files 01, 04 and others) -/

/-- R18, R24, R108. MOVFC and MOVTC of an assigned register that the mode and the context may name, and the rows of the opcode table that are
reads and writes of one register: a read writes g[D], a write of a value that the register accepts changes it, each once it need not wait;
a value that it refuses is ILLEGAL_OPERAND with the value, a privileged number in user mode PRIV, an unassigned number ILLEGAL_OPERAND with the
number. A write of RND waits for the control context's earlier vector instructions, those that a suspended sequencer holds among them (the model's reading,
log 99). Registers without behaviour of their own read back what was written, in their assigned bits; read-only ones ignore a write. -/
def Obligations.ControlRegisters : Prop :=
  (∀ (s : State) (d a : BitVec 5) (n : BitVec 12),
    (∀ r, cregOf n.toNat = some r → (n.toNat < 0x800 ∨ s.me.priv = true) →
      ((s.helper = false ∨ r.helperReads = true) → s.readReady r = true →
        exec (.movfc d n) s = .next (s.setX d (s.readReg r)).advance) ∧
      ((s.helper = false ∨ r.helperWrites = true) → s.writeLegal r (s.x a) = true → r ≠ .xlinv → s.writeReady r = true →
        exec (.movtc a n) s = .next (s.advance.writeReg r (s.x a))) ∧
      ((s.helper = false ∨ r.helperWrites = true) → s.writeLegal r (s.x a) = false →
        ∃ prog, exec (.movtc a n) s = .next (s.takeTrap s.cur ⟨0x03, s.me.pc, s.x a, prog⟩))) ∧
    (0x800 ≤ n.toNat → s.me.priv = false → ∀ i ∈ [Instr.movfc d n, .movtc a n],
      ∃ prog, exec i s = .next (s.takeTrap s.cur ⟨0x05, s.me.ghead, s.me.ir, prog⟩)) ∧
    (cregOf n.toNat = none → (n.toNat < 0x800 ∨ s.me.priv = true) → ∀ i ∈ [Instr.movfc d n, .movtc a n],
      ∃ prog, exec i s = .next (s.takeTrap s.cur ⟨0x03, s.me.pc, BitVec.ofNat 64 n.toNat, prog⟩))) ∧
  (∀ (s : State) (v : BitVec 64),
    let rows : List (Instr × Creg × Word) :=
      [ (.vsqctlDiscard, .vsqctl, 1), (.mxctlDiscard, .mxctl, 1), (.cpctlDiscard, .cpctl, 1), (.domainWrite v, .domain, v)
      , (.dtermClear v, .dterm, v), (.vdctlRst v, .vdctl, v ||| 2), (.vdirq v, .vdirq, v) ]
    (∀ p ∈ rows,
      (s.me.priv = true → s.writeLegal p.2.1 p.2.2 = true → s.writeReady p.2.1 = true →
        exec p.1 s = .next (s.advance.writeReg p.2.1 p.2.2)) ∧
      (s.me.priv = true → s.writeLegal p.2.1 p.2.2 = false →
        ∃ prog, exec p.1 s = .next (s.takeTrap s.cur ⟨0x03, s.me.pc, p.2.2, prog⟩)) ∧
      (s.me.priv = false → ∃ prog, exec p.1 s = .next (s.takeTrap s.cur ⟨0x05, s.me.ghead, s.me.ir, prog⟩))) ∧
    ((s.writeReg .vsqctl 1).myCore.seq = [] ∧ (s.writeReg .vsqctl 1).myCore.vsqSusp = false ∧
      (s.myCore.mxSusp = true → (s.writeReg .mxctl 1).myCore.mxq = [] ∧ (s.writeReg .mxctl 1).myCore.mxSusp = false) ∧
      (s.writeReg .cpctl 1).myCore.cpSusp = false)) ∧
  (∀ (s : State) (d : BitVec 5) (v : BitVec 64),
    (s.helper = true ∨ s.myCore.seq = [] → exec (.rndWrite v) s = .next (s.advance.writeReg .rnd v)) ∧
    (s.helper = false → s.myCore.seq ≠ [] → exec (.rndWrite v) s = .next s.hold) ∧
    (s.flagsReady = true → exec (.flagsWrite v) s = .next (s.advance.writeReg .flags v)) ∧
    (s.flagsReady = true → exec (.flagsRead d) s = .next (s.setX d (s.me.flags.setWidth 64)).advance) ∧
    (s.helper = false → tolLegal v = true → exec (.fntolWrite v) s = .next (s.advance.writeReg .fntol v)) ∧
    (s.helper = false → s.myCore.functionsDone = true → exec (.fnstatRead d) s = .next (s.setX d s.myCore.fnstat).advance) ∧
    (∀ p ∈ [(Instr.xlinvPage v, xlinvKind v 0), (.xlinvDomain v, xlinvKind v 1), (.xlinvAll v, xlinvKind v 2)],
      s.me.priv = true → xlinvLegal p.2 = true → s.me.writesPending = false → s.entriesUnused p.2 = true →
        exec p.1 s = .next (s.invalidate p.2).advance)) ∧
  ∀ (s : State) (v : Word),
    (∀ r ∈ [Creg.trappc, .trapval, .trapprog, .tvec, .estatus, .fntol, .prvec], (s.writeReg r v).readReg r = v) ∧
    (∀ p ∈ [(Creg.flags, (0x1F : Word)), (.rnd, 3), (.trapcause, 0xFF), (.xlbase, 0xFFFFFFFF0001), (.savebase, 0xFFFFFFFFFFFFF000)
      , (.livebase, 0xFFFFFFFFFFFFFFF8), (.otbase, 0x7FFFFFFFFFFFC0), (.jobbase, 0x7FFFFFFFFFFFC0), (.frbase, 0x7FFFFFFFFC0000)
      , (.lnctl, 0x8F), (.lnbase, 0xFFFFFFFF8000), (.grpbase, 0xFFFFFFFFFFC0), (.hrbase, 0xFFFFFFFFFE00)],
      (s.writeReg p.1 v).readReg p.1 = v &&& p.2) ∧
    ∀ r ∈ [Creg.cycle, .stepcyc, .budget, .deadline, .cnts, .parkstat, .fnstat, .scopegen, .cpseq, .mxseq, .ageing, .vsqpc, .vsqrem
      , .cpprog, .clstat, .memsize, .dfence, .lnstat, .portstat], s.writeReg r v = s

/-! ## Images of contexts and what reaches a context (files 10, 12, 17) -/

/-- R70, R109, R249 to R255, R357. SAVECTX and RESTCTX of a context suspended on a pre-empted core, whose capability covers the image: SAVECTX
writes the units of the selected classes and completes; RESTCTX reads them and applies them, once the head that they hold passes R70 (that it is checked
here is the model's reading, log 84); where a unit fails each traps with that unit's cause and TRAPVAL, the units before it done, and goes on from there after
ERET. A core that may be pre-empted, outbid, enters its resident handler; a launch item starts; deposits, spilled
deposits, replies and refusals reach a context as they come. The layout of an entry of the spill buffer is the model's choice (log 25), and that an entry
keeps the domain of the context it is for its reading (log 93). -/
def Obligations.ContextImages : Prop :=
  (∀ (s : State) (x : BitVec 4) (a : BitVec 5) (cls : BitVec 8) (k : Ctx), s.me.priv = true → s.myCore.preempted = true →
    SMap.find s.myCore.suspended x.toNat = some k →
    let n := if x.toNat = 15 then 0xC8280 else 0x4000
    let live := if cls.getLsbD 7 then s.liveAt s.cur.core k.pc else Live.all
    let k0 := s.me.unitsDone
    let saves := unitsOf (s.areas s.cur.core x.toNat k cls live (s.imageSeed (s.x a) k k0)) cls
    let loads := unitsOf (s.areas s.cur.core x.toNat k cls Live.all s.freeN) cls
    (checkCap (s.g a) s.me.dom true .store (s.x a) n 1 = .ok () →
      (∀ u, s.putUnits (s.x a) (live.skips k cls) k0 (saves.drop k0) = (u, none) →
        ∃ t, exec (.savectx x a cls) s = .next t ∧ t.me.pc = s.me.nextHead s.me.pc ∧ t.main = u.main ∧
          (cls.getLsbD 0 = true →
            SMap.find t.myCore.suspended x.toNat = some { k with saved := some (s.x a), heldLive := k.pendingRegs })) ∧
      ∀ u j f, s.putUnits (s.x a) (live.skips k cls) k0 (saves.drop k0) = (u, some (j, f)) →
        ∃ (t : State) (prog : BitVec 64), prog.toNat % 2 ^ 33 = 2 ^ 32 + j % 2 ^ 32 ∧ t.main = u.main ∧
          exec (.savectx x a cls) s = .next (t.takeTrap s.cur ⟨f.cause, s.me.pc, f.val, prog⟩)) ∧
    (checkCap (s.g a) s.me.dom true .load (s.x a) n 1 = .ok () →
      ∀ u r stop, s.getUnits (s.x a) k0 (loads.drop k0) [] = (u, r, stop) →
        let img := overlay loads k0 r
        let pc := BitVec.ofNat 64 (part img 0 8)
        let status := BitVec.ofNat 64 (part img 8 8)
        let head := if cls.getLsbD 6 ∧ k0 = 0 ∧ r ≠ [] then u.checkImagePc k pc status else .ok ()
        (∀ f, head = .error f → ∃ prog, exec (.restctx x a cls) s = .next ((u.imagePcTouched k pc status).takeTrap s.cur ⟨f.cause, s.me.pc, f.val, prog⟩)) ∧
        (head = .ok () →
          let v := if cls.getLsbD 6 ∧ k0 = 0 ∧ r ≠ [] then u.imagePcTouched k pc status else u
          (stop = none → exec (.restctx x a cls) s = .next (v.applyImage x.toNat k (s.x a) loads k0 r cls true).advance) ∧
          ∀ j f, stop = some (j, f) → ∃ prog, prog.toNat % 2 ^ 33 = 2 ^ 32 + j % 2 ^ 32 ∧ exec (.restctx x a cls) s =
            .next ((v.applyImage x.toNat k (s.x a) loads k0 r cls false).takeTrap s.cur ⟨f.cause, s.me.pc, f.val, prog⟩)))) ∧
  (∀ (s : State) (core : Nat), s.preemptible core = true → s.outbid core = true →
    ∃ t, exec (.preemption core) s = .next t ∧ (t.core core).preempted = true ∧ (t.core core).runningSlice = none ∧
      (t.core core).mxq = [] ∧ (t.core core).copies = [] ∧ (t.core core).seq = []) ∧
  (∀ (s : State) (core : Nat) (it : LaunchItem), (s.core core).nextItem = some it → s.mayStartItem core it = true →
    exec (.launchItemStart core) s = .next ((s.modCore core (·.dequeue it)).startItem core it)) ∧
  ∀ (s : State) (c : CtxId) (k : Nat) (v : BitVec 64) (cause : BitVec 8),
    let m := (s.ctx c).mbox
    ((s.ctx c).life = .live → (s.ctx c).gpos = 0 → m.getLsbD 5 = true → m.toNat % 32 ≠ 0 → m.getLsbD 6 = false →
      (∃ t, exec (.mailboxDeposit c v) s = .next t ∧ (t.ctx c).mbox = m ||| 0x40 ∧ (t.ctx c).mbp = ((s.ctx c).mbp || m.getLsbD 7)) ∧
      ∀ w d ws, (s.ctx c).spill = (w, d) :: ws → (s.core c.core).preempted = false →
        ∃ t, exec (.spillDelivery c) s = .next t ∧ (t.ctx c).mbox = m ||| 0x40 ∧ (t.ctx c).spill = ws) ∧
    (let outs := (s.core c.core).outs c.slot
     (∀ x j op addr key, pendingAt outs k = some (x, j, op) → op.home = .remote addr key → op.kind.reads = true →
      op.kind.isUnit = false → s.sentOut x.uid op = true →
      exec (.rucksackDelivery c k v) s = .next (s.rucksackReply c x op j (v.setWidth 128))) ∧
     ∀ x rest u, pendingAt outs k = none → outs.drop (k - (outs.map (·.pend.length)).foldl (· + ·) 0) = x :: rest →
      x.spill.length < 64 → s.rucksackWrite c.core x (0x3000 + 32 * x.spill.length) 32 (spillImage [(v, x.dom)]) = some u →
      exec (.rucksackDelivery c k v) s = .next (u.modOwner c x.uid (fun y => { y with spill := y.spill ++ [(v, x.dom)] }))) ∧
    ∀ x op rest addr key, s.addressee c k = some x → x.pend.drop k = op :: rest → op.home = .remote addr key →
      op.isAccess = true → op.kind.isUnit = false → s.sentOut x.uid op = true →
      exec (.remoteRefusal c k cause) s = .next (s.refuseOwner c x k op cause addr)

/-! ## The Hamper (file 13) -/

/-- R315 to R318, R377. The node instructions. NSUBMIT waits for the context's earlier accesses; then a readable descriptor in order makes the lowest FREE
entry a HELD node, READY at once with ARM, and it replies the node's handle; with none FREE, all ones. In a terminated domain its submission fails (R377): that it
then replies all ones is the model's reading. That a node instruction has its effect when it executes, ahead of its reply, is its reading too (log 40). NARM arms a HELD node of
the domain. NARM with an edge replies 0 with the edge made or its predecessor done, 1 with the edge store full, 2 with a predecessor that
failed. NDONE completes a READY SIGNAL node or marks a WAITING one. NDONE.q reads an entry. A handle out of order is ILLEGAL_OPERAND with the handle. -/
def Obligations.NodeInstructions : Prop :=
  ∀ (s : State) (d a b : BitVec 5) (o : BitVec 1),
    let die := s.cur.core / 80
    let h := s.x a
    let p := s.x b
    (s.me.pend ≠ [] → exec (.nsubmit d a o) s = .next s.hold) ∧
    (∀ u l, checkCapRights (s.g a) s.me.dom s.me.priv .load h = .ok () → (s.g a).covers h.toNat 128 = true → h.toNat % 16 = 0 →
      s.readGranules (s.who s.cur) h (s.g a).permLC 8 = .ok (u, l) →
      (∀ k, s.me.pend = [] → badDescriptor l = some k →
        ∃ prog, exec (.nsubmit d a o) s = .next (u.takeTrap s.cur ⟨0x03, s.me.pc, h + BitVec.ofNat 64 (8 * k), prog⟩)) ∧
      (badDescriptor l = none → s.me.pend = [] →
        (s.terminated s.me.dom = true ∨ (u.die die).firstFree = none →
          exec (.nsubmit d a o) s = .next (u.awaitReply d 0xFFFFFFFFFFFFFFFF)) ∧
        ∀ i, s.terminated s.me.dom = false → (u.die die).firstFree = some i →
          let old := (u.die die).node i
          let n := s.newNode l old.gen old.last
          let n1 := if o = 1 then n.enterReady (u.die die).age s.cycle.toNat else n
          exec (.nsubmit d a o) s = .next (State.awaitReply ((u.modNode die i (fun _ => n1)).modJob s.myCore.job
            (fun j => j.countItem n.graph n.phase true)) d (nodeHandle die old.gen i)))) ∧
    (∀ i ∈ [Instr.narm a, .ndone a, .ndoneQ d a o], s.handleLegal h = false →
      ∃ prog, exec i s = .next (s.takeTrap s.cur ⟨0x03, s.me.pc, h, prog⟩)) ∧
    (s.handleLegal h = true → s.handleState h = .current → s.handleForeign h = false → s.me.pend = [] →
      ((s.handleNode h).state = .held →
        exec (.narm a) s = .next (s.modHandle h (·.armed (s.die die).age s.cycle.toNat)).awaitAck) ∧
      ((s.handleNode h).signal = true → (s.handleNode h).state ≠ .held →
        exec (.ndone a) s = .next (s.signalNode h).awaitAck)) ∧
    (s.edgeChecks h p = .ok () → s.me.pend = [] →
      (s.handleState p = .behind .done → exec (.narmEdge d a b) s = .next (s.setX d 0).awaitAck) ∧
      ((s.handleState p = .behind .lost ∨ (s.handleState p = .current ∧ (s.handleNode p).state = .failed)) →
        exec (.narmEdge d a b) s = .next ((s.failNodeItem die (handleIdx h)).setX d 2).awaitAck) ∧
      (s.handleState p = .current → (s.handleNode p).state ≠ .failed →
        (16384 ≤ (s.die die).edges.length → exec (.narmEdge d a b) s = .next (s.setX d 1).awaitAck) ∧
        ((s.die die).edges.length < 16384 → (s.handleNode h).count < 65535 →
          exec (.narmEdge d a b) s = .next ((((s.modDie die (fun k => { k with edges := k.edges ++ [(handleIdx p, handleIdx h)] })).modHandle h
            (fun n => { n with count := n.count + 1 })).setX d 0)).awaitAck))) ∧
    (s.handleLegal h = true →
      let frees := o = 1 ∧ s.handleState h = .current ∧ s.handleForeign h = false ∧ (s.handleNode h).state = .failed
      exec (.ndoneQ d a o) s = .next ((if frees then s.loseNode die (handleIdx h) else s).awaitReply d (s.queryNode h)))

/-- R313, R320 to R325. The scheduler's steps where their conditions hold: ageing, placement on the affinity core, stealing, completion and failure of
a node; and a gang's reservation, commit, refusal, back-off and drain. -/
def Obligations.NodeEvents : Prop :=
  ∀ (s : State) (die n core : Nat),
    let d := s.die die
    let k := d.node n
    (k.state = .ready → k.signal = false → k.readyAt + k.age ≤ s.cycle.toNat →
      exec (.nodeAgeing die n) s = .next (s.modNode die n (fun m => { m with state := .stealable, stealAt := k.readyAt + k.age }))) ∧
    (∀ m, (s.placeable die).find? (fun p => p.1 == n) = some (n, m) → s.gangFirst die = false →
      (∀ q ∈ s.placeable die, earlier q (n, m) = false) →
      exec (.nodePlaceAffinity die n) s = .next (s.startNode die n [m.affinity die])) ∧
    (∀ m, (n, m) ∈ d.used → m.single .stealable = true → s.lowestIdle die m = some core → s.gangFirst die = false → s.placeable die = [] →
      (∀ q ∈ d.used, q ≠ (n, m) → (q.2.single .stealable = true ∨ (q.2.single .ready = true ∧ q.2.readyAt + q.2.age ≤ s.cycle.toNat)) →
        olderFor (n, m) q = true) →
      exec (.nodeSteal die core) s = .next (s.startNode die n [core])) ∧
    (k.state = .running → k.doomed = false → (∀ c ∈ k.members, NSet.has k.ended c = true) →
      exec (.nodeCompletion die n) s = .next (if k.lost then s.loseNode die n else s.completeNode die n)) ∧
    (k.doomed = true → exec (.nodeFail die n) s = .next (s.failNodeItem die n)) ∧
    (∀ cl cores, k.gang = true → k.state = .ready ∨ k.state = .stealable → k.backUntil = none → d.reservations.length < 4 →
      d.drain = none → s.candidate die k = some (cl, cores) →
      ∃ t, exec (.gangReserveBegin die n cl) s = .next t ∧ ((t.die die).node n).state = .reserving ∧ ((t.die die).node n).came = k.state ∧
        (t.die die).reservations = d.reservations ++ [⟨n, cores, cores.foldl NSet.add [], s.cycle.toNat⟩]) ∧
    (∀ cores, s.commitCores die n = some cores → k.gang = true → exec (.gangCommit die n) s = .next (s.startNode die n cores)) ∧
    (∀ r, d.reservations.find? (fun x => x.node == n) = some r → s.commitCores die n = none →
      ∃ t, exec (.gangReserveFail die n) s = .next t ∧ ((t.die die).node n).state = k.came ∧
        ((t.die die).node n).failures = k.failures + 1 ∧
        ((t.die die).node n).backUntil = some (s.cycle.toNat + 64 * 2 ^ min k.failures 5)) ∧
    (∀ t, k.backUntil = some t → t ≤ s.cycle.toNat →
      exec (.gangBackoffExpiry die n) s = .next (s.modNode die n (fun m => { m with backUntil := none }))) ∧
    (∀ cl w cores, d.drainDue k s.cycle.toNat = true → d.drain = none → (d.drainQ = [] ∨ d.drainQ.head? = some n) →
      s.drainRegion die k = some (cl, w, cores) →
      exec (.gangDrainStart die n cl) s =
        .next ((s.modDie die (fun x => { x.release n with drain := some ⟨n, k.gen, cores, []⟩ })).modNode die n Node.leaveReserve)) ∧
    ∀ r, d.drain = some r → core ∈ r.cores → (s.core core).current = none → (s.ctx ⟨core, control⟩).life ≠ .live →
      (s.core core).preempted = false →
      exec (.drainCoreReserve die core) s =
        .next (s.modDie die (fun x => { x with drain := some { r with reserved := NSet.add r.reserved core } }))

/-! ## The proximity index (file 14) -/

/-- R333 to R345. The index instructions whose record and operands pass go to their unit: counted in LOAD, g[D] awaiting the reply; a change waits for the context's
stores, a search for accesses to its query and result area; the vector's bytes are checked after that wait. In a unit of a die that is not fenced an operation
is admitted when it may be, and a search runs at its stamp; a reply reaches its context with its records first, a failure as a deferred trap; both are
held while the context is switched out. In a unit of a fenced die what is unfinished fails with LINK_DOWN (R381). -/
def Obligations.RambleOperations : Prop :=
  (∀ (s : State) (d a b : BitVec 5) (ix : BitVec 16) (ex : BitVec 1),
    let x := s.x a
    (∀ u p, s.indexRecord ix true = .ok (u, p) →
      (∀ r l, s.unitSpan a x p.vb p.elemBytes .load = .ok r → s.vectorPlace x r true = .ok l →
        let waits := s.me.writesPending = true ∨ s.vectorWaits l p.vb = true
        (waits → exec (.stvec d a ix) s = .next s.hold) ∧
        (¬waits → (∀ m v, s.copiedVector p x r true = .ok (m, v) → exec (.stvec d a ix) s = .next (u.sendUnit d p .stvec v 0)) ∧
          ∀ t, s.copiedVector p x r true = .error t → exec (.stvec d a ix) s = .next (u.takeTrap s.cur t))) ∧
      ((s.x b).toNat < 2 ^ 32 →
        exec (.delvec d b ix) s =
          .next (if s.me.writesPending then s.hold else u.sendUnit d p (.delvec (s.x b).toNat) 0 0)) ∧
      (2 ^ 32 ≤ (s.x b).toNat →
        ∃ prog, exec (.delvec d b ix) s = .next (u.takeTrap s.cur ⟨0x03, s.me.pc, s.x b, prog⟩))) ∧
    (∀ u p, s.indexRecord ix false = .ok (u, p) →
      exec (.ixstamp d ix) s = .next (u.sendUnit d p .ixstamp 0 0) ∧
      (nearControl (s.x b) = none →
        ∃ prog, exec (.ldnear ex d a b ix) s = .next (u.takeTrap s.cur ⟨0x03, s.me.pc, s.x b, prog⟩)) ∧
      ∀ k cur st r ra ql al, nearControl (s.x b) = some (k, cur, st) → s.unitSpan a x p.vb 16 .load = .ok r →
        s.unitSpan a (p.areaAddr x) (8 * k) 1 .store = .ok ra → unitPlaceOf s.cur.core x false r = some ql →
        unitPlaceOf s.cur.core (p.areaAddr x) false ra = some al →
        let waits := s.vectorWaits ql p.vb = true ∨ s.me.pend.any (·.sameByte (s.pendOp .store (.local al) (8 * k) Reg.zero)) = true
        (waits → exec (.ldnear ex d a b ix) s = .next s.hold) ∧
        (¬waits → (∀ m v, s.copiedVector p x r false = .ok (m, v) →
            exec (.ldnear ex d a b ix) s = .next (u.sendUnit d p (.ldnear (ex == 1) cur k st) v al.off)) ∧
          ∀ t, s.copiedVector p x r false = .error t → exec (.ldnear ex d a b ix) s = .next (u.takeTrap s.cur t)))) ∧
  (∀ (s : State) (d : BitVec 5) (p : IndexRec) (k : RambleKind) (v ar : Nat),
    let t := s.sendUnit d p k v ar
    t.me.cntLoad = s.me.cntLoad + 1 ∧ (t.unitOps p.unit).length = (s.unitOps p.unit).length + 1 ∧ t.me.pc = s.me.nextHead s.me.pc) ∧
  (∀ (s : State) (u k : Nat) (o : RambleOp), s.unitOpAt u k = some o →
    let here := s.present (s.unitSlot o) o.uid
    (∀ t ph, s.mayAdmit u k o = true → s.admitOp o = .ok (t, ph) →
      exec (.rambleAdmit u k) s = .next (t.modUnit u k (fun x => { x with phase := ph }))) ∧
    (∀ t ph, o.phase.isAdmitted = true → s.unitFenced u = false → s.runSearch o = .ok (t, ph) →
      exec (.rambleSearch u k) s = .next (t.modUnit u k (fun x => { x with phase := ph }))) ∧
    (∀ w recs, o.phase = .finished w recs →
      (here = true → exec (.rambleReply u k) s = .next ((s.dropUnit u k).unitReply o w recs)) ∧
      (here = false → (s.unitCtx o).isSome = true →
        exec (.rambleReply u k) s = .next (s.modUnit u k (fun x => { x with phase := .held w recs }))) ∧
      (here = false → s.unitCtx o = none → exec (.rambleReply u k) s = .next (s.dropUnit u k))) ∧
    ∀ f, here = true →
      ((s.unitFenced u = true ∧ (o.phase.isArrived = true ∨ o.phase.isAdmitted = true) ∧ f = ⟨0x44, BitVec.ofNat 64 o.rec_.base⟩) ∨
        (s.unitFenced u = false ∧ o.phase.isAdmitted = true ∧ s.runSearch o = .error f) ∨
        (o.phase.isAdmitted = false ∧ s.mayAdmit u k o = true ∧ s.admitOp o = .error f)) →
      exec (.rambleFail u k) s = .next ((s.dropUnit u k).unitFailure o f.cause f.val)) ∧
  ∀ (s : State) (c : CtxId) (u k : Nat) (o : RambleOp), s.heldReply c = some (u, k, o) →
    (∀ w recs, o.phase = .held w recs → exec (.rambleHeldReplyDelivery c) s = .next ((s.dropUnit u k).unitReply o w recs)) ∧
    ∀ cause v, o.phase = .failed cause v → exec (.rambleHeldReplyDelivery c) s = .next ((s.dropUnit u k).unitFailure o cause v)

/-! ## Work and phases (file 17) -/

/-- R354 to R365. LAUNCH waits for the context's earlier accesses; then, of a readable record in order, it queues the items and replies the launch's handle, or all
ones where no resource is free; a record out of order is ILLEGAL_OPERAND with the address of its first bad word. CWAIT completes with the count once it is low enough. CANCEL acts once, and
completes with the number of items cancelled once they are gone. The scheduler releases, dispatches and expires slices, each where its condition holds. -/
def Obligations.WorkInstructions : Prop :=
  (∀ (s : State) (d a : BitVec 5) (n : BitVec 16),
    let x := s.x a
    (s.me.pend ≠ [] → exec (.launch d a) s = .next s.hold) ∧
    (∀ u l, checkCapRights (s.g a) s.me.dom s.me.priv .load x = .ok () → (s.g a).covers x.toNat 640 = true → x.toNat % 64 = 0 →
      x.toNat < 2 ^ 55 → s.readGranules (s.who s.cur) x (s.g a).permLC 40 = .ok (u, l) →
      let bad := badLaunch l (fun y => y == s.me.dom || s.me.priv) (fun t => t == 0 || s.me.priv) (s.jobHas s.myCore.job)
      (∀ w, s.me.pend = [] → bad = some w → ∃ prog, exec (.launch d a) s = .next (u.takeTrap s.cur ⟨0x03, s.me.pc, x + BitVec.ofNat 64 (8 * w), prog⟩)) ∧
      (bad = none → s.me.pend = [] →
        let r := u.launch l s.myCore.job (if s.me.priv then recWord l 4 else s.me.tvec) s.me.xlbase
        (r = none → exec (.launch d a) s = .next (u.awaitReply d 0xFFFFFFFFFFFFFFFF)) ∧
        ∀ t h, r = some (t, h) → exec (.launch d a) s = .next (t.awaitReply d h))) ∧
    (s.levelCheck x (n == 0) = .ok () →
      exec (.cwait d a n) s = .next (if s.levelCount x ≤ n.toNat then (s.setX d (BitVec.ofNat 64 (s.levelCount x))).advance else s.hold)) ∧
    (s.arrival = none → s.levelCheck x true = .ok () → s.me.pend = [] →
      exec (.cancel d a) s = .next (((s.cancelLevel x).1.keep (.cancel (s.cancelLevel x).2)).cancelWait d x (s.cancelLevel x).2)) ∧
    ∀ k, s.arrival = some (.cancel k) →
      exec (.cancel d a) s = .next (if s.cancelDone x then s.completeWait d (BitVec.ofNat 64 k) else s.hold)) ∧
  ∀ (s : State) (core k : Nat) (x : Slice),
    ((s.core core).slice k = some x → x.ready = false → x.released + x.period ≤ s.cycle.toNat → s.jobState k = 2 →
      exec (.sliceRelease core k) s = .next (s.modCore core (fun c => c.setSlice (s.newSlice k)))) ∧
    ((s.core core).preempted = false → (s.core core).runningSlice = none → (s.core core).current = none → (s.core core).slices ≠ [] →
      s.dueSlice core = some x →
      exec (.sliceDispatch core) s = .next (if s.restorable core x.job then (s.modCore core (·.runSlice x.job)).handlerReturn core x.job
        else s.modCore core (·.runSlice x.job))) ∧
    ((s.core core).runningSlice = some x → x.left = 0 → x.grace = false →
      exec (.sliceBudgetExpiry core) s = .next ((s.modCore core (fun c =>
        c.setSlice { x with grace := true, left := s.jobGrace x.job })).deferControl core ⟨.budget, 0, ⟨0x40, 0, BitVec.ofNat 64 x.deadline, 0⟩⟩)) ∧
    ((s.core core).runningSlice = some x → x.left = 0 → x.grace = true → s.preemptible core = true →
      exec (.sliceGraceExpiry core) s = .next (((s.modCore core Core.endSlice).preempt core).countMiss x.job)) ∧
    ((s.core core).slice k = some x → x.ready = true → x.missed = false → x.deadline < s.cycle.toNat →
      exec (.deadlineMiss core k) s = .next ((s.modCore core (fun c => c.setSlice { x with missed := true })).countMiss k))

/-- R366 to R374. BARRIVE, BWAIT and BSYNC of a barrier that the context may name: an arrival waits for the context's stores and gives the generation, a wait completes when
the generation has changed; BSYNC does the one and then the other. SLOTSEND of operands in order in a communication step sends, or holds without room; outside one it is SLOT_VIOLATION of reason 4, and a violated slot has its
own reason: 3 without a schedule, 2 without an entry that fits, 1 past the slot's time, where the record's SV is set and the entry counts as missed. SLOTWAIT gives the number of entries missed, 0 outside a step. A full generation completes; transfers start and land. -/
def Obligations.BarriersAndSlots : Prop :=
  (∀ (s : State) (d a : BitVec 5) (ix : BitVec 16) (u : State) (k m : Nat), s.barrier ix = .ok (u, k) → s.barOperand a = .ok m →
    (s.me.writesPending = true → exec (.barrive d a ix) s = .next s.hold) ∧
    (s.me.writesPending = false → ∀ t g, u.arrive k m ix.toNat = .ok (t, g) →
      exec (.barrive d a ix) s = .next (t.setX d (BitVec.ofNat 64 g)).advance ∧
      (s.arrival = none → exec (.bsync d a ix) s =
        .next (((t.setX d (BitVec.ofNat 64 g)).keep (.bsync (BitVec.ofNat 64 g) s.me.dom)).bsyncWait k (BitVec.ofNat 64 g)))) ∧
    exec (.bwait a ix) s = .next (if (u.barRec k).gen ≠ m then u.advance else s.hold) ∧
    ∀ g dom, s.arrival = some (.bsync g dom) →
      exec (.bsync d a ix) s = .next (if BitVec.ofNat 64 (u.barRec k).gen = g then u.hold else u.dropArrival.advance)) ∧
  (∀ (s : State) (c a b : BitVec 5) (slot : BitVec 12) (len src dc dst : Nat), s.slotOperands a b c = .ok (len, src, dc, dst) →
    let traps := fun (t : State) (reason : Nat) =>
      exec (.slotsend c a b slot) s = .next (t.takeTrap s.cur ⟨0x41, s.me.pc, BitVec.ofNat 64 (s.stepcyc s.cur.core)
        , BitVec.ofNat 64 (slot.toNat + reason * 2 ^ 12)⟩)
    (s.phaseBarrier s.cur.core = none → traps (s.phaseTouched s.cur.core) 4) ∧
    ∀ u k p, s.phaseBarrier s.cur.core = some (u, k, p) →
      let read := u.chosenRead s.cur.core k p
      ((u.barRec k).gen % 2 = 0 → traps u 4) ∧
      ((u.barRec k).gen % 2 = 1 →
        let room := s.myCore.locks.length + 2 ≤ 16 ∧ s.me.cntCopy < 15
        (slot = 4095 → exec (.slotsend c a b slot) s =
          .next (if room then u.sendSlot (s.newXfer k 4095 none 0 (len, src, dc, dst)) else s.hold)) ∧
        (slot ≠ 4095 →
          (∀ t i slog, u.slotEntry k p slot.toNat dc len = .ok (t, i, slog) → exec (.slotsend c a b slot) s =
            .next (if room then t.sendSlot (s.newXfer k slot.toNat (some i) slog (len, src, dc, dst)) else s.hold)) ∧
          ((u.barRec k).nf = true ∨ p = none → traps read 3) ∧
          ((u.barRec k).nf = false → ∀ q, p = some q →
            (u.chosen s.cur.core k q = none → traps read 2) ∧
            ∀ t es, u.chosen s.cur.core k q = some (t, es) →
              let entry := es.findIdx? (fun e => e.src == s.cur.core && e.dst == dc && e.slot == slot.toNat && decide (len ≤ 16 * e.max))
              (entry = none → traps read 2) ∧
              ∀ i, entry = some i → (slot.toNat + 1) * 2 ^ q.slog < u.stepcyc s.cur.core + (len + 63) / 64 →
                traps ((read.modBarRec k (fun r => { r with sv := true })).modBar k
                  (fun x => { x with missed := NSet.add x.missed i })) 1)))) ∧
  (∀ (s : State) (d : BitVec 5) (slot : BitVec 12),
    (s.phaseBarrier s.cur.core = none → exec (.slotwait d slot) s = .next (s.setX d 0).advance) ∧
    ∀ u k p, s.phaseBarrier s.cur.core = some (u, k, p) →
      ((u.barRec k).gen % 2 = 0 ∨ (u.barRec k).nf = true → exec (.slotwait d slot) s = .next (s.setX d 0).advance) ∧
      ∀ q t es, (u.barRec k).gen % 2 = 1 → (u.barRec k).nf = false → p = some q → u.chosen s.cur.core k q = some (t, es) →
        let mine := (es.zipIdx.filter (fun e => e.1.dst == s.cur.core && decide (e.1.slot ≤ slot.toNat))).map (·.2)
        ((∀ i ∈ mine, NSet.has (s.bar k).landed i = true ∨ NSet.has (s.bar k).missed i = true) →
          exec (.slotwait d slot) s =
            .next (t.setX d (BitVec.ofNat 64 (mine.filter (fun i => NSet.has (s.bar k).missed i)).length)).advance) ∧
        ((∃ i ∈ mine, NSet.has (s.bar k).landed i = false ∧ NSet.has (s.bar k).missed i = false) →
          exec (.slotwait d slot) s = .next s.hold)) ∧
  ∀ (s : State) (k : Nat),
    let b := s.barRec k
    let after := b.complete (s.selection k)
    ((SMap.find s.bars k).isSome = true → b.arrived = b.expected → b.expected ≠ 0 → b.beats = 0 →
      exec (.generationComplete k) s = .next (((s.modBarRec k (·.complete (s.selection k))).modBar k (fun x =>
        { x with size := 0, first := none, landed := [], missed := [] })).restartStep (s.stileDom b.sdom)) ∧
      after.gen = (b.gen + 1) % 2 ^ 32 ∧ after.arrived = 0 ∧ after.expected = b.expected) ∧
    ∀ x, s.xfer k = some x →
      (x.slot ≠ 4095 → x.slot * 2 ^ x.slog ≤ s.stepcyc x.ctx.core → s.mayStartXfer x = true →
        exec (.slotTransferStart k) s = .next (s.startXfer x)) ∧
      (x.slot = 4095 → (∀ y ∈ s.xfers, y.bar ≠ x.bar ∨ y.slot = 4095 ∨ y.started = true) → s.mayStartXfer x = true →
        exec (.lateLaneStart k) s = .next (s.startXfer x)) ∧
      (x.started = true → s.receives x = true → exec (.slotBeatLand k) s = .next (s.landBeat x))

/-! ## Containment and the system (file 18) -/

/-- R284, R376 to R394. SEAL of a region whose pages may be sealed seals them in a free slot and holds its context until the digest is there, then gives the slot; with no free slot it gives all ones.
The host's writes act where the device's window is open and do nothing where it is closed. Errors poison, withdraw or are charged; terminations, captures, attestation and
bring-up end as their rules say; a package reset leaves the reset state, the host's memory and the model's own schedule and free values apart (log 1). -/
def Obligations.SystemOperations : Prop :=
  (∀ (s : State) (d a b : BitVec 5),
    (s.arrival = none → s.sealChecks a (s.x a) (s.x b) = .ok () →
      (s.me.writesPending = true → exec (.seal d a b) s = .next s.hold) ∧
      (s.me.writesPending = false →
        ∀ ps, s.sealPages (s.who s.cur) (s.x a) ((s.x b).toNat / 65536) ((s.x b).toNat / 65536) = .ok ps →
          (s.freeSeal = none → exec (.seal d a b) s = .next (s.setX d 0xFFFFFFFFFFFFFFFF).advance) ∧
          ∀ k, s.freeSeal = some k →
            ∃ t, exec (.seal d a b) s = .next t ∧ t.me.waiting = true ∧ t.arrival = some (.seal k none) ∧
              ∃ x, SMap.find t.seals k = some x ∧ x.addr = s.x a ∧ x.len = (s.x b).toNat ∧ x.pages = ps.map (·.page) ∧ x.digest = none)) ∧
    (∀ k x, s.arrival = some (.seal k none) → SMap.find s.seals k = some x →
      exec (.seal d a b) s = .next (if x.digest.isSome then s.completeWait d (BitVec.ofNat 64 k) else s.hold)) ∧
    ∀ k p, s.arrival = some (.seal k (some p)) →
      ∃ prog, exec (.seal d a b) s = .next (s.dropArrival.takeTrap s.cur ⟨0x32, s.me.pc, p, prog⟩)) ∧
  (∀ (s : State) (k : Nat) (x : SealSlot), SMap.find s.seals k = some x → x.digest = none →
    (s.sealPoison x = none → exec (.sealDigestDone k) s =
      .next { s with seals := SMap.set s.seals k { x with digest := some (BitVec.ofNat 512 (numOfBytes (sha512 (s.sealBytes x)))) } }) ∧
    ∀ p, s.sealPoison x = some p →
      exec (.sealDigestDone k) s = .next ((s.releaseSeal k).modOwner x.owner x.uid (fun c => c.sealPoisoned k p))) ∧
  (∀ (s : State) (vd off size : Nat) (v adr : BitVec 64) (w : Bool),
    let rows : List (Instr × State) :=
      [ (.jsgo vd v, s.jsgo vd v), (.irqstatClear vd v, s.modVdev vd (fun d => { d with irqPend := d.irqPend &&& ~~~ v.setWidth 32 }))
      , (.lntrig vd v, if v.getLsbD 0 then s.lanternTrigger 2 else s), (.lnres vd v, s.hostResume v), (.atgo vd v, s.attest vd v)
      , (.hostRegisterWrite vd off v, s.windowWrite vd off v)
      , (.hostMemoryWindowAccess vd w adr size v,
          if w && decide (size ≤ 8) && (List.range size).all (fun k => Config.vdMayReach vd (adr.toNat + k)) then
            s.physWrite adr.toNat size (v.toNat % 2 ^ (8 * size)) else s) ]
    ∀ p ∈ rows, (vd < 16 → (s.vdev vd).en = true → exec p.1 s = .next p.2) ∧ ((s.vdev vd).en = false → exec p.1 s = .next s)) ∧
  (∀ (s : State),
    (∀ vd, (s.vdev vd).atstat = 1 → ∃ t, exec (.attestationDone vd) s = .next t ∧ (t.vdev vd).atstat = 2 ∧ (t.vdev vd).irqPend.getLsbD 3 = true) ∧
    (∀ site, exec (.uncorrectableError site) s = .next { s.softError site with freeN := s.freeN + 1 }) ∧
    (∀ c owner, s.terminated c.dom = true → s.terminate c owner = s.countError c.dom) ∧
    (∀ g, ((s.softError (.mainGranule g)).main.anyPoison (16 * g) 16 = true)) ∧
    (∀ (d : BitVec 6) t, SMap.find s.terms d.toNat = some t → s.someCoreRuns d = false → t.items = [] →
      ∃ u, exec (.terminationDone d) s = .next u ∧ SMap.find u.terms d.toNat = none ∧
        ∀ n, s.vdOf d = some n → (u.vdev n).irqPend.getLsbD 0 = true) ∧
    (∀ k core, s.capture = some k → NSet.has k.pending core = true → (∀ p ∈ (s.core core).ctxs, p.2.life ≠ .live ∨ p.2.gpos = 0) →
      ∃ t, exec (.lanternCoreCapture core) s = .next t ∧ t.capture = some { k with pending := NSet.del k.pending core } ∧
        (t.core core).lnStop = ((s.core core).lnStop || k.halt)) ∧
    (∀ k, s.capture = some k → s.reported k = false → exec .lanternCaptureComplete s = .next s) ∧
    (∀ k, s.capture = some k → k.pending = [] → s.reported k = true →
      ∃ t, exec .lanternCaptureComplete s = .next t ∧ t.capture = none ∧ t.lnseq = s.lnseq + 1 ∧
        ∀ n, n < 16 → (t.vdev n).irqPend.getLsbD 2 = true) ∧
    exec .packageReset s = .next { State.reset with host := s.host, agenda := s.agenda, freeN := s.freeN }) ∧
  ∀ (s : State) (firmware : SignedImage) (hot : Bool) (k : Nat),
    let p := s.power
    let now := s.cycle.toNat
    (p.hbmStacks < 12 → p.lastWake + 1250 ≤ now →
      exec .stackWake s = .next { s with power := { p with hbmStacks := p.hbmStacks + 1, lastWake := now } }) ∧
    (p.hbmStacks = 12 → p.engines < 8 → p.lastWake + 12500 ≤ now →
      ∃ t, exec .opticalEngineWake s = .next t ∧ t.power = { p with engines := p.engines + 1, lastWake := now } ∧
        ((s.port p.engines).state = 0 → (t.port p.engines).state = 1)) ∧
    (p.engines = 8 → p.rails < 4 → p.lastWake + 62500 ≤ now →
      exec .dieRailWake s = .next { s with power := { p with rails := p.rails + 1, lastWake := now } }) ∧
    (p.rails = 4 → p.stage = .reset →
      exec (.securityProcessorBoot firmware) s = .next { s with power := { p with
        stage := if pssVerify Config.firmwareModulus Config.firmwareExponent firmware.image firmware.signature then .booted else .refused
        firmware := BitVec.ofNat 512 (numOfBytes (sha512 firmware.image)) } }) ∧
    (p.stage = .booted → ∃ t, exec .decsynLinkTrain s = .next t ∧ t.power.stage = .trained ∧ (t.vdev 0).en = true) ∧
    (s.testOpen = true →
      exec .bypass s = .next { s with power := { p with tap := .bypass, tapData := 0 } } ∧
      exec .idcode s = .next { s with power := { p with tap := .idcode, tapData := idcodeWord } } ∧
      exec .samplePreload s =
        .next { s with power := { p with tap := .sample, tapData := Config.boundaryScan s.freeN }, freeN := s.freeN + 1 } ∧
      exec .extest s =
        .next { s with power := { p with tap := .extest, tapData := Config.boundaryScan s.freeN }, freeN := s.freeN + 1 }) ∧
    (k < 12 →
      exec (.perBankRefresh k) s = .next { s with hbmStacks := SMap.set s.hbmStacks k { s.stack k with refreshes := (s.stack k).refreshes + 1 } } ∧
      exec (.stackTemperatureReport k hot) s = .next { s with hbmStacks := SMap.set s.hbmStacks k { s.stack k with hot := hot } })

/-! ## The fabric (file 20) -/

/-- R404, R405, R412 to R419. The fabric's instructions for operands that pass: RKREG registers and replies the key, RKREVOKE frees it and gives 0, or 1 for none; TGEN, STMC, GBAR, RECONF and
ABORT, each completing or holding its context as its rule says, an STMC past its checks waiting for its context's stores before it sends; STALE_TOPO where TGEN
lags, LINK_DOWN without a group. These are the model's readings: LINK_DOWN for an ABORT without a group (log 47), that RKREG takes a key's region by its
capability's base (log 48), and that TGEN is held during a RECONF (log 50). -/
def Obligations.FabricInstructions : Prop :=
  ∀ (s : State) (d a b : BitVec 5) (kd : BitVec 2) (rt sc : BitVec 3) (plan : BitVec 8),
    let x := s.x a
    let job := s.myCore.job
    let j := s.jobOf job
    (∀ base n, (rt = 1 ∨ rt = 2 ∨ rt = 3 ∨ rt = 7) → kd ≠ 3 → (kd = 2 → a = 0 ∧ rt = 2 ∧ base = 0 ∧ n = 0) →
      (kd ≠ 2 → s.keyRegion a kd rt = .ok (base, n)) →
      (∀ r, s.newKey (s.x b) = .error r → exec (.rkreg d a b kd rt) s = .next (s.setX d r).advance) ∧
      ∀ i c, s.newKey (s.x b) = .ok (i, c) →
        ∃ t, exec (.rkreg d a b kd rt) s = .next t ∧ t.me.reg d.toNat = (if d = 0 then Reg.zero else Reg.plain (BitVec.ofNat 64 (c.toNat * 2 ^ 10 + i))) ∧
          t.keyAt i = { used := true, check := c, kind := kd, rights := rt, base := base, length := n, core := s.cur.core
                        dom := s.me.dom, xlbase := s.me.xlbase, last := (s.keyAt i).last }) ∧
    (x.toNat < 2 ^ 32 →
      let e := s.keyAt (x.toNat % 1024)
      let mine := e.used = true ∧ e.check.toNat = x.toNat / 1024
      (¬mine → exec (.rkrevoke d a) s = .next (s.setX d 1).advance) ∧
      (mine → e.dom = s.me.dom ∨ s.me.priv = true →
        exec (.rkrevoke d a) s = .next (({ s with keys := SMap.set s.keys (x.toNat % 1024) e.revoked } : State).setX d 0).advance)) ∧
    (j.reconf = none →
      exec (.tgen d) s = .next ((s.modJob job (fun k => { k with tgen := k.scopegen })).setX d (j.scopegen.setWidth 64)).advance) ∧
    (j.reconf ≠ none → exec (.tgen d) s = .next s.hold) ∧
    (s.arrival = none → checkCap (s.g a) s.me.dom s.me.priv .store x 8 8 = .ok () → s.hasGroup job = true → isFabric x = true →
      x.toNat / 2 ^ 44 % 2 ^ 16 = 0 →
      let devs := (s.scopeSet job (s.curPlan job) sc.toNat).filter (fun n => n != s.fabid.toNat)
      devs.length ≤ 64 →
      (j.tgen ≠ j.scopegen → exec (.stmc a b sc) s =
        .next (s.takeTrap s.cur ⟨0x42, s.me.pc, j.scopegen.setWidth 64, j.tgen.setWidth 64⟩)) ∧
      (j.tgen = j.scopegen →
        (s.me.writesPending = true → exec (.stmc a b sc) s = .next (s.keep (.stmcIssued devs (!s.reconfiguring))).hold) ∧
        (s.me.writesPending = false → devs = [] → exec (.stmc a b sc) s = .next s.dropArrival.advance) ∧
        (s.me.writesPending = false → devs ≠ [] → exec (.stmc a b sc) s = .next (s.multicast x (s.g b) devs (!s.reconfiguring)).hold))) ∧
    (∀ devs early, s.arrival = some (.stmcIssued devs early) →
      (s.me.writesPending = true → exec (.stmc a b sc) s = .next (s.keep (.stmcIssued devs early)).hold) ∧
      (s.me.writesPending = false → devs = [] → exec (.stmc a b sc) s = .next s.dropArrival.advance) ∧
      (s.me.writesPending = false → devs ≠ [] → exec (.stmc a b sc) s = .next (s.multicast x (s.g b) devs early).hold)) ∧
    (∀ seq devs failed, s.arrival = some (.stmc seq devs failed) →
      (∀ o ∈ s.me.pend, o.isAccess = false ∨ o.seq ≠ seq ∨ o.head ≠ s.me.pc) →
      (failed = [] → exec (.stmc a b sc) s = .next s.dropArrival.advance) ∧
      (failed ≠ [] → ∃ prog, prog.toNat % 256 = (lowestCause failed).toNat ∧
        exec (.stmc a b sc) s = .next (s.dropArrival.takeTrap s.cur ⟨0x45, s.me.pc, failedBitmap failed, prog⟩))) ∧
    (s.arrival = none → x.toNat < 2 ^ 32 → s.hasGroup job = true → j.tgen = j.scopegen → s.me.writesPending = false →
      exec (.gbar d a) s = .next (s.gbarJoin x).hold) ∧
    (∀ e v, s.arrival = some (.gbar e (some v)) → exec (.gbar d a) s = .next (s.completeWait d v)) ∧
    (s.arrival = none → s.hasGroup job = true → plan.toNat = s.curPlan job → j.tgen = j.scopegen - 1 →
      exec (.reconf d plan) s = .next (s.setX d (j.scopegen.setWidth 64)).advance) ∧
    (s.arrival = none → plan.toNat < s.planCount job → s.planValid job plan.toNat = true → j.tgen = j.scopegen → j.reconf = none →
      exec (.reconf d plan) s = .next ((State.reconfDrain ((s.keep (.reconf none)).modJob job (fun k =>
        { k with reconf := some (plan.toNat, .draining) })) job).hold)) ∧
    (∀ v, s.arrival = some (.reconf (some v)) → exec (.reconf d plan) s = .next (s.completeWait d v)) ∧
    (x.toNat < 2 ^ 32 → s.hasGroup job = true → exec (.abort a) s = .next (s.advance.sendToken job (x.setWidth 32))) ∧
    (x.toNat < 2 ^ 32 → s.hasGroup job = false →
      ∃ v prog, exec (.abort a) s = .next (s.takeTrap s.cur ⟨0x44, s.me.pc, v, prog⟩))

/-- R399, R403, R408, R417 to R419. The fabric's own steps where their conditions hold: a flit in sequence is accepted, with the reply it carries, and what it acknowledges is kept no longer; idle
flits, link failure, requests that leave as their port grants them, are admitted or refused; the root's barrier, reconfiguration and tokens, and what reaches the
job's contexts. Requests that a RECONF held go out behind the others once no RECONF is open. These are the model's choices: how a port's grants go round among the
devices that wait (log 90), the word that a group arrival carries (log 46), and that a switch trains every port of the new plan (log 50). -/
def Obligations.FabricEvents : Prop :=
  (∀ (s : State) (p k : Nat) (f : Flit),
    let q := s.port p
    let failed : State := q.kept.foldl State.reroute (s.modPort p (fun x => { x with state := 3, kept := [] }))
    (p < 8 → q.state = 2 → f.crcOk = true →
      (f.seq = q.expect → ∃ t : State, (t.port p).expect = q.expect + 1 ∧
        (t.port p).kept = q.kept.filter (fun g => decide (f.ack ≤ g.seq)) ∧
        t.inbound = s.inbound ++ (f.req.map (fun r => { r with uid := 0, va := 0, via := p })).toList ∧
        exec (.flitReceive p f) s = .next (f.reply.elim t t.takeReply)) ∧
      (f.seq ≠ q.expect → ∃ t, exec (.flitReceive p f) s = .next t ∧ (t.port p).expect = q.expect ∧ t.inbound = s.inbound)) ∧
    ((8 ≤ p ∨ q.state ≠ 2 ∨ f.crcOk = false) → exec (.flitReceive p f) s = .next s) ∧
    (p < 8 → q.state = 2 → q.lastSend + 1250 ≤ s.cycle.toNat → exec (.idleFlit p) s = .next (s.sendFlit p none none)) ∧
    (p < 8 → q.state = 2 → q.kept ≠ [] → q.lastAck + 1250000 ≤ s.cycle.toNat → exec (.linkFailTimeout p) s = .next failed) ∧
    (∀ r, s.inbound[k]? = some r → s.requestReady k r = true →
      let t : State := { s with inbound := s.inbound.eraseIdx k }
      ((r.dst ≠ s.fabid.toNat ∨ s.fabid = 0xFFFF) →
        (s.nextPort r.job r.dst = none → exec (.forwardRequest k) s = .next (t.route r)) ∧
        ∀ via v left, s.nextPort r.job r.dst = some via → s.grant via (s.portWaiting via) = some (v, left) →
          exec (.forwardRequest k) s =
            .next (if v = s.senderDevice r.job then (t.modPort via (fun x => { x with credits := left })).route r else s)) ∧
      (r.dst = s.fabid.toNat → s.fabid ≠ 0xFFFF → s.tooNew r = false → ownRequest r = false →
        (∀ e, s.keptReply r = some e → exec (.inboundRequestAdmit k) s = .next (t.sendReply r none e.reply)) ∧
        (s.keptReply r = none →
          (∀ u c, t.admitRequest r = .refused u c → exec (.inboundRequestAdmit k) s = .next (u.sendReply r (some c) 0)) ∧
          (t.admitRequest r = .retry → exec (.inboundRequestAdmit k) s = .next s) ∧
          ∀ u w, t.admitRequest r = .done u w → exec (.inboundRequestAdmit k) s =
            .next (State.sendReply { u with kept := u.kept ++ [⟨r.src, r.ctx, r.tag, w, s.cycle.toNat⟩] } r none w)))) ∧
    (∀ x, s.kept[k]? = some x → x.at_ + 2500000 ≤ s.cycle.toNat →
      exec (.keptReplyExpiry k) s = .next { s with kept := s.kept.eraseIdx k }) ∧
    (p < 8 → q.state = 1 → ∃ t, exec (.portTrainingComplete p) s = .next t ∧ (t.port p).state = 2) ∧
    (q.state = 1 → (s.jobs.any (fun j => j.2.trainingLate p s.cycle.toNat)) = true →
      exec (.portTrainTimeout p) s = .next failed.reportAll)) ∧
  ∀ (s : State) (job device : Nat) (v : BitVec 64) (w rs : BitVec 32),
    let j := s.jobOf job
    let root := s.isRoot job = true ∧ s.hasGroup job = true
    (root → s.members job ≠ [] → (∀ m ∈ s.members job, ∃ e ∈ j.rootArr, e.1 = m) →
      ∃ t, exec (.gbarEpisodeComplete job) s = .next t ∧ (t.jobOf job).rootArr = takeArrivals (s.members job) j.rootArr) ∧
    (s.isRoot job = false → exec (.gbarRelease job v) s = .next (s.gbarDeliver job v)) ∧
    (∀ r rest, s.isRoot job = true → j.rootOut = .release r :: rest →
      exec (.gbarRelease job v) s = .next ((s.modJob job (fun k => { k with rootOut := rest })).gbarDeliver job r)) ∧
    (let t := s.reconfDrain job
     let plans := (t.members job).filterMap (fun m => SMap.find (t.jobOf job).rootPlans m)
     t.isRoot job = true → t.members job ≠ [] → plans.length = (t.members job).length → (t.jobOf job).rootVerdict = none →
      exec (.reconfAllArrived job) s =
        .next (t.modJob job (fun k => { k with rootVerdict := some (plans.all (fun p => some p == plans.head?)) }))) ∧
    (∀ p, j.reconf = some (p, .arrived) → (s.isRoot job = false ∨ j.rootVerdict = some true) →
      ∃ t ph, exec (.reconfSwitch job) s = .next t ∧ (t.jobOf job).reconf = some (p, ph) ∧
        ∀ q ∈ s.planPorts job p, (t.port q).state = 1) ∧
    (∀ p, j.reconf = some (p, .reported) → (s.isRoot job = false ∨ ∀ m ∈ s.members job, NSet.has j.rootReports m = true) →
      ∃ t, exec (.reconfCommit job) s = .next t ∧ (t.jobOf job).reconf = none ∧ (t.jobOf job).scopegen = s.groupGen job + 1 ∧
        (t.reconfiguring = false → t.inbound = s.inbound ++ s.heldReqs ∧ t.heldReqs = []) ∧
        (t.reconfiguring = true → t.inbound = s.inbound ∧ t.heldReqs = s.heldReqs)) ∧
    (∀ p, j.reconf = some (p, .arrived) → (s.isRoot job = false ∨ j.rootVerdict = some false) →
      exec (.reconfFail job) s = .next (s.reconfEnd job 0xFFFFFFFFFFFFFFFF)) ∧
    (root → v.toNat / 2 ^ 32 % 8 = 0 → ∃ t, exec (.groupArrivalReceive job device v) s = .next t ∧
      (t.jobOf job).rootArr = j.rootArr ++ [(device, BitVec.ofNat 64 (v.toNat % 2 ^ 32))]) ∧
    (root → v.toNat / 2 ^ 32 % 8 = 4 → ∃ t, exec (.groupArrivalReceive job device v) s = .next t ∧
      (t.jobOf job).tokens = j.tokens ++ [⟨device, v.setWidth 32⟩]) ∧
    (∀ tk rest, s.isRoot job = true → j.tokens = tk :: rest →
      ∃ t, exec (.abortTokenBroadcast job) s = .next t ∧ (t.jobOf job).tokens = rest ∧ (t.jobOf job).rootArr = []) ∧
    (s.isRoot job = false → exec (.abortTokenArrival job device w rs) s = .next (s.takeToken job ⟨device, rs⟩ w))
end
end

