-- ==== Sys2Proof/Laws/Sparse.lean ====
section
/-!
SUPPORT. What reading a sparse map, a set or a memory gives after each of its updates, and that every update keeps the canonical form.
-/

namespace Sys2Proof.Machine

/-! ## Maps -/

@[simp] theorem SMap.find_set_self {α : Type} (m : SMap α) (k : Nat) (v : α) : SMap.find (SMap.set m k v) k = some v := by
  induction m with
  | nil => simp [SMap.set, SMap.find]
  | cons p m ih =>
    obtain ⟨k', v'⟩ := p
    simp only [SMap.set]
    split
    · simp [SMap.find]
    · split <;> simp_all [SMap.find]

theorem SMap.find_set_ne {α : Type} (m : SMap α) {k j : Nat} (v : α) (h : j ≠ k) :
    SMap.find (SMap.set m k v) j = SMap.find m j := by
  induction m with
  | nil => simp [SMap.set, SMap.find, h]
  | cons p m ih =>
    obtain ⟨k', v'⟩ := p
    simp only [SMap.set]
    split
    · subst_vars; simp [SMap.find, h]
    · split
      · simp [SMap.find, h]
      · simp [SMap.find, ih]

@[simp] theorem SMap.getD_set_self {α : Type} (m : SMap α) (k : Nat) (v d : α) : SMap.getD (SMap.set m k v) k d = v := by
  simp [SMap.getD]

theorem SMap.getD_set_ne {α : Type} (m : SMap α) {k j : Nat} (v d : α) (h : j ≠ k) :
    SMap.getD (SMap.set m k v) j d = SMap.getD m j d := by
  simp [SMap.getD, SMap.find_set_ne m v h]

/-- The last of two settings of one key stands. -/
@[simp] theorem SMap.set_set {α : Type} (m : SMap α) (k : Nat) (v w : α) : SMap.set (SMap.set m k v) k w = SMap.set m k w := by
  induction m with
  | nil => simp [SMap.set]
  | cons p m ih =>
    obtain ⟨k', v'⟩ := p
    by_cases h1 : k = k'
    · simp [SMap.set, h1]
    · by_cases h2 : k < k' <;> simp [SMap.set, h1, h2, ih]

@[simp] theorem SMap.find_erase_self {α : Type} (m : SMap α) (k : Nat) : SMap.find (SMap.erase m k) k = none := by
  induction m with
  | nil => rfl
  | cons p m ih =>
    obtain ⟨k', v'⟩ := p
    simp only [SMap.erase]
    split
    · exact ih
    · simp_all [SMap.find]

theorem SMap.find_erase_ne {α : Type} (m : SMap α) {k j : Nat} (h : j ≠ k) : SMap.find (SMap.erase m k) j = SMap.find m j := by
  induction m with
  | nil => rfl
  | cons p m ih =>
    obtain ⟨k', v'⟩ := p
    simp only [SMap.erase]
    split
    · subst_vars; simp [SMap.find, h, ih]
    · simp [SMap.find, ih]

/-! ## Sets -/

theorem NSet.has_add (m : NSet) (k j : Nat) : (m.add k).has j = (j == k || m.has j) := by
  induction m with
  | nil => simp [NSet.add, NSet.has]
  | cons x m ih =>
    simp only [NSet.add]
    split
    · subst_vars
      simp only [NSet.has]
      cases j == x <;> simp
    · split
      · simp [NSet.has]
      · simp only [NSet.has, ih]
        cases j == x <;> cases j == k <;> simp

theorem NSet.has_del (m : NSet) (k j : Nat) : (m.del k).has j = (j != k && m.has j) := by
  induction m with
  | nil => simp [NSet.del, NSet.has]
  | cons x m ih =>
    simp only [NSet.del]
    by_cases hx : k = x
    · subst hx
      rw [if_pos rfl, ih, NSet.has]
      cases h : j == k <;> simp [bne, h]
    · rw [if_neg hx, NSet.has, NSet.has, ih]
      by_cases hj : j = x
      · subst hj; simp [bne, Ne.symm hx]
      · have h1 : (j == x) = false := by simpa using hj
        simp [h1]

theorem NSet.has_put (m : NSet) (k j : Nat) (b : Bool) : (m.put k b).has j = if j = k then b else m.has j := by
  cases b <;> by_cases h : j = k <;> simp [NSet.put, NSet.has_add, NSet.has_del, h]

/-! ## Bytes -/

theorem Memory.byte_setByte (m : Memory) (a j : Nat) (b : Byte) : (m.setByte a b).byte j = if j = a then b else m.byte j := by
  unfold Memory.setByte Memory.byte
  by_cases hb : b = Memory.unlisted <;> by_cases hj : j = a
  · subst hj; simp [hb, SMap.getD]
  · simp [hb, hj, SMap.getD, SMap.find_erase_ne _ hj]
  · subst hj; simp [hb]
  · simp [hb, hj, SMap.getD_set_ne _ _ _ hj]

@[simp] theorem Memory.byte_setTag (m : Memory) (a j : Nat) (b : Bool) : (m.setTag a b).byte j = m.byte j := rfl
@[simp] theorem Memory.byte_setPoison (m : Memory) (a j : Nat) (b : Bool) : (m.setPoison a b).byte j = m.byte j := rfl
@[simp] theorem Memory.byte_clearCovered (m : Memory) (l : List (Nat × Nat)) (j : Nat) : (m.clearCovered l).byte j = m.byte j := rfl

/-- Every byte after a write: the written value's bytes within the span, the old bytes outside it. -/
theorem Memory.byte_write (m : Memory) (a n v j : Nat) :
    (m.write a n v).byte j = if a ≤ j ∧ j < a + n then BitVec.ofNat 8 (v / 256 ^ (j - a)) else m.byte j := by
  induction n generalizing m a v with
  | zero =>
    have h : ¬(a ≤ j ∧ j < a + 0) := by omega
    simp only [Memory.write, h, if_false]
  | succ n ih =>
    rw [Memory.write, ih]
    by_cases h1 : a + 1 ≤ j ∧ j < a + 1 + n
    · have h2 : a ≤ j ∧ j < a + (n + 1) := by omega
      rw [if_pos h1, if_pos h2, Nat.div_div_eq_div_mul]
      congr 2
      rw [← Nat.pow_succ']
      congr 1
      omega
    · rw [if_neg h1, Memory.byte_setTag, Memory.byte_setByte]
      by_cases h3 : j = a
      · subst h3
        have h4 : j ≤ j ∧ j < j + (n + 1) := by omega
        simp [h4]
      · have h4 : ¬(a ≤ j ∧ j < a + (n + 1)) := by omega
        simp [h3, h4]

/-- A span that a write does not touch reads as before. -/
theorem Memory.read_write_out (m : Memory) {a n v b k : Nat} (h : b + k ≤ a ∨ a + n ≤ b) :
    (m.write a n v).read b k = m.read b k := by
  induction k generalizing b with
  | zero => rfl
  | succ k ih =>
    have h1 : ¬(a ≤ b ∧ b < a + n) := by omega
    rw [Memory.read, Memory.read, Memory.byte_write, if_neg h1, ih (by omega)]

/-- Reading the bytes just written gives the value, modulo 2^(8n). -/
theorem Memory.read_write (m : Memory) (a n v : Nat) : (m.write a n v).read a n = v % 256 ^ n := by
  suffices h : ∀ k b, b + k = a + n → a ≤ b →
      (m.write a n v).read b k = v / 256 ^ (b - a) % 256 ^ k by
    simpa using h n a rfl (Nat.le_refl a)
  intro k
  induction k with
  | zero => intro b _ _; simp [Memory.read, Nat.mod_one]
  | succ k ih =>
    intro b hb hab
    have hin : a ≤ b ∧ b < a + n := by omega
    have hs : b + 1 - a = (b - a) + 1 := by omega
    rw [Memory.read, Memory.byte_write, if_pos hin, ih (b + 1) (by omega) (by omega), hs, Nat.pow_succ,
      ← Nat.div_div_eq_div_mul]
    have hm := Nat.mod_mul (x := v / 256 ^ (b - a)) (a := 256) (b := 256 ^ k)
    rw [Nat.pow_succ', hm]
    simp

/-! ## The canonical form -/

/-- Every member of a list lies above a bound. -/
def above (b : Nat) (l : List Nat) : Prop := ∀ x ∈ l, b < x

theorem rising_cons {x : Nat} {l : List Nat} : rising (x :: l) = true ↔ above x l ∧ rising l = true := by
  induction l generalizing x with
  | nil => simp [rising, above]
  | cons y l ih =>
    simp only [rising, Bool.and_eq_true, decide_eq_true_eq]
    constructor
    · rintro ⟨hxy, hr⟩
      refine ⟨?_, hr⟩
      intro z hz
      rcases List.mem_cons.mp hz with rfl | hz
      · exact hxy
      · exact Nat.lt_trans hxy ((ih.mp hr).1 z hz)
    · rintro ⟨ha, hr⟩
      exact ⟨ha y (by simp), hr⟩

theorem above_cons {b x : Nat} {l : List Nat} : above b (x :: l) ↔ b < x ∧ above b l := by simp [above]

theorem above_keys_set {α : Type} {b k : Nat} {m : SMap α} (v : α) (h : above b (m.map (·.1))) (hk : b < k) :
    above b ((SMap.set m k v).map (·.1)) := by
  induction m with
  | nil => simpa [SMap.set, above] using hk
  | cons p m ih =>
    obtain ⟨k', v'⟩ := p
    rw [List.map_cons, above_cons] at h
    simp only [SMap.set]
    split
    · rw [List.map_cons, above_cons]; exact ⟨hk, h.2⟩
    · split
      · rw [List.map_cons, above_cons, List.map_cons, above_cons]; exact ⟨hk, h⟩
      · rw [List.map_cons, above_cons]; exact ⟨h.1, ih h.2⟩

theorem rising_set {α : Type} {m : SMap α} (k : Nat) (v : α) (h : rising (m.map (·.1)) = true) :
    rising ((SMap.set m k v).map (·.1)) = true := by
  induction m with
  | nil => simp [SMap.set, rising]
  | cons p m ih =>
    obtain ⟨k', v'⟩ := p
    rw [List.map_cons, rising_cons] at h
    simp only [SMap.set]
    split
    · subst_vars; rw [List.map_cons, rising_cons]; exact h
    · split
      · rename_i hlt
        rw [List.map_cons, rising_cons, List.map_cons, rising_cons]
        refine ⟨?_, h⟩
        intro x hx
        rcases List.mem_cons.mp hx with rfl | hx
        · exact hlt
        · exact Nat.lt_trans hlt (h.1 x hx)
      · rw [List.map_cons, rising_cons]
        exact ⟨above_keys_set v h.1 (by omega), ih h.2⟩

theorem mem_erase {α : Type} {m : SMap α} {k : Nat} {p : Nat × α} (h : p ∈ SMap.erase m k) : p ∈ m := by
  induction m with
  | nil => simp [SMap.erase] at h
  | cons q m ih =>
    obtain ⟨k', v'⟩ := q
    simp only [SMap.erase] at h
    split at h
    · exact List.mem_cons_of_mem _ (ih h)
    · rcases List.mem_cons.mp h with rfl | h
      · simp
      · exact List.mem_cons_of_mem _ (ih h)

theorem rising_erase {α : Type} {m : SMap α} (k : Nat) (h : rising (m.map (·.1)) = true) :
    rising ((SMap.erase m k).map (·.1)) = true := by
  induction m with
  | nil => simp [SMap.erase, rising]
  | cons p m ih =>
    obtain ⟨k', v'⟩ := p
    rw [List.map_cons, rising_cons] at h
    simp only [SMap.erase]
    split
    · exact ih h.2
    · rw [List.map_cons, rising_cons]
      refine ⟨?_, ih h.2⟩
      intro x hx
      obtain ⟨q, hq, rfl⟩ := List.mem_map.mp hx
      exact h.1 _ (List.mem_map.mpr ⟨q, mem_erase hq, rfl⟩)

theorem mem_set {α : Type} {m : SMap α} {k : Nat} {v : α} {p : Nat × α} (h : p ∈ SMap.set m k v) : p = (k, v) ∨ p ∈ m := by
  induction m with
  | nil => simpa [SMap.set] using h
  | cons q m ih =>
    obtain ⟨k', v'⟩ := q
    simp only [SMap.set] at h
    split at h
    · rcases List.mem_cons.mp h with h | h
      · exact .inl h
      · exact .inr (List.mem_cons_of_mem _ h)
    · split at h
      · rcases List.mem_cons.mp h with h | h
        · exact .inl h
        · exact .inr h
      · rcases List.mem_cons.mp h with rfl | h
        · exact .inr (by simp)
        · exact (ih h).imp id (List.mem_cons_of_mem _)

theorem mem_add {m : NSet} {k x : Nat} (h : x ∈ NSet.add m k) : x = k ∨ x ∈ m := by
  induction m with
  | nil => simpa [NSet.add] using h
  | cons y m ih =>
    simp only [NSet.add] at h
    split at h
    · exact .inr h
    · split at h
      · simpa using h
      · rcases List.mem_cons.mp h with rfl | h
        · exact .inr (by simp)
        · exact (ih h).imp id (List.mem_cons_of_mem _)

theorem rising_add {m : NSet} (k : Nat) (h : rising m = true) : rising (NSet.add m k) = true := by
  induction m with
  | nil => simp [NSet.add, rising]
  | cons y m ih =>
    rw [rising_cons] at h
    simp only [NSet.add]
    split
    · rw [rising_cons]; exact h
    · split
      · rename_i hlt
        rw [rising_cons, rising_cons]
        refine ⟨?_, h⟩
        intro x hx
        rcases List.mem_cons.mp hx with rfl | hx
        · exact hlt
        · exact Nat.lt_trans hlt (h.1 x hx)
      · rw [rising_cons]
        refine ⟨?_, ih h.2⟩
        intro x hx
        rcases mem_add hx with rfl | hx
        · omega
        · exact h.1 x hx

theorem mem_del {m : NSet} {k x : Nat} (h : x ∈ NSet.del m k) : x ∈ m := by
  induction m with
  | nil => simp [NSet.del] at h
  | cons y m ih =>
    simp only [NSet.del] at h
    split at h
    · exact List.mem_cons_of_mem _ (ih h)
    · rcases List.mem_cons.mp h with rfl | h
      · simp
      · exact List.mem_cons_of_mem _ (ih h)

theorem rising_del {m : NSet} (k : Nat) (h : rising m = true) : rising (NSet.del m k) = true := by
  induction m with
  | nil => simp [NSet.del, rising]
  | cons y m ih =>
    rw [rising_cons] at h
    simp only [NSet.del]
    split
    · exact ih h.2
    · rw [rising_cons]
      exact ⟨fun x hx => h.1 x (mem_del hx), ih h.2⟩

theorem rising_put {m : NSet} (k : Nat) (b : Bool) (h : rising m = true) : rising (NSet.put m k b) = true := by
  cases b
  · exact rising_del k h
  · exact rising_add k h

theorem rising_filter {l : List Nat} (p : Nat → Bool) (h : rising l = true) : rising (l.filter p) = true := by
  induction l with
  | nil => rfl
  | cons x l ih =>
    rw [rising_cons] at h
    simp only [List.filter_cons]
    split
    · rw [rising_cons]
      exact ⟨fun y hy => h.1 y (List.mem_filter.mp hy).1, ih h.2⟩
    · exact ih h.2

theorem Memory.wf_iff (m : Memory) : m.wf = true ↔
    rising (m.bytes.map (·.1)) = true ∧ (∀ p ∈ m.bytes, p.2 ≠ Memory.unlisted) ∧ rising m.tags = true ∧ rising m.poison = true := by
  simp [Memory.wf, and_assoc]

theorem Memory.wf_empty : Memory.empty.wf = true := by decide

theorem Memory.wf_setByte {m : Memory} (a : Nat) (b : Byte) (h : m.wf = true) : (m.setByte a b).wf = true := by
  rw [Memory.wf_iff] at h
  obtain ⟨h1, h2, h3, h4⟩ := h
  unfold Memory.setByte
  split
  · rw [Memory.wf_iff]
    exact ⟨rising_erase a h1, fun p hp => h2 p (mem_erase hp), h3, h4⟩
  · rename_i hb
    rw [Memory.wf_iff]
    refine ⟨rising_set a b h1, ?_, h3, h4⟩
    intro p hp
    rcases mem_set hp with rfl | hp
    · exact hb
    · exact h2 p hp

theorem Memory.wf_setTag {m : Memory} (a : Nat) (b : Bool) (h : m.wf = true) : (m.setTag a b).wf = true := by
  rw [Memory.wf_iff] at h ⊢
  exact ⟨h.1, h.2.1, rising_put _ b h.2.2.1, h.2.2.2⟩

theorem Memory.wf_setPoison {m : Memory} (a : Nat) (b : Bool) (h : m.wf = true) : (m.setPoison a b).wf = true := by
  rw [Memory.wf_iff] at h ⊢
  exact ⟨h.1, h.2.1, h.2.2.1, rising_put _ b h.2.2.2⟩

theorem Memory.wf_write {m : Memory} (a n v : Nat) (h : m.wf = true) : (m.write a n v).wf = true := by
  induction n generalizing m a v with
  | zero => exact h
  | succ n ih => exact ih _ _ (Memory.wf_setTag _ _ (Memory.wf_setByte _ _ h))

theorem Memory.wf_clearCovered {m : Memory} (l : List (Nat × Nat)) (h : m.wf = true) : (m.clearCovered l).wf = true := by
  rw [Memory.wf_iff] at h ⊢
  exact ⟨h.1, h.2.1, h.2.2.1, rising_filter _ h.2.2.2⟩

theorem rising_keys_filter {m : List Host.Cell} (p : Host.Cell → Bool) (h : rising (m.map (·.1)) = true) :
    rising ((m.filter p).map (·.1)) = true := by
  induction m with
  | nil => rfl
  | cons q m ih =>
    rw [List.map_cons, rising_cons] at h
    simp only [List.filter_cons]
    split
    · rw [List.map_cons, rising_cons]
      refine ⟨?_, ih h.2⟩
      intro y hy
      obtain ⟨z, hz, rfl⟩ := List.mem_map.mp hy
      exact h.1 _ (List.mem_map.mpr ⟨z, (List.mem_filter.mp hz).1, rfl⟩)
    · exact ih h.2

theorem Memory.wf_scrub {m : Memory} (a n : Nat) (h : m.wf = true) : (m.scrub a n).wf = true := by
  rw [Memory.wf_iff] at h ⊢
  exact ⟨rising_keys_filter _ h.1, fun p hp => h.2.1 p (List.mem_filter.mp hp).1, rising_filter _ h.2.2.1, rising_filter _ h.2.2.2⟩

end Sys2Proof.Machine
end

