-- ==== Sys2Proof/Laws/State.lean ====
section
/-!
SUPPORT. What each update of the state leaves and gives, field by field: cores, contexts, clusters, jobs, registers and memories.
-/

namespace Sys2Proof.Machine

/-! ## Fields that an update leaves -/

@[simp] theorem State.setCore_cur (s : State) (n : Nat) (k : Core) : (s.setCore n k).cur = s.cur := rfl
@[simp] theorem State.setCore_wk (s : State) (n : Nat) (k : Core) : (s.setCore n k).wk = s.wk := rfl
@[simp] theorem State.setCore_clusters (s : State) (n : Nat) (k : Core) : (s.setCore n k).clusters = s.clusters := rfl
@[simp] theorem State.setCore_main (s : State) (n : Nat) (k : Core) : (s.setCore n k).main = s.main := rfl
@[simp] theorem State.setCore_host (s : State) (n : Nat) (k : Core) : (s.setCore n k).host = s.host := rfl
@[simp] theorem State.setCore_xcache (s : State) (n : Nat) (k : Core) : (s.setCore n k).xcache = s.xcache := rfl
@[simp] theorem State.setCore_jobs (s : State) (n : Nat) (k : Core) : (s.setCore n k).jobs = s.jobs := rfl
@[simp] theorem State.setCore_dies (s : State) (n : Nat) (k : Core) : (s.setCore n k).dies = s.dies := rfl
@[simp] theorem State.setCore_units (s : State) (n : Nat) (k : Core) : (s.setCore n k).units = s.units := rfl
@[simp] theorem State.setCore_jobbase (s : State) (n : Nat) (k : Core) : (s.setCore n k).jobbase = s.jobbase := rfl
@[simp] theorem State.setCore_joblimit (s : State) (n : Nat) (k : Core) : (s.setCore n k).joblimit = s.joblimit := rfl
@[simp] theorem State.setCore_stdsel (s : State) (n : Nat) (k : Core) : (s.setCore n k).stdsel = s.stdsel := rfl
@[simp] theorem State.setCore_stile (s : State) (n : Nat) (k : Core) : (s.setCore n k).stile = s.stile := rfl
@[simp] theorem State.setCore_bars (s : State) (n : Nat) (k : Core) : (s.setCore n k).bars = s.bars := rfl
@[simp] theorem State.setCore_xfers (s : State) (n : Nat) (k : Core) : (s.setCore n k).xfers = s.xfers := rfl
@[simp] theorem State.setCore_xferNext (s : State) (n : Nat) (k : Core) : (s.setCore n k).xferNext = s.xferNext := rfl
@[simp] theorem State.setCore_frbase (s : State) (n : Nat) (k : Core) : (s.setCore n k).frbase = s.frbase := rfl
@[simp] theorem State.setCore_dterm (s : State) (n : Nat) (k : Core) : (s.setCore n k).dterm = s.dterm := rfl
@[simp] theorem State.setCore_dfence (s : State) (n : Nat) (k : Core) : (s.setCore n k).dfence = s.dfence := rfl
@[simp] theorem State.setCore_terms (s : State) (n : Nat) (k : Core) : (s.setCore n k).terms = s.terms := rfl
@[simp] theorem State.setCore_lnctl (s : State) (n : Nat) (k : Core) : (s.setCore n k).lnctl = s.lnctl := rfl
@[simp] theorem State.setCore_lnbase (s : State) (n : Nat) (k : Core) : (s.setCore n k).lnbase = s.lnbase := rfl
@[simp] theorem State.setCore_lnseq (s : State) (n : Nat) (k : Core) : (s.setCore n k).lnseq = s.lnseq := rfl
@[simp] theorem State.setCore_capture (s : State) (n : Nat) (k : Core) : (s.setCore n k).capture = s.capture := rfl
@[simp] theorem State.setCore_vdsel (s : State) (n : Nat) (k : Core) : (s.setCore n k).vdsel = s.vdsel := rfl
@[simp] theorem State.setCore_vdevs (s : State) (n : Nat) (k : Core) : (s.setCore n k).vdevs = s.vdevs := rfl
@[simp] theorem State.setCore_seals (s : State) (n : Nat) (k : Core) : (s.setCore n k).seals = s.seals := rfl
@[simp] theorem State.setCore_power (s : State) (n : Nat) (k : Core) : (s.setCore n k).power = s.power := rfl
@[simp] theorem State.setCore_hbmStacks (s : State) (n : Nat) (k : Core) : (s.setCore n k).hbmStacks = s.hbmStacks := rfl
@[simp] theorem State.setCore_grpbase (s : State) (n : Nat) (k : Core) : (s.setCore n k).grpbase = s.grpbase := rfl
@[simp] theorem State.setCore_fabid (s : State) (n : Nat) (k : Core) : (s.setCore n k).fabid = s.fabid := rfl
@[simp] theorem State.setCore_hr (s : State) (n : Nat) (k : Core) : (s.setCore n k).hr = s.hr := rfl
@[simp] theorem State.setCore_hrbase (s : State) (n : Nat) (k : Core) : (s.setCore n k).hrbase = s.hrbase := rfl
@[simp] theorem State.setCore_ports (s : State) (n : Nat) (k : Core) : (s.setCore n k).ports = s.ports := rfl
@[simp] theorem State.setCore_keys (s : State) (n : Nat) (k : Core) : (s.setCore n k).keys = s.keys := rfl
@[simp] theorem State.setCore_inbound (s : State) (n : Nat) (k : Core) : (s.setCore n k).inbound = s.inbound := rfl
@[simp] theorem State.setCore_heldReqs (s : State) (n : Nat) (k : Core) : (s.setCore n k).heldReqs = s.heldReqs := rfl
@[simp] theorem State.setCore_halt (s : State) (n : Nat) (k : Core) : (s.setCore n k).halt = s.halt := rfl
@[simp] theorem State.setCore_replies (s : State) (n : Nat) (k : Core) : (s.setCore n k).replies = s.replies := rfl
@[simp] theorem State.setCore_kept (s : State) (n : Nat) (k : Core) : (s.setCore n k).kept = s.kept := rfl
@[simp] theorem State.setCore_sealedPages (s : State) (n : Nat) (k : Core) : (s.setCore n k).sealedPages = s.sealedPages := rfl
@[simp] theorem State.setCore_cycle (s : State) (n : Nat) (k : Core) : (s.setCore n k).cycle = s.cycle := rfl
@[simp] theorem State.setCore_images (s : State) (n : Nat) (k : Core) : (s.setCore n k).images = s.images := rfl
@[simp] theorem State.setCore_uidNext (s : State) (n : Nat) (k : Core) : (s.setCore n k).uidNext = s.uidNext := rfl
@[simp] theorem State.setCore_agenda (s : State) (n : Nat) (k : Core) : (s.setCore n k).agenda = s.agenda := rfl
@[simp] theorem State.setCore_freeN (s : State) (n : Nat) (k : Core) : (s.setCore n k).freeN = s.freeN := rfl

@[simp] theorem State.setCtx_cur (s : State) (c : CtxId) (x : Ctx) : (s.setCtx c x).cur = s.cur := rfl
@[simp] theorem State.setCtx_wk (s : State) (c : CtxId) (x : Ctx) : (s.setCtx c x).wk = s.wk := rfl
@[simp] theorem State.setCtx_clusters (s : State) (c : CtxId) (x : Ctx) : (s.setCtx c x).clusters = s.clusters := rfl
@[simp] theorem State.setCtx_main (s : State) (c : CtxId) (x : Ctx) : (s.setCtx c x).main = s.main := rfl
@[simp] theorem State.setCtx_host (s : State) (c : CtxId) (x : Ctx) : (s.setCtx c x).host = s.host := rfl
@[simp] theorem State.setCtx_xcache (s : State) (c : CtxId) (x : Ctx) : (s.setCtx c x).xcache = s.xcache := rfl
@[simp] theorem State.setCtx_jobs (s : State) (c : CtxId) (x : Ctx) : (s.setCtx c x).jobs = s.jobs := rfl
@[simp] theorem State.setCtx_dies (s : State) (c : CtxId) (x : Ctx) : (s.setCtx c x).dies = s.dies := rfl
@[simp] theorem State.setCtx_units (s : State) (c : CtxId) (x : Ctx) : (s.setCtx c x).units = s.units := rfl
@[simp] theorem State.setCtx_jobbase (s : State) (c : CtxId) (x : Ctx) : (s.setCtx c x).jobbase = s.jobbase := rfl
@[simp] theorem State.setCtx_joblimit (s : State) (c : CtxId) (x : Ctx) : (s.setCtx c x).joblimit = s.joblimit := rfl
@[simp] theorem State.setCtx_stdsel (s : State) (c : CtxId) (x : Ctx) : (s.setCtx c x).stdsel = s.stdsel := rfl
@[simp] theorem State.setCtx_stile (s : State) (c : CtxId) (x : Ctx) : (s.setCtx c x).stile = s.stile := rfl
@[simp] theorem State.setCtx_bars (s : State) (c : CtxId) (x : Ctx) : (s.setCtx c x).bars = s.bars := rfl
@[simp] theorem State.setCtx_xfers (s : State) (c : CtxId) (x : Ctx) : (s.setCtx c x).xfers = s.xfers := rfl
@[simp] theorem State.setCtx_xferNext (s : State) (c : CtxId) (x : Ctx) : (s.setCtx c x).xferNext = s.xferNext := rfl
@[simp] theorem State.setCtx_frbase (s : State) (c : CtxId) (x : Ctx) : (s.setCtx c x).frbase = s.frbase := rfl
@[simp] theorem State.setCtx_dterm (s : State) (c : CtxId) (x : Ctx) : (s.setCtx c x).dterm = s.dterm := rfl
@[simp] theorem State.setCtx_dfence (s : State) (c : CtxId) (x : Ctx) : (s.setCtx c x).dfence = s.dfence := rfl
@[simp] theorem State.setCtx_terms (s : State) (c : CtxId) (x : Ctx) : (s.setCtx c x).terms = s.terms := rfl
@[simp] theorem State.setCtx_lnctl (s : State) (c : CtxId) (x : Ctx) : (s.setCtx c x).lnctl = s.lnctl := rfl
@[simp] theorem State.setCtx_lnbase (s : State) (c : CtxId) (x : Ctx) : (s.setCtx c x).lnbase = s.lnbase := rfl
@[simp] theorem State.setCtx_lnseq (s : State) (c : CtxId) (x : Ctx) : (s.setCtx c x).lnseq = s.lnseq := rfl
@[simp] theorem State.setCtx_capture (s : State) (c : CtxId) (x : Ctx) : (s.setCtx c x).capture = s.capture := rfl
@[simp] theorem State.setCtx_vdsel (s : State) (c : CtxId) (x : Ctx) : (s.setCtx c x).vdsel = s.vdsel := rfl
@[simp] theorem State.setCtx_vdevs (s : State) (c : CtxId) (x : Ctx) : (s.setCtx c x).vdevs = s.vdevs := rfl
@[simp] theorem State.setCtx_seals (s : State) (c : CtxId) (x : Ctx) : (s.setCtx c x).seals = s.seals := rfl
@[simp] theorem State.setCtx_power (s : State) (c : CtxId) (x : Ctx) : (s.setCtx c x).power = s.power := rfl
@[simp] theorem State.setCtx_hbmStacks (s : State) (c : CtxId) (x : Ctx) : (s.setCtx c x).hbmStacks = s.hbmStacks := rfl
@[simp] theorem State.setCtx_grpbase (s : State) (c : CtxId) (x : Ctx) : (s.setCtx c x).grpbase = s.grpbase := rfl
@[simp] theorem State.setCtx_fabid (s : State) (c : CtxId) (x : Ctx) : (s.setCtx c x).fabid = s.fabid := rfl
@[simp] theorem State.setCtx_hr (s : State) (c : CtxId) (x : Ctx) : (s.setCtx c x).hr = s.hr := rfl
@[simp] theorem State.setCtx_hrbase (s : State) (c : CtxId) (x : Ctx) : (s.setCtx c x).hrbase = s.hrbase := rfl
@[simp] theorem State.setCtx_ports (s : State) (c : CtxId) (x : Ctx) : (s.setCtx c x).ports = s.ports := rfl
@[simp] theorem State.setCtx_keys (s : State) (c : CtxId) (x : Ctx) : (s.setCtx c x).keys = s.keys := rfl
@[simp] theorem State.setCtx_inbound (s : State) (c : CtxId) (x : Ctx) : (s.setCtx c x).inbound = s.inbound := rfl
@[simp] theorem State.setCtx_heldReqs (s : State) (c : CtxId) (x : Ctx) : (s.setCtx c x).heldReqs = s.heldReqs := rfl
@[simp] theorem State.setCtx_halt (s : State) (c : CtxId) (x : Ctx) : (s.setCtx c x).halt = s.halt := rfl
@[simp] theorem State.setCtx_replies (s : State) (c : CtxId) (x : Ctx) : (s.setCtx c x).replies = s.replies := rfl
@[simp] theorem State.setCtx_kept (s : State) (c : CtxId) (x : Ctx) : (s.setCtx c x).kept = s.kept := rfl
@[simp] theorem State.setCtx_sealedPages (s : State) (c : CtxId) (x : Ctx) : (s.setCtx c x).sealedPages = s.sealedPages := rfl
@[simp] theorem State.setCtx_cycle (s : State) (c : CtxId) (x : Ctx) : (s.setCtx c x).cycle = s.cycle := rfl
@[simp] theorem State.setCtx_images (s : State) (c : CtxId) (x : Ctx) : (s.setCtx c x).images = s.images := rfl
@[simp] theorem State.setCtx_uidNext (s : State) (c : CtxId) (x : Ctx) : (s.setCtx c x).uidNext = s.uidNext := rfl
@[simp] theorem State.setCtx_agenda (s : State) (c : CtxId) (x : Ctx) : (s.setCtx c x).agenda = s.agenda := rfl
@[simp] theorem State.setCtx_freeN (s : State) (c : CtxId) (x : Ctx) : (s.setCtx c x).freeN = s.freeN := rfl

@[simp] theorem State.modCluster_cur (s : State) (n : Nat) (f : Cluster → Cluster) : (s.modCluster n f).cur = s.cur := rfl
@[simp] theorem State.modCluster_wk (s : State) (n : Nat) (f : Cluster → Cluster) : (s.modCluster n f).wk = s.wk := rfl
@[simp] theorem State.modCluster_cores (s : State) (n : Nat) (f : Cluster → Cluster) : (s.modCluster n f).cores = s.cores := rfl
@[simp] theorem State.modCluster_main (s : State) (n : Nat) (f : Cluster → Cluster) : (s.modCluster n f).main = s.main := rfl
@[simp] theorem State.modCluster_host (s : State) (n : Nat) (f : Cluster → Cluster) : (s.modCluster n f).host = s.host := rfl
@[simp] theorem State.modCluster_xcache (s : State) (n : Nat) (f : Cluster → Cluster) : (s.modCluster n f).xcache = s.xcache := rfl
@[simp] theorem State.modCluster_jobs (s : State) (n : Nat) (f : Cluster → Cluster) : (s.modCluster n f).jobs = s.jobs := rfl
@[simp] theorem State.modCluster_dies (s : State) (n : Nat) (f : Cluster → Cluster) : (s.modCluster n f).dies = s.dies := rfl
@[simp] theorem State.modCluster_units (s : State) (n : Nat) (f : Cluster → Cluster) : (s.modCluster n f).units = s.units := rfl
@[simp] theorem State.modCluster_jobbase (s : State) (n : Nat) (f : Cluster → Cluster) : (s.modCluster n f).jobbase = s.jobbase := rfl
@[simp] theorem State.modCluster_joblimit (s : State) (n : Nat) (f : Cluster → Cluster) : (s.modCluster n f).joblimit = s.joblimit := rfl
@[simp] theorem State.modCluster_stdsel (s : State) (n : Nat) (f : Cluster → Cluster) : (s.modCluster n f).stdsel = s.stdsel := rfl
@[simp] theorem State.modCluster_stile (s : State) (n : Nat) (f : Cluster → Cluster) : (s.modCluster n f).stile = s.stile := rfl
@[simp] theorem State.modCluster_bars (s : State) (n : Nat) (f : Cluster → Cluster) : (s.modCluster n f).bars = s.bars := rfl
@[simp] theorem State.modCluster_xfers (s : State) (n : Nat) (f : Cluster → Cluster) : (s.modCluster n f).xfers = s.xfers := rfl
@[simp] theorem State.modCluster_xferNext (s : State) (n : Nat) (f : Cluster → Cluster) : (s.modCluster n f).xferNext = s.xferNext := rfl
@[simp] theorem State.modCluster_frbase (s : State) (n : Nat) (f : Cluster → Cluster) : (s.modCluster n f).frbase = s.frbase := rfl
@[simp] theorem State.modCluster_dterm (s : State) (n : Nat) (f : Cluster → Cluster) : (s.modCluster n f).dterm = s.dterm := rfl
@[simp] theorem State.modCluster_dfence (s : State) (n : Nat) (f : Cluster → Cluster) : (s.modCluster n f).dfence = s.dfence := rfl
@[simp] theorem State.modCluster_terms (s : State) (n : Nat) (f : Cluster → Cluster) : (s.modCluster n f).terms = s.terms := rfl
@[simp] theorem State.modCluster_lnctl (s : State) (n : Nat) (f : Cluster → Cluster) : (s.modCluster n f).lnctl = s.lnctl := rfl
@[simp] theorem State.modCluster_lnbase (s : State) (n : Nat) (f : Cluster → Cluster) : (s.modCluster n f).lnbase = s.lnbase := rfl
@[simp] theorem State.modCluster_lnseq (s : State) (n : Nat) (f : Cluster → Cluster) : (s.modCluster n f).lnseq = s.lnseq := rfl
@[simp] theorem State.modCluster_capture (s : State) (n : Nat) (f : Cluster → Cluster) : (s.modCluster n f).capture = s.capture := rfl
@[simp] theorem State.modCluster_vdsel (s : State) (n : Nat) (f : Cluster → Cluster) : (s.modCluster n f).vdsel = s.vdsel := rfl
@[simp] theorem State.modCluster_vdevs (s : State) (n : Nat) (f : Cluster → Cluster) : (s.modCluster n f).vdevs = s.vdevs := rfl
@[simp] theorem State.modCluster_seals (s : State) (n : Nat) (f : Cluster → Cluster) : (s.modCluster n f).seals = s.seals := rfl
@[simp] theorem State.modCluster_power (s : State) (n : Nat) (f : Cluster → Cluster) : (s.modCluster n f).power = s.power := rfl
@[simp] theorem State.modCluster_hbmStacks (s : State) (n : Nat) (f : Cluster → Cluster) : (s.modCluster n f).hbmStacks = s.hbmStacks := rfl
@[simp] theorem State.modCluster_grpbase (s : State) (n : Nat) (f : Cluster → Cluster) : (s.modCluster n f).grpbase = s.grpbase := rfl
@[simp] theorem State.modCluster_fabid (s : State) (n : Nat) (f : Cluster → Cluster) : (s.modCluster n f).fabid = s.fabid := rfl
@[simp] theorem State.modCluster_hr (s : State) (n : Nat) (f : Cluster → Cluster) : (s.modCluster n f).hr = s.hr := rfl
@[simp] theorem State.modCluster_hrbase (s : State) (n : Nat) (f : Cluster → Cluster) : (s.modCluster n f).hrbase = s.hrbase := rfl
@[simp] theorem State.modCluster_ports (s : State) (n : Nat) (f : Cluster → Cluster) : (s.modCluster n f).ports = s.ports := rfl
@[simp] theorem State.modCluster_keys (s : State) (n : Nat) (f : Cluster → Cluster) : (s.modCluster n f).keys = s.keys := rfl
@[simp] theorem State.modCluster_inbound (s : State) (n : Nat) (f : Cluster → Cluster) : (s.modCluster n f).inbound = s.inbound := rfl
@[simp] theorem State.modCluster_heldReqs (s : State) (n : Nat) (f : Cluster → Cluster) : (s.modCluster n f).heldReqs = s.heldReqs := rfl
@[simp] theorem State.modCluster_halt (s : State) (n : Nat) (f : Cluster → Cluster) : (s.modCluster n f).halt = s.halt := rfl
@[simp] theorem State.modCluster_replies (s : State) (n : Nat) (f : Cluster → Cluster) : (s.modCluster n f).replies = s.replies := rfl
@[simp] theorem State.modCluster_kept (s : State) (n : Nat) (f : Cluster → Cluster) : (s.modCluster n f).kept = s.kept := rfl
@[simp] theorem State.modCluster_sealedPages (s : State) (n : Nat) (f : Cluster → Cluster) : (s.modCluster n f).sealedPages = s.sealedPages := rfl
@[simp] theorem State.modCluster_cycle (s : State) (n : Nat) (f : Cluster → Cluster) : (s.modCluster n f).cycle = s.cycle := rfl
@[simp] theorem State.modCluster_images (s : State) (n : Nat) (f : Cluster → Cluster) : (s.modCluster n f).images = s.images := rfl
@[simp] theorem State.modCluster_uidNext (s : State) (n : Nat) (f : Cluster → Cluster) : (s.modCluster n f).uidNext = s.uidNext := rfl
@[simp] theorem State.modCluster_agenda (s : State) (n : Nat) (f : Cluster → Cluster) : (s.modCluster n f).agenda = s.agenda := rfl
@[simp] theorem State.modCluster_freeN (s : State) (n : Nat) (f : Cluster → Cluster) : (s.modCluster n f).freeN = s.freeN := rfl

@[simp] theorem State.modJob_cur (s : State) (n : Nat) (f : Job → Job) : (s.modJob n f).cur = s.cur := rfl
@[simp] theorem State.modJob_wk (s : State) (n : Nat) (f : Job → Job) : (s.modJob n f).wk = s.wk := rfl
@[simp] theorem State.modJob_cores (s : State) (n : Nat) (f : Job → Job) : (s.modJob n f).cores = s.cores := rfl
@[simp] theorem State.modJob_clusters (s : State) (n : Nat) (f : Job → Job) : (s.modJob n f).clusters = s.clusters := rfl
@[simp] theorem State.modJob_main (s : State) (n : Nat) (f : Job → Job) : (s.modJob n f).main = s.main := rfl
@[simp] theorem State.modJob_host (s : State) (n : Nat) (f : Job → Job) : (s.modJob n f).host = s.host := rfl
@[simp] theorem State.modJob_xcache (s : State) (n : Nat) (f : Job → Job) : (s.modJob n f).xcache = s.xcache := rfl
@[simp] theorem State.modJob_dies (s : State) (n : Nat) (f : Job → Job) : (s.modJob n f).dies = s.dies := rfl
@[simp] theorem State.modJob_units (s : State) (n : Nat) (f : Job → Job) : (s.modJob n f).units = s.units := rfl
@[simp] theorem State.modJob_jobbase (s : State) (n : Nat) (f : Job → Job) : (s.modJob n f).jobbase = s.jobbase := rfl
@[simp] theorem State.modJob_joblimit (s : State) (n : Nat) (f : Job → Job) : (s.modJob n f).joblimit = s.joblimit := rfl
@[simp] theorem State.modJob_stdsel (s : State) (n : Nat) (f : Job → Job) : (s.modJob n f).stdsel = s.stdsel := rfl
@[simp] theorem State.modJob_stile (s : State) (n : Nat) (f : Job → Job) : (s.modJob n f).stile = s.stile := rfl
@[simp] theorem State.modJob_bars (s : State) (n : Nat) (f : Job → Job) : (s.modJob n f).bars = s.bars := rfl
@[simp] theorem State.modJob_xfers (s : State) (n : Nat) (f : Job → Job) : (s.modJob n f).xfers = s.xfers := rfl
@[simp] theorem State.modJob_xferNext (s : State) (n : Nat) (f : Job → Job) : (s.modJob n f).xferNext = s.xferNext := rfl
@[simp] theorem State.modJob_frbase (s : State) (n : Nat) (f : Job → Job) : (s.modJob n f).frbase = s.frbase := rfl
@[simp] theorem State.modJob_dterm (s : State) (n : Nat) (f : Job → Job) : (s.modJob n f).dterm = s.dterm := rfl
@[simp] theorem State.modJob_dfence (s : State) (n : Nat) (f : Job → Job) : (s.modJob n f).dfence = s.dfence := rfl
@[simp] theorem State.modJob_terms (s : State) (n : Nat) (f : Job → Job) : (s.modJob n f).terms = s.terms := rfl
@[simp] theorem State.modJob_lnctl (s : State) (n : Nat) (f : Job → Job) : (s.modJob n f).lnctl = s.lnctl := rfl
@[simp] theorem State.modJob_lnbase (s : State) (n : Nat) (f : Job → Job) : (s.modJob n f).lnbase = s.lnbase := rfl
@[simp] theorem State.modJob_lnseq (s : State) (n : Nat) (f : Job → Job) : (s.modJob n f).lnseq = s.lnseq := rfl
@[simp] theorem State.modJob_capture (s : State) (n : Nat) (f : Job → Job) : (s.modJob n f).capture = s.capture := rfl
@[simp] theorem State.modJob_vdsel (s : State) (n : Nat) (f : Job → Job) : (s.modJob n f).vdsel = s.vdsel := rfl
@[simp] theorem State.modJob_vdevs (s : State) (n : Nat) (f : Job → Job) : (s.modJob n f).vdevs = s.vdevs := rfl
@[simp] theorem State.modJob_seals (s : State) (n : Nat) (f : Job → Job) : (s.modJob n f).seals = s.seals := rfl
@[simp] theorem State.modJob_power (s : State) (n : Nat) (f : Job → Job) : (s.modJob n f).power = s.power := rfl
@[simp] theorem State.modJob_hbmStacks (s : State) (n : Nat) (f : Job → Job) : (s.modJob n f).hbmStacks = s.hbmStacks := rfl
@[simp] theorem State.modJob_grpbase (s : State) (n : Nat) (f : Job → Job) : (s.modJob n f).grpbase = s.grpbase := rfl
@[simp] theorem State.modJob_fabid (s : State) (n : Nat) (f : Job → Job) : (s.modJob n f).fabid = s.fabid := rfl
@[simp] theorem State.modJob_hr (s : State) (n : Nat) (f : Job → Job) : (s.modJob n f).hr = s.hr := rfl
@[simp] theorem State.modJob_hrbase (s : State) (n : Nat) (f : Job → Job) : (s.modJob n f).hrbase = s.hrbase := rfl
@[simp] theorem State.modJob_ports (s : State) (n : Nat) (f : Job → Job) : (s.modJob n f).ports = s.ports := rfl
@[simp] theorem State.modJob_keys (s : State) (n : Nat) (f : Job → Job) : (s.modJob n f).keys = s.keys := rfl
@[simp] theorem State.modJob_inbound (s : State) (n : Nat) (f : Job → Job) : (s.modJob n f).inbound = s.inbound := rfl
@[simp] theorem State.modJob_heldReqs (s : State) (n : Nat) (f : Job → Job) : (s.modJob n f).heldReqs = s.heldReqs := rfl
@[simp] theorem State.modJob_halt (s : State) (n : Nat) (f : Job → Job) : (s.modJob n f).halt = s.halt := rfl
@[simp] theorem State.modJob_replies (s : State) (n : Nat) (f : Job → Job) : (s.modJob n f).replies = s.replies := rfl
@[simp] theorem State.modJob_kept (s : State) (n : Nat) (f : Job → Job) : (s.modJob n f).kept = s.kept := rfl
@[simp] theorem State.modJob_sealedPages (s : State) (n : Nat) (f : Job → Job) : (s.modJob n f).sealedPages = s.sealedPages := rfl
@[simp] theorem State.modJob_cycle (s : State) (n : Nat) (f : Job → Job) : (s.modJob n f).cycle = s.cycle := rfl
@[simp] theorem State.modJob_images (s : State) (n : Nat) (f : Job → Job) : (s.modJob n f).images = s.images := rfl
@[simp] theorem State.modJob_uidNext (s : State) (n : Nat) (f : Job → Job) : (s.modJob n f).uidNext = s.uidNext := rfl
@[simp] theorem State.modJob_agenda (s : State) (n : Nat) (f : Job → Job) : (s.modJob n f).agenda = s.agenda := rfl
@[simp] theorem State.modJob_freeN (s : State) (n : Nat) (f : Job → Job) : (s.modJob n f).freeN = s.freeN := rfl

/-! ## The derived updates are these -/

theorem State.modCore_eq (s : State) (n : Nat) (f : Core → Core) : s.modCore n f = s.setCore n (f (s.core n)) := rfl
theorem State.modMyCore_eq (s : State) (f : Core → Core) : s.modMyCore f = s.setCore s.cur.core (f s.myCore) := rfl
theorem State.modCtx_eq (s : State) (c : CtxId) (f : Ctx → Ctx) : s.modCtx c f = s.setCtx c (f (s.ctx c)) := rfl
theorem State.modMe_eq (s : State) (f : Ctx → Ctx) : s.modMe f = s.setCtx s.cur (f s.me) := rfl
theorem State.setG_eq (s : State) (d : BitVec 5) (r : Reg) : s.setG d r = s.setCtx s.cur (s.me.setReg d.toNat r) := rfl
theorem State.advance_eq (s : State) :
    s.advance = s.setCtx s.cur { s.me with pc := s.me.nextHead s.me.pc, waiting := false } := rfl
theorem State.jump_eq (s : State) (a : Word) : s.jump a = s.setCtx s.cur { s.me with pc := a, waiting := false } := rfl
theorem State.mergeFlags_eq (s : State) (f : Flags) : s.mergeFlags f = s.setCtx s.cur (s.me.raiseFlags f) := rfl
theorem State.hold_eq (s : State) : s.hold = s.setCtx s.cur { s.me with waiting := true, gpos := 0 } := rfl
theorem State.myCore_eq (s : State) : s.myCore = s.core s.cur.core := rfl
theorem State.me_eq (s : State) : s.me = s.ctx s.cur := rfl

/-! ## Cores and contexts -/

@[simp] theorem State.core_setCore_self (s : State) (n : Nat) (k : Core) : (s.setCore n k).core n = k := by
  simp [State.core, State.setCore]
theorem State.core_setCore_ne (s : State) {n m : Nat} (k : Core) (h : m ≠ n) : (s.setCore n k).core m = s.core m := by
  simp [State.core, State.setCore, SMap.getD_set_ne _ _ _ h]
@[simp] theorem State.setCore_setCore (s : State) (n : Nat) (k j : Core) : (s.setCore n k).setCore n j = s.setCore n j := by
  simp [State.setCore]
@[simp] theorem State.core_setCtx_self (s : State) (c : CtxId) (x : Ctx) :
    (s.setCtx c x).core c.core = { s.core c.core with ctxs := SMap.set (s.core c.core).ctxs c.slot x } := by
  simp [State.setCtx, State.modCore]
theorem State.core_setCtx_ne (s : State) {c : CtxId} {n : Nat} (x : Ctx) (h : n ≠ c.core) : (s.setCtx c x).core n = s.core n :=
  State.core_setCore_ne _ _ h
@[simp] theorem State.ctx_setCtx_self (s : State) (c : CtxId) (x : Ctx) : (s.setCtx c x).ctx c = x := by
  simp [State.ctx]
theorem State.ctx_setCtx_ne (s : State) {c e : CtxId} (x : Ctx) (h : e ≠ c) : (s.setCtx c x).ctx e = s.ctx e := by
  by_cases hc : e.core = c.core
  · have hs : e.slot ≠ c.slot := by
      intro hs
      exact h (by cases e; cases c; simp_all)
    simp only [State.ctx, hc, State.core_setCtx_self]
    exact SMap.getD_set_ne _ _ _ hs
  · simp only [State.ctx, State.core_setCtx_ne s x hc]
@[simp] theorem State.setCtx_setCtx (s : State) (c : CtxId) (x y : Ctx) : (s.setCtx c x).setCtx c y = s.setCtx c y := by
  simp [State.setCtx, State.modCore]
@[simp] theorem State.me_setCtx_cur (s : State) (x : Ctx) : (s.setCtx s.cur x).me = x := State.ctx_setCtx_self s s.cur x
@[simp] theorem State.me_modMe (s : State) (f : Ctx → Ctx) : (s.modMe f).me = f s.me := State.me_setCtx_cur s _
@[simp] theorem State.cur_modMe (s : State) (f : Ctx → Ctx) : (s.modMe f).cur = s.cur := rfl

/-- A change of one context leaves everything of its core but the contexts. -/
@[simp] theorem State.core_setCtx_rest (s : State) (c : CtxId) (x : Ctx) (n : Nat) :
    { (s.setCtx c x).core n with ctxs := (s.core n).ctxs } = s.core n := by
  by_cases h : n = c.core
  · subst h; simp
  · simp [State.core_setCtx_ne s x h]

@[simp] theorem State.cluster_setCtx (s : State) (c : CtxId) (x : Ctx) (n : Nat) : (s.setCtx c x).cluster n = s.cluster n := rfl
@[simp] theorem State.jobOf_setCtx (s : State) (c : CtxId) (x : Ctx) (n : Nat) : (s.setCtx c x).jobOf n = s.jobOf n := rfl
@[simp] theorem State.cluster_modCluster_self (s : State) (n : Nat) (f : Cluster → Cluster) :
    (s.modCluster n f).cluster n = f (s.cluster n) := by
  simp [State.cluster, State.modCluster]
theorem State.cluster_modCluster_ne (s : State) {n m : Nat} (f : Cluster → Cluster) (h : m ≠ n) :
    (s.modCluster n f).cluster m = s.cluster m := by
  simp [State.cluster, State.modCluster, SMap.getD_set_ne _ _ _ h]
@[simp] theorem State.jobOf_modJob_self (s : State) (n : Nat) (f : Job → Job) : (s.modJob n f).jobOf n = f (s.jobOf n) := by
  simp [State.jobOf, State.modJob]
theorem State.jobOf_modJob_ne (s : State) {n m : Nat} (f : Job → Job) (h : m ≠ n) : (s.modJob n f).jobOf m = s.jobOf m := by
  simp [State.jobOf, State.modJob, SMap.getD_set_ne _ _ _ h]

/-! ## Registers -/

@[simp] theorem Reg.word_plain (w : Word) : (Reg.plain w).word = w := by simp [Reg.word, Reg.plain]
@[simp] theorem Reg.tag_plain (w : Word) : (Reg.plain w).tag = false := rfl
@[simp] theorem Ctx.reg_zero (c : Ctx) : c.reg 0 = Reg.zero := rfl
@[simp] theorem Ctx.setReg_zero (c : Ctx) (r : Reg) : c.setReg 0 r = c := rfl
theorem Ctx.reg_setReg_self (c : Ctx) {n : Nat} (r : Reg) (h : n ≠ 0) : (c.setReg n r).reg n = r := by
  simp [Ctx.setReg, Ctx.reg, h]
theorem Ctx.reg_setReg_ne (c : Ctx) {n m : Nat} (r : Reg) (h : m ≠ n) : (c.setReg n r).reg m = c.reg m := by
  unfold Ctx.setReg
  split
  · rfl
  · simp only [Ctx.reg, SMap.getD_set_ne _ _ _ h]

/-- Writing a register changes nothing of a context but its registers. -/
theorem Ctx.setReg_rest (c : Ctx) (n : Nat) (r : Reg) : c.setReg n r = { c with regs := (c.setReg n r).regs } := by
  unfold Ctx.setReg
  split <;> rfl

/-! ## Memories -/

@[simp] theorem State.memory_setCtx (s : State) (c : CtxId) (x : Ctx) (sp : Space) : (s.setCtx c x).memory sp = s.memory sp := by
  cases sp with
  | main => rfl
  | host => rfl
  | cmem n => rfl
  | spad n =>
    have h := congrArg Core.spad (State.core_setCtx_rest s c x n)
    simpa [State.memory] using h

@[simp] theorem State.memory_setMemory_self (s : State) (sp : Space) (m : Memory) : (s.setMemory sp m).memory sp = m := by
  cases sp <;> simp [State.setMemory, State.memory, State.modCore]

theorem State.memory_setMemory_ne (s : State) {sp sq : Space} (m : Memory) (h : sq ≠ sp) :
    (s.setMemory sp m).memory sq = s.memory sq := by
  cases sp <;> cases sq <;> simp_all [State.setMemory, State.memory, State.modCore, State.core_setCore_ne, State.cluster_modCluster_ne] <;>
    rfl

end Sys2Proof.Machine
end

