-- ==== Sys2Proof/Laws/Ops.lean ====
section
/-!
SUPPORT. What the shared operations do: the ends of an instruction's checks, translation and the checks of a target, and taking a trap.
-/

namespace Sys2Proof.Machine

/-! ## The ends of an instruction's checks -/

@[simp] theorem State.finish_ok (s t : State) : s.finish (.ok t) = .next t := rfl
@[simp] theorem State.finish_error (s : State) (t : Trap) : s.finish (.error t) = .next (s.takeTrap s.cur t) := rfl

@[simp] theorem State.finishOn_ok (s u t : State) : s.finishOn u (.ok t) = .next t := rfl
@[simp] theorem State.finishOn_error (s u : State) (t : Trap) : s.finishOn u (.error t) = .next (u.takeTrap s.cur t) := rfl

/-- An instruction's checks and effect always answer a next state: the effect's, or the trap's. -/
theorem State.finish_cases {s t : State} {r : Chk State} (h : s.finish r = .next t) :
    r = .ok t ∨ ∃ e, r = .error e ∧ t = s.takeTrap s.cur e := by
  cases r with
  | ok u => cases h; exact .inl rfl
  | error e => cases h; exact .inr ⟨e, rfl, rfl⟩

theorem State.need_true {s : State} {b : Bool} (cause : BitVec 8) (v p : Word) (h : b = true) : s.need b cause v p = .ok () := by
  simp [State.need, h]
theorem State.need_false {s : State} {b : Bool} (cause : BitVec 8) (v p : Word) (h : b = false) :
    s.need b cause v p = .error ⟨cause, s.me.pc, v, p⟩ := by
  simp [State.need, h, State.trapHere]

theorem State.controlOnly_control {s : State} (m : Chk State) (h : s.helper = false) : s.controlOnly m = s.finish m := by
  simp [State.controlOnly, h]
theorem State.controlOnly_helper {s : State} (m : Chk State) (h : s.helper = true) :
    s.controlOnly m = .next (s.takeTrap s.cur ⟨Cause.notInHelper, s.me.ghead, s.me.ir, s.position⟩) := by
  simp [State.controlOnly, h, State.decodeFault]
theorem State.controlOn_control {s : State} (u : State) (m : Chk State) (h : s.helper = false) : s.controlOn u m = s.finishOn u m := by
  simp [State.controlOn, h]
theorem State.controlOn_helper {s : State} (u : State) (m : Chk State) (h : s.helper = true) : s.controlOn u m = s.controlOnly m := by
  simp [State.controlOn, h]
theorem State.privileged_priv {s : State} (m : Chk State) (h : s.me.priv = true) : s.privileged m = s.finish m := by
  simp [State.privileged, h]
theorem State.privileged_user {s : State} (m : Chk State) (h : s.me.priv = false) :
    s.privileged m = .next (s.takeTrap s.cur ⟨Cause.priv, s.me.ghead, s.me.ir, s.position⟩) := by
  simp [State.privileged, h, State.decodeFault]

/-! ## Translation and targets -/

/-- A change of a context leaves every walk as it is. -/
theorem State.walkTables_setCtx (s : State) (c : CtxId) (x : Ctx) (va : Word) (k : Access) (p : Bool) (l : List Nat) (t : Nat) :
    (s.setCtx c x).walkTables va k p l t = s.walkTables va k p l t := by
  induction l generalizing t with
  | nil => rfl
  | cons a l ih =>
    simp only [State.walkTables, State.setCtx_main, ih]
    rfl

/-- A change of a context leaves every translation as it is, and stands beside what the translation changes. -/
theorem State.translate_setCtx (s : State) (c : CtxId) (x : Ctx) (w : Who) (va : Word) (k : Access) :
    (s.setCtx c x).translate w va k =
      match s.translate w va k with
      | .ok (u, l, b) => .ok (u.setCtx c x, l, b)
      | .error f => .error f := by
  have hwalk : (s.setCtx c x).walk w va k = s.walk w va k := by
    simp only [State.walk, State.walkTables_setCtx]
  have hst : ∀ f, (s.setCtx c x).staleEntry w va k f = s.staleEntry w va k f := fun f => rfl
  simp only [State.translate, hwalk, hst]
  cases s.staleEntry w va k (s.walk w va k) with
  | some e => simp only; split <;> rfl
  | none =>
    simp only
    cases s.walk w va k <;> rfl

/-- Translation changes device memory (A and D), the cached entries and the free-value counter, and nothing else. -/
theorem State.translate_frame {s u : State} {w : Who} {va : Word} {k : Access} {l : Loc} {b : Bool}
    (h : s.translate w va k = .ok (u, l, b)) : u = { s with main := u.main, xcache := u.xcache, freeN := u.freeN } := by
  unfold State.translate at h
  simp only at h
  split at h
  · split at h
    · cases h; rfl
    · cases h
  · split at h
    · cases h
    · cases h; rfl

/-- A change of a context leaves the checks of a target as they are, by whomever the line is fetched for. -/
theorem State.targetFor_setCtx (s : State) (c : CtxId) (x : Ctx) (w : Who) (lines : SMap (BitVec 512)) (a : Word) :
    (s.setCtx c x).targetFor w lines a = s.targetFor w lines a := by
  unfold State.targetFor
  split
  · rfl
  · have hf : (match (s.setCtx c x).fetchLine w lines a with
        | .ok (_, line) => Except.ok line
        | .error f => .error f) =
        (match s.fetchLine w lines a with
        | .ok (_, line) => Except.ok line
        | .error f => .error f) := by
      simp only [State.fetchLine, State.translate_setCtx]
      cases h : s.translate w (lineAddr a) .fetch with
      | error f => rfl
      | ok p =>
        obtain ⟨u, l, b⟩ := p
        have hl : ∀ o, (u.setCtx c x).chooseLine o l = u.chooseLine o l := by
          intro o
          simp only [State.chooseLine, State.readAt, State.memory_setCtx, State.setCtx_freeN]
          cases o <;> rfl
        have hh : (u.setCtx c x).homeFenced l = u.homeFenced l := rfl
        simp only [bind, Except.bind, hl, hh]
        cases ensure (!u.homeFenced l) Cause.linkDown a <;> [rfl; skip]
        cases ensure (lineFramed (u.chooseLine (SMap.find lines (lineKey l)) l)) Cause.illegalLine a <;> rfl
    cases h1 : (s.setCtx c x).fetchLine w lines a <;> cases h2 : s.fetchLine w lines a <;> simp_all

/-- The checks of a target depend on a context only through its domain, its privilege, its XLBASE and the lines it has fetched. -/
theorem State.checkTarget_setCtx {s : State} {c : CtxId} {x : Ctx} (a : Word) (h1 : x.dom = (s.ctx c).dom)
    (h2 : x.priv = (s.ctx c).priv) (h3 : x.xlbase = (s.ctx c).xlbase) (h4 : x.lines = (s.ctx c).lines) :
    (s.setCtx c x).checkTarget c a = s.checkTarget c a := by
  have hw : (s.setCtx c x).who c = s.who c := by simp [State.who, h1, h2, h3]
  simp only [State.checkTarget, hw, State.targetFor_setCtx, State.ctx_setCtx_self, h4]

/-- A change of a context stands beside what the fetch of a target's line changes. -/
theorem State.fetchedFor_setCtx (s : State) (c : CtxId) (x : Ctx) (w : Who) (a : Word) :
    (s.setCtx c x).fetchedFor w a = (s.fetchedFor w a).setCtx c x := by
  unfold State.fetchedFor State.walked
  split
  · rfl
  · rw [State.translate_setCtx]
    cases s.translate w (lineAddr a) .fetch <;> rfl

/-- The fetch of a target's line changes device memory (A), the cached entries and the free-value counter, and nothing else. -/
theorem State.fetchedFor_frame (s : State) (w : Who) (a : Word) :
    s.fetchedFor w a = { s with
      main := (s.fetchedFor w a).main, xcache := (s.fetchedFor w a).xcache, freeN := (s.fetchedFor w a).freeN } := by
  unfold State.fetchedFor State.walked
  split
  · rfl
  · split
    · exact State.translate_frame ‹_›
    · rfl

@[simp] theorem State.ctx_fetchedFor (s : State) (w : Who) (a : Word) (c : CtxId) : (s.fetchedFor w a).ctx c = s.ctx c := by
  rw [State.fetchedFor_frame]; rfl
@[simp] theorem State.core_fetchedFor (s : State) (w : Who) (a : Word) (n : Nat) : (s.fetchedFor w a).core n = s.core n := by
  rw [State.fetchedFor_frame]; rfl
@[simp] theorem State.cur_fetchedFor (s : State) (w : Who) (a : Word) : (s.fetchedFor w a).cur = s.cur := by
  rw [State.fetchedFor_frame]
/-- The fetch of a target's line changes no memory but device memory. -/
theorem State.memory_fetchedFor (s : State) (w : Who) (a : Word) {sp : Space} (h : sp ≠ .main) :
    (s.fetchedFor w a).memory sp = s.memory sp := by
  rw [State.fetchedFor_frame]
  cases sp <;> first | exact absurd rfl h | rfl

/-! ## Taking a trap -/

/-- The context after a trap: TVEC where it passes its checks, else halted where it stood. -/
def Ctx.trapped (x : Ctx) (slot : Nat) (t : Trap) (ok : Bool) : Ctx :=
  if ok then { x.enterTrap slot t with pc := x.tvec } else { x.enterTrap slot t with halted := true }

/-- Taking a trap replaces the context by the trapped one, beside what the fetch of TVEC's line changes, and changes nothing else; the
context goes on where TVEC passes its checks. -/
theorem State.takeTrap_eq (s : State) (c : CtxId) (t : Trap) :
    ∃ ok, s.takeTrap c t = (s.fetchedFor (s.trapReader c) (s.ctx c).tvec).setCtx c ((s.ctx c).trapped c.slot t ok) ∧
      (ok = true ↔ s.targetFor (s.trapReader c) (s.ctx c).lines (s.ctx c).tvec = .ok ()) := by
  have hw : (s.setCtx c ((s.ctx c).enterTrap c.slot t)).who c = s.trapReader c := by
    simp [State.who, State.trapReader, Ctx.enterTrap]
  have ht : ((s.ctx c).enterTrap c.slot t).tvec = (s.ctx c).tvec := rfl
  have hl : ((s.ctx c).enterTrap c.slot t).lines = (s.ctx c).lines := rfl
  have e : s.takeTrap c t = match s.targetFor (s.trapReader c) (s.ctx c).lines (s.ctx c).tvec with
      | .ok () => (s.fetchedFor (s.trapReader c) (s.ctx c).tvec).setCtx c ((s.ctx c).trapped c.slot t true)
      | .error _ => (s.fetchedFor (s.trapReader c) (s.ctx c).tvec).setCtx c ((s.ctx c).trapped c.slot t false) := by
    unfold State.takeTrap
    simp only [State.modCtx_eq, State.checkTarget, State.targetTouched, State.ctx_setCtx_self, hw, ht, hl, State.targetFor_setCtx,
      State.fetchedFor_setCtx, State.setCtx_setCtx]
    rfl
  cases h : s.targetFor (s.trapReader c) (s.ctx c).lines (s.ctx c).tvec with
  | ok v => exact ⟨true, by rw [e, h], by simp⟩
  | error f => exact ⟨false, by rw [e, h], by simp⟩

/-- A trapped context keeps its general registers. -/
@[simp] theorem Ctx.reg_trapped (x : Ctx) (slot : Nat) (t : Trap) (ok : Bool) (n : Nat) : (x.trapped slot t ok).reg n = x.reg n := by
  cases ok <;> rfl

/-- A trap changes no memory but device memory, where the fetch of TVEC's line sets A. -/
theorem State.memory_takeTrap (s : State) (c : CtxId) (t : Trap) {sp : Space} (h : sp ≠ .main) :
    (s.takeTrap c t).memory sp = s.memory sp := by
  obtain ⟨ok, e, -⟩ := State.takeTrap_eq s c t
  rw [e, State.memory_setCtx, State.memory_fetchedFor _ _ _ h]

end Sys2Proof.Machine
end

