-- ==== Sys2Proof/Laws/PerInstr.lean ====
section
/-!
SUPPORT. One lemma per instruction: the row under which it is encoded stands in the tables, its operand values fit the row's fields, and
the row makes the instruction from them. The steps without an encoding have none to show.
-/

namespace Sys2Proof.Laws.Encoding

/-- Values fit fields, one for one. -/
def Fit : List Field → List Nat → Prop
  | [], [] => True
  | f :: fs, v :: vs => v < 2 ^ f.width ∧ Fit fs vs
  | _, _ => False

/-- The coding of an instruction, where it has one, is right. -/
def Statement (i : Instr) : Prop :=
  match i.coding with
  | some (.core r vs) => (∃ k : Nat, coreRows[k]? = some r) ∧ Fit r.args vs ∧ r.instr vs = i
  | some (.walk r vs) => (∃ k : Nat, walkRows[k]? = some r) ∧ Fit r.args vs ∧ r.instr vs = i
  | none => True

theorem nop : Statement .nop := ⟨⟨0, rfl⟩, trivial, rfl⟩
theorem hend : Statement .hend := ⟨⟨1, rfl⟩, trivial, rfl⟩
theorem yield : Statement .yield := ⟨⟨2, rfl⟩, trivial, rfl⟩
theorem vsync : Statement .vsync := ⟨⟨3, rfl⟩, trivial, rfl⟩
theorem uiret : Statement .uiret := ⟨⟨4, rfl⟩, trivial, rfl⟩
theorem eret : Statement .eret := ⟨⟨5, rfl⟩, trivial, rfl⟩
theorem ifence : Statement .ifence := ⟨⟨6, rfl⟩, trivial, rfl⟩
theorem shfence : Statement .shfence := ⟨⟨7, rfl⟩, trivial, rfl⟩
theorem xfence : Statement .xfence := ⟨⟨8, rfl⟩, trivial, rfl⟩
theorem halt : Statement .halt := ⟨⟨9, rfl⟩, trivial, rfl⟩
theorem snap : Statement .snap := ⟨⟨10, rfl⟩, trivial, rfl⟩
theorem break_ : Statement .break_ := ⟨⟨11, rfl⟩, trivial, rfl⟩
theorem wait_ : ∀ x0 x1 x2 x3, Statement (.wait_ x0 x1 x2 x3) :=
  fun _ _ _ _ => ⟨⟨12, rfl⟩, ⟨BitVec.isLt _, BitVec.isLt _, BitVec.isLt _, BitVec.isLt _, trivial⟩, by
    simp [Row.instr, rowWait]⟩
theorem hstart : ∀ x0 x1 x2 x3, Statement (.hstart x0 x1 x2 x3) :=
  fun _ _ _ _ => ⟨⟨13, rfl⟩, ⟨BitVec.isLt _, BitVec.isLt _, BitVec.isLt _, BitVec.isLt _, trivial⟩, by
    simp [Row.instr, rowHstart]⟩
theorem hjoin : ∀ x0 x1, Statement (.hjoin x0 x1) :=
  fun _ _ => ⟨⟨14, rfl⟩, ⟨BitVec.isLt _, BitVec.isLt _, trivial⟩, by
    simp [Row.instr, rowHjoin]⟩
theorem hstat : ∀ x0 x1, Statement (.hstat x0 x1) :=
  fun _ _ => ⟨⟨15, rfl⟩, ⟨BitVec.isLt _, BitVec.isLt _, trivial⟩, by
    simp [Row.instr, rowHstat]⟩
theorem hkill : ∀ x0, Statement (.hkill x0) :=
  fun _ => ⟨⟨16, rfl⟩, ⟨BitVec.isLt _, trivial⟩, by
    simp [Row.instr, rowHkill]⟩
theorem trap : ∀ x0, Statement (.trap x0) :=
  fun _ => ⟨⟨17, rfl⟩, ⟨BitVec.isLt _, trivial⟩, by
    simp [Row.instr, rowTrap]⟩
theorem syscall : ∀ x0, Statement (.syscall x0) :=
  fun _ => ⟨⟨18, rfl⟩, ⟨BitVec.isLt _, trivial⟩, by
    simp [Row.instr, rowSyscall]⟩
theorem movfc : ∀ x0 x1, Statement (.movfc x0 x1) :=
  fun _ _ => ⟨⟨19, rfl⟩, ⟨BitVec.isLt _, BitVec.isLt _, trivial⟩, by
    simp [Row.instr, rowMovfc]⟩
theorem movtc : ∀ x0 x1, Statement (.movtc x0 x1) :=
  fun _ _ => ⟨⟨20, rfl⟩, ⟨BitVec.isLt _, BitVec.isLt _, trivial⟩, by
    simp [Row.instr, rowMovtc]⟩
theorem savectx : ∀ x0 x1 x2, Statement (.savectx x0 x1 x2) :=
  fun _ _ _ => ⟨⟨21, rfl⟩, ⟨BitVec.isLt _, BitVec.isLt _, BitVec.isLt _, trivial⟩, by
    simp [Row.instr, rowSavectx]⟩
theorem restctx : ∀ x0 x1 x2, Statement (.restctx x0 x1 x2) :=
  fun _ _ _ => ⟨⟨22, rfl⟩, ⟨BitVec.isLt _, BitVec.isLt _, BitVec.isLt _, trivial⟩, by
    simp [Row.instr, rowRestctx]⟩
theorem beq : ∀ x0 x1 x2, Statement (.beq x0 x1 x2) :=
  fun _ _ _ => ⟨⟨23, rfl⟩, ⟨BitVec.isLt _, BitVec.isLt _, BitVec.isLt _, trivial⟩, by
    simp [Row.instr, rowBeq]⟩
theorem bne : ∀ x0 x1 x2, Statement (.bne x0 x1 x2) :=
  fun _ _ _ => ⟨⟨24, rfl⟩, ⟨BitVec.isLt _, BitVec.isLt _, BitVec.isLt _, trivial⟩, by
    simp [Row.instr, rowBne]⟩
theorem blt : ∀ x0 x1 x2, Statement (.blt x0 x1 x2) :=
  fun _ _ _ => ⟨⟨25, rfl⟩, ⟨BitVec.isLt _, BitVec.isLt _, BitVec.isLt _, trivial⟩, by
    simp [Row.instr, rowBlt]⟩
theorem bge : ∀ x0 x1 x2, Statement (.bge x0 x1 x2) :=
  fun _ _ _ => ⟨⟨26, rfl⟩, ⟨BitVec.isLt _, BitVec.isLt _, BitVec.isLt _, trivial⟩, by
    simp [Row.instr, rowBge]⟩
theorem bltu : ∀ x0 x1 x2, Statement (.bltu x0 x1 x2) :=
  fun _ _ _ => ⟨⟨27, rfl⟩, ⟨BitVec.isLt _, BitVec.isLt _, BitVec.isLt _, trivial⟩, by
    simp [Row.instr, rowBltu]⟩
theorem bgeu : ∀ x0 x1 x2, Statement (.bgeu x0 x1 x2) :=
  fun _ _ _ => ⟨⟨28, rfl⟩, ⟨BitVec.isLt _, BitVec.isLt _, BitVec.isLt _, trivial⟩, by
    simp [Row.instr, rowBgeu]⟩
theorem br : ∀ x0, Statement (.br x0) :=
  fun _ => ⟨⟨29, rfl⟩, ⟨BitVec.isLt _, trivial⟩, by
    simp [Row.instr, rowBr]⟩
theorem call : ∀ x0 x1, Statement (.call x0 x1) :=
  fun _ _ => ⟨⟨30, rfl⟩, ⟨BitVec.isLt _, BitVec.isLt _, trivial⟩, by
    simp [Row.instr, rowCall]⟩
theorem jmpr : ∀ x0, Statement (.jmpr x0) :=
  fun _ => ⟨⟨31, rfl⟩, ⟨BitVec.isLt _, trivial⟩, by
    simp [Row.instr, rowJmpr]⟩
theorem callr : ∀ x0 x1, Statement (.callr x0 x1) :=
  fun _ _ => ⟨⟨32, rfl⟩, ⟨BitVec.isLt _, BitVec.isLt _, trivial⟩, by
    simp [Row.instr, rowCallr]⟩
theorem ret : ∀ x0, Statement (.ret x0) :=
  fun _ => ⟨⟨33, rfl⟩, ⟨BitVec.isLt _, trivial⟩, by
    simp [Row.instr, rowRet]⟩
theorem vloop : ∀ x0 x1 x2 x3, Statement (.vloop x0 x1 x2 x3) :=
  fun _ _ _ _ => ⟨⟨34, rfl⟩, ⟨BitVec.isLt _, BitVec.isLt _, BitVec.isLt _, BitVec.isLt _, trivial⟩, by
    simp [Row.instr, rowVloop]⟩
theorem add : ∀ x0 x1 x2, Statement (.add x0 x1 x2) :=
  fun _ _ _ => ⟨⟨35, rfl⟩, ⟨BitVec.isLt _, BitVec.isLt _, BitVec.isLt _, trivial⟩, by
    simp [Row.instr, rowAdd]⟩
theorem sub : ∀ x0 x1 x2, Statement (.sub x0 x1 x2) :=
  fun _ _ _ => ⟨⟨36, rfl⟩, ⟨BitVec.isLt _, BitVec.isLt _, BitVec.isLt _, trivial⟩, by
    simp [Row.instr, rowSub]⟩
theorem mul : ∀ x0 x1 x2, Statement (.mul x0 x1 x2) :=
  fun _ _ _ => ⟨⟨37, rfl⟩, ⟨BitVec.isLt _, BitVec.isLt _, BitVec.isLt _, trivial⟩, by
    simp [Row.instr, rowMul]⟩
theorem mulh : ∀ x0 x1 x2, Statement (.mulh x0 x1 x2) :=
  fun _ _ _ => ⟨⟨38, rfl⟩, ⟨BitVec.isLt _, BitVec.isLt _, BitVec.isLt _, trivial⟩, by
    simp [Row.instr, rowMulh]⟩
theorem mulhu : ∀ x0 x1 x2, Statement (.mulhu x0 x1 x2) :=
  fun _ _ _ => ⟨⟨39, rfl⟩, ⟨BitVec.isLt _, BitVec.isLt _, BitVec.isLt _, trivial⟩, by
    simp [Row.instr, rowMulhu]⟩
theorem div : ∀ x0 x1 x2, Statement (.div x0 x1 x2) :=
  fun _ _ _ => ⟨⟨40, rfl⟩, ⟨BitVec.isLt _, BitVec.isLt _, BitVec.isLt _, trivial⟩, by
    simp [Row.instr, rowDiv]⟩
theorem divu : ∀ x0 x1 x2, Statement (.divu x0 x1 x2) :=
  fun _ _ _ => ⟨⟨41, rfl⟩, ⟨BitVec.isLt _, BitVec.isLt _, BitVec.isLt _, trivial⟩, by
    simp [Row.instr, rowDivu]⟩
theorem rem : ∀ x0 x1 x2, Statement (.rem x0 x1 x2) :=
  fun _ _ _ => ⟨⟨42, rfl⟩, ⟨BitVec.isLt _, BitVec.isLt _, BitVec.isLt _, trivial⟩, by
    simp [Row.instr, rowRem]⟩
theorem remu : ∀ x0 x1 x2, Statement (.remu x0 x1 x2) :=
  fun _ _ _ => ⟨⟨43, rfl⟩, ⟨BitVec.isLt _, BitVec.isLt _, BitVec.isLt _, trivial⟩, by
    simp [Row.instr, rowRemu]⟩
theorem and_ : ∀ x0 x1 x2, Statement (.and_ x0 x1 x2) :=
  fun _ _ _ => ⟨⟨44, rfl⟩, ⟨BitVec.isLt _, BitVec.isLt _, BitVec.isLt _, trivial⟩, by
    simp [Row.instr, rowAnd]⟩
theorem or_ : ∀ x0 x1 x2, Statement (.or_ x0 x1 x2) :=
  fun _ _ _ => ⟨⟨45, rfl⟩, ⟨BitVec.isLt _, BitVec.isLt _, BitVec.isLt _, trivial⟩, by
    simp [Row.instr, rowOr]⟩
theorem xor_ : ∀ x0 x1 x2, Statement (.xor_ x0 x1 x2) :=
  fun _ _ _ => ⟨⟨46, rfl⟩, ⟨BitVec.isLt _, BitVec.isLt _, BitVec.isLt _, trivial⟩, by
    simp [Row.instr, rowXor]⟩
theorem andn : ∀ x0 x1 x2, Statement (.andn x0 x1 x2) :=
  fun _ _ _ => ⟨⟨47, rfl⟩, ⟨BitVec.isLt _, BitVec.isLt _, BitVec.isLt _, trivial⟩, by
    simp [Row.instr, rowAndn]⟩
theorem shl : ∀ x0 x1 x2, Statement (.shl x0 x1 x2) :=
  fun _ _ _ => ⟨⟨48, rfl⟩, ⟨BitVec.isLt _, BitVec.isLt _, BitVec.isLt _, trivial⟩, by
    simp [Row.instr, rowShl]⟩
theorem shr : ∀ x0 x1 x2, Statement (.shr x0 x1 x2) :=
  fun _ _ _ => ⟨⟨49, rfl⟩, ⟨BitVec.isLt _, BitVec.isLt _, BitVec.isLt _, trivial⟩, by
    simp [Row.instr, rowShr]⟩
theorem sra : ∀ x0 x1 x2, Statement (.sra x0 x1 x2) :=
  fun _ _ _ => ⟨⟨50, rfl⟩, ⟨BitVec.isLt _, BitVec.isLt _, BitVec.isLt _, trivial⟩, by
    simp [Row.instr, rowSra]⟩
theorem rotr : ∀ x0 x1 x2, Statement (.rotr x0 x1 x2) :=
  fun _ _ _ => ⟨⟨51, rfl⟩, ⟨BitVec.isLt _, BitVec.isLt _, BitVec.isLt _, trivial⟩, by
    simp [Row.instr, rowRotr]⟩
theorem min_ : ∀ x0 x1 x2, Statement (.min_ x0 x1 x2) :=
  fun _ _ _ => ⟨⟨52, rfl⟩, ⟨BitVec.isLt _, BitVec.isLt _, BitVec.isLt _, trivial⟩, by
    simp [Row.instr, rowMin]⟩
theorem max_ : ∀ x0 x1 x2, Statement (.max_ x0 x1 x2) :=
  fun _ _ _ => ⟨⟨53, rfl⟩, ⟨BitVec.isLt _, BitVec.isLt _, BitVec.isLt _, trivial⟩, by
    simp [Row.instr, rowMax]⟩
theorem minu : ∀ x0 x1 x2, Statement (.minu x0 x1 x2) :=
  fun _ _ _ => ⟨⟨54, rfl⟩, ⟨BitVec.isLt _, BitVec.isLt _, BitVec.isLt _, trivial⟩, by
    simp [Row.instr, rowMinu]⟩
theorem maxu : ∀ x0 x1 x2, Statement (.maxu x0 x1 x2) :=
  fun _ _ _ => ⟨⟨55, rfl⟩, ⟨BitVec.isLt _, BitVec.isLt _, BitVec.isLt _, trivial⟩, by
    simp [Row.instr, rowMaxu]⟩
theorem seq : ∀ x0 x1 x2, Statement (.seq x0 x1 x2) :=
  fun _ _ _ => ⟨⟨56, rfl⟩, ⟨BitVec.isLt _, BitVec.isLt _, BitVec.isLt _, trivial⟩, by
    simp [Row.instr, rowSeq]⟩
theorem sne : ∀ x0 x1 x2, Statement (.sne x0 x1 x2) :=
  fun _ _ _ => ⟨⟨57, rfl⟩, ⟨BitVec.isLt _, BitVec.isLt _, BitVec.isLt _, trivial⟩, by
    simp [Row.instr, rowSne]⟩
theorem slt : ∀ x0 x1 x2, Statement (.slt x0 x1 x2) :=
  fun _ _ _ => ⟨⟨58, rfl⟩, ⟨BitVec.isLt _, BitVec.isLt _, BitVec.isLt _, trivial⟩, by
    simp [Row.instr, rowSlt]⟩
theorem sltu : ∀ x0 x1 x2, Statement (.sltu x0 x1 x2) :=
  fun _ _ _ => ⟨⟨59, rfl⟩, ⟨BitVec.isLt _, BitVec.isLt _, BitVec.isLt _, trivial⟩, by
    simp [Row.instr, rowSltu]⟩
theorem sle : ∀ x0 x1 x2, Statement (.sle x0 x1 x2) :=
  fun _ _ _ => ⟨⟨60, rfl⟩, ⟨BitVec.isLt _, BitVec.isLt _, BitVec.isLt _, trivial⟩, by
    simp [Row.instr, rowSle]⟩
theorem sleu : ∀ x0 x1 x2, Statement (.sleu x0 x1 x2) :=
  fun _ _ _ => ⟨⟨61, rfl⟩, ⟨BitVec.isLt _, BitVec.isLt _, BitVec.isLt _, trivial⟩, by
    simp [Row.instr, rowSleu]⟩
theorem addi : ∀ x0 x1 x2, Statement (.addi x0 x1 x2) :=
  fun _ _ _ => ⟨⟨62, rfl⟩, ⟨BitVec.isLt _, BitVec.isLt _, BitVec.isLt _, trivial⟩, by
    simp [Row.instr, rowAddi]⟩
theorem andi : ∀ x0 x1 x2, Statement (.andi x0 x1 x2) :=
  fun _ _ _ => ⟨⟨63, rfl⟩, ⟨BitVec.isLt _, BitVec.isLt _, BitVec.isLt _, trivial⟩, by
    simp [Row.instr, rowAndi]⟩
theorem ori : ∀ x0 x1 x2, Statement (.ori x0 x1 x2) :=
  fun _ _ _ => ⟨⟨64, rfl⟩, ⟨BitVec.isLt _, BitVec.isLt _, BitVec.isLt _, trivial⟩, by
    simp [Row.instr, rowOri]⟩
theorem xori : ∀ x0 x1 x2, Statement (.xori x0 x1 x2) :=
  fun _ _ _ => ⟨⟨65, rfl⟩, ⟨BitVec.isLt _, BitVec.isLt _, BitVec.isLt _, trivial⟩, by
    simp [Row.instr, rowXori]⟩
theorem shli : ∀ x0 x1 x2, Statement (.shli x0 x1 x2) :=
  fun _ _ _ => ⟨⟨66, rfl⟩, ⟨BitVec.isLt _, BitVec.isLt _, BitVec.isLt _, trivial⟩, by
    simp [Row.instr, rowShli]⟩
theorem shri : ∀ x0 x1 x2, Statement (.shri x0 x1 x2) :=
  fun _ _ _ => ⟨⟨67, rfl⟩, ⟨BitVec.isLt _, BitVec.isLt _, BitVec.isLt _, trivial⟩, by
    simp [Row.instr, rowShri]⟩
theorem srai : ∀ x0 x1 x2, Statement (.srai x0 x1 x2) :=
  fun _ _ _ => ⟨⟨68, rfl⟩, ⟨BitVec.isLt _, BitVec.isLt _, BitVec.isLt _, trivial⟩, by
    simp [Row.instr, rowSrai]⟩
theorem rotri : ∀ x0 x1 x2, Statement (.rotri x0 x1 x2) :=
  fun _ _ _ => ⟨⟨69, rfl⟩, ⟨BitVec.isLt _, BitVec.isLt _, BitVec.isLt _, trivial⟩, by
    simp [Row.instr, rowRotri]⟩
theorem slti : ∀ x0 x1 x2, Statement (.slti x0 x1 x2) :=
  fun _ _ _ => ⟨⟨70, rfl⟩, ⟨BitVec.isLt _, BitVec.isLt _, BitVec.isLt _, trivial⟩, by
    simp [Row.instr, rowSlti]⟩
theorem sltui : ∀ x0 x1 x2, Statement (.sltui x0 x1 x2) :=
  fun _ _ _ => ⟨⟨71, rfl⟩, ⟨BitVec.isLt _, BitVec.isLt _, BitVec.isLt _, trivial⟩, by
    simp [Row.instr, rowSltui]⟩
theorem muli : ∀ x0 x1 x2, Statement (.muli x0 x1 x2) :=
  fun _ _ _ => ⟨⟨72, rfl⟩, ⟨BitVec.isLt _, BitVec.isLt _, BitVec.isLt _, trivial⟩, by
    simp [Row.instr, rowMuli]⟩
theorem clz : ∀ x0 x1, Statement (.clz x0 x1) :=
  fun _ _ => ⟨⟨73, rfl⟩, ⟨BitVec.isLt _, BitVec.isLt _, trivial⟩, by
    simp [Row.instr, rowClz]⟩
theorem ctz : ∀ x0 x1, Statement (.ctz x0 x1) :=
  fun _ _ => ⟨⟨74, rfl⟩, ⟨BitVec.isLt _, BitVec.isLt _, trivial⟩, by
    simp [Row.instr, rowCtz]⟩
theorem popc : ∀ x0 x1, Statement (.popc x0 x1) :=
  fun _ _ => ⟨⟨75, rfl⟩, ⟨BitVec.isLt _, BitVec.isLt _, trivial⟩, by
    simp [Row.instr, rowPopc]⟩
theorem sextb : ∀ x0 x1, Statement (.sextb x0 x1) :=
  fun _ _ => ⟨⟨76, rfl⟩, ⟨BitVec.isLt _, BitVec.isLt _, trivial⟩, by
    simp [Row.instr, rowSextb]⟩
theorem sexth : ∀ x0 x1, Statement (.sexth x0 x1) :=
  fun _ _ => ⟨⟨77, rfl⟩, ⟨BitVec.isLt _, BitVec.isLt _, trivial⟩, by
    simp [Row.instr, rowSexth]⟩
theorem sextw : ∀ x0 x1, Statement (.sextw x0 x1) :=
  fun _ _ => ⟨⟨78, rfl⟩, ⟨BitVec.isLt _, BitVec.isLt _, trivial⟩, by
    simp [Row.instr, rowSextw]⟩
theorem zextb : ∀ x0 x1, Statement (.zextb x0 x1) :=
  fun _ _ => ⟨⟨79, rfl⟩, ⟨BitVec.isLt _, BitVec.isLt _, trivial⟩, by
    simp [Row.instr, rowZextb]⟩
theorem zexth : ∀ x0 x1, Statement (.zexth x0 x1) :=
  fun _ _ => ⟨⟨80, rfl⟩, ⟨BitVec.isLt _, BitVec.isLt _, trivial⟩, by
    simp [Row.instr, rowZexth]⟩
theorem zextw : ∀ x0 x1, Statement (.zextw x0 x1) :=
  fun _ _ => ⟨⟨81, rfl⟩, ⟨BitVec.isLt _, BitVec.isLt _, trivial⟩, by
    simp [Row.instr, rowZextw]⟩
theorem brev : ∀ x0 x1, Statement (.brev x0 x1) :=
  fun _ _ => ⟨⟨82, rfl⟩, ⟨BitVec.isLt _, BitVec.isLt _, trivial⟩, by
    simp [Row.instr, rowBrev]⟩
theorem bswap : ∀ x0 x1, Statement (.bswap x0 x1) :=
  fun _ _ => ⟨⟨83, rfl⟩, ⟨BitVec.isLt _, BitVec.isLt _, trivial⟩, by
    simp [Row.instr, rowBswap]⟩
theorem ldi : ∀ x0 x1, Statement (.ldi x0 x1) :=
  fun _ _ => ⟨⟨84, rfl⟩, ⟨BitVec.isLt _, BitVec.isLt _, trivial⟩, by
    simp [Row.instr, rowLdi]⟩
theorem ldih : ∀ x0 x1 x2, Statement (.ldih x0 x1 x2) :=
  fun _ _ _ => ⟨⟨85, rfl⟩, ⟨BitVec.isLt _, BitVec.isLt _, BitVec.isLt _, trivial⟩, by
    simp [Row.instr, rowLdih]⟩
theorem ldipc : ∀ x0 x1, Statement (.ldipc x0 x1) :=
  fun _ _ => ⟨⟨86, rfl⟩, ⟨BitVec.isLt _, BitVec.isLt _, trivial⟩, by
    simp [Row.instr, rowLdipc]⟩
theorem sel : ∀ x0 x1 x2 x3, Statement (.sel x0 x1 x2 x3) :=
  fun _ _ _ _ => ⟨⟨87, rfl⟩, ⟨BitVec.isLt _, BitVec.isLt _, BitVec.isLt _, BitVec.isLt _, trivial⟩, by
    simp [Row.instr, rowSel]⟩
theorem bext : ∀ x0 x1 x2 x3 x4, Statement (.bext x0 x1 x2 x3 x4) :=
  fun _ _ _ _ _ => ⟨⟨88, rfl⟩, ⟨BitVec.isLt _, BitVec.isLt _, BitVec.isLt _, BitVec.isLt _, BitVec.isLt _, trivial⟩, by
    simp [Row.instr, rowBext]⟩
theorem bins : ∀ x0 x1 x2 x3 x4, Statement (.bins x0 x1 x2 x3 x4) :=
  fun _ _ _ _ _ => ⟨⟨89, rfl⟩, ⟨BitVec.isLt _, BitVec.isLt _, BitVec.isLt _, BitVec.isLt _, BitVec.isLt _, trivial⟩, by
    simp [Row.instr, rowBins]⟩
theorem sfadd : ∀ x0 x1 x2 x3, Statement (.sfadd x0 x1 x2 x3) :=
  fun _ _ _ _ => ⟨⟨90, rfl⟩, ⟨BitVec.isLt _, BitVec.isLt _, BitVec.isLt _, BitVec.isLt _, trivial⟩, by
    simp [Row.instr, rowSfadd]⟩
theorem sfsub : ∀ x0 x1 x2 x3, Statement (.sfsub x0 x1 x2 x3) :=
  fun _ _ _ _ => ⟨⟨91, rfl⟩, ⟨BitVec.isLt _, BitVec.isLt _, BitVec.isLt _, BitVec.isLt _, trivial⟩, by
    simp [Row.instr, rowSfsub]⟩
theorem sfmul : ∀ x0 x1 x2 x3, Statement (.sfmul x0 x1 x2 x3) :=
  fun _ _ _ _ => ⟨⟨92, rfl⟩, ⟨BitVec.isLt _, BitVec.isLt _, BitVec.isLt _, BitVec.isLt _, trivial⟩, by
    simp [Row.instr, rowSfmul]⟩
theorem sfdiv : ∀ x0 x1 x2 x3, Statement (.sfdiv x0 x1 x2 x3) :=
  fun _ _ _ _ => ⟨⟨93, rfl⟩, ⟨BitVec.isLt _, BitVec.isLt _, BitVec.isLt _, BitVec.isLt _, trivial⟩, by
    simp [Row.instr, rowSfdiv]⟩
theorem sfmin : ∀ x0 x1 x2 x3, Statement (.sfmin x0 x1 x2 x3) :=
  fun _ _ _ _ => ⟨⟨94, rfl⟩, ⟨BitVec.isLt _, BitVec.isLt _, BitVec.isLt _, BitVec.isLt _, trivial⟩, by
    simp [Row.instr, rowSfmin]⟩
theorem sfmax : ∀ x0 x1 x2 x3, Statement (.sfmax x0 x1 x2 x3) :=
  fun _ _ _ _ => ⟨⟨95, rfl⟩, ⟨BitVec.isLt _, BitVec.isLt _, BitVec.isLt _, BitVec.isLt _, trivial⟩, by
    simp [Row.instr, rowSfmax]⟩
theorem sfsqrt : ∀ x0 x1 x2, Statement (.sfsqrt x0 x1 x2) :=
  fun _ _ _ => ⟨⟨96, rfl⟩, ⟨BitVec.isLt _, BitVec.isLt _, BitVec.isLt _, trivial⟩, by
    simp [Row.instr, rowSfsqrt]⟩
theorem sfeq : ∀ x0 x1 x2 x3, Statement (.sfeq x0 x1 x2 x3) :=
  fun _ _ _ _ => ⟨⟨97, rfl⟩, ⟨BitVec.isLt _, BitVec.isLt _, BitVec.isLt _, BitVec.isLt _, trivial⟩, by
    simp [Row.instr, rowSfeq]⟩
theorem sflt : ∀ x0 x1 x2 x3, Statement (.sflt x0 x1 x2 x3) :=
  fun _ _ _ _ => ⟨⟨98, rfl⟩, ⟨BitVec.isLt _, BitVec.isLt _, BitVec.isLt _, BitVec.isLt _, trivial⟩, by
    simp [Row.instr, rowSflt]⟩
theorem sfle : ∀ x0 x1 x2 x3, Statement (.sfle x0 x1 x2 x3) :=
  fun _ _ _ _ => ⟨⟨99, rfl⟩, ⟨BitVec.isLt _, BitVec.isLt _, BitVec.isLt _, BitVec.isLt _, trivial⟩, by
    simp [Row.instr, rowSfle]⟩
theorem sffma : ∀ x0 x1 x2 x3 x4, Statement (.sffma x0 x1 x2 x3 x4) :=
  fun _ _ _ _ _ => ⟨⟨100, rfl⟩, ⟨BitVec.isLt _, BitVec.isLt _, BitVec.isLt _, BitVec.isLt _, BitVec.isLt _, trivial⟩, by
    simp [Row.instr, rowSffma]⟩
theorem sfcvt : ∀ x0 x1 x2 x3 x4, Statement (.sfcvt x0 x1 x2 x3 x4) :=
  fun _ _ _ _ _ => ⟨⟨101, rfl⟩, ⟨BitVec.isLt _, BitVec.isLt _, BitVec.isLt _, BitVec.isLt _, BitVec.isLt _, trivial⟩, by
    simp [Row.instr, rowSfcvt]⟩
theorem sfclass : ∀ x0 x1 x2, Statement (.sfclass x0 x1 x2) :=
  fun _ _ _ => ⟨⟨102, rfl⟩, ⟨BitVec.isLt _, BitVec.isLt _, BitVec.isLt _, trivial⟩, by
    simp [Row.instr, rowSfclass]⟩
theorem klim : ∀ x0 x1 x2, Statement (.klim x0 x1 x2) :=
  fun _ _ _ => ⟨⟨103, rfl⟩, ⟨BitVec.isLt _, BitVec.isLt _, BitVec.isLt _, trivial⟩, by
    simp [Row.instr, rowKlim]⟩
theorem kset : ∀ x0 x1 x2, Statement (.kset x0 x1 x2) :=
  fun _ _ _ => ⟨⟨104, rfl⟩, ⟨BitVec.isLt _, BitVec.isLt _, BitVec.isLt _, trivial⟩, by
    simp [Row.instr, rowKset]⟩
theorem kadv : ∀ x0 x1 x2, Statement (.kadv x0 x1 x2) :=
  fun _ _ _ => ⟨⟨105, rfl⟩, ⟨BitVec.isLt _, BitVec.isLt _, BitVec.isLt _, trivial⟩, by
    simp [Row.instr, rowKadv]⟩
theorem kmask : ∀ x0 x1 x2, Statement (.kmask x0 x1 x2) :=
  fun _ _ _ => ⟨⟨106, rfl⟩, ⟨BitVec.isLt _, BitVec.isLt _, BitVec.isLt _, trivial⟩, by
    simp [Row.instr, rowKmask]⟩
theorem klock : ∀ x0 x1 x2, Statement (.klock x0 x1 x2) :=
  fun _ _ _ => ⟨⟨107, rfl⟩, ⟨BitVec.isLt _, BitVec.isLt _, BitVec.isLt _, trivial⟩, by
    simp [Row.instr, rowKlock]⟩
theorem kopen : ∀ x0 x1 x2, Statement (.kopen x0 x1 x2) :=
  fun _ _ _ => ⟨⟨108, rfl⟩, ⟨BitVec.isLt _, BitVec.isLt _, BitVec.isLt _, trivial⟩, by
    simp [Row.instr, rowKopen]⟩
theorem kinfo : ∀ x0 x1 x2, Statement (.kinfo x0 x1 x2) :=
  fun _ _ _ => ⟨⟨109, rfl⟩, ⟨BitVec.isLt _, BitVec.isLt _, BitVec.isLt _, trivial⟩, by
    simp [Row.instr, rowKinfo]⟩
theorem kstrip : ∀ x0 x1, Statement (.kstrip x0 x1) :=
  fun _ _ => ⟨⟨110, rfl⟩, ⟨BitVec.isLt _, BitVec.isLt _, trivial⟩, by
    simp [Row.instr, rowKstrip]⟩
theorem kcopy : ∀ x0 x1, Statement (.kcopy x0 x1) :=
  fun _ _ => ⟨⟨111, rfl⟩, ⟨BitVec.isLt _, BitVec.isLt _, trivial⟩, by
    simp [Row.instr, rowKcopy]⟩
theorem klimi : ∀ x0 x1 x2, Statement (.klimi x0 x1 x2) :=
  fun _ _ _ => ⟨⟨112, rfl⟩, ⟨BitVec.isLt _, BitVec.isLt _, BitVec.isLt _, trivial⟩, by
    simp [Row.instr, rowKlimi]⟩
theorem kadvi : ∀ x0 x1 x2, Statement (.kadvi x0 x1 x2) :=
  fun _ _ _ => ⟨⟨113, rfl⟩, ⟨BitVec.isLt _, BitVec.isLt _, BitVec.isLt _, trivial⟩, by
    simp [Row.instr, rowKadvi]⟩
theorem kmaski : ∀ x0 x1 x2, Statement (.kmaski x0 x1 x2) :=
  fun _ _ _ => ⟨⟨114, rfl⟩, ⟨BitVec.isLt _, BitVec.isLt _, BitVec.isLt _, trivial⟩, by
    simp [Row.instr, rowKmaski]⟩
theorem ldb : ∀ x0 x1 x2, Statement (.ldb x0 x1 x2) :=
  fun _ _ _ => ⟨⟨115, rfl⟩, ⟨BitVec.isLt _, BitVec.isLt _, BitVec.isLt _, trivial⟩, by
    simp [Row.instr, rowLdb]⟩
theorem ldh : ∀ x0 x1 x2, Statement (.ldh x0 x1 x2) :=
  fun _ _ _ => ⟨⟨116, rfl⟩, ⟨BitVec.isLt _, BitVec.isLt _, BitVec.isLt _, trivial⟩, by
    simp [Row.instr, rowLdh]⟩
theorem ldw : ∀ x0 x1 x2, Statement (.ldw x0 x1 x2) :=
  fun _ _ _ => ⟨⟨117, rfl⟩, ⟨BitVec.isLt _, BitVec.isLt _, BitVec.isLt _, trivial⟩, by
    simp [Row.instr, rowLdw]⟩
theorem ldd : ∀ x0 x1 x2, Statement (.ldd x0 x1 x2) :=
  fun _ _ _ => ⟨⟨118, rfl⟩, ⟨BitVec.isLt _, BitVec.isLt _, BitVec.isLt _, trivial⟩, by
    simp [Row.instr, rowLdd]⟩
theorem ldbs : ∀ x0 x1 x2, Statement (.ldbs x0 x1 x2) :=
  fun _ _ _ => ⟨⟨119, rfl⟩, ⟨BitVec.isLt _, BitVec.isLt _, BitVec.isLt _, trivial⟩, by
    simp [Row.instr, rowLdbs]⟩
theorem ldhs : ∀ x0 x1 x2, Statement (.ldhs x0 x1 x2) :=
  fun _ _ _ => ⟨⟨120, rfl⟩, ⟨BitVec.isLt _, BitVec.isLt _, BitVec.isLt _, trivial⟩, by
    simp [Row.instr, rowLdhs]⟩
theorem ldws : ∀ x0 x1 x2, Statement (.ldws x0 x1 x2) :=
  fun _ _ _ => ⟨⟨121, rfl⟩, ⟨BitVec.isLt _, BitVec.isLt _, BitVec.isLt _, trivial⟩, by
    simp [Row.instr, rowLdws]⟩
theorem ldc : ∀ x0 x1 x2, Statement (.ldc x0 x1 x2) :=
  fun _ _ _ => ⟨⟨122, rfl⟩, ⟨BitVec.isLt _, BitVec.isLt _, BitVec.isLt _, trivial⟩, by
    simp [Row.instr, rowLdc]⟩
theorem stb : ∀ x0 x1 x2, Statement (.stb x0 x1 x2) :=
  fun _ _ _ => ⟨⟨123, rfl⟩, ⟨BitVec.isLt _, BitVec.isLt _, BitVec.isLt _, trivial⟩, by
    simp [Row.instr, rowStb]⟩
theorem sth : ∀ x0 x1 x2, Statement (.sth x0 x1 x2) :=
  fun _ _ _ => ⟨⟨124, rfl⟩, ⟨BitVec.isLt _, BitVec.isLt _, BitVec.isLt _, trivial⟩, by
    simp [Row.instr, rowSth]⟩
theorem stw : ∀ x0 x1 x2, Statement (.stw x0 x1 x2) :=
  fun _ _ _ => ⟨⟨125, rfl⟩, ⟨BitVec.isLt _, BitVec.isLt _, BitVec.isLt _, trivial⟩, by
    simp [Row.instr, rowStw]⟩
theorem std : ∀ x0 x1 x2, Statement (.std x0 x1 x2) :=
  fun _ _ _ => ⟨⟨126, rfl⟩, ⟨BitVec.isLt _, BitVec.isLt _, BitVec.isLt _, trivial⟩, by
    simp [Row.instr, rowStd]⟩
theorem stc : ∀ x0 x1 x2, Statement (.stc x0 x1 x2) :=
  fun _ _ _ => ⟨⟨127, rfl⟩, ⟨BitVec.isLt _, BitVec.isLt _, BitVec.isLt _, trivial⟩, by
    simp [Row.instr, rowStc]⟩
theorem ldbx : ∀ x0 x1 x2, Statement (.ldbx x0 x1 x2) :=
  fun _ _ _ => ⟨⟨128, rfl⟩, ⟨BitVec.isLt _, BitVec.isLt _, BitVec.isLt _, trivial⟩, by
    simp [Row.instr, rowLdbx]⟩
theorem ldhx : ∀ x0 x1 x2, Statement (.ldhx x0 x1 x2) :=
  fun _ _ _ => ⟨⟨129, rfl⟩, ⟨BitVec.isLt _, BitVec.isLt _, BitVec.isLt _, trivial⟩, by
    simp [Row.instr, rowLdhx]⟩
theorem ldwx : ∀ x0 x1 x2, Statement (.ldwx x0 x1 x2) :=
  fun _ _ _ => ⟨⟨130, rfl⟩, ⟨BitVec.isLt _, BitVec.isLt _, BitVec.isLt _, trivial⟩, by
    simp [Row.instr, rowLdwx]⟩
theorem lddx : ∀ x0 x1 x2, Statement (.lddx x0 x1 x2) :=
  fun _ _ _ => ⟨⟨131, rfl⟩, ⟨BitVec.isLt _, BitVec.isLt _, BitVec.isLt _, trivial⟩, by
    simp [Row.instr, rowLddx]⟩
theorem stbx : ∀ x0 x1 x2, Statement (.stbx x0 x1 x2) :=
  fun _ _ _ => ⟨⟨132, rfl⟩, ⟨BitVec.isLt _, BitVec.isLt _, BitVec.isLt _, trivial⟩, by
    simp [Row.instr, rowStbx]⟩
theorem sthx : ∀ x0 x1 x2, Statement (.sthx x0 x1 x2) :=
  fun _ _ _ => ⟨⟨133, rfl⟩, ⟨BitVec.isLt _, BitVec.isLt _, BitVec.isLt _, trivial⟩, by
    simp [Row.instr, rowSthx]⟩
theorem stwx : ∀ x0 x1 x2, Statement (.stwx x0 x1 x2) :=
  fun _ _ _ => ⟨⟨134, rfl⟩, ⟨BitVec.isLt _, BitVec.isLt _, BitVec.isLt _, trivial⟩, by
    simp [Row.instr, rowStwx]⟩
theorem stdx : ∀ x0 x1 x2, Statement (.stdx x0 x1 x2) :=
  fun _ _ _ => ⟨⟨135, rfl⟩, ⟨BitVec.isLt _, BitVec.isLt _, BitVec.isLt _, trivial⟩, by
    simp [Row.instr, rowStdx]⟩
theorem ldm : ∀ x0 x1 x2 x3, Statement (.ldm x0 x1 x2 x3) :=
  fun _ _ _ _ => ⟨⟨136, rfl⟩, ⟨BitVec.isLt _, BitVec.isLt _, BitVec.isLt _, BitVec.isLt _, trivial⟩, by
    simp [Row.instr, rowLdm]⟩
theorem stm : ∀ x0 x1 x2 x3, Statement (.stm x0 x1 x2 x3) :=
  fun _ _ _ _ => ⟨⟨137, rfl⟩, ⟨BitVec.isLt _, BitVec.isLt _, BitVec.isLt _, BitVec.isLt _, trivial⟩, by
    simp [Row.instr, rowStm]⟩
theorem amoadd : ∀ x0 x1 x2 x3 x4 x5, Statement (.amoadd x0 x1 x2 x3 x4 x5) :=
  fun _ _ _ _ _ _ => ⟨⟨138, rfl⟩, ⟨BitVec.isLt _, BitVec.isLt _, BitVec.isLt _, BitVec.isLt _, BitVec.isLt _, BitVec.isLt _, trivial⟩, by
    simp [Row.instr, rowAmoadd]⟩
theorem amoand : ∀ x0 x1 x2 x3 x4 x5, Statement (.amoand x0 x1 x2 x3 x4 x5) :=
  fun _ _ _ _ _ _ => ⟨⟨139, rfl⟩, ⟨BitVec.isLt _, BitVec.isLt _, BitVec.isLt _, BitVec.isLt _, BitVec.isLt _, BitVec.isLt _, trivial⟩, by
    simp [Row.instr, rowAmoand]⟩
theorem amoor : ∀ x0 x1 x2 x3 x4 x5, Statement (.amoor x0 x1 x2 x3 x4 x5) :=
  fun _ _ _ _ _ _ => ⟨⟨140, rfl⟩, ⟨BitVec.isLt _, BitVec.isLt _, BitVec.isLt _, BitVec.isLt _, BitVec.isLt _, BitVec.isLt _, trivial⟩, by
    simp [Row.instr, rowAmoor]⟩
theorem amoxor : ∀ x0 x1 x2 x3 x4 x5, Statement (.amoxor x0 x1 x2 x3 x4 x5) :=
  fun _ _ _ _ _ _ => ⟨⟨141, rfl⟩, ⟨BitVec.isLt _, BitVec.isLt _, BitVec.isLt _, BitVec.isLt _, BitVec.isLt _, BitVec.isLt _, trivial⟩, by
    simp [Row.instr, rowAmoxor]⟩
theorem amoswap : ∀ x0 x1 x2 x3 x4 x5, Statement (.amoswap x0 x1 x2 x3 x4 x5) :=
  fun _ _ _ _ _ _ => ⟨⟨142, rfl⟩, ⟨BitVec.isLt _, BitVec.isLt _, BitVec.isLt _, BitVec.isLt _, BitVec.isLt _, BitVec.isLt _, trivial⟩, by
    simp [Row.instr, rowAmoswap]⟩
theorem amomin : ∀ x0 x1 x2 x3 x4 x5, Statement (.amomin x0 x1 x2 x3 x4 x5) :=
  fun _ _ _ _ _ _ => ⟨⟨143, rfl⟩, ⟨BitVec.isLt _, BitVec.isLt _, BitVec.isLt _, BitVec.isLt _, BitVec.isLt _, BitVec.isLt _, trivial⟩, by
    simp [Row.instr, rowAmomin]⟩
theorem amomax : ∀ x0 x1 x2 x3 x4 x5, Statement (.amomax x0 x1 x2 x3 x4 x5) :=
  fun _ _ _ _ _ _ => ⟨⟨144, rfl⟩, ⟨BitVec.isLt _, BitVec.isLt _, BitVec.isLt _, BitVec.isLt _, BitVec.isLt _, BitVec.isLt _, trivial⟩, by
    simp [Row.instr, rowAmomax]⟩
theorem amominu : ∀ x0 x1 x2 x3 x4 x5, Statement (.amominu x0 x1 x2 x3 x4 x5) :=
  fun _ _ _ _ _ _ => ⟨⟨145, rfl⟩, ⟨BitVec.isLt _, BitVec.isLt _, BitVec.isLt _, BitVec.isLt _, BitVec.isLt _, BitVec.isLt _, trivial⟩, by
    simp [Row.instr, rowAmominu]⟩
theorem amomaxu : ∀ x0 x1 x2 x3 x4 x5, Statement (.amomaxu x0 x1 x2 x3 x4 x5) :=
  fun _ _ _ _ _ _ => ⟨⟨146, rfl⟩, ⟨BitVec.isLt _, BitVec.isLt _, BitVec.isLt _, BitVec.isLt _, BitVec.isLt _, BitVec.isLt _, trivial⟩, by
    simp [Row.instr, rowAmomaxu]⟩
theorem cas : ∀ x0 x1 x2 x3 x4 x5 x6 x7, Statement (.cas x0 x1 x2 x3 x4 x5 x6 x7) :=
  fun _ _ _ _ _ _ _ _ => ⟨⟨147, rfl⟩, ⟨BitVec.isLt _, BitVec.isLt _, BitVec.isLt _, BitVec.isLt _, BitVec.isLt _, BitVec.isLt _, BitVec.isLt _, BitVec.isLt _, trivial⟩, by
    simp [Row.instr, rowCas]⟩
theorem cas2 : ∀ x0 x1 x2 x3 x4 x5 x6, Statement (.cas2 x0 x1 x2 x3 x4 x5 x6) :=
  fun _ _ _ _ _ _ _ => ⟨⟨148, rfl⟩, ⟨BitVec.isLt _, BitVec.isLt _, BitVec.isLt _, BitVec.isLt _, BitVec.isLt _, BitVec.isLt _, BitVec.isLt _, trivial⟩, by
    simp [Row.instr, rowCas2]⟩
theorem ldaq : ∀ x0 x1 x2 x3 x4, Statement (.ldaq x0 x1 x2 x3 x4) :=
  fun _ _ _ _ _ => ⟨⟨149, rfl⟩, ⟨BitVec.isLt _, BitVec.isLt _, BitVec.isLt _, BitVec.isLt _, BitVec.isLt _, trivial⟩, by
    simp [Row.instr, rowLdaq]⟩
theorem strl : ∀ x0 x1 x2 x3 x4, Statement (.strl x0 x1 x2 x3 x4) :=
  fun _ _ _ _ _ => ⟨⟨150, rfl⟩, ⟨BitVec.isLt _, BitVec.isLt _, BitVec.isLt _, BitVec.isLt _, BitVec.isLt _, trivial⟩, by
    simp [Row.instr, rowStrl]⟩
theorem fence : ∀ x0 x1, Statement (.fence x0 x1) :=
  fun _ _ => ⟨⟨151, rfl⟩, ⟨BitVec.isLt _, BitVec.isLt _, trivial⟩, by
    simp [Row.instr, rowFence]⟩
theorem vadd : ∀ x0 x1 x2 x3 x4, Statement (.vadd x0 x1 x2 x3 x4) :=
  fun _ _ _ _ _ => ⟨⟨152, rfl⟩, ⟨BitVec.isLt _, BitVec.isLt _, BitVec.isLt _, BitVec.isLt _, BitVec.isLt _, trivial⟩, by
    simp [Row.instr, rowVadd]⟩
theorem vsub : ∀ x0 x1 x2 x3 x4, Statement (.vsub x0 x1 x2 x3 x4) :=
  fun _ _ _ _ _ => ⟨⟨153, rfl⟩, ⟨BitVec.isLt _, BitVec.isLt _, BitVec.isLt _, BitVec.isLt _, BitVec.isLt _, trivial⟩, by
    simp [Row.instr, rowVsub]⟩
theorem vmul : ∀ x0 x1 x2 x3 x4, Statement (.vmul x0 x1 x2 x3 x4) :=
  fun _ _ _ _ _ => ⟨⟨154, rfl⟩, ⟨BitVec.isLt _, BitVec.isLt _, BitVec.isLt _, BitVec.isLt _, BitVec.isLt _, trivial⟩, by
    simp [Row.instr, rowVmul]⟩
theorem vmin : ∀ x0 x1 x2 x3 x4, Statement (.vmin x0 x1 x2 x3 x4) :=
  fun _ _ _ _ _ => ⟨⟨155, rfl⟩, ⟨BitVec.isLt _, BitVec.isLt _, BitVec.isLt _, BitVec.isLt _, BitVec.isLt _, trivial⟩, by
    simp [Row.instr, rowVmin]⟩
theorem vmax : ∀ x0 x1 x2 x3 x4, Statement (.vmax x0 x1 x2 x3 x4) :=
  fun _ _ _ _ _ => ⟨⟨156, rfl⟩, ⟨BitVec.isLt _, BitVec.isLt _, BitVec.isLt _, BitVec.isLt _, BitVec.isLt _, trivial⟩, by
    simp [Row.instr, rowVmax]⟩
theorem vand : ∀ x0 x1 x2 x3, Statement (.vand x0 x1 x2 x3) :=
  fun _ _ _ _ => ⟨⟨157, rfl⟩, ⟨BitVec.isLt _, BitVec.isLt _, BitVec.isLt _, BitVec.isLt _, trivial⟩, by
    simp [Row.instr, rowVand]⟩
theorem vor : ∀ x0 x1 x2 x3, Statement (.vor x0 x1 x2 x3) :=
  fun _ _ _ _ => ⟨⟨158, rfl⟩, ⟨BitVec.isLt _, BitVec.isLt _, BitVec.isLt _, BitVec.isLt _, trivial⟩, by
    simp [Row.instr, rowVor]⟩
theorem vxor : ∀ x0 x1 x2 x3, Statement (.vxor x0 x1 x2 x3) :=
  fun _ _ _ _ => ⟨⟨159, rfl⟩, ⟨BitVec.isLt _, BitVec.isLt _, BitVec.isLt _, BitVec.isLt _, trivial⟩, by
    simp [Row.instr, rowVxor]⟩
theorem vandn : ∀ x0 x1 x2 x3, Statement (.vandn x0 x1 x2 x3) :=
  fun _ _ _ _ => ⟨⟨160, rfl⟩, ⟨BitVec.isLt _, BitVec.isLt _, BitVec.isLt _, BitVec.isLt _, trivial⟩, by
    simp [Row.instr, rowVandn]⟩
theorem vshl : ∀ x0 x1 x2 x3, Statement (.vshl x0 x1 x2 x3) :=
  fun _ _ _ _ => ⟨⟨161, rfl⟩, ⟨BitVec.isLt _, BitVec.isLt _, BitVec.isLt _, BitVec.isLt _, trivial⟩, by
    simp [Row.instr, rowVshl]⟩
theorem vshr : ∀ x0 x1 x2 x3, Statement (.vshr x0 x1 x2 x3) :=
  fun _ _ _ _ => ⟨⟨162, rfl⟩, ⟨BitVec.isLt _, BitVec.isLt _, BitVec.isLt _, BitVec.isLt _, trivial⟩, by
    simp [Row.instr, rowVshr]⟩
theorem vsra : ∀ x0 x1 x2 x3, Statement (.vsra x0 x1 x2 x3) :=
  fun _ _ _ _ => ⟨⟨163, rfl⟩, ⟨BitVec.isLt _, BitVec.isLt _, BitVec.isLt _, BitVec.isLt _, trivial⟩, by
    simp [Row.instr, rowVsra]⟩
theorem vscaleb : ∀ x0 x1 x2 x3 x4, Statement (.vscaleb x0 x1 x2 x3 x4) :=
  fun _ _ _ _ _ => ⟨⟨164, rfl⟩, ⟨BitVec.isLt _, BitVec.isLt _, BitVec.isLt _, BitVec.isLt _, BitVec.isLt _, trivial⟩, by
    simp [Row.instr, rowVscaleb]⟩
theorem vadds : ∀ x0 x1 x2 x3 x4, Statement (.vadds x0 x1 x2 x3 x4) :=
  fun _ _ _ _ _ => ⟨⟨165, rfl⟩, ⟨BitVec.isLt _, BitVec.isLt _, BitVec.isLt _, BitVec.isLt _, BitVec.isLt _, trivial⟩, by
    simp [Row.instr, rowVadds]⟩
theorem vsubs : ∀ x0 x1 x2 x3 x4, Statement (.vsubs x0 x1 x2 x3 x4) :=
  fun _ _ _ _ _ => ⟨⟨166, rfl⟩, ⟨BitVec.isLt _, BitVec.isLt _, BitVec.isLt _, BitVec.isLt _, BitVec.isLt _, trivial⟩, by
    simp [Row.instr, rowVsubs]⟩
theorem vabsd : ∀ x0 x1 x2 x3 x4, Statement (.vabsd x0 x1 x2 x3 x4) :=
  fun _ _ _ _ _ => ⟨⟨167, rfl⟩, ⟨BitVec.isLt _, BitVec.isLt _, BitVec.isLt _, BitVec.isLt _, BitVec.isLt _, trivial⟩, by
    simp [Row.instr, rowVabsd]⟩
theorem vmov : ∀ x0 x1 x2, Statement (.vmov x0 x1 x2) :=
  fun _ _ _ => ⟨⟨168, rfl⟩, ⟨BitVec.isLt _, BitVec.isLt _, BitVec.isLt _, trivial⟩, by
    simp [Row.instr, rowVmov]⟩
theorem vneg : ∀ x0 x1 x2, Statement (.vneg x0 x1 x2) :=
  fun _ _ _ => ⟨⟨169, rfl⟩, ⟨BitVec.isLt _, BitVec.isLt _, BitVec.isLt _, trivial⟩, by
    simp [Row.instr, rowVneg]⟩
theorem vabs : ∀ x0 x1 x2, Statement (.vabs x0 x1 x2) :=
  fun _ _ _ => ⟨⟨170, rfl⟩, ⟨BitVec.isLt _, BitVec.isLt _, BitVec.isLt _, trivial⟩, by
    simp [Row.instr, rowVabs]⟩
theorem vnot : ∀ x0 x1 x2, Statement (.vnot x0 x1 x2) :=
  fun _ _ _ => ⟨⟨171, rfl⟩, ⟨BitVec.isLt _, BitVec.isLt _, BitVec.isLt _, trivial⟩, by
    simp [Row.instr, rowVnot]⟩
theorem vclass : ∀ x0 x1 x2, Statement (.vclass x0 x1 x2) :=
  fun _ _ _ => ⟨⟨172, rfl⟩, ⟨BitVec.isLt _, BitVec.isLt _, BitVec.isLt _, trivial⟩, by
    simp [Row.instr, rowVclass]⟩
theorem viota : ∀ x0 x1 x2 x3, Statement (.viota x0 x1 x2 x3) :=
  fun _ _ _ _ => ⟨⟨173, rfl⟩, ⟨BitVec.isLt _, BitVec.isLt _, BitVec.isLt _, BitVec.isLt _, trivial⟩, by
    simp [Row.instr, rowViota]⟩
theorem vbcast : ∀ x0 x1 x2 x3, Statement (.vbcast x0 x1 x2 x3) :=
  fun _ _ _ _ => ⟨⟨174, rfl⟩, ⟨BitVec.isLt _, BitVec.isLt _, BitVec.isLt _, BitVec.isLt _, trivial⟩, by
    simp [Row.instr, rowVbcast]⟩
theorem vrcp : ∀ x0 x1 x2 x3, Statement (.vrcp x0 x1 x2 x3) :=
  fun _ _ _ _ => ⟨⟨175, rfl⟩, ⟨BitVec.isLt _, BitVec.isLt _, BitVec.isLt _, BitVec.isLt _, trivial⟩, by
    simp [Row.instr, rowVrcp]⟩
theorem vrsqrt : ∀ x0 x1 x2 x3, Statement (.vrsqrt x0 x1 x2 x3) :=
  fun _ _ _ _ => ⟨⟨176, rfl⟩, ⟨BitVec.isLt _, BitVec.isLt _, BitVec.isLt _, BitVec.isLt _, trivial⟩, by
    simp [Row.instr, rowVrsqrt]⟩
theorem vsqrt : ∀ x0 x1 x2 x3, Statement (.vsqrt x0 x1 x2 x3) :=
  fun _ _ _ _ => ⟨⟨177, rfl⟩, ⟨BitVec.isLt _, BitVec.isLt _, BitVec.isLt _, BitVec.isLt _, trivial⟩, by
    simp [Row.instr, rowVsqrt]⟩
theorem vfma : ∀ x0 x1 x2 x3 x4 x5, Statement (.vfma x0 x1 x2 x3 x4 x5) :=
  fun _ _ _ _ _ _ => ⟨⟨178, rfl⟩, ⟨BitVec.isLt _, BitVec.isLt _, BitVec.isLt _, BitVec.isLt _, BitVec.isLt _, BitVec.isLt _, trivial⟩, by
    simp [Row.instr, rowVfma]⟩
theorem vfms : ∀ x0 x1 x2 x3 x4 x5, Statement (.vfms x0 x1 x2 x3 x4 x5) :=
  fun _ _ _ _ _ _ => ⟨⟨179, rfl⟩, ⟨BitVec.isLt _, BitVec.isLt _, BitVec.isLt _, BitVec.isLt _, BitVec.isLt _, BitVec.isLt _, trivial⟩, by
    simp [Row.instr, rowVfms]⟩
theorem vfnma : ∀ x0 x1 x2 x3 x4 x5, Statement (.vfnma x0 x1 x2 x3 x4 x5) :=
  fun _ _ _ _ _ _ => ⟨⟨180, rfl⟩, ⟨BitVec.isLt _, BitVec.isLt _, BitVec.isLt _, BitVec.isLt _, BitVec.isLt _, BitVec.isLt _, trivial⟩, by
    simp [Row.instr, rowVfnma]⟩
theorem vsel : ∀ x0 x1 x2 x3, Statement (.vsel x0 x1 x2 x3) :=
  fun _ _ _ _ => ⟨⟨181, rfl⟩, ⟨BitVec.isLt _, BitVec.isLt _, BitVec.isLt _, BitVec.isLt _, trivial⟩, by
    simp [Row.instr, rowVsel]⟩
theorem vceq : ∀ x0 x1 x2 x3, Statement (.vceq x0 x1 x2 x3) :=
  fun _ _ _ _ => ⟨⟨182, rfl⟩, ⟨BitVec.isLt _, BitVec.isLt _, BitVec.isLt _, BitVec.isLt _, trivial⟩, by
    simp [Row.instr, rowVceq]⟩
theorem vcne : ∀ x0 x1 x2 x3, Statement (.vcne x0 x1 x2 x3) :=
  fun _ _ _ _ => ⟨⟨183, rfl⟩, ⟨BitVec.isLt _, BitVec.isLt _, BitVec.isLt _, BitVec.isLt _, trivial⟩, by
    simp [Row.instr, rowVcne]⟩
theorem vclt : ∀ x0 x1 x2 x3, Statement (.vclt x0 x1 x2 x3) :=
  fun _ _ _ _ => ⟨⟨184, rfl⟩, ⟨BitVec.isLt _, BitVec.isLt _, BitVec.isLt _, BitVec.isLt _, trivial⟩, by
    simp [Row.instr, rowVclt]⟩
theorem vcle : ∀ x0 x1 x2 x3, Statement (.vcle x0 x1 x2 x3) :=
  fun _ _ _ _ => ⟨⟨185, rfl⟩, ⟨BitVec.isLt _, BitVec.isLt _, BitVec.isLt _, BitVec.isLt _, trivial⟩, by
    simp [Row.instr, rowVcle]⟩
theorem vcun : ∀ x0 x1 x2 x3, Statement (.vcun x0 x1 x2 x3) :=
  fun _ _ _ _ => ⟨⟨186, rfl⟩, ⟨BitVec.isLt _, BitVec.isLt _, BitVec.isLt _, BitVec.isLt _, trivial⟩, by
    simp [Row.instr, rowVcun]⟩
theorem vclassm : ∀ x0 x1 x2 x3, Statement (.vclassm x0 x1 x2 x3) :=
  fun _ _ _ _ => ⟨⟨187, rfl⟩, ⟨BitVec.isLt _, BitVec.isLt _, BitVec.isLt _, BitVec.isLt _, trivial⟩, by
    simp [Row.instr, rowVclassm]⟩
theorem vcvt : ∀ x0 x1 x2 x3 x4 x5, Statement (.vcvt x0 x1 x2 x3 x4 x5) :=
  fun _ _ _ _ _ _ => ⟨⟨188, rfl⟩, ⟨BitVec.isLt _, BitVec.isLt _, BitVec.isLt _, BitVec.isLt _, BitVec.isLt _, BitVec.isLt _, trivial⟩, by
    simp [Row.instr, rowVcvt]⟩
theorem vrnd : ∀ x0 x1 x2 x3, Statement (.vrnd x0 x1 x2 x3) :=
  fun _ _ _ _ => ⟨⟨189, rfl⟩, ⟨BitVec.isLt _, BitVec.isLt _, BitVec.isLt _, BitVec.isLt _, trivial⟩, by
    simp [Row.instr, rowVrnd]⟩
theorem vtag : ∀ x0 x1 x2 x3, Statement (.vtag x0 x1 x2 x3) :=
  fun _ _ _ _ => ⟨⟨190, rfl⟩, ⟨BitVec.isLt _, BitVec.isLt _, BitVec.isLt _, BitVec.isLt _, trivial⟩, by
    simp [Row.instr, rowVtag]⟩
theorem vpack : ∀ x0 x1 x2 x3 x4 x5, Statement (.vpack x0 x1 x2 x3 x4 x5) :=
  fun _ _ _ _ _ _ => ⟨⟨191, rfl⟩, ⟨BitVec.isLt _, BitVec.isLt _, BitVec.isLt _, BitVec.isLt _, BitVec.isLt _, BitVec.isLt _, trivial⟩, by
    simp [Row.instr, rowVpack]⟩
theorem vunpack : ∀ x0 x1 x2 x3 x4, Statement (.vunpack x0 x1 x2 x3 x4) :=
  fun _ _ _ _ _ => ⟨⟨192, rfl⟩, ⟨BitVec.isLt _, BitVec.isLt _, BitVec.isLt _, BitVec.isLt _, BitVec.isLt _, trivial⟩, by
    simp [Row.instr, rowVunpack]⟩
theorem vredsum : ∀ x0 x1 x2 x3, Statement (.vredsum x0 x1 x2 x3) :=
  fun _ _ _ _ => ⟨⟨193, rfl⟩, ⟨BitVec.isLt _, BitVec.isLt _, BitVec.isLt _, BitVec.isLt _, trivial⟩, by
    simp [Row.instr, rowVredsum]⟩
theorem vredmax : ∀ x0 x1 x2, Statement (.vredmax x0 x1 x2) :=
  fun _ _ _ => ⟨⟨194, rfl⟩, ⟨BitVec.isLt _, BitVec.isLt _, BitVec.isLt _, trivial⟩, by
    simp [Row.instr, rowVredmax]⟩
theorem vredmin : ∀ x0 x1 x2, Statement (.vredmin x0 x1 x2) :=
  fun _ _ _ => ⟨⟨195, rfl⟩, ⟨BitVec.isLt _, BitVec.isLt _, BitVec.isLt _, trivial⟩, by
    simp [Row.instr, rowVredmin]⟩
theorem vperm : ∀ x0 x1 x2 x3, Statement (.vperm x0 x1 x2 x3) :=
  fun _ _ _ _ => ⟨⟨196, rfl⟩, ⟨BitVec.isLt _, BitVec.isLt _, BitVec.isLt _, BitVec.isLt _, trivial⟩, by
    simp [Row.instr, rowVperm]⟩
theorem vextr : ∀ x0 x1 x2, Statement (.vextr x0 x1 x2) :=
  fun _ _ _ => ⟨⟨197, rfl⟩, ⟨BitVec.isLt _, BitVec.isLt _, BitVec.isLt _, trivial⟩, by
    simp [Row.instr, rowVextr]⟩
theorem vins : ∀ x0 x1 x2, Statement (.vins x0 x1 x2) :=
  fun _ _ _ => ⟨⟨198, rfl⟩, ⟨BitVec.isLt _, BitVec.isLt _, BitVec.isLt _, trivial⟩, by
    simp [Row.instr, rowVins]⟩
theorem vld : ∀ x0 x1 x2 x3 x4, Statement (.vld x0 x1 x2 x3 x4) :=
  fun _ _ _ _ _ => ⟨⟨199, rfl⟩, ⟨BitVec.isLt _, BitVec.isLt _, BitVec.isLt _, BitVec.isLt _, BitVec.isLt _, trivial⟩, by
    simp [Row.instr, rowVld]⟩
theorem vst : ∀ x0 x1 x2 x3, Statement (.vst x0 x1 x2 x3) :=
  fun _ _ _ _ => ⟨⟨200, rfl⟩, ⟨BitVec.isLt _, BitVec.isLt _, BitVec.isLt _, BitVec.isLt _, trivial⟩, by
    simp [Row.instr, rowVst]⟩
theorem vgath : ∀ x0 x1 x2 x3 x4 x5, Statement (.vgath x0 x1 x2 x3 x4 x5) :=
  fun _ _ _ _ _ _ => ⟨⟨201, rfl⟩, ⟨BitVec.isLt _, BitVec.isLt _, BitVec.isLt _, BitVec.isLt _, BitVec.isLt _, BitVec.isLt _, trivial⟩, by
    simp [Row.instr, rowVgath]⟩
theorem vscat : ∀ x0 x1 x2 x3 x4, Statement (.vscat x0 x1 x2 x3 x4) :=
  fun _ _ _ _ _ => ⟨⟨202, rfl⟩, ⟨BitVec.isLt _, BitVec.isLt _, BitVec.isLt _, BitVec.isLt _, BitVec.isLt _, trivial⟩, by
    simp [Row.instr, rowVscat]⟩
theorem sbind : ∀ x0 x1 x2 x3, Statement (.sbind x0 x1 x2 x3) :=
  fun _ _ _ _ => ⟨⟨203, rfl⟩, ⟨BitVec.isLt _, BitVec.isLt _, BitVec.isLt _, BitVec.isLt _, trivial⟩, by
    simp [Row.instr, rowSbind]⟩
theorem spos : ∀ x0 x1, Statement (.spos x0 x1) :=
  fun _ _ => ⟨⟨204, rfl⟩, ⟨BitVec.isLt _, BitVec.isLt _, trivial⟩, by
    simp [Row.instr, rowSpos]⟩
theorem sget : ∀ x0 x1, Statement (.sget x0 x1) :=
  fun _ _ => ⟨⟨205, rfl⟩, ⟨BitVec.isLt _, BitVec.isLt _, trivial⟩, by
    simp [Row.instr, rowSget]⟩
theorem vexp2f : ∀ x0 x1 x2 x3, Statement (.vexp2f x0 x1 x2 x3) :=
  fun _ _ _ _ => ⟨⟨206, rfl⟩, ⟨BitVec.isLt _, BitVec.isLt _, BitVec.isLt _, BitVec.isLt _, trivial⟩, by
    simp [Row.instr, rowVexp2f]⟩
theorem vlog2f : ∀ x0 x1 x2 x3, Statement (.vlog2f x0 x1 x2 x3) :=
  fun _ _ _ _ => ⟨⟨207, rfl⟩, ⟨BitVec.isLt _, BitVec.isLt _, BitVec.isLt _, BitVec.isLt _, trivial⟩, by
    simp [Row.instr, rowVlog2f]⟩
theorem vtanh : ∀ x0 x1 x2 x3, Statement (.vtanh x0 x1 x2 x3) :=
  fun _ _ _ _ => ⟨⟨208, rfl⟩, ⟨BitVec.isLt _, BitVec.isLt _, BitVec.isLt _, BitVec.isLt _, trivial⟩, by
    simp [Row.instr, rowVtanh]⟩
theorem vtopk : ∀ x0 x1 x2 x3 x4, Statement (.vtopk x0 x1 x2 x3 x4) :=
  fun _ _ _ _ _ => ⟨⟨209, rfl⟩, ⟨BitVec.isLt _, BitVec.isLt _, BitVec.isLt _, BitVec.isLt _, BitVec.isLt _, trivial⟩, by
    simp [Row.instr, rowVtopk]⟩
theorem vtopknz : ∀ x0 x1 x2 x3 x4, Statement (.vtopknz x0 x1 x2 x3 x4) :=
  fun _ _ _ _ _ => ⟨⟨210, rfl⟩, ⟨BitVec.isLt _, BitVec.isLt _, BitVec.isLt _, BitVec.isLt _, BitVec.isLt _, trivial⟩, by
    simp [Row.instr, rowVtopknz]⟩
theorem park : ∀ x0 x1 x2 x3, Statement (.park x0 x1 x2 x3) :=
  fun _ _ _ _ => ⟨⟨211, rfl⟩, ⟨BitVec.isLt _, BitVec.isLt _, BitVec.isLt _, BitVec.isLt _, trivial⟩, by
    simp [Row.instr, rowPark]⟩
theorem unpark : ∀ x0 x1 x2 x3, Statement (.unpark x0 x1 x2 x3) :=
  fun _ _ _ _ => ⟨⟨212, rfl⟩, ⟨BitVec.isLt _, BitVec.isLt _, BitVec.isLt _, BitVec.isLt _, trivial⟩, by
    simp [Row.instr, rowUnpark]⟩
theorem wload : ∀ x0 x1, Statement (.wload x0 x1) :=
  fun _ _ => ⟨⟨213, rfl⟩, ⟨BitVec.isLt _, BitVec.isLt _, trivial⟩, by
    simp [Row.instr, rowWload]⟩
theorem mma : ∀ x0 x1 x2 x3, Statement (.mma x0 x1 x2 x3) :=
  fun _ _ _ _ => ⟨⟨214, rfl⟩, ⟨BitVec.isLt _, BitVec.isLt _, BitVec.isLt _, BitVec.isLt _, trivial⟩, by
    simp [Row.instr, rowMma]⟩
theorem mmasw : ∀ x0 x1 x2 x3, Statement (.mmasw x0 x1 x2 x3) :=
  fun _ _ _ _ => ⟨⟨215, rfl⟩, ⟨BitVec.isLt _, BitVec.isLt _, BitVec.isLt _, BitVec.isLt _, trivial⟩, by
    simp [Row.instr, rowMmasw]⟩
theorem accz : ∀ x0 x1, Statement (.accz x0 x1) :=
  fun _ _ => ⟨⟨216, rfl⟩, ⟨BitVec.isLt _, BitVec.isLt _, trivial⟩, by
    simp [Row.instr, rowAccz]⟩
theorem accrd : ∀ x0 x1 x2 x3 x4, Statement (.accrd x0 x1 x2 x3 x4) :=
  fun _ _ _ _ _ => ⟨⟨217, rfl⟩, ⟨BitVec.isLt _, BitVec.isLt _, BitVec.isLt _, BitVec.isLt _, BitVec.isLt _, trivial⟩, by
    simp [Row.instr, rowAccrd]⟩
theorem accwr : ∀ x0 x1 x2, Statement (.accwr x0 x1 x2) :=
  fun _ _ _ => ⟨⟨218, rfl⟩, ⟨BitVec.isLt _, BitVec.isLt _, BitVec.isLt _, trivial⟩, by
    simp [Row.instr, rowAccwr]⟩
theorem acccp : ∀ x0 x1 x2, Statement (.acccp x0 x1 x2) :=
  fun _ _ _ => ⟨⟨219, rfl⟩, ⟨BitVec.isLt _, BitVec.isLt _, BitVec.isLt _, trivial⟩, by
    simp [Row.instr, rowAcccp]⟩
theorem tload : ∀ x0 x1 x2 x3, Statement (.tload x0 x1 x2 x3) :=
  fun _ _ _ _ => ⟨⟨220, rfl⟩, ⟨BitVec.isLt _, BitVec.isLt _, BitVec.isLt _, BitVec.isLt _, trivial⟩, by
    simp [Row.instr, rowTload]⟩
theorem tstore : ∀ x0 x1 x2 x3 x4 x5, Statement (.tstore x0 x1 x2 x3 x4 x5) :=
  fun _ _ _ _ _ _ => ⟨⟨221, rfl⟩, ⟨BitVec.isLt _, BitVec.isLt _, BitVec.isLt _, BitVec.isLt _, BitVec.isLt _, BitVec.isLt _, trivial⟩, by
    simp [Row.instr, rowTstore]⟩
theorem ttrans : ∀ x0 x1, Statement (.ttrans x0 x1) :=
  fun _ _ => ⟨⟨222, rfl⟩, ⟨BitVec.isLt _, BitVec.isLt _, trivial⟩, by
    simp [Row.instr, rowTtrans]⟩
theorem chadd : ∀ x0 x1 x2, Statement (.chadd x0 x1 x2) :=
  fun _ _ _ => ⟨⟨223, rfl⟩, ⟨BitVec.isLt _, BitVec.isLt _, BitVec.isLt _, trivial⟩, by
    simp [Row.instr, rowChadd]⟩
theorem chsub : ∀ x0 x1 x2, Statement (.chsub x0 x1 x2) :=
  fun _ _ _ => ⟨⟨224, rfl⟩, ⟨BitVec.isLt _, BitVec.isLt _, BitVec.isLt _, trivial⟩, by
    simp [Row.instr, rowChsub]⟩
theorem chmul : ∀ x0 x1 x2, Statement (.chmul x0 x1 x2) :=
  fun _ _ _ => ⟨⟨225, rfl⟩, ⟨BitVec.isLt _, BitVec.isLt _, BitVec.isLt _, trivial⟩, by
    simp [Row.instr, rowChmul]⟩
theorem chcomp : ∀ x0 x1 x2, Statement (.chcomp x0 x1 x2) :=
  fun _ _ _ => ⟨⟨226, rfl⟩, ⟨BitVec.isLt _, BitVec.isLt _, BitVec.isLt _, trivial⟩, by
    simp [Row.instr, rowChcomp]⟩
theorem chdiff : ∀ x0 x1, Statement (.chdiff x0 x1) :=
  fun _ _ => ⟨⟨227, rfl⟩, ⟨BitVec.isLt _, BitVec.isLt _, trivial⟩, by
    simp [Row.instr, rowChdiff]⟩
theorem chint : ∀ x0 x1, Statement (.chint x0 x1) :=
  fun _ _ => ⟨⟨228, rfl⟩, ⟨BitVec.isLt _, BitVec.isLt _, trivial⟩, by
    simp [Row.instr, rowChint]⟩
theorem chmov : ∀ x0 x1, Statement (.chmov x0 x1) :=
  fun _ _ => ⟨⟨229, rfl⟩, ⟨BitVec.isLt _, BitVec.isLt _, trivial⟩, by
    simp [Row.instr, rowChmov]⟩
theorem chfree : ∀ x0, Statement (.chfree x0) :=
  fun _ => ⟨⟨230, rfl⟩, ⟨BitVec.isLt _, trivial⟩, by
    simp [Row.instr, rowChfree]⟩
theorem chlen : ∀ x0 x1, Statement (.chlen x0 x1) :=
  fun _ _ => ⟨⟨231, rfl⟩, ⟨BitVec.isLt _, BitVec.isLt _, trivial⟩, by
    simp [Row.instr, rowChlen]⟩
theorem chnorm : ∀ x0 x1, Statement (.chnorm x0 x1) :=
  fun _ _ => ⟨⟨232, rfl⟩, ⟨BitVec.isLt _, BitVec.isLt _, trivial⟩, by
    simp [Row.instr, rowChnorm]⟩
theorem chtrunc : ∀ x0 x1 x2, Statement (.chtrunc x0 x1 x2) :=
  fun _ _ _ => ⟨⟨233, rfl⟩, ⟨BitVec.isLt _, BitVec.isLt _, BitVec.isLt _, trivial⟩, by
    simp [Row.instr, rowChtrunc]⟩
theorem chfit : ∀ x0 x1 x2 x3, Statement (.chfit x0 x1 x2 x3) :=
  fun _ _ _ _ => ⟨⟨234, rfl⟩, ⟨BitVec.isLt _, BitVec.isLt _, BitVec.isLt _, BitVec.isLt _, trivial⟩, by
    simp [Row.instr, rowChfit]⟩
theorem cheval : ∀ x0 x1 x2, Statement (.cheval x0 x1 x2) :=
  fun _ _ _ => ⟨⟨235, rfl⟩, ⟨BitVec.isLt _, BitVec.isLt _, BitVec.isLt _, trivial⟩, by
    simp [Row.instr, rowCheval]⟩
theorem chroot : ∀ x0 x1 x2 x3, Statement (.chroot x0 x1 x2 x3) :=
  fun _ _ _ _ => ⟨⟨236, rfl⟩, ⟨BitVec.isLt _, BitVec.isLt _, BitVec.isLt _, BitVec.isLt _, trivial⟩, by
    simp [Row.instr, rowChroot]⟩
theorem chconst : ∀ x0 x1 x2 x3, Statement (.chconst x0 x1 x2 x3) :=
  fun _ _ _ _ => ⟨⟨237, rfl⟩, ⟨BitVec.isLt _, BitVec.isLt _, BitVec.isLt _, BitVec.isLt _, trivial⟩, by
    simp [Row.instr, rowChconst]⟩
theorem chx : ∀ x0 x1 x2, Statement (.chx x0 x1 x2) :=
  fun _ _ _ => ⟨⟨238, rfl⟩, ⟨BitVec.isLt _, BitVec.isLt _, BitVec.isLt _, trivial⟩, by
    simp [Row.instr, rowChx]⟩
theorem chld : ∀ x0 x1 x2, Statement (.chld x0 x1 x2) :=
  fun _ _ _ => ⟨⟨239, rfl⟩, ⟨BitVec.isLt _, BitVec.isLt _, BitVec.isLt _, trivial⟩, by
    simp [Row.instr, rowChld]⟩
theorem chst : ∀ x0 x1 x2, Statement (.chst x0 x1 x2) :=
  fun _ _ _ => ⟨⟨240, rfl⟩, ⟨BitVec.isLt _, BitVec.isLt _, BitVec.isLt _, trivial⟩, by
    simp [Row.instr, rowChst]⟩
theorem chscal : ∀ x0 x1 x2, Statement (.chscal x0 x1 x2) :=
  fun _ _ _ => ⟨⟨241, rfl⟩, ⟨BitVec.isLt _, BitVec.isLt _, BitVec.isLt _, trivial⟩, by
    simp [Row.instr, rowChscal]⟩
theorem cpy : ∀ x0 x1 x2 x3 x4, Statement (.cpy x0 x1 x2 x3 x4) :=
  fun _ _ _ _ _ => ⟨⟨242, rfl⟩, ⟨BitVec.isLt _, BitVec.isLt _, BitVec.isLt _, BitVec.isLt _, BitVec.isLt _, trivial⟩, by
    simp [Row.instr, rowCpy]⟩
theorem cpym : ∀ x0 x1 x2 x3 x4 x5 x6 x7, Statement (.cpym x0 x1 x2 x3 x4 x5 x6 x7) :=
  fun _ _ _ _ _ _ _ _ => ⟨⟨243, rfl⟩, ⟨BitVec.isLt _, BitVec.isLt _, BitVec.isLt _, BitVec.isLt _, BitVec.isLt _, BitVec.isLt _, BitVec.isLt _, BitVec.isLt _, trivial⟩, by
    simp [Row.instr, rowCpym]⟩
theorem cpyq : ∀ x0 x1 x2 x3 x4, Statement (.cpyq x0 x1 x2 x3 x4) :=
  fun _ _ _ _ _ => ⟨⟨244, rfl⟩, ⟨BitVec.isLt _, BitVec.isLt _, BitVec.isLt _, BitVec.isLt _, BitVec.isLt _, trivial⟩, by
    simp [Row.instr, rowCpyq]⟩
theorem igather : ∀ x0 x1 x2 x3 x4 x5 x6, Statement (.igather x0 x1 x2 x3 x4 x5 x6) :=
  fun _ _ _ _ _ _ _ => ⟨⟨245, rfl⟩, ⟨BitVec.isLt _, BitVec.isLt _, BitVec.isLt _, BitVec.isLt _, BitVec.isLt _, BitVec.isLt _, BitVec.isLt _, trivial⟩, by
    simp [Row.instr, rowIgather]⟩
theorem iscatter : ∀ x0 x1 x2 x3 x4 x5 x6, Statement (.iscatter x0 x1 x2 x3 x4 x5 x6) :=
  fun _ _ _ _ _ _ _ => ⟨⟨246, rfl⟩, ⟨BitVec.isLt _, BitVec.isLt _, BitVec.isLt _, BitVec.isLt _, BitVec.isLt _, BitVec.isLt _, BitVec.isLt _, trivial⟩, by
    simp [Row.instr, rowIscatter]⟩
theorem evwait : ∀ x0 x1, Statement (.evwait x0 x1) :=
  fun _ _ => ⟨⟨247, rfl⟩, ⟨BitVec.isLt _, BitVec.isLt _, trivial⟩, by
    simp [Row.instr, rowEvwait]⟩
theorem evsig : ∀ x0 x1, Statement (.evsig x0 x1) :=
  fun _ _ => ⟨⟨248, rfl⟩, ⟨BitVec.isLt _, BitVec.isLt _, trivial⟩, by
    simp [Row.instr, rowEvsig]⟩
theorem cbar : ∀ x0, Statement (.cbar x0) :=
  fun _ => ⟨⟨249, rfl⟩, ⟨BitVec.isLt _, trivial⟩, by
    simp [Row.instr, rowCbar]⟩
theorem wkstart : ∀ x0 x1 x2 x3, Statement (.wkstart x0 x1 x2 x3) :=
  fun _ _ _ _ => ⟨⟨250, rfl⟩, ⟨BitVec.isLt _, BitVec.isLt _, BitVec.isLt _, BitVec.isLt _, trivial⟩, by
    simp [Row.instr, rowWkstart]⟩
theorem wkstat : ∀ x0 x1 x2 x3, Statement (.wkstat x0 x1 x2 x3) :=
  fun _ _ _ _ => ⟨⟨251, rfl⟩, ⟨BitVec.isLt _, BitVec.isLt _, BitVec.isLt _, BitVec.isLt _, trivial⟩, by
    simp [Row.instr, rowWkstat]⟩
theorem stvec : ∀ x0 x1 x2, Statement (.stvec x0 x1 x2) :=
  fun _ _ _ => ⟨⟨252, rfl⟩, ⟨BitVec.isLt _, BitVec.isLt _, BitVec.isLt _, trivial⟩, by
    simp [Row.instr, rowStvec]⟩
theorem ldnear : ∀ x0 x1 x2 x3 x4, Statement (.ldnear x0 x1 x2 x3 x4) :=
  fun _ _ _ _ _ => ⟨⟨253, rfl⟩, ⟨BitVec.isLt _, BitVec.isLt _, BitVec.isLt _, BitVec.isLt _, BitVec.isLt _, trivial⟩, by
    simp [Row.instr, rowLdnear]⟩
theorem delvec : ∀ x0 x1 x2, Statement (.delvec x0 x1 x2) :=
  fun _ _ _ => ⟨⟨254, rfl⟩, ⟨BitVec.isLt _, BitVec.isLt _, BitVec.isLt _, trivial⟩, by
    simp [Row.instr, rowDelvec]⟩
theorem ixstamp : ∀ x0 x1, Statement (.ixstamp x0 x1) :=
  fun _ _ => ⟨⟨255, rfl⟩, ⟨BitVec.isLt _, BitVec.isLt _, trivial⟩, by
    simp [Row.instr, rowIxstamp]⟩
theorem nsubmit : ∀ x0 x1 x2, Statement (.nsubmit x0 x1 x2) :=
  fun _ _ _ => ⟨⟨256, rfl⟩, ⟨BitVec.isLt _, BitVec.isLt _, BitVec.isLt _, trivial⟩, by
    simp [Row.instr, rowNsubmit]⟩
theorem ndone : ∀ x0, Statement (.ndone x0) :=
  fun _ => ⟨⟨257, rfl⟩, ⟨BitVec.isLt _, trivial⟩, by
    simp [Row.instr, rowNdone]⟩
theorem ndoneQ : ∀ x0 x1 x2, Statement (.ndoneQ x0 x1 x2) :=
  fun _ _ _ => ⟨⟨258, rfl⟩, ⟨BitVec.isLt _, BitVec.isLt _, BitVec.isLt _, trivial⟩, by
    simp [Row.instr, rowNdoneQ]⟩
theorem narm : ∀ x0, Statement (.narm x0) :=
  fun _ => ⟨⟨259, rfl⟩, ⟨BitVec.isLt _, trivial⟩, by
    simp [Row.instr, rowNarm]⟩
theorem narmEdge : ∀ x0 x1 x2, Statement (.narmEdge x0 x1 x2) :=
  fun _ _ _ => ⟨⟨260, rfl⟩, ⟨BitVec.isLt _, BitVec.isLt _, BitVec.isLt _, trivial⟩, by
    simp [Row.instr, rowNarmEdge]⟩
theorem cwait : ∀ x0 x1 x2, Statement (.cwait x0 x1 x2) :=
  fun _ _ _ => ⟨⟨261, rfl⟩, ⟨BitVec.isLt _, BitVec.isLt _, BitVec.isLt _, trivial⟩, by
    simp [Row.instr, rowCwait]⟩
theorem cancel : ∀ x0 x1, Statement (.cancel x0 x1) :=
  fun _ _ => ⟨⟨262, rfl⟩, ⟨BitVec.isLt _, BitVec.isLt _, trivial⟩, by
    simp [Row.instr, rowCancel]⟩
theorem launch : ∀ x0 x1, Statement (.launch x0 x1) :=
  fun _ _ => ⟨⟨263, rfl⟩, ⟨BitVec.isLt _, BitVec.isLt _, trivial⟩, by
    simp [Row.instr, rowLaunch]⟩
theorem barrive : ∀ x0 x1 x2, Statement (.barrive x0 x1 x2) :=
  fun _ _ _ => ⟨⟨264, rfl⟩, ⟨BitVec.isLt _, BitVec.isLt _, BitVec.isLt _, trivial⟩, by
    simp [Row.instr, rowBarrive]⟩
theorem bwait : ∀ x0 x1, Statement (.bwait x0 x1) :=
  fun _ _ => ⟨⟨265, rfl⟩, ⟨BitVec.isLt _, BitVec.isLt _, trivial⟩, by
    simp [Row.instr, rowBwait]⟩
theorem bsync : ∀ x0 x1 x2, Statement (.bsync x0 x1 x2) :=
  fun _ _ _ => ⟨⟨266, rfl⟩, ⟨BitVec.isLt _, BitVec.isLt _, BitVec.isLt _, trivial⟩, by
    simp [Row.instr, rowBsync]⟩
theorem slotsend : ∀ x0 x1 x2 x3, Statement (.slotsend x0 x1 x2 x3) :=
  fun _ _ _ _ => ⟨⟨267, rfl⟩, ⟨BitVec.isLt _, BitVec.isLt _, BitVec.isLt _, BitVec.isLt _, trivial⟩, by
    simp [Row.instr, rowSlotsend]⟩
theorem slotwait : ∀ x0 x1, Statement (.slotwait x0 x1) :=
  fun _ _ => ⟨⟨268, rfl⟩, ⟨BitVec.isLt _, BitVec.isLt _, trivial⟩, by
    simp [Row.instr, rowSlotwait]⟩
end Sys2Proof.Laws.Encoding

theorem Sys2Proof.Laws.Encoding.seal : ∀ x0 x1 x2, Sys2Proof.Laws.Encoding.Statement (.seal x0 x1 x2) :=
  fun _ _ _ => ⟨⟨269, rfl⟩, ⟨BitVec.isLt _, BitVec.isLt _, BitVec.isLt _, trivial⟩, by
    simp [Row.instr, rowSeal]⟩
namespace Sys2Proof.Laws.Encoding

theorem reconf : ∀ x0 x1, Statement (.reconf x0 x1) :=
  fun _ _ => ⟨⟨270, rfl⟩, ⟨BitVec.isLt _, BitVec.isLt _, trivial⟩, by
    simp [Row.instr, rowReconf]⟩
theorem tgen : ∀ x0, Statement (.tgen x0) :=
  fun _ => ⟨⟨271, rfl⟩, ⟨BitVec.isLt _, trivial⟩, by
    simp [Row.instr, rowTgen]⟩
theorem gbar : ∀ x0 x1, Statement (.gbar x0 x1) :=
  fun _ _ => ⟨⟨272, rfl⟩, ⟨BitVec.isLt _, BitVec.isLt _, trivial⟩, by
    simp [Row.instr, rowGbar]⟩
theorem abort : ∀ x0, Statement (.abort x0) :=
  fun _ => ⟨⟨273, rfl⟩, ⟨BitVec.isLt _, trivial⟩, by
    simp [Row.instr, rowAbort]⟩
theorem stmc : ∀ x0 x1 x2, Statement (.stmc x0 x1 x2) :=
  fun _ _ _ => ⟨⟨274, rfl⟩, ⟨BitVec.isLt _, BitVec.isLt _, BitVec.isLt _, trivial⟩, by
    simp [Row.instr, rowStmc]⟩
theorem rkreg : ∀ x0 x1 x2 x3 x4, Statement (.rkreg x0 x1 x2 x3 x4) :=
  fun _ _ _ _ _ => ⟨⟨275, rfl⟩, ⟨BitVec.isLt _, BitVec.isLt _, BitVec.isLt _, BitVec.isLt _, BitVec.isLt _, trivial⟩, by
    simp [Row.instr, rowRkreg]⟩
theorem rkrevoke : ∀ x0 x1, Statement (.rkrevoke x0 x1) :=
  fun _ _ => ⟨⟨276, rfl⟩, ⟨BitVec.isLt _, BitVec.isLt _, trivial⟩, by
    simp [Row.instr, rowRkrevoke]⟩
theorem wnop : Statement .wnop := ⟨⟨0, rfl⟩, trivial, rfl⟩
theorem wadd : ∀ x0 x1 x2, Statement (.wadd x0 x1 x2) :=
  fun _ _ _ => ⟨⟨1, rfl⟩, ⟨BitVec.isLt _, BitVec.isLt _, BitVec.isLt _, trivial⟩, by
    simp [WalkRow.instr, rowWadd]⟩
theorem wsub : ∀ x0 x1 x2, Statement (.wsub x0 x1 x2) :=
  fun _ _ _ => ⟨⟨2, rfl⟩, ⟨BitVec.isLt _, BitVec.isLt _, BitVec.isLt _, trivial⟩, by
    simp [WalkRow.instr, rowWsub]⟩
theorem wand : ∀ x0 x1 x2, Statement (.wand x0 x1 x2) :=
  fun _ _ _ => ⟨⟨3, rfl⟩, ⟨BitVec.isLt _, BitVec.isLt _, BitVec.isLt _, trivial⟩, by
    simp [WalkRow.instr, rowWand]⟩
theorem wor : ∀ x0 x1 x2, Statement (.wor x0 x1 x2) :=
  fun _ _ _ => ⟨⟨4, rfl⟩, ⟨BitVec.isLt _, BitVec.isLt _, BitVec.isLt _, trivial⟩, by
    simp [WalkRow.instr, rowWor]⟩
theorem wxor : ∀ x0 x1 x2, Statement (.wxor x0 x1 x2) :=
  fun _ _ _ => ⟨⟨5, rfl⟩, ⟨BitVec.isLt _, BitVec.isLt _, BitVec.isLt _, trivial⟩, by
    simp [WalkRow.instr, rowWxor]⟩
theorem wshl : ∀ x0 x1 x2, Statement (.wshl x0 x1 x2) :=
  fun _ _ _ => ⟨⟨6, rfl⟩, ⟨BitVec.isLt _, BitVec.isLt _, BitVec.isLt _, trivial⟩, by
    simp [WalkRow.instr, rowWshl]⟩
theorem wshr : ∀ x0 x1 x2, Statement (.wshr x0 x1 x2) :=
  fun _ _ _ => ⟨⟨7, rfl⟩, ⟨BitVec.isLt _, BitVec.isLt _, BitVec.isLt _, trivial⟩, by
    simp [WalkRow.instr, rowWshr]⟩
theorem waddi : ∀ x0 x1 x2, Statement (.waddi x0 x1 x2) :=
  fun _ _ _ => ⟨⟨8, rfl⟩, ⟨BitVec.isLt _, BitVec.isLt _, BitVec.isLt _, trivial⟩, by
    simp [WalkRow.instr, rowWaddi]⟩
theorem wmuli : ∀ x0 x1 x2, Statement (.wmuli x0 x1 x2) :=
  fun _ _ _ => ⟨⟨9, rfl⟩, ⟨BitVec.isLt _, BitVec.isLt _, BitVec.isLt _, trivial⟩, by
    simp [WalkRow.instr, rowWmuli]⟩
theorem wldi : ∀ x0 x1, Statement (.wldi x0 x1) :=
  fun _ _ => ⟨⟨10, rfl⟩, ⟨BitVec.isLt _, BitVec.isLt _, trivial⟩, by
    simp [WalkRow.instr, rowWldi]⟩
theorem wldB : ∀ x0 x1 x2 x3, Statement (.wldB x0 x1 x2 x3) :=
  fun _ _ _ _ => ⟨⟨11, rfl⟩, ⟨BitVec.isLt _, BitVec.isLt _, BitVec.isLt _, BitVec.isLt _, trivial⟩, by
    simp [WalkRow.instr, rowWldB]⟩
theorem wldH : ∀ x0 x1 x2 x3, Statement (.wldH x0 x1 x2 x3) :=
  fun _ _ _ _ => ⟨⟨12, rfl⟩, ⟨BitVec.isLt _, BitVec.isLt _, BitVec.isLt _, BitVec.isLt _, trivial⟩, by
    simp [WalkRow.instr, rowWldH]⟩
theorem wldW : ∀ x0 x1 x2 x3, Statement (.wldW x0 x1 x2 x3) :=
  fun _ _ _ _ => ⟨⟨13, rfl⟩, ⟨BitVec.isLt _, BitVec.isLt _, BitVec.isLt _, BitVec.isLt _, trivial⟩, by
    simp [WalkRow.instr, rowWldW]⟩
theorem wldD : ∀ x0 x1 x2 x3, Statement (.wldD x0 x1 x2 x3) :=
  fun _ _ _ _ => ⟨⟨14, rfl⟩, ⟨BitVec.isLt _, BitVec.isLt _, BitVec.isLt _, BitVec.isLt _, trivial⟩, by
    simp [WalkRow.instr, rowWldD]⟩
theorem wstB : ∀ x0 x1 x2 x3, Statement (.wstB x0 x1 x2 x3) :=
  fun _ _ _ _ => ⟨⟨15, rfl⟩, ⟨BitVec.isLt _, BitVec.isLt _, BitVec.isLt _, BitVec.isLt _, trivial⟩, by
    simp [WalkRow.instr, rowWstB]⟩
theorem wstH : ∀ x0 x1 x2 x3, Statement (.wstH x0 x1 x2 x3) :=
  fun _ _ _ _ => ⟨⟨16, rfl⟩, ⟨BitVec.isLt _, BitVec.isLt _, BitVec.isLt _, BitVec.isLt _, trivial⟩, by
    simp [WalkRow.instr, rowWstH]⟩
theorem wstW : ∀ x0 x1 x2 x3, Statement (.wstW x0 x1 x2 x3) :=
  fun _ _ _ _ => ⟨⟨17, rfl⟩, ⟨BitVec.isLt _, BitVec.isLt _, BitVec.isLt _, BitVec.isLt _, trivial⟩, by
    simp [WalkRow.instr, rowWstW]⟩
theorem wstD : ∀ x0 x1 x2 x3, Statement (.wstD x0 x1 x2 x3) :=
  fun _ _ _ _ => ⟨⟨18, rfl⟩, ⟨BitVec.isLt _, BitVec.isLt _, BitVec.isLt _, BitVec.isLt _, trivial⟩, by
    simp [WalkRow.instr, rowWstD]⟩
theorem wflt : ∀ x0 x1 x2, Statement (.wflt x0 x1 x2) :=
  fun _ _ _ => ⟨⟨19, rfl⟩, ⟨BitVec.isLt _, BitVec.isLt _, BitVec.isLt _, trivial⟩, by
    simp [WalkRow.instr, rowWflt]⟩
theorem wfle : ∀ x0 x1 x2, Statement (.wfle x0 x1 x2) :=
  fun _ _ _ => ⟨⟨20, rfl⟩, ⟨BitVec.isLt _, BitVec.isLt _, BitVec.isLt _, trivial⟩, by
    simp [WalkRow.instr, rowWfle]⟩
theorem wbeq : ∀ x0 x1 x2, Statement (.wbeq x0 x1 x2) :=
  fun _ _ _ => ⟨⟨21, rfl⟩, ⟨BitVec.isLt _, BitVec.isLt _, BitVec.isLt _, trivial⟩, by
    simp [WalkRow.instr, rowWbeq]⟩
theorem wbne : ∀ x0 x1 x2, Statement (.wbne x0 x1 x2) :=
  fun _ _ _ => ⟨⟨22, rfl⟩, ⟨BitVec.isLt _, BitVec.isLt _, BitVec.isLt _, trivial⟩, by
    simp [WalkRow.instr, rowWbne]⟩
theorem wbltu : ∀ x0 x1 x2, Statement (.wbltu x0 x1 x2) :=
  fun _ _ _ => ⟨⟨23, rfl⟩, ⟨BitVec.isLt _, BitVec.isLt _, BitVec.isLt _, trivial⟩, by
    simp [WalkRow.instr, rowWbltu]⟩
theorem wj : ∀ x0, Statement (.wj x0) :=
  fun _ => ⟨⟨24, rfl⟩, ⟨BitVec.isLt _, trivial⟩, by
    simp [WalkRow.instr, rowWj]⟩
theorem wdinit : Statement .wdinit := ⟨⟨25, rfl⟩, trivial, rfl⟩
theorem wdabs : ∀ x0, Statement (.wdabs x0) :=
  fun _ => ⟨⟨26, rfl⟩, ⟨BitVec.isLt _, trivial⟩, by
    simp [WalkRow.instr, rowWdabs]⟩
theorem wdfin : ∀ x0 x1 x2, Statement (.wdfin x0 x1 x2) :=
  fun _ _ _ => ⟨⟨27, rfl⟩, ⟨BitVec.isLt _, BitVec.isLt _, BitVec.isLt _, trivial⟩, by
    simp [WalkRow.instr, rowWdfin]⟩
theorem wzrow : Statement .wzrow := ⟨⟨28, rfl⟩, trivial, rfl⟩
theorem wrins : ∀ x0 x1 x2 x3, Statement (.wrins x0 x1 x2 x3) :=
  fun _ _ _ _ => ⟨⟨29, rfl⟩, ⟨BitVec.isLt _, BitVec.isLt _, BitVec.isLt _, BitVec.isLt _, trivial⟩, by
    simp [WalkRow.instr, rowWrins]⟩
theorem wemit : ∀ x0 x1 x2, Statement (.wemit x0 x1 x2) :=
  fun _ _ _ => ⟨⟨30, rfl⟩, ⟨BitVec.isLt _, BitVec.isLt _, BitVec.isLt _, trivial⟩, by
    simp [WalkRow.instr, rowWemit]⟩
theorem wsig : ∀ x0, Statement (.wsig x0) :=
  fun _ => ⟨⟨31, rfl⟩, ⟨BitVec.isLt _, trivial⟩, by
    simp [WalkRow.instr, rowWsig]⟩
theorem wend : ∀ x0, Statement (.wend x0) :=
  fun _ => ⟨⟨32, rfl⟩, ⟨BitVec.isLt _, trivial⟩, by
    simp [WalkRow.instr, rowWend]⟩
theorem walkStepLimit : ∀ x0 x1, Statement (.walkStepLimit x0 x1) := fun _ _ => trivial
theorem digestBlockCompress : ∀ x0 x1, Statement (.digestBlockCompress x0 x1) := fun _ _ => trivial
theorem vsqctlDiscard : Statement .vsqctlDiscard := trivial
theorem mxctlDiscard : Statement .mxctlDiscard := trivial
theorem cpctlDiscard : Statement .cpctlDiscard := trivial
theorem xlinvPage : ∀ x0, Statement (.xlinvPage x0) := fun _ => trivial
theorem xlinvDomain : ∀ x0, Statement (.xlinvDomain x0) := fun _ => trivial
theorem xlinvAll : ∀ x0, Statement (.xlinvAll x0) := fun _ => trivial
theorem domainWrite : ∀ x0, Statement (.domainWrite x0) := fun _ => trivial
theorem rndWrite : ∀ x0, Statement (.rndWrite x0) := fun _ => trivial
theorem flagsWrite : ∀ x0, Statement (.flagsWrite x0) := fun _ => trivial
theorem flagsRead : ∀ x0, Statement (.flagsRead x0) := fun _ => trivial
theorem fntolWrite : ∀ x0, Statement (.fntolWrite x0) := fun _ => trivial
theorem fnstatRead : ∀ x0, Statement (.fnstatRead x0) := fun _ => trivial
theorem dtermClear : ∀ x0, Statement (.dtermClear x0) := fun _ => trivial
theorem vdctlRst : ∀ x0, Statement (.vdctlRst x0) := fun _ => trivial
theorem vdirq : ∀ x0, Statement (.vdirq x0) := fun _ => trivial
theorem jsgo : ∀ x0 x1, Statement (.jsgo x0 x1) := fun _ _ => trivial
theorem irqstatClear : ∀ x0 x1, Statement (.irqstatClear x0 x1) := fun _ _ => trivial
theorem lntrig : ∀ x0 x1, Statement (.lntrig x0 x1) := fun _ _ => trivial
theorem lnres : ∀ x0 x1, Statement (.lnres x0 x1) := fun _ _ => trivial
theorem atgo : ∀ x0 x1, Statement (.atgo x0 x1) := fun _ _ => trivial
theorem hostRegisterWrite : ∀ x0 x1 x2, Statement (.hostRegisterWrite x0 x1 x2) := fun _ _ _ => trivial
theorem packageReset : Statement .packageReset := trivial
theorem stackWake : Statement .stackWake := trivial
theorem opticalEngineWake : Statement .opticalEngineWake := trivial
theorem dieRailWake : Statement .dieRailWake := trivial
theorem securityProcessorBoot : ∀ x0, Statement (.securityProcessorBoot x0) := fun _ => trivial
theorem decsynLinkTrain : Statement .decsynLinkTrain := trivial
theorem bypass : Statement .bypass := trivial
theorem idcode : Statement .idcode := trivial
theorem samplePreload : Statement .samplePreload := trivial
theorem extest : Statement .extest := trivial
theorem arrayWake : ∀ x0, Statement (.arrayWake x0) := fun _ => trivial
theorem arraySleep : ∀ x0, Statement (.arraySleep x0) := fun _ => trivial
theorem launchItemStart : ∀ x0, Statement (.launchItemStart x0) := fun _ => trivial
theorem takeDeferredTrap : ∀ x0, Statement (.takeDeferredTrap x0) := fun _ => trivial
theorem enterUserHandler : ∀ x0, Statement (.enterUserHandler x0) := fun _ => trivial
theorem mailboxDeposit : ∀ x0 x1, Statement (.mailboxDeposit x0 x1) := fun _ _ => trivial
theorem spillDelivery : ∀ x0, Statement (.spillDelivery x0) := fun _ => trivial
theorem rucksackDelivery : ∀ x0 x1 x2, Statement (.rucksackDelivery x0 x1 x2) := fun _ _ _ => trivial
theorem loadComplete : ∀ x0 x1 x2, Statement (.loadComplete x0 x1 x2) := fun _ _ _ => trivial
theorem storePerformed : ∀ x0 x1, Statement (.storePerformed x0 x1) := fun _ _ => trivial
theorem remoteRefusal : ∀ x0 x1 x2, Statement (.remoteRefusal x0 x1 x2) := fun _ _ _ => trivial
theorem translationWalk : ∀ x0 x1 x2, Statement (.translationWalk x0 x1 x2) := fun _ _ _ => trivial
theorem sequencerExecute : ∀ x0, Statement (.sequencerExecute x0) := fun _ => trivial
theorem vloopReplay : ∀ x0, Statement (.vloopReplay x0) := fun _ => trivial
theorem matrixOpStart : ∀ x0, Statement (.matrixOpStart x0) := fun _ => trivial
theorem matrixOpComplete : ∀ x0, Statement (.matrixOpComplete x0) := fun _ => trivial
theorem functionOpComplete : ∀ x0, Statement (.functionOpComplete x0) := fun _ => trivial
theorem copyStart : ∀ x0, Statement (.copyStart x0) := fun _ => trivial
theorem copyComplete : ∀ x0 x1, Statement (.copyComplete x0 x1) := fun _ _ => trivial
theorem copyFail : ∀ x0 x1, Statement (.copyFail x0 x1) := fun _ _ => trivial
theorem indirectPostStart : ∀ x0, Statement (.indirectPostStart x0) := fun _ => trivial
theorem indirectPostComplete : ∀ x0 x1, Statement (.indirectPostComplete x0 x1) := fun _ _ => trivial
theorem indirectPostFail : ∀ x0 x1, Statement (.indirectPostFail x0 x1) := fun _ _ => trivial
theorem preemption : ∀ x0, Statement (.preemption x0) := fun _ => trivial
theorem nodeAgeing : ∀ x0 x1, Statement (.nodeAgeing x0 x1) := fun _ _ => trivial
theorem nodePlaceAffinity : ∀ x0 x1, Statement (.nodePlaceAffinity x0 x1) := fun _ _ => trivial
theorem nodeSteal : ∀ x0 x1, Statement (.nodeSteal x0 x1) := fun _ _ => trivial
theorem gangReserveBegin : ∀ x0 x1 x2, Statement (.gangReserveBegin x0 x1 x2) := fun _ _ _ => trivial
theorem gangCommit : ∀ x0 x1, Statement (.gangCommit x0 x1) := fun _ _ => trivial
theorem gangReserveFail : ∀ x0 x1, Statement (.gangReserveFail x0 x1) := fun _ _ => trivial
theorem gangBackoffExpiry : ∀ x0 x1, Statement (.gangBackoffExpiry x0 x1) := fun _ _ => trivial
theorem gangDrainStart : ∀ x0 x1 x2, Statement (.gangDrainStart x0 x1 x2) := fun _ _ _ => trivial
theorem drainCoreReserve : ∀ x0 x1, Statement (.drainCoreReserve x0 x1) := fun _ _ => trivial
theorem nodeCompletion : ∀ x0 x1, Statement (.nodeCompletion x0 x1) := fun _ _ => trivial
theorem nodeFail : ∀ x0 x1, Statement (.nodeFail x0 x1) := fun _ _ => trivial
theorem rambleAdmit : ∀ x0 x1, Statement (.rambleAdmit x0 x1) := fun _ _ => trivial
theorem rambleSearch : ∀ x0 x1, Statement (.rambleSearch x0 x1) := fun _ _ => trivial
theorem rambleReply : ∀ x0 x1, Statement (.rambleReply x0 x1) := fun _ _ => trivial
theorem rambleFail : ∀ x0 x1, Statement (.rambleFail x0 x1) := fun _ _ => trivial
theorem rambleHeldReplyDelivery : ∀ x0, Statement (.rambleHeldReplyDelivery x0) := fun _ => trivial
theorem sliceRelease : ∀ x0 x1, Statement (.sliceRelease x0 x1) := fun _ _ => trivial
theorem sliceDispatch : ∀ x0, Statement (.sliceDispatch x0) := fun _ => trivial
theorem sliceBudgetExpiry : ∀ x0, Statement (.sliceBudgetExpiry x0) := fun _ => trivial
theorem sliceGraceExpiry : ∀ x0, Statement (.sliceGraceExpiry x0) := fun _ => trivial
theorem deadlineMiss : ∀ x0 x1, Statement (.deadlineMiss x0 x1) := fun _ _ => trivial
theorem generationComplete : ∀ x0, Statement (.generationComplete x0) := fun _ => trivial
theorem slotTransferStart : ∀ x0, Statement (.slotTransferStart x0) := fun _ => trivial
theorem lateLaneStart : ∀ x0, Statement (.lateLaneStart x0) := fun _ => trivial
theorem slotBeatLand : ∀ x0, Statement (.slotBeatLand x0) := fun _ => trivial
theorem uncorrectableError : ∀ x0, Statement (.uncorrectableError x0) := fun _ => trivial
theorem terminationDone : ∀ x0, Statement (.terminationDone x0) := fun _ => trivial
theorem lanternCoreCapture : ∀ x0, Statement (.lanternCoreCapture x0) := fun _ => trivial
theorem lanternCaptureComplete : Statement .lanternCaptureComplete := trivial
theorem sealDigestDone : ∀ x0, Statement (.sealDigestDone x0) := fun _ => trivial
theorem attestationDone : ∀ x0, Statement (.attestationDone x0) := fun _ => trivial
theorem flitReceive : ∀ x0 x1, Statement (.flitReceive x0 x1) := fun _ _ => trivial
theorem idleFlit : ∀ x0, Statement (.idleFlit x0) := fun _ => trivial
theorem linkFailTimeout : ∀ x0, Statement (.linkFailTimeout x0) := fun _ => trivial
theorem forwardRequest : ∀ x0, Statement (.forwardRequest x0) := fun _ => trivial
theorem inboundRequestAdmit : ∀ x0, Statement (.inboundRequestAdmit x0) := fun _ => trivial
theorem gbarEpisodeComplete : ∀ x0, Statement (.gbarEpisodeComplete x0) := fun _ => trivial
theorem gbarRelease : ∀ x0 x1, Statement (.gbarRelease x0 x1) := fun _ _ => trivial
theorem reconfAllArrived : ∀ x0, Statement (.reconfAllArrived x0) := fun _ => trivial
theorem reconfSwitch : ∀ x0, Statement (.reconfSwitch x0) := fun _ => trivial
theorem portTrainTimeout : ∀ x0, Statement (.portTrainTimeout x0) := fun _ => trivial
theorem reconfCommit : ∀ x0, Statement (.reconfCommit x0) := fun _ => trivial
theorem reconfFail : ∀ x0, Statement (.reconfFail x0) := fun _ => trivial
theorem abortTokenBroadcast : ∀ x0, Statement (.abortTokenBroadcast x0) := fun _ => trivial
theorem reservedMajorIssue : ∀ x0, Statement (.reservedMajorIssue x0) := fun _ => trivial
theorem sequentialLineEntry : ∀ x0, Statement (.sequentialLineEntry x0) := fun _ => trivial
theorem debuggerResume : ∀ x0, Statement (.debuggerResume x0) := fun _ => trivial
theorem hostMemoryWindowAccess : ∀ x0 x1 x2 x3 x4, Statement (.hostMemoryWindowAccess x0 x1 x2 x3 x4) := fun _ _ _ _ _ => trivial
theorem perBankRefresh : ∀ x0, Statement (.perBankRefresh x0) := fun _ => trivial
theorem stackTemperatureReport : ∀ x0 x1, Statement (.stackTemperatureReport x0 x1) := fun _ _ => trivial
theorem portTrainingComplete : ∀ x0, Statement (.portTrainingComplete x0) := fun _ => trivial
theorem keptReplyExpiry : ∀ x0, Statement (.keptReplyExpiry x0) := fun _ => trivial
theorem groupArrivalReceive : ∀ x0 x1 x2, Statement (.groupArrivalReceive x0 x1 x2) := fun _ _ _ => trivial
theorem abortTokenArrival : ∀ x0 x1 x2 x3, Statement (.abortTokenArrival x0 x1 x2 x3) := fun _ _ _ _ => trivial

end Sys2Proof.Laws.Encoding
end

