-- ==== Sys2Proof/Laws/Reads.lean ====
section
/-!
SUPPORT. A read of a record that succeeds leaves the state that it answers (R291): so a trap of a later check is taken on it.
-/

namespace Sys2Proof.Machine

theorem State.recordRead_of_recordOf {s u : State} {who : Who} {idx : Nat} {r : BitVec 512} (h : s.recordOf who idx = .ok (u, r)) :
    s.recordRead who idx = u := by
  simp [State.recordRead, h]

theorem State.recordRead_of_shape {s u : State} {who : Who} {idx : Nat} {r : ShapeRec} (h : s.shape who idx = .ok (u, r)) :
    s.recordRead who idx = u := by
  simp only [State.shape, bind, Except.bind, ensure] at h
  split at h
  · cases h
  · rename_i v hv
    split at h
    · cases h
    · cases h
      exact State.recordRead_of_recordOf hv

theorem State.recordRead_of_indexRecord {s u : State} {ix : BitVec 16} {w : Bool} {p : IndexRec} (h : s.indexRecord ix w = .ok (u, p)) :
    s.recordRead (s.recordReader s.cur) ix.toNat = u := by
  simp only [State.indexRecord, State.check, asTrap, bind, Except.bind, State.needOperand, State.need] at h
  split at h
  · cases h
  · rename_i v hv
    split at hv
    · rename_i a ha
      cases hv
      repeat' (split at h <;> try cases h)
      exact State.recordRead_of_recordOf ha
    · cases hv

theorem State.barrierRead_of_barrier {s u : State} {ix : BitVec 16} {k : Nat} (h : s.barrier ix = .ok (u, k)) : s.barrierRead ix = u := by
  simp [State.barrierRead, h]

theorem State.programRead_of_walkProgram {s u : State} {obj : BitVec 16} {p : BitVec 512 × List (BitVec 32)}
    (h : s.walkProgram obj = .ok (u, p)) : s.programRead obj = u := by
  simp [State.programRead, h]

theorem State.recordTouched_of_read {s u : State} {a : BitVec 5} {n align : Nat} {l : List Reg} (hc : s.recordCap a n align = .ok ())
    (h : s.readGranules (s.who s.cur) (s.x a) (s.g a).permLC (n / 16) = .ok (u, l)) : s.recordTouched a n align = u := by
  simp [State.recordTouched, hc, h]

end Sys2Proof.Machine
end

