-- ==== Sys2Proof/Laws/Step.lean ====
section
/-!
SUPPORT. What the parts of a step come to: an issue inside a group, an issue that starts a group, a member that decodes, an action that the
agenda names.
-/

namespace Sys2Proof.Machine

@[simp] theorem State.ctx_pop (s : State) (c : CtxId) : s.pop.ctx c = s.ctx c := rfl
@[simp] theorem State.core_pop (s : State) (n : Nat) : s.pop.core n = s.core n := rfl
@[simp] theorem State.cluster_pop (s : State) (n : Nat) : s.pop.cluster n = s.cluster n := rfl
@[simp] theorem State.dfence_pop (s : State) : s.pop.dfence = s.dfence := rfl

/-- R295. An order is seen by some agent other than the context and its engines exactly where the model has it observed. -/
theorem observed_iff (scope : BitVec 3) (c : CtxId) : observed scope = true ↔ ∃ b, inScope scope c b = true ∧ inScope 0 c b = false := by
  constructor
  · intro h
    have h0 : scope ≠ 0 := by simpa [observed] using h
    refine ⟨.context ⟨c.core, c.slot + 1⟩, ?_, ?_⟩
    · have hc : ∀ n, inScope n c (.context ⟨c.core, c.slot + 1⟩) = true ∨ n = 0 := by
        intro n
        simp only [inScope]
        split <;> simp_all [Agent.core?, Agent.cluster?, Agent.die?, dieOf, clusterOf, BitVec.toNat_eq, Nat.div_div_eq_div_mul]
      exact (hc scope).resolve_right h0
    · cases c; simp [inScope]
  · rintro ⟨b, h1, h2⟩
    by_contra h
    have h0 : scope = 0 := by simpa [observed] using h
    rw [h0, h2] at h1
    exact absurd h1 (by simp)

/-- A map whose values are changed one by one. -/
theorem SMap.find_map {α β : Type} (f : α → β) (m : SMap α) (k : Nat) :
    SMap.find (m.map (fun p => (p.1, f p.2))) k = (SMap.find m k).map f := by
  induction m with
  | nil => rfl
  | cons p m ih => simp only [List.map_cons, SMap.find]; split <;> simp [ih]

/-- A member that decodes runs. -/
theorem State.member_instr {s : State} {c : CtxId} {pos : Nat} {i : Instr}
    (h : (memberAt (s.ctx c).line (headIndex (s.ctx c).pc)).dec = .instr i) :
    s.member c pos = .run i (s.beginMember c pos (memberAt (s.ctx c).line (headIndex (s.ctx c).pc)).word
      (decide (half (s.ctx c).line (headIndex (s.ctx c).pc) / 32768 = 1))) := by
  unfold State.member
  rw [h, runDecoded]

/-- An issue inside a group is that of the member at the program counter. -/
theorem State.issue_inside {s : State} {c : CtxId} (hg : s.groupOpen c = false) (hp : (s.ctx c).gpos ≠ 0)
    (hi : s.contextIssues c = true) : s.issue c = s.member c (s.ctx c).gpos := by
  unfold State.issue
  simp [hg, hi, hp]

/-- An issue at a group boundary where nothing else is due enters the line and starts the group. -/
theorem State.issue_start {s t : State} {c : CtxId} (hg : s.groupOpen c = false) (hp : (s.ctx c).gpos = 0)
    (hw : (s.ctx c).waiting = false) (h1 : s.stopsHere c = none) (h2 : s.contextIssues c = true) (h3 : s.standsAside c = false)
    (h4 : s.takesHere c = none) (h5 : s.enterLine c = (t, true)) (h6 : s.turn c = true) : s.issue c = t.startGroup c := by
  unfold State.issue
  simp [hg, hp, hw, h1, h2, h3, h4, h5, h6]

/-- A group without a decode fault that is ready starts with its first member. -/
theorem State.startGroup_ready {t : State} {c : CtxId}
    (h1 : groupFault (t.ctx c).line (t.ctx c).pc (c.slot != control) (t.ctx c).priv = none)
    (h2 : t.groupReady c (groupInstrs (t.ctx c).line (t.ctx c).pc) = true) : t.startGroup c = (t.readied c).member c 0 := by
  unfold State.startGroup
  simp [h1, h2]

/-- Starting a group leaves the line and the program counter. -/
theorem State.readied_line (t : State) (c : CtxId) :
    ((t.readied c).ctx c).line = (t.ctx c).line ∧ ((t.readied c).ctx c).pc = (t.ctx c).pc := by
  unfold State.readied
  rw [State.modCtx_eq, State.ctx_setCtx_self]
  simp only [Ctx.startGroup, State.ctx, State.modCore, State.core_setCore_self, Core.issued, SMap.getD]
  rw [SMap.find_map (fun x : Ctx => if 0 < x.standAside then { x with passed := NSet.add x.passed c.slot } else x)]
  cases h : SMap.find (t.core c.core).ctxs c.slot with
  | none => exact ⟨rfl, rfl⟩
  | some x => simp only [Option.map_some, Option.getD_some]; constructor <;> split <;> rfl

/-- A step whose agenda names the issue of a context, where the issue runs an instruction. -/
theorem step_issue {s : State} {c : CtxId} {rest : List Action} {i : Instr} {u : State} (hk : CtxId.known c = true)
    (ha : s.agenda = .issue c :: rest) (hm : s.pop.issue c = .run i u) : step s = passCycle (exec i u) := by
  unfold step State.next
  simp only [ha]
  unfold State.act
  simp only [hk, if_true, hm]
  rfl

/-- A step whose agenda names a walk thread, where the issue runs an instruction. -/
theorem step_walk {s : State} {cl th : Nat} {rest : List Action} {i : Instr} {u : State} (hc : cl < Config.clusters) (ht : th < 8)
    (ha : s.agenda = .walk cl th :: rest) (hm : s.pop.issueWalk cl th = .run i u) : step s = passCycle (exec i u) := by
  unfold step State.next
  simp only [ha]
  unfold State.act
  simp only [hc, ht, and_self, if_true, hm]
  rfl

/-- A walk thread that runs, whose turn it is, runs the word at its program counter within its limit. -/
theorem State.issueWalk_instr {s : State} {cl th : Nat} {w : BitVec 32} {i : Instr} (h3 : ((s.cluster cl).thread th).state = .run)
    (h4 : ((s.cluster cl).thread th).awaitsDigest = false) (h5 : (s.cluster cl).withdrawn = false)
    (h6 : s.dfence.getLsbD (cl / 10) = false) (h7 : ((s.cluster cl).thread th).exhausted = false)
    (h8 : 0 ≤ ((s.cluster cl).thread th).pc)
    (h9 : ((s.cluster cl).thread th).code[((s.cluster cl).thread th).pc.toNat]? = some w) (h10 : decodeWalk w.toNat = some i)
    (h11 : s.halt = false) (h12 : (s.cluster cl).walkTurn th = true) :
    s.issueWalk cl th = .run i { s.modCluster cl (fun k => { k with wkLast := th }) with wk := (cl, th) } := by
  unfold State.issueWalk
  simp [Thread.ready, h3, h4, h5, h6, h7, h8, h9, h10, h11, h12]

end Sys2Proof.Machine
end

