-- ==== Sys2Proof/Tests/Slice0.lean ====
section
/-!
SUPPORT. Words and results worked by hand in the spec's examples, the checks of well-formedness, and for each statement with hypotheses a
state and operands that meet them.
-/

open Sys2Proof Sys2Proof.Machine

noncomputable section

set_option Elab.async false

namespace Tests

/-! ## Decoding: the words that the examples of the spec write out -/

/-- R63, R64. An instruction of a head and up to three tails. -/
def word (h t1 t2 t3 : Nat) : Nat := h + t1 * 2 ^ 16 + t2 * 2 ^ 32 + t3 * 2 ^ 48

/-- A word decodes to an instruction. -/
def Reads (w : Nat) (i : Instr) : Prop := decodeCore w = .instr i

/-- File 05's line of four heads, and the branch offset of -3. -/
theorem test_decode_line_of_sumk :
    decodeCore (word 0x4445 0x0005 0xFFFF 0) = .instr (.addi 5 5 0xFFFF) ∧
    decodeCore (word 0xC806 0x0807 0x0008 0) = .instr (.ldw 6 7 8) ∧
    decodeCore (word 0xA408 0x0000 0 0) = .instr (.add 8 0 0) ∧
    decodeCore (word 0xC200 0x0405 0xFFFD 0) = .instr (.bne 5 0 0xFFFD) := by decide +kernel

/-- File 10's kernel, lines L and L + 64. -/
theorem test_decode_exp2 :
    decodeCore (word 0x64C5 0x0000 0x0000 0x4348) = .instr (.ldi 5 0x43480000) ∧
    decodeCore (word 0xCC46 0x1800 0x0040 0) = .instr (.vbcast 6 0 1 0) ∧
    decodeCore (word 0xCC48 0x0407 0 0) = .instr (.vneg 8 7 0) ∧
    decodeCore (word 0x4D80 0x0104 0x0040 0) = .instr (.vld 0 4 8 1 0) ∧
    decodeCore (word 0xCCC1 0x1400 0x1F80 0) = .instr (.vclassm 1 0 0x07E 0) ∧
    decodeCore (word 0xCCC3 0x1400 0xE000 0) = .instr (.vclassm 3 0 0x380 0) ∧
    decodeCore (word 0xCC01 0x0CE0 0x0001 0) = .instr (.vmin 1 0 7 0 1) ∧
    decodeCore (word 0xCC01 0x1101 0x0001 0) = .instr (.vmax 1 1 8 0 1) ∧
    decodeCore (word 0xCD02 0x0401 0x0001 0) = .instr (.vrnd 2 1 0 1) ∧
    decodeCore (word 0xCC03 0x0441 0x0001 0) = .instr (.vsub 3 1 2 0 1) := by decide +kernel

theorem test_decode_exp2_rest :
    decodeCore (word 0xCD04 0x0002 0x0241 0) = .instr (.vcvt 4 2 0 9 0 1) ∧
    decodeCore (word 0xCE05 0x0003 0x0001 0) = .instr (.vexp2f 5 3 0 1) ∧
    decodeCore (word 0xCC09 0x3085 0x0001 0) = .instr (.vscaleb 9 5 4 0 1) ∧
    decodeCore (word 0xCC89 0x0D26 0x0002 0) = .instr (.vsel 9 6 9 2) ∧
    decodeCore (word 0xCC09 0x1000 0x0023 0) = .instr (.vmax 9 0 0 4 3) ∧
    decodeCore (word 0x4D89 0x0507 0x0000 0) = .instr (.vst 9 7 8 0) ∧
    decodeCore (word 0xC200 0x0401 0xFFC3 0) = .instr (.bne 1 0 0xFFC3) ∧
    decodeCore (word 0x8003 0 0 0) = .instr .vsync ∧
    decodeCore (word 0xC149 0x0000 0x0001 0) = .instr (.movfc 9 1) ∧
    decodeCore (word 0x8001 0 0 0) = .instr .hend := by decide +kernel

/-- File 06's examples: VLOOP, a stream VADD, VTOPKNZ. -/
theorem test_decode_vector :
    decodeCore (word 0xC2E1 0x0000 0x0064 0) = .instr (.vloop 1 1 0 100) ∧
    decodeCore (word 0xCE44 0x0522 0x0180 0) = .instr (.vtopknz 4 2 9 6 0) ∧
    decodeCore (word 0xCD80 0x01A8 0x0080 0) = .instr (.vld 0 8 13 2 0) ∧
    decodeCore (word 0x4C02 0x0020 0x0020 0) = .instr (.vadd 2 0 1 4 0) := by decide +kernel

/-- File 15's kernel. -/
theorem test_decode_proximity :
    decodeCore (word 0xC654 0x0404 0x0200 0) = .instr (.kadvi 20 4 0x200) ∧
    decodeCore (word 0xC080 0x0014 0x0047 0) = .instr (.hstart 0 20 0 0x47) ∧
    decodeCore (word 0xA605 0x2004 0 0) = .instr (.kcopy 5 4) ∧
    decodeCore (word 0x5408 0x0005 0x0040 0) = .instr (.stvec 8 5 0x40) ∧
    decodeCore (word 0xA040 0x0FFF 0 0) = .instr (.wait_ 0 15 15 15) ∧
    decodeCore (word 0xB281 0x0400 0 0) = .instr (.evsig 1 0) ∧
    decodeCore (word 0xB281 0x0000 0 0) = .instr (.evwait 1 0) ∧
    decodeCore (word 0xE4D3 0x0413 0x0200 0x0000) = .instr (.ldih 19 19 0x200) ∧
    decodeCore (word 0xD411 0x0672 0x0040 0) = .instr (.ldnear 0 17 18 19 0x40) ∧
    decodeCore (word 0xA0D5 0x0000 0 0) = .instr (.hjoin 21 0) ∧
    decodeCore (word 0xD407 0x0900 0x0030 0) = .instr (.delvec 7 8 0x30) ∧
    decodeCore (word 0xD409 0x0C00 0x0030 0) = .instr (.ixstamp 9 0x30) := by decide +kernel

/-- File 16's kernel. -/
theorem test_decode_boruvka :
    decodeCore (word 0xA49F 0x0802 0 0) = .instr (.popc 31 2) ∧
    decodeCore (word 0xA88A 0x0C66 0 0) = .instr (.lddx 10 6 3) ∧
    decodeCore (word 0xA88C 0x0968 0 0) = .instr (.ldwx 12 8 11) ∧
    decodeCore (word 0xC44F 0x1014 0x0020 0) = .instr (.shli 15 20 32) ∧
    decodeCore (word 0xA88C 0x1A29 0 0) = .instr (.stwx 12 9 17) ∧
    decodeCore (word 0xB280 0x0802 0 0) = .instr (.cbar 2) ∧
    decodeCore (word 0xA895 0x1D65 0 0) = .instr (.stdx 21 5 11) ∧
    decodeCore (word 0xA48C 0x200F 0 0) = .instr (.zextw 12 15) ∧
    decodeCore (word 0xA41C 0x5312 0 0) = .instr (.maxu 28 18 24) ∧
    decodeCore (word 0xA896 0x1226 0 0) = .instr (.stbx 22 6 17) ∧
    decodeCore (word 0xA280 0x081E 0 0) = .instr (.ret 30) := by decide +kernel

/-- Files 12 and 16: size .d is 1, scope .clu 1, .die 2, .pkg 4 and .sc order 4. -/
theorem test_decode_atomics :
    decodeCore (word 0xCA00 0x1DF0 0x0042 0) = .instr (.amominu 0 16 15 2 0 1) ∧
    decodeCore (word 0xCA11 0x02D3 0x0042 0) = .instr (.amoadd 17 19 22 2 0 1) ∧
    decodeCore (word 0xCA51 0x0390 0x7442 0) = .instr (.cas 17 16 28 2 0 1 0 29) ∧
    decodeCore (word 0xCA47 0x0004 0x2143 0) = .instr (.cas 7 4 0 3 0 1 1 8) ∧
    decodeCore (word 0xCA86 0x0004 0x004B 0) = .instr (.ldaq 6 4 3 1 1) ∧
    decodeCore (word 0xCA80 0x04A4 0x0053 0) = .instr (.strl 5 4 3 2 1) ∧
    decodeCore (word 0x8AE4 0 0 0) = .instr (.fence 4 4) := by decide +kernel

/-- Files 05, 07, 08, 09 and 11. -/
theorem test_decode_engines :
    decodeCore (word 0xC8C8 0x01E4 0x0020 0) = .instr (.ldm 8 15 4 0x20) ∧
    decodeCore (word 0xD000 0x0000 0x0000 0) = .instr (.wload 0 0) ∧
    decodeCore (word 0xA040 0xFFF0 0 0) = .instr (.wait_ 15 15 15 0) ∧
    decodeCore (word 0xD140 0x0004 0x0003 0) = .instr (.chfit 0 4 0 3) ∧
    decodeCore (word 0xB101 0x1400 0 0) = .instr (.chint 1 0) ∧
    decodeCore (word 0xD146 0x04A1 0x0000 0) = .instr (.cheval 6 1 5) ∧
    decodeCore (word 0xD148 0x08E0 0x0000 0) = .instr (.chroot 8 0 7 0) ∧
    decodeCore (word 0xF200 0x00E6 0x0010 0x0011) = .instr (.cpy 0 6 7 0x10 0x11) ∧
    decodeCore (word 0xF242 0x0126 0x0148 0x0008) = .instr (.igather 0 2 6 9 10 8 8) ∧
    decodeCore (word 0xD2C6 0x0008 0x0021 0) = .instr (.wkstart 6 8 0 0x21) ∧
    decodeCore (word 0xD2CC 0x0406 0x0005 0) = .instr (.wkstat 12 6 1 1) := by decide +kernel

/-- Files 13, 17, 18 and 19. -/
theorem test_decode_work :
    decodeCore (word 0xD449 0x0004 0x0000 0) = .instr (.nsubmit 9 4 0) ∧
    decodeCore (word 0xD44D 0x092A 0x0001 0) = .instr (.narmEdge 13 10 9) ∧
    decodeCore (word 0xD440 0x0809 0x0000 0) = .instr (.narm 9) ∧
    decodeCore (word 0xD44E 0x040C 0x0001 0) = .instr (.ndoneQ 14 12 0) ∧
    decodeCore (word 0xD645 0x0806 0x0050 0) = .instr (.bsync 5 6 0x50) ∧
    decodeCore (word 0xD64F 0x0D8D 0x0FFF 0) = .instr (.slotsend 15 13 12 0xFFF) ∧
    decodeCore (word 0xD654 0x1000 0x0002 0) = .instr (.slotwait 20 2) ∧
    decodeCore (word 0xC140 0x041E 0x0004 0) = .instr (.movtc 30 4) ∧
    decodeCore (word 0x8005 0 0 0) = .instr .eret ∧
    decodeCore (word 0xD689 0x00A4 0x0000 0) = .instr (.seal 9 4 5) := by decide +kernel

/-- Files 20 and 21. -/
theorem test_decode_fabric :
    decodeCore (word 0xD80A 0x0000 0x0003 0) = .instr (.reconf 10 3) ∧
    decodeCore (word 0xD80B 0x0400 0x0000 0) = .instr (.tgen 11) ∧
    decodeCore (word 0xD80C 0x080D 0x0000 0) = .instr (.gbar 12 13) ∧
    decodeCore (word 0xD800 0x0C0E 0x0000 0) = .instr (.abort 14) ∧
    decodeCore (word 0xD800 0x10E5 0x0005 0) = .instr (.stmc 5 7 5) ∧
    decodeCore (word 0xD809 0x1404 0x000C 0) = .instr (.rkreg 9 4 0 0 3) ∧
    decodeCore (word 0xD809 0x1544 0x000D 0) = .instr (.rkreg 9 4 10 1 3) ∧
    decodeCore (word 0xD80F 0x1809 0x0000 0) = .instr (.rkrevoke 15 9) ∧
    decodeCore (word 0xC140 0x0409 0x0031 0) = .instr (.movtc 9 0x31) ∧
    decodeCore (word 0xA606 0x04E5 0 0) = .instr (.kset 6 5 7) ∧
    decodeCore (word 0xC596 0x0416 0x0417 0) = .instr (.sfcvt 22 22 7 1 4) ∧
    decodeCore (word 0xA556 0x0276 0 0) = .instr (.sfadd 0 22 22 19) ∧
    decodeCore (word 0xC840 0x0DF1 0x0040 0) = .instr (.std 15 17 0x40) := by decide +kernel

/-- R79 and the entries R109, R117, R120, R124, R162, R170, R173, R237, R246, R358: words composed from the encoding tables, a head with G = 1 first,
then T1 as FN, B, A. -/
theorem test_decode_other_majors :
    decodeCore (word 0xE240 0x0000 0xFFFE 0xFFFF) = .instr (.br 0xFFFFFFFE) ∧
    decodeCore (word 0xE25E 0x0400 0x0010 0x0001) = .instr (.call 30 0x10010) ∧
    decodeCore (word 0xC503 0x0405 (4 + 7 * 64 + 4096) 0) = .instr (.bext 3 5 4 7 1) ∧
    decodeCore (word 0xC503 0x08C5 (4 + 7 * 64) 0) = .instr (.bins 3 5 6 4 7) ∧
    decodeCore (word 0xC581 0x0062 0x0024 0) = .instr (.sffma 1 2 3 4 1) ∧
    decodeCore (word 0xCC81 0x0062 (4 * 64 + 1 * 8 + 5) 0) = .instr (.vfma 1 2 3 4 1 5) ∧
    decodeCore (word 0xCD41 0x1062 0 0) = .instr (.vextr 1 2 3) ∧
    decodeCore (word 0xCDCA 0x0062 0 0) = .instr (.sbind 1 2 2 3) ∧
    decodeCore (word 0xCE9A 0x0462 0x0140 0) = .instr (.unpark 0x1A 2 3 5) ∧
    decodeCore (word 0xF223 0x0462 0x0010 (9 * 64 + 2 * 16 + 8)) = .instr (.cpym 1 3 2 3 0x10 9 2 1) ∧
    decodeCore (word 0xD607 0x0004 0x0002 0) = .instr (.cwait 7 4 2) ∧
    decodeCore (word 0xC18F 0x0403 0x00C1 0) = .instr (.restctx 15 3 0xC1) ∧
    decodeCore (word 0xCD80 (3 + 4 * 32 + 3 * 1024) (2 * 2048 + 5 * 64 + 1) 0) = .instr (.vscat 5 3 4 2 1) := by decide +kernel

/-- R276 and the words that file 11's example writes out. -/
theorem test_decode_walker :
    decodeWalk 0x64000000 = some .wdinit ∧ decodeWalk 0x2A00001F = some (.wldi 8 31) ∧
    decodeWalk 0x34C80000 = some (.wldW 3 2 0 0) ∧ decodeWalk 0x581BC009 = some (.wbne 6 15 9) ∧
    decodeWalk 0x60003FF5 = some (.wj 0x3FF5) ∧ decodeWalk 0x7C000003 = some (.wsig 3) ∧
    decodeWalk 0x80100000 = some (.wend 4) ∧ decodeWalk 0x84000000 = none ∧ decodeWalk 0x7C000010 = none := by decide +kernel

/-- R80, R81. The subcodes of ILLEGAL_OP: reserved major 1 (the halfword of R80), unassigned minor 2, wrong form 3, reserved field 4. -/
theorem test_decode_refuses :
    decodeCore (word 0x9FC0 0 0 0) = .illegal 1 ∧ decodeCore (word 0x800F 0 0 0) = .illegal 2 ∧
    decodeCore (word 0xCC06 0x7C00 0 0) = .illegal 2 ∧ decodeCore (word 0x8040 0 0 0) = .illegal 3 ∧
    decodeCore (word 0xC08A 0x0014 0x0047 0) = .illegal 4 ∧ decodeCore (word 0xA408 0x0000 0 0) ≠ .illegal 4 := by decide +kernel

/-- R64, R83, R276. The host's numbering of an instruction's bits: the head is the first word. -/
theorem test_decodeTableWord :
    decodeTableWord 32 (word 0xA408 0x0000 0 0) = some (.add 8 0 0) ∧
    decodeTableWord 48 (word 0x4445 0x0005 0xFFFF 0) = some (.addi 5 5 0xFFFF) := by decide +kernel

/-! ## Well-formed terms, and for each check a term that it refuses (R66) -/

theorem wellformed_accepts :
    (Instr.hstart 9 0 0 0).wf = true ∧ (Instr.savectx 15 1 0).wf = true ∧ (Instr.vloop 1 16 0 7).wf = true ∧ (Instr.sfcvt 1 2 8 0 4).wf = true ∧
    (Instr.kinfo 1 2 4).wf = true ∧ (Instr.amoadd 1 2 3 7 4 1).wf = true ∧ (Instr.ldaq 1 2 0 1 1).wf = true ∧ (Instr.strl 1 2 0 2 1).wf = true ∧
    (Instr.fence 7 4).wf = true ∧ (Instr.vadd 23 22 21 4 7).wf = true ∧ (Instr.vcvt 0 0 15 15 4 0).wf = true ∧ (Instr.sbind 2 7 1 1).wf = true ∧
    (Instr.park 0x1A 1 1 1023).wf = true ∧ (Instr.park 0x20 1 1 0).wf = true ∧ (Instr.stmc 1 1 5).wf = true ∧ (Instr.rkreg 1 1 1 2 7).wf = true := by
  decide +kernel

theorem wellformed_refuses_slots :
    (Instr.hstart 10 0 0 0).wf = false ∧ (Instr.hjoin 1 10).wf = false ∧ (Instr.hstat 1 31).wf = false ∧ (Instr.hkill 10).wf = false ∧
    (Instr.savectx 10 1 0).wf = false ∧ (Instr.restctx 14 1 0).wf = false := by decide +kernel

theorem wellformed_refuses_scalar :
    (Instr.vloop 0 0 0 1).wf = false ∧ (Instr.vloop 0 17 0 1).wf = false ∧ (Instr.vloop 0 1 3 1).wf = false ∧ (Instr.sfcvt 1 2 9 0 0).wf = false ∧
    (Instr.sfcvt 1 2 0 9 0).wf = false ∧ (Instr.sfcvt 1 2 0 0 5).wf = false ∧ (Instr.kinfo 1 2 5).wf = false := by decide +kernel

theorem wellformed_refuses_atomics :
    ([Instr.amoadd, .amoand, .amoor, .amoxor, .amoswap, .amomin, .amomax, .amominu, .amomaxu].all fun f => !(f 1 2 3 0 5 0).wf && !(f 1 2 3 0 0 2).wf) = true ∧
    (Instr.cas 1 2 3 0 5 0 0 4).wf = false ∧ (Instr.cas 1 2 3 0 0 2 0 4).wf = false ∧ (Instr.cas2 1 2 3 0 5 0 4).wf = false ∧
    (Instr.ldaq 1 2 0 2 0).wf = false ∧ (Instr.ldaq 1 2 0 0 2).wf = false ∧ (Instr.strl 1 2 0 1 0).wf = false ∧
    (Instr.strl 1 2 0 0 3).wf = false ∧ (Instr.fence 0 5).wf = false := by
  decide +kernel

theorem wellformed_refuses_vector :
    ([Instr.vadd, .vsub, .vmul, .vmin, .vmax, .vscaleb, .vadds, .vsubs, .vabsd].all fun f => !(f 24 0 0 0 0).wf && !(f 0 24 0 0 0).wf && !(f 0 0 31 0 0).wf && !(f 0 0 0 5 0).wf) = true ∧
    ([Instr.vand, .vor, .vxor, .vandn, .vshl, .vshr, .vsra, .vsel, .vperm].all fun f => !(f 24 0 0 0).wf && !(f 0 24 0 0).wf && !(f 0 0 24 0).wf) = true ∧
    ([Instr.vmov, .vneg, .vabs, .vnot, .vclass, .vredmax, .vredmin].all fun f => !(f 24 0 0).wf && !(f 0 24 0).wf) = true ∧
    ([Instr.vrcp, .vrsqrt, .vsqrt, .vrnd, .vredsum, .vexp2f, .vlog2f, .vtanh].all fun f => !(f 24 0 0 0).wf && !(f 0 24 0 0).wf && !(f 0 0 5 0).wf) = true := by
  decide +kernel

theorem wellformed_refuses_vector_rest :
    ([Instr.vfma, .vfms, .vfnma].all fun f => !(f 24 0 0 0 0 0).wf && !(f 0 24 0 0 0 0).wf && !(f 0 0 24 0 0 0).wf && !(f 0 0 0 24 0 0).wf && !(f 0 0 0 0 5 0).wf) = true ∧
    ([Instr.vceq, .vcne, .vclt, .vcle, .vcun].all fun f => !(f 0 24 0 0).wf && !(f 0 0 24 0).wf) = true ∧
    (Instr.viota 24 0 0 0).wf = false ∧ (Instr.viota 0 16 0 0).wf = false ∧ (Instr.viota 0 0 5 0).wf = false ∧ (Instr.vbcast 0 0 16 0).wf = false ∧
    (Instr.vclassm 0 24 0 0).wf = false ∧ (Instr.vcvt 0 0 0 16 0 0).wf = false ∧ (Instr.vtag 0 0 16 0).wf = false ∧
    (Instr.vpack 0 0 0 16 0 0).wf = false ∧ (Instr.vunpack 0 0 16 0 0).wf = false ∧ (Instr.vextr 0 24 0).wf = false ∧
    (Instr.vins 24 0 0).wf = false ∧ (Instr.vld 0 0 0 16 0).wf = false ∧ (Instr.vst 24 0 0 0).wf = false ∧
    (Instr.vgath 0 0 24 0 0 0).wf = false ∧ (Instr.vscat 24 0 0 0 0).wf = false ∧ (Instr.vtopk 24 0 0 0 0).wf = false ∧
    (Instr.vtopknz 0 24 0 0 0).wf = false := by
  decide +kernel

theorem wellformed_refuses_engines :
    (Instr.sbind 0 0 1 1).wf = false ∧ (Instr.sbind 3 0 1 1).wf = false ∧ (Instr.park 0x08 1 1 0).wf = false ∧ (Instr.park 0x00 1 1 1).wf = false ∧
    (Instr.unpark 0x1B 1 1 0).wf = false ∧ (Instr.unpark 0x21 1 1 0).wf = false ∧ (Instr.park 0x30 1 1 0).wf = false ∧
    (Instr.stmc 1 1 4).wf = false ∧ (Instr.rkreg 1 1 1 3 0).wf = false := by decide +kernel

/-! ## Single steps -/

/-- The control context of core 0, with which the tests work. -/
def me0 : CtxId := ⟨0, control⟩

/-- A reset machine whose control context of core 0 holds `regs`. -/
def withRegs (regs : List (Nat × Reg)) : State :=
  State.reset.modCtx me0 (fun x => { x with regs := regs.foldl (fun m p => SMap.set m p.1 p.2) [] })

/-- A fetched instruction of `n` bits run by one step from the registers `regs`. -/
def ran (regs : List (Nat × Reg)) (n w : Nat) : Option State :=
  match step ((withRegs regs).withFetchWord n w) with
  | .next t => some t
  | _ => none

/-- Register `k` after that step. -/
def after (regs : List (Nat × Reg)) (n w k : Nat) : Option Word := (ran regs n w).map (fun t => ((t.ctx me0).reg k).word)

/-- R113. The sum wraps modulo 2^64, into the register that is also a source. -/
theorem test_step_add_wraps :
    after [(1, Reg.plain 0xFFFFFFFFFFFFFFFF), (2, Reg.plain 3)] 32 (word 0xA401 (2 * 32 + 1) 0 0) 1 = some 2 := by decide +kernel

/-- R68. The line has one head: the next head is head 1 of the line at the next 64-byte address. -/
theorem test_step_pc : (ran [] 16 (word 0x8000 0 0 0)).map (fun t => (t.ctx me0).pc) = some 0x30042 := by decide +kernel

/-! ## Values that the spec works out by hand -/

/-- R90. A tagged capability from its fields. -/
def cap (dom perms e b t addr : Nat) : Reg :=
  ⟨BitVec.ofNat 128 (addr + t * 2 ^ 65 + b * 2 ^ 86 + e * 2 ^ 108 + perms * 2 ^ 114 + dom * 2 ^ 121), true⟩

/-- R91. A capability of domain 63 over the whole address space, with every permission. -/
def whole (addr : Nat) : Reg := cap 63 0x7F 63 0 0 addr

/-- R91's two examples, the second across a window boundary. -/
theorem test_bounds :
    (cap 0 0 4 0x100 0x40 0x04001050).bounds = (0x04001000, 0x04001400) ∧
    (cap 0 0 4 0x3FFFF0 0x20 0x08000010).bounds = (0x07FFFF00, 0x08000100) := by decide +kernel

/-- R128's example: e = 1, lo = 0x04001234, hi = 0x04301236. -/
theorem test_limit :
    ((cap 0 0 4 0 0x100000 0x04001235).limit 0x300000).map (fun r => (r.bounds, r.word)) =
      some ((0x04001234, 0x04301236), 0x04001235) := by decide +kernel

/-- R26's worked conversions to E4M3: value, then flags (OF 4, UF 2, NX 1). -/
theorem test_convert_e4m3 :
    convert .fp32 .e4m3 .rne true 0x43960000 = (0x79, nx) ∧ convert .fp32 .e4m3 .rne true 0x43E60000 = (0x7E, nx) ∧
    convert .fp32 .e4m3 .rne true 0x43EB0000 = (0x7E, ovf ||| nx) ∧ convert .fp32 .e4m3 .rne true 0x3A83126F = (0x01, unf ||| nx) ∧
    convert .fp32 .e4m3 .rne true 0xFF800000 = (0xFE, ovf ||| nx) ∧ convert .fp32 .e4m3 .rne true 0x7FC00000 = (0x7F, 0) := by decide +kernel

/-- R26's worked conversions to E2M1. -/
theorem test_convert_e2m1 :
    convert .fp32 .e2m1 .rne true 0x40200000 = (0x4, nx) ∧ convert .fp32 .e2m1 .rne true 0x40A00000 = (0x6, nx) ∧
    convert .fp32 .e2m1 .rne true 0x40E00000 = (0x7, ovf ||| nx) ∧ convert .fp32 .e2m1 .rtz true 0x40E00000 = (0x7, nx) ∧
    convert .fp32 .e2m1 .rne true 0x3E4CCCCD = (0x0, unf ||| nx) ∧ convert .fp32 .e2m1 .rne true 0x7FC00000 = (0x0, nv) := by decide +kernel

/-- R28: INT32 values to FP16. -/
theorem test_convert_int32 :
    convert .int32 .fp16 .rne false 65519 = (0x7BFF, nx) ∧ convert .int32 .fp16 .rne false 65520 = (0x7C00, ovf ||| nx) := by decide +kernel

/-- R32's worked block: 115.5 in step 2, and the accumulator after step 5; and the row whose scale is infinite. -/
theorem test_block :
    blockSum true ((List.replicate 125 (product (.fin false 0 0) (.fin false 0 0))) ++
      [product (mxValue 14 0x3C) (mxValue 14 0x44), product (mxValue 14 0xC0) (mxValue 14 0x30), product (mxValue 14 0x28) (mxValue 14 0x7E)]) =
      (0x42E70000, 0) ∧
    blockStep (some (0x3DCCCCCD, 0x40400000)) 0x41200000 (0x42E70000, 0) = (0x4232999A, nx) ∧
    blockStep (some (0x7F800000, 0x40400000)) 0x41200000 (0, 0) = (0x7FC00000, nv) := by decide +kernel

/-- R32 step 1. A block of products of the integer 0 and a negative one sums to +0. -/
theorem test_block_of_zeros :
    blockSum true (List.replicate 128 (product (.fin false 0 0) (.fin true 3 0)).integer) = (0, 0) := by decide +kernel

/-- File 10: the fraction exponential of 0.5 and -0.5, and of 0. -/
theorem test_exp2 :
    Fmt.exp2 fp32 .rne (fp32.value 0x3F000000) = (0x3FB504F3, nx) ∧ Fmt.exp2 fp32 .rne (fp32.value 0xBF000000) = (0x3F3504F3, nx) ∧
    Fmt.exp2 fp32 .rne (fp32.value 0) = (0x3F800000, 0) := by decide +kernel

/-- File 08's calibration curve: the three samples' coefficients. -/
theorem test_chebyshev_fit :
    ((List.range 3).map fun k => (Fit.coeff 2 [Q.mk' 3 64, Q.mk' 47 64, Q.ofInt 1] k).1) =
      [0x3FE4200000000000, 0x3FDE800000000000, 0xBFBB000000000000] := by decide +kernel

/-- File 08's calibration curve: its integral, and the root for 471/512 at x = 6. -/
theorem test_chebyshev_integral_root :
    (seriesInt [Q.mk' 161 256, Q.mk' 61 128, Q.mk' (-27) 256] (Q.ofInt 4)).map (fun q => (Q.round q).1) =
      [0x4001700000000000, 0x4005D00000000000, 0x3FDE800000000000, 0xBFB2000000000000] ∧
    (Roots.solver [(Q.mk' 161 256).sub (Q.mk' 471 512), Q.mk' 61 128, Q.mk' (-27) 256]).count = 1 ∧
    ((Roots.solver [(Q.mk' 161 256).sub (Q.mk' 471 512), Q.mk' 61 128, Q.mk' (-27) 256]).rootX 0 0x4020000000000000 0).1 =
      0x4018000000000000 := by decide +kernel

/-! ## Witnesses: for each statement with hypotheses, a state and operands that meet them -/

/-- Success, as a truth value. -/
def okay {ε α : Type} : Except ε α → Bool
  | .ok _ => true
  | .error _ => false

theorem exists_of_okay {ε α : Type} {e : Except ε α} (h : okay e = true) : ∃ a, e = .ok a := by
  cases e with
  | ok a => exact ⟨a, rfl⟩
  | error _ => cases h

theorem exists_of_error {ε α : Type} {e : Except ε α} (h : okay e = false) : ∃ a, e = .error a := by
  cases e with
  | ok _ => cases h
  | error a => exact ⟨a, rfl⟩

theorem exists_of_some {α : Type} {o : Option α} (h : o.isSome = true) : ∃ a, o = some a := by
  cases o with
  | some a => exact ⟨a, rfl⟩
  | none => cases h

/-- The bits of a capability's permissions: R 64, W 32, X 16, LC 8, SC 4, SH 2, G 1. -/
def spad : Nat := 0x7E00000000000000

/-- A live, privileged control context on core 0 with its registers, in a line of one head at 0x30000 that the tables map. g1 and g2 hold
integers, g4 a capability over everything that addresses the own scratchpad, g5 one sealed, g6 one of domain 5 with R alone, bounded. -/
def s0 : State :=
  (withRegs [(1, Reg.plain 5), (2, Reg.plain 7), (4, whole spad), (5, ⟨(whole spad).bits ||| BitVec.twoPow 128 127, true⟩)
    , (6, cap 5 64 0 0 0x1000 0)]).withFetchWord 16 0x8000

/-- The same with the line fetched, as it stands at the head. -/
def s1 : State := (s0.pop.enterLine me0).1

theorem witness_DecodeOfEncode : (Instr.add 3 1 2).wf = true ∧ encode true (.add 3 1 2) = some (word 0xA403 0x0041 0 0) ∧
    (Instr.wadd 3 1 2).wf = true ∧ encode false (.wadd 3 1 2) = some 0x04C48000 := by decide +kernel

theorem witness_EncodeOfDecode : decodeCore (word 0xA403 0x0041 0 0) = .instr (.add 3 1 2) ∧ decodeWalk 0x04C48000 = some (.wadd 3 1 2) := by
  decide +kernel

/-- Inside a group: the second member, a NOP, is next. -/
def inGroup : State :=
  { (s1.modCtx me0 fun x => { x with gpos := 1 }) with agenda := [.issue me0] }

theorem witness_StepRunsDecoded_member :
    CtxId.known me0 = true ∧ inGroup.agenda = [.issue me0] ∧ inGroup.groupOpen me0 = false ∧ (inGroup.ctx me0).gpos ≠ 0 ∧
    inGroup.pop.contextIssues me0 = true ∧
    (memberAt (inGroup.ctx me0).line (headIndex (inGroup.ctx me0).pc)).dec = .instr .nop := by decide +kernel

theorem witness_StepRunsDecoded_group :
    s0.agenda = [.issue me0] ∧ s0.groupOpen me0 = false ∧ (s0.ctx me0).gpos = 0 ∧ (s0.ctx me0).waiting = false ∧ s0.pop.stopsHere me0 = none ∧
    s0.pop.contextIssues me0 = true ∧ s0.pop.standsAside me0 = false ∧ s0.pop.takesHere me0 = none ∧ s0.pop.turn me0 = true ∧ s0.pop.enterLine me0 = (s1, true) ∧
    groupFault (s1.ctx me0).line (s1.ctx me0).pc (me0.slot != control) (s1.ctx me0).priv = none ∧
    s1.groupReady me0 (groupInstrs (s1.ctx me0).line (s1.ctx me0).pc) = true ∧
    (memberAt (s1.ctx me0).line (headIndex (s1.ctx me0).pc)).dec = .instr .nop := by decide +kernel

/-- A walk thread that runs one word. -/
def walking : State := State.reset.withFetchWord 32 0x04C48000

theorem witness_StepRunsDecoded_walk :
    walking.agenda = [.walk 0 0] ∧ ((walking.cluster 0).thread 0).state = .run ∧ ((walking.cluster 0).thread 0).awaitsDigest = false ∧
    (walking.cluster 0).withdrawn = false ∧ walking.halt = false ∧ walking.dfence.getLsbD 0 = false ∧ ((walking.cluster 0).thread 0).exhausted = false ∧
    0 ≤ ((walking.cluster 0).thread 0).pc ∧ ((walking.cluster 0).thread 0).code[((walking.cluster 0).thread 0).pc.toNat]? = some 0x04C48000 ∧
    decodeWalk 0x04C48000 = some (.wadd 3 1 2) := by decide +kernel

/-- A next state, as a truth value. -/
def goes (o : Out) : Bool :=
  match o with
  | .next _ => true
  | _ => false

theorem exists_of_goes {o : Out} (h : goes o = true) : ∃ t, o = .next t := by
  cases o with
  | next t => exact ⟨t, rfl⟩
  | fault _ => cases h
  | refused _ => cases h

/-- A launch item of job 3 without images. -/
def item0 : LaunchItem :=
  { job := 3, launch := none, rank := 0, graph := 0, phase := none, entry := 0x30002, tvec := 0, xlbase := 1, live := 0, phrec := 0
    dom := 0, regs := [], images := [], node := none, cancelled := false }

/-- A core with a running slice of job 3, whose current item is of that job. -/
def slicing : State :=
  s0.modCore 0 fun k => { k with
    current := some item0, slices := [⟨3, 100, 50, 90, true, true, false, 50, 0, false⟩] }

theorem witness_StepKeepsSlicesAtWork :
    (∀ p ∈ slicing.cores, p.2.runningSlice.isSome = true ∧ p.2.current.any (fun it => it.job == 3) = true) ∧ ∃ t, step slicing = .next t :=
  ⟨by decide +kernel, exists_of_goes (by decide +kernel)⟩

theorem witness_RegisterWrites : (31 : BitVec 5) ≠ 0 ∧ (1 : BitVec 5) ≠ 31 := by decide +kernel

/-- TVEC at a head of the line. -/
def vectored : State := s0.modCtx me0 fun x => { x with tvec := 0x30002 }

/-- R95: with TVEC at its reset value 0 the checks of R70 fail; at a head of the line they pass. -/
theorem witness_TrapEntry :
    okay (vectored.targetFor (vectored.trapReader me0) (vectored.ctx me0).lines (vectored.ctx me0).tvec) = true ∧
    okay (s0.targetFor (s0.trapReader me0) (s0.ctx me0).lines (s0.ctx me0).tvec) = false := by decide +kernel

theorem witness_IntegerFrame :
    ∃ t, exec (.add 1 1 2) s0 = .next t := ⟨_, rfl⟩

theorem witness_FloatFrame : ∃ t, exec (.sfadd 1 1 1 2) s0 = .next t := ⟨_, rfl⟩

/-- R117. Fields that end at bit 63 and one bit beyond. -/
theorem witness_BitFieldResults :
    (63 : BitVec 6).toNat + ((0 : BitVec 6).toNat + 1) ≤ 64 ∧ 64 < (63 : BitVec 6).toNat + ((1 : BitVec 6).toNat + 1) := by decide +kernel

/-- g4 is unsealed, g5 sealed, g1 untagged; g4 as its own key; a key of another domain, and one without W. -/
theorem witness_CapabilityResults :
    (s0.g 4).tag = true ∧ (s0.g 4).isSealed = false ∧ (s0.g 5).tag = true ∧ (s0.g 5).isSealed = true ∧ (s0.g 1).tag = false ∧
    (s0.g 4).dom = (s0.g 5).dom ∧ (s0.g 4).permW = true ∧ (s0.g 4).bounds.1 ≤ (s0.g 5).bounds.1 ∧ (s0.g 5).bounds.2 ≤ (s0.g 4).bounds.2 ∧
    ((s0.g 4).limit 0xFFFF).isSome = true ∧ ((s0.g 4).limit 0).isSome = true ∧ (s0.g 6).dom ≠ (s0.g 4).dom ∧ (s0.g 6).permW = false ∧
    ((s0.g 6).limit 0x1001).isNone = true ∧ (s0.g 6).isSealed = false := by decide +kernel

/-- A key whose bounds do not hold the capability's. -/
theorem witness_CapabilityResults_key :
    (cap 63 0x7F 0 0 0x40 0).tag = true ∧ (cap 63 0x7F 0 0 0x40 0).isSealed = false ∧ (cap 63 0x7F 0 0 0x40 0).dom = (s0.g 4).dom ∧
    (cap 63 0x7F 0 0 0x40 0).permW = true ∧ (s0.g 4).bounds.2 > (cap 63 0x7F 0 0 0x40 0).bounds.2 := by decide +kernel

/-- The exponents: 2^21 - 1 is served by 0, 2^21 by 1, the whole space by none of 0 to 42; the clauses meet where the source holds the
new bounds to the byte. -/
theorem witness_CapabilityResults_limit :
    let serves := fun a n e : Nat => decide (((a + n + 2 ^ e - 1) / 2 ^ e * 2 ^ e - a / 2 ^ e * 2 ^ e) / 2 ^ e ≤ 2 ^ 21 - 1)
    serves 0 (2 ^ 21 - 1) 0 = true ∧ serves 0 (2 ^ 21) 0 = false ∧ serves 0 (2 ^ 21) 1 = true ∧ (List.range 43).all (fun e => !serves 0 (2 ^ 64) e) = true ∧
    2 ^ 64 < (whole 1).word.toNat + 2 ^ 64 ∧ (s0.g 6).bounds = (0, 0x1000) ∧ (s0.g 6).word = 0 ∧ (whole 0).bounds = (0, 2 ^ 64) := by decide +kernel

theorem witness_CapabilitiesNeverGrow : ((s0.g 4).withAddr 1).tag = true ∧ ((s0.g 4).limit 0x1000).isSome = true ∧ (6 : Nat) < 7 ∧ 64 ≤ (127 : Nat) := by decide +kernel

/-! ### Lines and transfers -/

/-- Two lines of one head that differ in a byte between the head and the tails. -/
theorem witness_IgnoredBytes :
    let l : BitVec 512 := BitVec.ofNat 512 (lineOf 2 (word 0xA401 0x0041 0 0))
    let m : BitVec 512 := l ||| BitVec.twoPow 512 100
    l ≠ m ∧ (∀ i, i ≤ lineHeads l → half m i = half l i) ∧
      (∀ i < 32, 32 - tailsUpTo l (lineHeads l) ≤ i → half m i = half l i) ∧ lineFramed l = true := by decide +kernel

/-- A branch to itself, a target that is no head, a capability with X over the line and one without. -/
def branching : State :=
  vectored.modCtx me0 fun x => { x with regs := SMap.set (SMap.set (SMap.set x.regs 7 (whole 0x30002)) 8 (cap 63 0x6F 63 0 0 0x30002)) 9 (cap 63 0x7F 0 0x30000 2 0x30002) }

theorem witness_BranchResults :
    decide (branching.x 1 = branching.x 1) = true ∧ decide (branching.x 1 = branching.x 2) = false ∧
    okay (branching.checkTarget branching.cur (branching.me.pc + 2 * (0 : BitVec 16).signExtend 64)) = true ∧
    okay (branching.checkTarget branching.cur (branching.me.pc + 2 * (1 : BitVec 16).signExtend 64)) = false ∧
    (branching.g 1).tag = false ∧ okay (branching.checkTarget branching.cur (branching.x 1)) = false ∧
    (branching.g 7).tag = true ∧ okay (checkCapRights (branching.g 7) branching.me.dom branching.me.priv .transfer (branching.x 7)) = true ∧
    (branching.g 7).covers (branching.x 7).toNat 2 = true ∧ okay (branching.checkTarget branching.cur (branching.x 7)) = true ∧
    okay (checkCapRights (branching.g 8) branching.me.dom branching.me.priv .transfer (branching.x 8)) = false ∧
    okay (checkCapRights (branching.g 9) branching.me.dom branching.me.priv .transfer (branching.x 9)) = true ∧
    (branching.g 9).covers (branching.x 9).toNat 2 = false := by decide +kernel

/-- Whether the line of an address is found, lies on a fenced die, and is framed. -/
def lineAt (s : State) (a : Word) : Option (Bool × Bool) :=
  match s.translate (s.who me0) (lineAddr a) .fetch with
  | .ok (u, l, _) => some (u.homeFenced l, lineFramed (u.chooseLine (SMap.find (u.ctx me0).lines (lineAddr a).toNat) l))
  | .error _ => none

/-- The clauses meet at 2^55 and at odd addresses; an unmapped line; the framed line of s0, and one that is not; the heads 1 and 2. -/
theorem witness_TargetChecks :
    lineAt s0 0x30002 = some (false, true) ∧ lineAt s0 0x30042 = some (false, false) ∧
    (2 ^ 55 : Nat) / 2 ^ 55 ≠ 0 ∧ (0x30003 : Nat) % 2 = 1 ∧ (0x30002 : Word).toNat < 2 ^ 55 ∧ (0x30002 : Word).toNat % 2 = 0 ∧
    okay (s0.translate (s0.who me0) (lineAddr 0x40002) .fetch) = false ∧ okay (s0.translate (s0.who me0) (lineAddr 0x30002) .fetch) = true ∧
    okay (s0.checkTarget me0 0x30002) = true ∧ okay (s0.checkTarget me0 0x30004) = false ∧ okay (s0.checkTarget me0 0x30042) = false := by
  decide +kernel

/-- The line fetched, and then every die fenced: the walk does not complete, and the cached entry may serve (R292). -/
def cut : State := { s1 with dfence := 15 }

theorem fences_main (s : State) (l : Loc) (hs : s.dfence = 15) (hl : l.space = .main) : s.homeFenced l = true := by
  have h : ∀ d < 4, (15 : BitVec 4).getLsbD d = true := by decide
  have h2 := h (Config.homeDie l.off % 4) (Nat.mod_lt _ (by decide))
  unfold State.homeFenced
  rw [hs, hl]
  simpa using h2

theorem cut_walk : ∃ f, cut.walk (cut.who me0) 0x30000 .fetch = .error f := by
  have h : (cut.who me0).xlbase.getLsbD 0 = true := by decide +kernel
  unfold State.walk
  rw [if_pos h]
  unfold State.walkTables
  split
  · exact ⟨_, rfl⟩
  · dsimp only
    rw [if_pos (fences_main _ _ rfl rfl)]
    exact ⟨_, rfl⟩

theorem witness_TargetChecks_fenced (h : Config.freeOldEntry cut.freeN = true) :
    ∃ u l sl, cut.translate (cut.who me0) (lineAddr 0x30002) .fetch = .ok (u, l, sl) ∧ u.homeFenced l = true := by
  obtain ⟨f, hf⟩ := cut_walk
  have hx : ((cut.cached (cut.who me0) 0x30000).map fun e => (Entry.permits e.entry .fetch (cut.who me0).priv, (Entry.place e.entry e.level 0x30000).space)) =
      some (true, .main) := by decide +kernel
  have hb : (cut.who me0).xlbase.getLsbD 0 = true := by decide +kernel
  have ha : lineAddr 0x30002 = 0x30000 := by decide
  obtain ⟨e, he, hp⟩ := Option.map_eq_some_iff.mp hx
  have hst : cut.staleEntry (cut.who me0) 0x30000 .fetch (.error f) = some e := by
    unfold State.staleEntry
    rw [he]
    simp [hb, h, show (Access.fetch == Access.store) = false from rfl, show (Access.fetch == Access.atomic) = false from rfl]
  obtain ⟨h1, h2⟩ := Prod.mk.inj hp
  rw [ha]
  unfold State.translate
  simp only [hf, hst, h1, if_true]
  exact ⟨_, _, _, rfl, fences_main _ _ rfl h2⟩

theorem witness_TransferFrame :
    goes (exec (.bne 1 1 0) branching) = true ∧ decide (branching.x 1 ≠ branching.x 1) = false ∧
    goes (exec (.br 0) branching) = true ∧ goes (exec (.call 30 0) branching) = true ∧ goes (exec (.ret 8) branching) = true := by decide +kernel

/-! ### Context control -/

/-- The state with the control context of core 0 changed. -/
def s0With (f : Ctx → Ctx) : State := s0.modCtx me0 f

/-- An issued load of eight bytes of the own scratchpad, and an issued store. -/
def pending (k : MemKind) (n : Nat) : PendOp :=
  { seq := 0, head := 0x30002, kind := k, home := .local ⟨.spad 0, 0x40, spad + 0x40⟩, size := n, data := Reg.plain 9, scope := 0, acq := false
    rel := false, sc := false, swap := 0, early := none, bank := false, dom := 0, ctx := me0, dev := 65536
    own := false, tag := 0, at_ := some ⟨.spad 0, 0x40, spad + 0x40⟩ }

/-- A store issued and counted; a load. -/
def storing : State := s0With fun x => { x with pend := [pending .store 8], cntStore := 1 }
def loading : State := s0With fun x => { x with pend := [pending (.load 9 false) 8], cntLoad := 1 }

/-- A helper in slot 3 that is the current context. -/
def inHelper : State :=
  { s0.modCtx ⟨0, 3⟩ (fun _ => { s0.me with life := .live }) with cur := ⟨0, 3⟩ }

theorem witness_FencesAndWaits :
    s0.helper = false ∧ s0.myCore.vsqSusp = false ∧ s0.myCore.mxSusp = false ∧ s0.myCore.cpSusp = false ∧ s0.enginesDone = true ∧
    s0.me.writesPending = false ∧ storing.me.writesPending = true ∧ s0.me.cntLoad ≤ (0 : BitVec 4).toNat ∧ s0.tileCount ≤ (0 : BitVec 4).toNat ∧
    ¬(storing.me.cntStore ≤ (0 : BitVec 4).toNat) := by decide +kernel

theorem witness_EndsAndYields :
    inHelper.helper = true ∧ inHelper.me.cntLoad = 0 ∧ inHelper.me.cntStore = 0 ∧ inHelper.me.cntCopy = 0 ∧ inHelper.me.cntTile = 0 ∧
    s0.helper = false ∧ s0.myCore.vsqSusp = false ∧ s0.myCore.mxSusp = false ∧ s0.myCore.cpSusp = false ∧ s0.busySlots s0.cur.core = 0 ∧
    s0.me.cntLoad = 0 ∧ s0.me.cntStore = 0 ∧ s0.me.cntCopy = 0 ∧ s0.me.cntTile = 0 ∧ s0.myCore.seq = [] ∧ s0.me.priv = true ∧
    s0.myCore.preempted = false := by decide +kernel

theorem witness_SoftwareAndDecodeTraps_dbgctl : s0.me.dbgctl = false ∧ (s0With fun x => { x with dbgctl := true }).me.dbgctl = true := by decide +kernel

/-- In a user handler that returns to the line's head, with TRAPPC there too. -/
def handling : State :=
  s0With fun x => { x with trapPc := 0x30002, uia := true, depth := 1, regs := SMap.set x.regs 30 (Reg.plain 0x30002) }

theorem witness_TrapReturns :
    handling.me.priv = true ∧ handling.me.depth ≠ 0 ∧ okay (handling.checkTarget handling.cur handling.me.trapPc) = true ∧
    (s0With fun x => { x with priv := false }).me.priv = false ∧ handling.helper = false ∧ handling.me.uia = true ∧
    okay (handling.checkTarget handling.cur (handling.me.reg 30).word) = true := by decide +kernel

/-- Helpers of core 0: slot 2 live, slot 3 ended. -/
def withHelpers : State := (s0.modCtx ⟨0, 2⟩ (fun x => { x with life := .live })).modCtx ⟨0, 3⟩ (fun x => { x with life := .ended })

theorem witness_HelperControl :
    withHelpers.helper = false ∧ (9 : BitVec 4).toNat < 10 ∧
    okay (withHelpers.checkTarget withHelpers.cur (withHelpers.me.pc + 2 * (0 : BitVec 16).signExtend 64)) = true ∧
    (withHelpers.slot 0 9).life = .free ∧ (withHelpers.slot 0 3).life = .ended ∧ (withHelpers.slot 0 2).life = .live ∧
    (withHelpers.slot 0 2).gpos = 0 ∧ withHelpers.myCore.preempted = false := by decide +kernel

theorem witness_SoftwareAndDecodeTraps : inHelper.helper = true ∧ (s0With fun x => { x with priv := false }).me.priv = false := by decide +kernel

/-- A failed copy waits as a deferred trap; a mailbox interrupt waits with UIE set and UIVEC at the line's head. -/
def notified : State :=
  s0With fun x => { x with uie := true, mbp := true, uivec := 0x30002, deferred := [⟨.copy, 0, ⟨0x20, 0, 7, 0⟩⟩] }

theorem witness_ContextSteps :
    (notified.ctx me0).takesDeferred = true ∧ (nextDeferred ((notified.ctx me0).deferred.filter fun e => decide ((notified.ctx me0).tokenDepth = 0) || e.cls != .abort)).isSome = true ∧ (notified.ctx me0).takesUser = true ∧
    okay ((notified.abandonWait me0).checkTarget me0 (notified.ctx me0).uivec) = true ∧ reservedSubcode 0x9FC0 = some 1 ∧
    reservedSubcode 0x800F = some 2 ∧ notified.me.gpos = 0 ∧ (notified.ctx me0).life = .live ∧ (notified.ctx me0).halted = false ∧
    headIndex (notified.ctx me0).pc = 1 := by decide +kernel

/-! ### Memory -/

/-- Another device's fabric address with a key, and permissions for it. -/
def fabricAddr : Word := 0x8000000700000000

/-- g7 with W alone at the own scratchpad, g8 bounded to 64 bytes at its base, g9 over the fabric. -/
def accessing : State :=
  s0With fun x => { x with regs := SMap.set (SMap.set (SMap.set x.regs 7 (cap 63 32 63 0 0 spad)) 8 (cap 63 0x7F 0 0x0 0x40 spad)) 9 (whole 0x8000000700000000) }

theorem witness_AccessChecks :
    (accessing.g 1).tag = false ∧ (accessing.g 5).isSealed = true ∧ (accessing.g 4).isSealed = false ∧
    ((s0With fun x => { x with priv := false }).g 6).dom ≠ (s0With fun x => { x with priv := false }).me.dom.toNat ∧ (accessing.g 6).dom ≠ 63 ∧
    (accessing.g 7).permits .load (accessing.x 7) = false ∧ (accessing.g 7).permits .store (accessing.x 7) = true ∧
    (accessing.g 7).permSC = false ∧ (accessing.g 4).tag = true ∧ (accessing.g 7).covers spad 16 = true ∧ spad % 16 = 0 ∧
    (accessing.g 8).covers (spad + 0x3C) 4 = true ∧ (accessing.g 8).covers (spad + 0x3D) 4 = false ∧ (spad + 0x3D) % 4 ≠ 0 ∧
    okay (accessing.resolve (accessing.who accessing.cur) (BitVec.ofNat 64 spad) 8 .load) = true ∧
    okay (accessing.resolve (accessing.who accessing.cur) (BitVec.ofNat 64 (spad + 0xC0000)) 8 .load) = false ∧
    okay (accessing.access 4 (BitVec.ofNat 64 spad) 8 .load Reg.zero) = true ∧
    (State.readsMarked { accessing with cores := [(0, { accessing.core 0 with spad := { (accessing.core 0).spad with poison := [4] } })] }
      ⟨.spad 0, 0x40, spad + 0x40⟩ 8) = true := by decide +kernel

/-- A lock on the first granule, a sealed page at the line's page, and the edges of the windows. -/
def fencedOff : State :=
  { s0.modCore 0 (fun k => { k with locks := [⟨spad + 0x40, spad + 0x80, true, false, 0, 0, 5⟩] }) with main := s0.main.setByte 0x2001E 0x20 }

theorem witness_RegionsOfAddresses :
    (0xBFFFF : Nat) < 0xC0000 ∧ (0x7FFFFF : Nat) < 0x800000 ∧ okay (s0.resolve (s0.who me0) 0x7E000000000BFFFF 1 .load) = true ∧
    okay (s0.resolve (s0.who me0) 0x7E000000000C0000 1 .load) = false ∧ okay (s0.resolve (s0.who me0) 0x7D000000007FFFFF 1 .load) = true ∧
    okay (s0.resolve (s0.who me0) 0x7D00000000800000 1 .load) = false ∧ okay (s0.resolve (s0.who me0) 0x7C0000013F0BFFFF 1 .load) = true ∧
    okay (s0.resolve (s0.who me0) 0x7C00000140000000 1 .load) = false ∧ 2 ^ 63 ≤ (0x8000000000000000 : Word).toNat ∧
    okay (s0.resolve (s0.who me0) 0x0080000000000000 1 .load) = false ∧ okay (s0.resolve (s0.who me0) 0x30000 8 .load) = true ∧
    okay (s0.resolve (s0.who me0) 0x50000 8 .load) = false ∧ fencedOff.locked 0 ⟨.spad 0, 0x40, spad + 0x40⟩ 8 false = true ∧
    fencedOff.locked 0 ⟨.spad 0, 0x88, spad + 0x88⟩ 8 true = false ∧ okay (fencedOff.resolve (fencedOff.who me0) 0x30000 8 .load) = true ∧
    okay (fencedOff.resolve (fencedOff.who me0) 0x30000 8 .store) = false := by
  decide +kernel

/-- Every die fenced before anything is cached: the walk stops at its first entry. -/
theorem witness_RegionsOfAddresses_fenced :
    ∃ f, ({ s0 with dfence := 15 } : State).translate (s0.who me0) 0x30000 .load = .error f ∧ f.cause = 0x44 := by
  have hb : (s0.who me0).xlbase.getLsbD 0 = true := by decide +kernel
  have hw : ∃ f, ({ s0 with dfence := 15 } : State).walk (s0.who me0) 0x30000 .load = .error f ∧ f.cause = 0x44 := by
    unfold State.walk
    rw [if_pos hb]
    unfold State.walkTables
    split
    · next h => exact absurd h (by decide +kernel)
    · dsimp only
      rw [if_pos (fences_main _ _ rfl rfl)]
      exact ⟨_, rfl, rfl⟩
  obtain ⟨f, hf, hc⟩ := hw
  have hn : ({ s0 with dfence := 15 } : State).cached (s0.who me0) 0x30000 = none := by decide +kernel
  refine ⟨{ f with val := 0x30000 }, ?_, hc⟩
  unfold State.translate State.staleEntry
  simp only [hf, hn]

/-- The access of g4 at its own address passes; of g1, untagged, it does not. -/
theorem witness_LoadsAndStoresIssue :
    okay (s0.access 4 (s0.x 4 + (0 : BitVec 16).signExtend 64) 8 .load Reg.zero) = true ∧ okay (s0.access 4 (s0.x 4 + s0.x 0 * 8) 8 .store Reg.zero) = true ∧
    okay (s0.access 4 (s0.x 4) 16 .store (s0.g 4)) = true ∧ okay (s0.access 1 (s0.x 1) 8 .load Reg.zero) = false := by decide +kernel

theorem witness_MultiplesIssue :
    (8 : BitVec 5) ≠ 0 ∧ (8 : BitVec 5).toNat ≤ (15 : BitVec 5).toNat ∧ (4 : BitVec 5).toNat < (8 : BitVec 5).toNat ∧
    okay (checkCap (s0.g 4) s0.me.dom s0.me.priv .load (s0.x 4) 64 8) = true ∧ isFabric (s0.x 4) = false ∧
    (s0.multiple true 8 4 (s0.x 4) (8 - s0.me.resumeCount) s0.me.resumeCount []).2.2 = none ∧
    (s0.multiple true 8 4 0x50000 (8 - s0.me.resumeCount) s0.me.resumeCount []).2.2.isSome = true ∧ ¬((0 : BitVec 5) ≠ 0) := by decide +kernel

/-- The place of an access, if it is no host memory. -/
def notHost (p : Place) : Bool :=
  match p with
  | .local l => l.space != .host
  | .remote _ _ => true

theorem witness_AtomicsAndFencesIssue :
    (match s0.access 4 (s0.x 4) 8 .atomic Reg.zero with
      | .ok (_, p) => notHost p
      | .error _ => false) = true ∧
    okay (s0.access 4 (s0.x 4) 16 .atomic (s0.g 1)) = true ∧ okay (s0.access 4 (s0.x 4) 4 .load Reg.zero) = true ∧
    okay (s0.access 4 (s0.x 4) 4 .store Reg.zero) = true ∧ (3 : BitVec 3) ≠ 4 ∧
    (s0.me.pend.all fun o => !o.kind.writes || o.kind.isUnit) = true ∧
    (storing.me.pend.all fun o => !o.kind.writes || o.kind.isUnit) = false := by decide +kernel

/-- A context whose oldest access is of a kind, at the own scratchpad. -/
def holds (k : MemKind) (n : Nat) : State := s0With fun x => { x with pend := [pending k n], cntLoad := 1, cntStore := 1 }

/-- The hypotheses about an access that is performed here. -/
def performable (k : MemKind) (n : Nat) : Bool :=
  ((holds k n).ctx me0).mayPerform 0 ((holds k n).swaps (pending k n)) && !(holds k n).homeFenced ⟨.spad 0, 0x40, spad + 0x40⟩ && !(holds k n).sealedAt ⟨.spad 0, 0x40, spad + 0x40⟩

/-- The same with the granule marked since the load issued. -/
theorem witness_AccessesPerformed_marked :
    (((holds (.load 9 false) 8).modCore 0 fun c => { c with spad := { c.spad with poison := [4] } }).poisonAt ⟨.spad 0, 0x40, spad + 0x40⟩ 8) = true ∧
    (holds (.load 9 false) 8).poisonAt ⟨.spad 0, 0x40, spad + 0x40⟩ 8 = false := by decide +kernel

/-- A load that has left for another device. -/
def away : PendOp := { pending (.load 9 false) 8 with home := .remote fabricAddr 0, dev := 7, at_ := none }
def remoteLoad : State :=
  s0With fun x => { x with pend := [away], cntLoad := 1 }

theorem witness_AccessesPerformed :
    performable (.load 9 true) 4 = true ∧ performable (.loadCap 9 true) 16 = true ∧ performable (.amo 9 .add) 8 = true ∧
    performable (.cas 9 0) 8 = true ∧ performable (.cas2 9 Reg.zero true) 16 = true ∧ performable .store 8 = true ∧
    performable .storeCap 16 = true ∧ (remoteLoad.ctx me0).mayPerform 0 (remoteLoad.swaps away) = true ∧
    (remoteLoad.ctx me0).pend = [away] ∧ remoteLoad.sentOut (remoteLoad.ctx me0).uid away = true := by decide +kernel

theorem witness_TranslationWalks :
    okay (s0.translate (s0.who me0) 0x30000 .store) = true ∧ okay (s0.translate (s0.who me0) 0x50000 .load) = false ∧
    okay (s0.walk (s0.who me0) 0x30000 .store) = true ∧
    s0.staleEntry (s0.who me0) 0x30000 .store (s0.walk (s0.who me0) 0x30000 .store) = none := by decide +kernel

theorem witness_IssueFrame : ∃ t, exec (.std 1 4 0x40) s0 = .next t := exists_of_goes (by decide +kernel)

theorem witness_EngineStoresFrame_multiples :
    (∃ t, exec (if true then .ldm 8 15 4 0 else .stm 8 15 4 0) s0 = .next t) ∧ ∃ t, exec (if false then .ldm 8 15 4 0 else .stm 8 15 4 0) s0 = .next t :=
  ⟨exists_of_goes (by decide +kernel), exists_of_goes (by decide +kernel)⟩

theorem witness_PerformFrame : ∃ t, exec (.storePerformed me0 0) storing = .next t := exists_of_goes (by decide +kernel)

theorem witness_MemoryOperations : (Memory.empty.write 0x40 8 9).wf = true := by decide +kernel

/-- What a sparse map finds is listed. -/
theorem mem_of_find {α : Type} : ∀ (m : SMap α) (k : Nat) (v : α), SMap.find m k = some v → (k, v) ∈ m
  | [], _, _, h => by cases h
  | (k', v') :: m, k, v, h => by
    unfold SMap.find at h
    split at h
    · next e => cases h; subst e; exact .head _
    · exact .tail _ (mem_of_find m k v h)

/-- What a sparse map gives is the default or a listed value. -/
theorem getD_mem {α : Type} (m : SMap α) (k : Nat) (d : α) : SMap.getD m k d = d ∨ ∃ p ∈ m, p.2 = SMap.getD m k d := by
  rcases h : SMap.find m k with _ | v
  · exact .inl (by simp [SMap.getD, h])
  · exact .inr ⟨(k, v), mem_of_find m k v h, by simp [SMap.getD, h]⟩

/-- Memories are canonical where those that the state lists are. -/
theorem canonical_of_listed (s : State)
    (h : (s.main.wf && s.host.wf && s.cores.all (fun p => p.2.spad.wf) && s.clusters.all (fun p => p.2.mem.wf)) = true) :
    s.MemoriesCanonical := by
  simp only [Bool.and_eq_true, List.all_eq_true] at h
  obtain ⟨⟨⟨hm, hh⟩, hs⟩, hc⟩ := h
  intro sp
  cases sp with
  | main => exact hm
  | host => exact hh
  | spad n =>
    rcases getD_mem s.cores n Core.reset with e | ⟨p, hp, e⟩
    · simp only [State.memory, State.core, e]; decide +kernel
    · simpa only [State.memory, State.core, e] using hs p hp
  | cmem n =>
    rcases getD_mem s.clusters n Cluster.reset with e | ⟨p, hp, e⟩
    · simp only [State.memory, State.cluster, e]; decide +kernel
    · simpa only [State.memory, State.cluster, e] using hc p hp

theorem witness_PerformFrame_canonical :
    storing.MemoriesCanonical ∧ ∃ t, exec (.storePerformed me0 0) storing = .next t :=
  ⟨canonical_of_listed _ (by decide +kernel), exists_of_goes (by decide +kernel)⟩

/-! ### The sequencer and the engines -/

/-- The state that an outcome gives, or `s0`. -/
def nextOf (o : Out) : State :=
  match o with
  | .next t => t
  | _ => s0

/-- The sequencer's state with `seq` changed. -/
def seqWith (f : Core → Core) : State := s0.modCore 0 f

/-- Acceptance checks of an instruction whose scalar operands are `a` and `b`. -/
def accepted (s : State) (i : Instr) (a b : BitVec 5) : Bool :=
  let e := s.seqEntry i (s.g a) (s.g b)
  match vop e with
  | some v => okay (s.acceptChecks v e a)
  | none => false

/-- VBCAST and a VLD through g4 pass; VLD through g1, untagged, fails; with 16 entries there is no room. -/
theorem witness_SequencerAccepts :
    s0.helper = false ∧ s0.myCore.vsqSusp = false ∧ s0.myCore.acceptReady (.vbcast 1 1 1 0) = true ∧ accepted s0 (.vbcast 1 1 1 0) 1 0 = true ∧
    accepted s0 (.vld 1 4 0 1 0) 4 0 = true ∧ accepted s0 (.vld 1 1 0 1 0) 1 0 = false ∧
    (seqWith fun c => { c with seq := (List.range 16).map fun k => .entry { s0.seqEntry (.vbcast 1 1 1 0) (s0.g 1) Reg.zero with id := k } }).myCore.acceptReady
      (.vbcast 1 1 1 0) = false ∧ (seqWith fun c => { c with vsqSusp := true }).myCore.vsqSusp = true ∧ inHelper.helper = true ∧
    okay (s0.parkChecks (s0.seqEntry (.park 0 4 0 0) (s0.g 4) (s0.g 0)) true (parkObject 0 0) 4) = true ∧
    (1 : BitVec 5).toNat ≤ (nextOf (exec (.vbcast 1 1 1 0) s0)).myCore.window.length ∧
    ((nextOf (exec (.vbcast 1 1 1 0) s0)).myCore.window.all fun e => e.parks.isNone) = true ∧ (s0.x 1).toNat < 2 ^ 32 := by decide +kernel

/-- The sequencer with a VBCAST; with an SBIND whose object does not exist; with a replay not begun. -/
def bcasting : State := nextOf (exec (.vbcast 1 1 1 0) s0)
def binding : State := nextOf (exec (.sbind 1 0 4 1) s0)
def replaying : State := seqWith fun c => { c with seq := [.replay c.window 0 3 true false] }

theorem witness_SequencerSteps :
    (bcasting.core 0).vsqSusp = false ∧
    (match (bcasting.core 0).seqHead with
      | some e => bcasting.mayExecute 0 e && okay (bcasting.executeEntry 0 e)
      | none => false) = true ∧
    (match (binding.core 0).seqHead with
      | some e => binding.mayExecute 0 e && !okay (binding.executeEntry 0 e)
      | none => false) = true ∧
    (replaying.core 0).seq = [.replay (replaying.core 0).window 0 3 true false] ∧
    (seqWith fun c => { c with vsqSusp := true }).myCore.vsqSusp = true := by decide +kernel

/-- t0 of 64 rows and 64 columns of BF16, t1 of no shape, both latches loaded alike. -/
def latch0 : Latch := { Latch.empty with loaded := true, fmt := 2, sp := 0, rows := 64, depth := 64, cols := 64 }
def matrixed : State :=
  seqWith fun c => { c with tshape := [(0, TShape.word ⟨64, 64, 0, 2⟩)], active := latch0, shadow := latch0 }

/-- A tile at the own scratchpad is loaded and stored through g4; the rows end at row 1024, the columns at column 64. -/
theorem witness_MatrixInstructionsIssue :
    matrixed.helper = false ∧ matrixed.myCore.mxSusp = false ∧ matrixed.myCore.parkBusy = 0 ∧
    (tshapeOf (matrixed.myCore.tshapeWord 0)).valid = true ∧ matrixed.myCore.copyTargets 0 = false ∧
    okay (wloadCheck matrixed.myCore matrixed.mxWho 0 0 (matrixed.g 0) matrixed.me.ir) = true ∧
    okay (mmaCheck matrixed.mxWho matrixed.myCore.latchViews.1 matrixed.myCore.kindView ⟨64, 64, 0, 2⟩ 0 (matrixed.g 0) 960 2 matrixed.me.ir) = true ∧
    okay (mmaCheck matrixed.mxWho matrixed.myCore.latchViews.2 matrixed.myCore.kindView ⟨64, 64, 0, 2⟩ 0 (matrixed.g 0) 960 2 matrixed.me.ir) = true ∧
    (1023 : BitVec 10).toNat + countOf (0 : BitVec 10) ≤ 1024 ∧ (960 : BitVec 10).toNat + (tshapeOf (matrixed.myCore.tshapeWord 0)).rows ≤ 1024 ∧
    32 * (2 : BitVec 2).toNat + (tshapeOf (matrixed.myCore.tshapeWord 0)).cols ≤ 128 ∧
    okay (mxRange (matrixed.g 4) 4 matrixed.me.dom matrixed.me.priv .load (moveAddr (matrixed.g 4) (matrixed.g 0))
      (moveSpan ⟨64, 64, 0, 2⟩ 2 0) true matrixed.me.ir) = true ∧
    okay (mxRange (matrixed.g 4) 4 matrixed.me.dom matrixed.me.priv .store (moveAddr (matrixed.g 4) (matrixed.g 0))
      (moveSpan ⟨64, 64, 0, 2⟩ 2 0) true matrixed.me.ir) = true ∧
    (1 : BitVec 3) ≠ 0 ∧ (TShape.transposed ⟨64, 64, 0, 2⟩).valid = true ∧ matrixed.myCore.copyTargets 1 = false := by decide +kernel

/-- fn0 and fn1 are VALID, over different domains; g2 and g3 hold 0.0 and 8.0. -/
def functions : State :=
  (seqWith fun c => { c with fns := [(0, ⟨0, 0x4020000000000000, [0x3FF0000000000000]⟩), (1, ⟨0, 0x3FF0000000000000, [0x3FF0000000000000]⟩)] }).modCtx me0
    fun x => { x with regs := SMap.set (SMap.set x.regs 2 (Reg.plain 0)) 3 (Reg.plain 0x4020000000000000) }

theorem witness_FunctionInstructionsIssue :
    functions.helper = false ∧ functions.myCore.mxSusp = false ∧ functions.myCore.parkBusy = 0 ∧ functions.myCore.fnValid 0 = true ∧
    functions.myCore.fnValid 1 = true ∧
    okay (checkCapRights (functions.g 4) functions.me.dom functions.me.priv .load (functions.x 4 + functions.x 2)) = true ∧
    okay (checkCapRights (functions.g 4) functions.me.dom functions.me.priv .store (functions.x 4 + functions.x 2)) = true ∧
    functions.x 1 ≠ 0 ∧ (4094 : BitVec 12).toNat ≤ 4094 ∧ 2 ≤ (2 : BitVec 13).toNat ∧ (4096 : BitVec 13).toNat ≤ 4096 ∧
    domainValid (functions.x 2) (functions.x 3) = true := by decide +kernel

theorem witness_EngineInstructionsRefused :
    inHelper.helper = true ∧ s0.helper = false ∧ (seqWith fun c => { c with mxSusp := true }).myCore.mxSusp = true ∧ s0.myCore.mxSusp = false ∧
    (seqWith fun c => { c with parkBusy := 1 }).myCore.parkBusy ≠ 0 := by decide +kernel

/-- The engine with one instruction at its head, its cluster awake. -/
def engineWith (s : State) (i : Instr) : State := (nextOf (exec i s)).modCluster 0 fun c => { c with awake := true, wakeAt := some 0 }
def started (s : State) (i : Instr) : State := nextOf (exec (.matrixOpStart 0) (engineWith s i))

/-- Whether the operation at the head of the engine is started, of the matrix, and completes. -/
def runsMatrix (s : State) : Option (Bool × Bool × Bool) :=
  (s.core 0).mxq.head?.map fun op => (op.started, op.isMatrix, okay (s.runMatrix 0 op))
def runsFunction (s : State) : Option (Bool × Bool × Bool) :=
  (s.core 0).mxq.head?.map fun op => (op.started, op.isMatrix, okay (s.runFunction 0 op))

/-- ACCZ completes; TLOAD from a destination lock of a copy fails; CHLEN completes; CHADD over two domains fails; an array wakes and sleeps. -/
theorem witness_EngineSteps :
    (engineWith s0 (.accz 0 0)).mayStartMx 0 = true ∧ runsMatrix (started s0 (.accz 0 0)) = some (true, true, true) ∧
    runsMatrix (started (matrixed.modCore 0 fun c => { c with locks := [⟨spad, spad + 0x40, true, false, 0, 0, 0⟩] }) (.tload 0 4 0 0)) = some (true, true, false) ∧
    runsFunction (started functions (.chlen 9 0)) = some (true, false, true) ∧
    runsFunction (started functions (.chadd 2 0 1)) = some (true, false, false) ∧
    ((engineWith s0 (.accz 0 0)).cluster 0).wakeAt = some 0 ∧
    ((s0.modCluster 0 fun c => { c with awake := true }).clusterBusy 0) = false ∧
    (({ s0 with cycle := 65536 } : State).cluster 0).lastMatrix + 65536 ≤ (65536 : BitVec 64).toNat := by decide +kernel

/-! ### Copies, the cluster and the walker -/

/-- A state with general registers of the control context of core 0 written. -/
def setRegs (l : List (Nat × Reg)) (s : State) : State :=
  s.modCtx me0 fun x => { x with regs := l.foldl (fun m p => SMap.set m p.1 p.2) x.regs }

/-- R231, R273. Object 1: a walk of four FP32 elements, readable and writable; object 2: a WALK record of one word of code, WEND, at 0x300C0. -/
def shapeRecord : Nat :=
  0xC101 + 16 * 2 ^ 96 + (4 + 2 ^ 32) * 2 ^ 128 + 2 ^ 192 + 2 ^ 256 + 2 ^ 320 + 2 ^ 384 + 2 ^ 448
def walkRecord : Nat := 4 + 2 ^ 16 + 0x300C0 * 2 ^ 64

/-- An object table at 0x30000 with those objects; g7 addresses 0x100 in the own scratchpad, g8 an unmapped page; t0 of two by two FP32. -/
def objects : State :=
  setRegs [(7, whole (spad + 0x100)), (8, whole 0x50000)] { s0.modCore 0 (fun c => { c with
      otbase := 0x30000, otlimit := 3, tshape := [(0, TShape.word ⟨2, 2, 0, 1⟩)] }) with
    main := ((s0.main.write 0x30040 64 shapeRecord).write 0x30080 64 walkRecord).write 0x300C0 4 0x80100000 }

/-- A copy issued, then started. -/
def copying (i : Instr) : State := nextOf (exec i objects)
def running (i : Instr) : State := nextOf (exec (.copyStart 0) (copying i))

/-- Whether the running copy 0 moves all of its elements, or fails. -/
def copies (s : State) : Option Bool :=
  ((s.core 0).running 0).map fun c => (s.copyElements 0 c (c.count - c.done)).2.2.isNone

theorem witness_CopiesIssueAndRun :
    objects.helper = false ∧ objects.myCore.cpSusp = false ∧ objects.me.cntCopy < 15 ∧ okay (objects.copyChecks 4 7 1 1) = true ∧
    okay (objects.copyTileChecks 0 4 0 1 false) = true ∧
    (match objects.copyChecks 4 7 1 1 with
      | .ok (_, p) => objects.lockSpace 0 p
      | .error _ => false) = true ∧
    (seqWith fun c => { c with cpSusp := true }).myCore.cpSusp = true ∧
    (((copying (.cpy 0 4 7 1 1)).core 0).nextCopy.map fun c => (copying (.cpy 0 4 7 1 1)).mayStartCopy 0 c) = some true ∧
    copies (running (.cpy 0 4 7 1 1)) = some true ∧ copies (running (.cpy 0 8 7 1 1)) = some false := by decide +kernel

/-- A CPYM into t0 with its follow-on: it moves all of its elements. -/
theorem witness_CopiesIssueAndRun_follow :
    copies (running (.cpym 0 0 4 0 1 0 0 0)) = some true ∧
    (((running (.cpym 0 0 4 0 1 0 0 0)).core 0).running 0).map (fun c => ((running (.cpym 0 0 4 0 1 0 0 0)).copyElements 0 c (c.count - c.done)).2.1.fn) = some 1 := by
  decide +kernel

/-- Event line 2 holds 1; a wait in an open barrier episode has been released. -/
def clustered : State :=
  setRegs [(2, Reg.plain 1), (7, whole (spad + 0x100)), (8, whole (spad + 0x200)), (9, cap 63 0x7F 0 0 8 0), (10, whole 0x7D00000000000000)]
    (s0.modCluster 0 fun c => { c with events := [(2, ⟨1, []⟩)] })

/-- A post through g10, its table, or through g9, which covers eight bytes, of one row of sixteen bytes. -/
def posting (t : BitVec 5) : State := nextOf (exec (.igather 0 2 t 7 2 8 1) clustered)
def posted (t : BitVec 5) : State := nextOf (exec (.indirectPostStart 0) (posting t))
def posts (s : State) : Option (Bool × Bool) :=
  ((s.cluster 0).runningPost 0).map fun p => ((s.postRows p (p.n - p.done)).2.2.isNone, (s.postRows p (p.n - p.done)).1.postOrdered (s.postRows p (p.n - p.done)).2.1)

theorem witness_ClusterInstructions :
    1 ≤ (clustered.x 2).toNat ∧ clustered.me.writesPending = false ∧ ((clustered.cluster 0).line 2).waiters = [] ∧
    1 ≤ ((clustered.cluster 0).line 2).count ∧ ((clustered.cluster 0).line 3).count < 1 ∧ (0xFF : Word).toNat < 256 ∧
    (0xFF : Word).getLsbD (clustered.cur.core % 8) = true ∧ (clustered.cluster 0).cbOpen = false ∧ clustered.arrival = none ∧
    (clustered.keep (.cbar true)).arrival = some (.cbar true) ∧ clustered.me.accessesPending = false ∧
    okay (clustered.postRights 10 .load) = true ∧ okay (clustered.postRights 7 .load) = true ∧ okay (clustered.postRights 8 .store) = true ∧
    okay (clustered.postBounds 7 4) = true ∧ okay (clustered.postBounds 8 16) = true ∧ (clustered.x 7).toNat % 4 = 0 ∧
    (clustered.x 8).toNat % 16 = 0 ∧ (clustered.x 10).toNat % 16 = 0 ∧ (ownRange 0 (clustered.x 7) 4 true).isSome = true ∧
    (ownRange 0 (clustered.x 8) 16 false).isSome = true ∧ clustered.me.cntCopy < 15 ∧
    (((posting 10).cluster 0).posts.length = 1) ∧ ((posting 10).cluster 0).posts.find? (fun x => !x.started) ≠ none ∧
    posts (posted 10) = some (true, true) ∧ posts (posted 9) = some (false, true) := by decide +kernel

theorem witness_CopiesAndWalkersFrame :
    (∃ t, exec (.copyComplete 0 0) (running (.cpy 0 4 7 1 1)) = .next t) ∧ (∃ t, exec (.copyFail 0 0) (running (.cpy 0 8 7 1 1)) = .next t) ∧
    (∃ t, exec (.indirectPostComplete 0 0) (posted 10) = .next t) ∧ (∃ t, exec (.indirectPostFail 0 0) (posted 9) = .next t) ∧
    (∃ t, exec (.wstD 0 0 0 0) walking = .next t) ∧ ∃ t, exec (.wadd 3 1 2) walking = .next t :=
  ⟨exists_of_goes (by decide +kernel), exists_of_goes (by decide +kernel), exists_of_goes (by decide +kernel), exists_of_goes (by decide +kernel)
  , exists_of_goes (by decide +kernel), exists_of_goes (by decide +kernel)⟩

/-- The walk thread 0 of cluster 0 with a window over cluster memory and an active digest, absorbed or padded, or at its step limit. -/
def walker (f : Thread → Thread) : State :=
  walking.modThread 0 0 fun t => f { t with win := [whole 0x7D00000000000000, Reg.zero, Reg.zero, Reg.zero] }

theorem witness_WalkerMemoryAndDigest :
    okay ((walker id).walkAccess 0 0x7D00000000000000 8 false) = true ∧ okay ((walker id).walkAccess 0 0x7D00000000000000 8 true) = true ∧
    okay ((walker id).walkAccess 1 0x7D00000000000000 8 false) = false ∧ okay ((walker id).walkAccess 0 0x7D00000000000001 8 true) = false ∧
    (248 : Nat) % 2 ^ 3 = 0 ∧ 248 + 2 ^ 3 ≤ 256 ∧ 1 ≤ (256 : BitVec 14).toInt ∧ (256 : BitVec 14).toInt ≤ 256 ∧
    okay ((walker id).walkAccess 0 0x7D00000000000000 256 true) = true ∧
    ((walker fun t => { t with digest := some ⟨shaInit, List.replicate 119 0, 119, false⟩ }).thread.digest.map fun g => decide (g.msg.length < 120)) = some true ∧
    ((walker fun t => { t with digest := some ⟨shaInit, [], 8, true⟩ }).thread.digest.map fun g => g.padded && decide (g.msg.length < 128)) = some true ∧
    okay ((walker id).walkAccess 0 0x7D00000000000000 64 true) = true ∧ (walker fun t => { t with limit := 1, steps := 1 }).thread.exhausted = true ∧
    (((walker fun t => { t with digest := some ⟨shaInit, List.replicate 128 0, 128, false⟩ }).modCluster 0 fun k => { k with digestQ := [0] }).cluster 0).digestQ = [0] := by
  decide +kernel

theorem witness_WalkerStartAndStatus :
    1 ≤ (28 : BitVec 5).toNat ∧ (28 : BitVec 5).toNat ≤ 28 ∧ okay (objects.walkProgram 2) = true ∧
    (([28, 28 + 1, 28 + 2, 28 + 3] : List (BitVec 5)).all fun k => okay (objects.checkWindow k)) = true ∧
    ((objects.cluster 0).freeThread = some 0) ∧
    ((objects.modCluster 0 fun k => { k with threads := (List.range 8).map fun j => (j, { Thread.reset with state := .run }) }).cluster 0).freeThread =
      none ∧
    (match objects.walkProgram 2 with
      | .ok (u, r, code) => ((u.cluster 0).loadProgram (BitVec.ofNat 64 (recBits r 64 64)) (objects.who objects.cur) code).isSome
      | .error _ => false) = true ∧
    (objects.x 1).toNat ≤ 7 ∧ (1 : BitVec 2) ≠ 3 ∧ ((objects.cluster 0).thread 5).who.dom = objects.me.dom ∧
    ((objects.cluster 0).thread 5).state = .free ∧
    (((objects.modThread 0 5 fun t => { t with state := .ended }).cluster 0).thread 5).state = .ended := by decide +kernel

/-! ### Control registers, images, the Hamper -/

theorem witness_ControlRegisters :
    cregOf 1 = some .flags ∧ s0.readReady .flags = true ∧ s0.helper = false ∧ s0.writeLegal .flags 0x1F = true ∧ Creg.flags ≠ .xlinv ∧
    s0.writeReady .flags = true ∧ s0.writeLegal .fntol 0xFFFFFFFFFFFFFFFF = false ∧ s0.me.priv = true ∧ (s0With fun x => { x with priv := false }).me.priv = false ∧
    0x800 ≤ (0x800 : BitVec 12).toNat ∧ cregOf 0x7FF = none ∧ (0x7FF : BitVec 12).toNat < 0x800 ∧ s0.writeLegal .vsqctl 1 = true ∧
    s0.vectorsDone = true ∧ s0.flagsReady = true ∧ tolLegal 0x3CD0000000000000 = true ∧ s0.myCore.functionsDone = true ∧
    xlinvLegal (xlinvKind 0 2) = true ∧ s0.me.writesPending = false ∧ s0.entriesUnused (xlinvKind 0 2) = true ∧
    (seqWith fun c => { c with mxSusp := true }).myCore.mxSusp = true ∧ s0.myCore.seq = [] ∧ bcasting.helper = false ∧ bcasting.myCore.seq ≠ [] := by decide +kernel

/-- A live helper without state, under the tables. -/
def liveHelper : Ctx := { Ctx.reset with life := .live, xlbase := 1 }

/-- A pre-empted core whose control context and helper 3 are suspended, in its resident handler; g4 covers the image, and g7 an unmapped page. -/
def preempted : State :=
  setRegs [(7, whole 0x50000), (9, whole 0x38000)]
    (s0.modCore 0 fun c => { c with preempted := true, suspended := [(3, liveHelper), (15, s0.me)] })

/-- Images of helper 3 as words 0 and 1 stand in memory: at a head of the line with PRIV, or at an odd address; and whether the check of the
pc that RESTCTX loads from there passes. -/
def imaged (pc : Nat) : State := { preempted with main := (preempted.main.write 0x38000 8 pc).write 0x38008 8 0x20 }
def imagePc (pc : Nat) : Bool :=
  let s := imaged pc
  let loads := unitsOf (s.areas 0 3 liveHelper 0x40 Live.all s.freeN) 0x40
  match s.getUnits (s.x 9) 0 (loads.take 1) [] with
  | (u, r, _) => !r.isEmpty && okay (u.checkImagePc liveHelper (BitVec.ofNat 64 (part (overlay (loads.take 1) 0 r) 0 8))
      (BitVec.ofNat 64 (part (overlay (loads.take 1) 0 r) 8 8)))

/-- The units of helper 3's general registers. -/
def unitList : List (Nat × Nat × Nat) := unitsOf (preempted.areas 0 3 liveHelper 0x01 Live.all preempted.freeN) 0x01

theorem witness_ContextImages_save :
    preempted.me.priv = true ∧ preempted.myCore.preempted = true ∧ (SMap.find preempted.myCore.suspended 3).isSome = true ∧
    okay (checkCap (preempted.g 9) preempted.me.dom true .store (preempted.x 9) 0x4000 1) = true ∧
    okay (checkCap (preempted.g 9) preempted.me.dom true .load (preempted.x 9) 0x4000 1) = true ∧
    (preempted.putUnits (preempted.x 9) (Live.all.skips liveHelper 0x01) 0 unitList).2.isNone = true ∧
    (preempted.putUnits (preempted.x 7) (Live.all.skips liveHelper 0x01) 0 unitList).2.isNone = false ∧
    preempted.me.unitsDone = 0 ∧ imagePc 0x30002 = true ∧ imagePc 0x30003 = false ∧
    (preempted.getUnits (preempted.x 9) 0 unitList []).2.2.isNone = true ∧
    (preempted.getUnits (preempted.x 7) 0 unitList []).2.2.isNone = false := by decide +kernel

/-- A core without slices that a switched-out or queued item waits for; a launch item that may start on core 1. -/
def queued : State := s0.modCore 1 fun c => { c with queue := [item0] }

/-- A mailbox armed for register 24 with its interrupt, empty; and one with a spilled deposit. -/
def mailed : State := s0With fun x => { x with mbox := 0xB8, spill := [(7, 0)] }

/-- A load of another device outstanding in a context that is switched out. -/
def switchedOut : State :=
  { remoteLoad.modCore 0 (fun c => { c with preempted := true, suspended := [(15, { (remoteLoad.ctx me0) with uid := 9, saved := some 0x38000 })] }) with cur := me0 }

theorem witness_ContextImages_rest :
    s0.preemptible 0 = true ∧ s0.outbid 0 = true ∧ (queued.core 1).nextItem = some item0 ∧ queued.mayStartItem 1 item0 = true ∧
    (mailed.ctx me0).life = .live ∧ (mailed.ctx me0).mbox.getLsbD 5 = true ∧ (mailed.ctx me0).mbox.toNat % 32 ≠ 0 ∧
    (mailed.ctx me0).mbox.getLsbD 6 = false ∧ (mailed.ctx me0).gpos = 0 ∧ (mailed.ctx me0).spill = [(7, 0)] ∧ (mailed.core 0).preempted = false ∧
    (((switchedOut.core 0).outs 15).map fun x => (x.pend, x.spill.length, switchedOut.sentOut x.uid away)) = [([away], 0, true)] ∧
    ((pendingAt ((switchedOut.core 0).outs 15) 0).map fun p => (p.2.1, p.2.2)) = some (0, away) ∧
    (pendingAt ((switchedOut.core 0).outs 15) 1).isNone = true ∧
    (((switchedOut.core 0).outs 15).head?.bind fun x => switchedOut.rucksackWrite 0 x 0x3000 32 (spillImage [(5, x.dom)])).isSome = true ∧
    ((remoteLoad.addressee me0 0).map fun x => (x.pend, remoteLoad.sentOut x.uid away)) = some ([away], true) := by decide +kernel

/-- Job 3 runs on the cores of die 0, its record at 0x400C0; g2 addresses a descriptor of zeros, g3 the handle of entry 0 at generation 1. -/
def jobbed : State :=
  let m := ((s0.main.write 0x400C0 1 2).write (0x400C0 + 8) 8 4096).write (0x400C0 + 16) 4 2048
  setRegs [(2, whole 0x30100), (3, Reg.plain (nodeHandle 0 1 0)), (9, Reg.plain (nodeHandle 0 1 1)), (10, Reg.plain 0x100000000)]
    { s0 with jobbase := 0x40000, joblimit := 4, main := m.write (0x400C0 + 24) 10 (2 ^ 80 - 1) }

/-- A single node of job 3 with its affinity to core 1; a gang of two cores. -/
def node1 : Node := { Node.reset with state := .ready, job := 3, who := ⟨1, 0, false, 1⟩ }
def gang2 : Node := { node1 with gk := 1, gn := 2 }

/-- Die 0 with its entry 0 a node. -/
def withNode (n : Node) : State := { jobbed with dies := [(0, { jobbed.die 0 with nodes := [(0, n)] })] }
def withNodes (n m : Node) : State := { jobbed with dies := [(0, { jobbed.die 0 with nodes := [(0, n), (1, m)] })] }

/-- The words of a descriptor with an entry and no operands. -/
def granules : List Reg := [⟨BitVec.ofNat 128 0x30002, false⟩] ++ List.replicate 7 Reg.zero

theorem witness_NodeInstructions :
    okay (checkCapRights (jobbed.g 2) jobbed.me.dom jobbed.me.priv .load (jobbed.x 2)) = true ∧ (jobbed.g 2).covers (jobbed.x 2).toNat 128 = true ∧
    (jobbed.x 2).toNat % 16 = 0 ∧ okay (jobbed.readGranules (jobbed.who me0) (jobbed.x 2) (jobbed.g 2).permLC 8) = true ∧
    badDescriptor granules = none ∧ (badDescriptor (List.replicate 8 (⟨BitVec.allOnes 128, false⟩ : Reg))).isSome = true ∧
    jobbed.me.pend = [] ∧ loading.me.pend ≠ [] ∧ jobbed.terminated 0 = false ∧ ({ jobbed with dterm := 1 } : State).terminated 0 = true ∧ (jobbed.die 0).firstFree = some 0 ∧
    jobbed.handleLegal (jobbed.x 10) = false ∧ jobbed.handleLegal (jobbed.x 3) = true ∧
    (withNode { node1 with state := .held }).handleState (jobbed.x 3) = .current ∧
    (withNode { node1 with state := .held }).handleForeign (jobbed.x 3) = false ∧
    ((withNode { node1 with state := .held }).handleNode (jobbed.x 3)).state = .held ∧
    ((withNode { node1 with signal := true }).handleNode (jobbed.x 3)).signal = true := by decide +kernel

theorem witness_NodeInstructions_edges :
    okay ((withNodes { node1 with state := .held } node1).edgeChecks (jobbed.x 3) (jobbed.x 9)) = true ∧
    (withNodes { node1 with state := .held } node1).handleState (jobbed.x 9) = .current ∧
    ((withNodes { node1 with state := .held } { node1 with state := .failed }).handleNode (jobbed.x 9)).state = .failed ∧
    okay ((withNodes { node1 with state := .held } { Node.reset with gen := 2, last := .done }).edgeChecks (jobbed.x 3) (jobbed.x 9)) = true ∧
    (withNodes { node1 with state := .held } { Node.reset with gen := 2, last := .done }).handleState (jobbed.x 9) = .behind .done ∧
    (withNodes { node1 with state := .held } { Node.reset with gen := 2, last := .lost }).handleState (jobbed.x 9) = .behind .lost ∧
    ((withNodes { node1 with state := .held } node1).die 0).edges.length < 16384 := by decide +kernel

/-- A reservation of cores 1 and 2 for the gang in entry 0, both granted; one that cannot commit; and its drain. -/
def reserving (granted : NSet) : State :=
  { jobbed with dies := [(0, { jobbed.die 0 with
      nodes := [(0, { gang2 with state := .reserving })], reservations := [⟨0, [1, 2], granted, 0⟩] })] }
def draining : State :=
  { jobbed with dies := [(0, { jobbed.die 0 with nodes := [(0, { gang2 with failures := 255 })], drain := some ⟨0, 0, [1, 2], []⟩ })] }

theorem witness_NodeEvents_single :
    (((withNode node1).die 0).node 0).state = .ready ∧ node1.signal = false ∧ node1.readyAt + node1.age ≤ (withNode node1).cycle.toNat ∧
    (((withNode node1).placeable 0).find? (fun p => p.1 == 0)) = some (0, node1) ∧ (withNode node1).gangFirst 0 = false ∧
    (((withNode node1).placeable 0).all fun q => !earlier q (0, node1)) = true ∧
    (((withNode { node1 with state := .stealable }).die 0).used.filter (fun p => p.2.single .stealable)) = [(0, { node1 with state := .stealable })] ∧
    (withNode { node1 with state := .stealable }).lowestIdle 0 { node1 with state := .stealable } = some 1 ∧
    (withNode { node1 with state := .stealable }).placeable 0 = [] := by decide +kernel

/-- Entry 0 STEALABLE since cycle 0, and entry 1 since then too, or READY and due one cycle later. -/
def stealing (m : Node) : State := { withNodes { node1 with state := .stealable, stealAt := 0 } m with cycle := 8 }
def stealOrder (m : Node) : Bool :=
  ((stealing m).die 0).used.all fun q => q.1 == 0 || olderFor (0, { node1 with state := .stealable, stealAt := 0 }) q

theorem witness_NodeEvents_steal :
    stealOrder { node1 with state := .stealable, stealAt := 0 } = true ∧ stealOrder { node1 with readyAt := 1, age := 0 } = true ∧
    stealOrder { node1 with readyAt := 0, age := 0 } = true := by decide +kernel

theorem witness_NodeEvents_gang :
    gang2.gang = true ∧ gang2.backUntil = none ∧ ((withNode gang2).die 0).reservations.length < 4 ∧ ((withNode gang2).die 0).drain = none ∧
    ((withNode gang2).candidate 0 gang2).isSome = true ∧ ((reserving [1, 2]).commitCores 0 0).isSome = true ∧
    ((reserving [1]).commitCores 0 0) = none ∧ (((reserving [1]).die 0).reservations.find? (fun x => x.node == 0)).isSome = true ∧
    ((withNode gang2).die 0).drainDue { gang2 with failures := 255 } 0 = true ∧ ((withNode gang2).die 0).drainQ = [] ∧
    ((withNode gang2).drainRegion 0 { gang2 with failures := 255 }).isSome = true ∧ (draining.die 0).drain = some ⟨0, 0, [1, 2], []⟩ ∧
    (draining.core 1).current = none ∧ (draining.ctx ⟨1, control⟩).life ≠ .live ∧ (draining.core 1).preempted = false := by decide +kernel

/-! ### The proximity index -/

/-- R327. Object 4: a readable and writable index of INT8 vectors of four elements, two edges, a beam of four, at 0x30200, of four entries. -/
def indexWord : Nat :=
  2 + 11 * 2 ^ 8 + 2 ^ 14 + 2 ^ 15 + 4 * 2 ^ 32 + 2 * 2 ^ 43 + 4 * 2 ^ 50 + 0x30200 * 2 ^ 64 + 4 * 2 ^ 128

/-- That index with one entry, the vector (1, 1, 1, 1), live from stamp 1 on; g4 addresses the own scratchpad, g2 a control word for two
results of the current stamp, g1 an id, g3 an id out of range. -/
def indexed : State :=
  setRegs [(1, Reg.plain 0), (2, Reg.plain 0x20100000000), (3, Reg.plain 0x100000000), (7, whole (spad + 0x100))]
    { s0.modCore 0 (fun c => { c with otbase := 0x30000, otlimit := 6 }) with
      main := ((s0.main.write 0x30100 64 indexWord).write 0x30200 12 (1 + 2 ^ 32 + 2 ^ 64)).write 0x30240 28 (1 + 0x01010101 * 2 ^ 192) }

/-- What the record of object 4 reads as. -/
def indexRec : IndexRec := indexOf (BitVec.ofNat 512 indexWord)

theorem witness_RambleOperations_issue :
    okay (indexed.indexRecord 4 true) = true ∧ okay (indexed.indexRecord 4 false) = true ∧ indexRec.vb = 4 ∧
    okay (indexed.unitSpan 4 (indexed.x 4) 4 1 .load) = true ∧ okay (indexed.copiedVector indexRec (indexed.x 4) (.spad 0 0) true) = true ∧
    okay (indexed.vectorPlace (indexed.x 4) (.spad 0 0) true) = true ∧ indexed.me.writesPending = false ∧ indexed.me.pend = [] ∧
    indexed.vectorWaits ⟨.spad 0, 0, spad⟩ 4 = false ∧
    (setRegs [] (indexed.modCtx me0 fun x => { x with pend := [{ pending .store 8 with at_ := some ⟨.spad 0, 0, spad⟩ }] })).vectorWaits ⟨.spad 0, 0, spad⟩ 4 = true ∧
    okay ((indexed.modCore 0 fun c => { c with spad := { c.spad with poison := [0] } }).copiedVector indexRec (indexed.x 4) (.spad 0 0) true) = false ∧
    (indexed.x 1).toNat < 2 ^ 32 ∧ 2 ^ 32 ≤ (indexed.x 3).toNat ∧ nearControl (indexed.x 1) = none ∧
    nearControl (indexed.x 2) = some (2, true, 0) ∧ okay (indexed.unitSpan 4 (indexed.x 4) 4 16 .load) = true ∧
    okay (indexed.unitSpan 4 (indexRec.areaAddr (indexed.x 4)) 16 1 .store) = true ∧
    (unitPlaceOf 0 (indexed.x 4) false (.spad 0 0)).isSome = true ∧
    (unitPlaceOf 0 (indexRec.areaAddr (indexed.x 4)) false (.spad 0 16)).isSome = true := by decide +kernel

/-- The state after an instruction of the index, and the operation that it sent to unit 0. -/
def asked (i : Instr) : State := nextOf (exec i indexed)
def sent (s : State) : Option RambleOp := s.unitOpAt 0 0

/-- Whether the operation may be admitted, and is without a failure. -/
def admits (s : State) : Option (Bool × Bool) := (sent s).map fun o => (s.mayAdmit 0 0 o, okay (s.admitOp o))

/-- The search admitted, and then run; an operation in a phase of its own, of a context present or not. -/
def searching : State := nextOf (exec (.rambleAdmit 0 0) (asked (.ldnear 0 1 4 2 4)))
def phased (ph : RamblePhase) (f : State → State) : State := f ((asked (.ixstamp 1 4)).modUnit 0 0 fun o => { o with phase := ph })

/-- The control context of core 0 switched out, and gone. -/
def out (s : State) : State := (s.modCore 0 fun c => { c with preempted := true, suspended := [(15, s.ctx me0)] }).modCtx me0 fun x => { x with uid := 9 }
def gone (s : State) : State := s.modCtx me0 fun x => { x with life := .ended }

/-- Phase, presence of the context, and its being anywhere. -/
def standing (s : State) : Option (RamblePhase × Bool × Bool) :=
  (sent s).map fun o => (o.phase, s.present (s.unitSlot o) o.uid, (s.unitCtx o).isSome)

/-- The index with a poisoned header. -/
def corrupt (i : Instr) : State := { asked i with main := (asked i).main.setPoison 0x30200 true }

theorem witness_RambleOperations_stvec : admits (asked (.stvec 1 4 4)) = some (true, true) := by decide +kernel

theorem witness_RambleOperations_ldnear : admits (asked (.ldnear 0 1 4 2 4)) = some (true, true) := by decide +kernel

theorem witness_RambleOperations_delvec : admits (asked (.delvec 1 1 4)) = some (true, true) := by decide +kernel

theorem witness_RambleOperations_ixstamp :
    admits (asked (.ixstamp 1 4)) = some (true, true) ∧ admits (corrupt (.ixstamp 1 4)) = some (true, false) := by decide +kernel

theorem witness_RambleOperations_search :
    ((sent searching).map fun o => (o.phase, okay (searching.runSearch o))) = some (.admitted 1, true) := by decide +kernel

theorem witness_RambleOperations_replies :
    standing (phased (.finished 5 []) id) = some (.finished 5 [], true, true) ∧
    standing (phased (.finished 5 []) out) = some (.finished 5 [], false, true) ∧
    standing (phased (.finished 5 []) gone) = some (.finished 5 [], false, false) ∧
    ((phased (.held 5 []) id).heldReply me0).isSome = true ∧ ((phased (.failed 3 0) id).heldReply me0).isSome = true ∧
    State.unitFenced (phased .arrived id) 0 = false ∧ ((sent (phased .arrived id)).map fun o => o.phase.isArrived) = some true ∧
    State.unitFenced { phased .arrived id with dfence := 15 } 0 = true := by decide +kernel

/-- R335, R341. The insert's reply: stamp 2, id 1. -/
theorem test_index_insert :
    (sent (nextOf (exec (.rambleAdmit 0 0) (asked (.stvec 1 4 4))))).map (·.phase) = some (.finished 0x200000001 []) := by decide +kernel

/-- R333, R341. The search's reply: stamp 1, one result, id 0 at the distance 4 * 1 from a vector of zeros. -/
theorem test_index_search :
    (sent (nextOf (exec (.rambleSearch 0 0) searching))).map (·.phase) =
      some (.finished 0x100000001 [0x400000000, 0x7FFFFFFFFFFFFFFF]) := by decide +kernel

theorem witness_EngineStoresFrame :
    (∃ t, exec (.sequencerExecute 0) bcasting = .next t) ∧ (∃ t, exec (.matrixOpComplete 0) (started s0 (.accz 0 0)) = .next t) ∧
    ∃ t, exec (.functionOpComplete 0) (started functions (.chlen 9 0)) = .next t :=
  ⟨exists_of_goes (by decide +kernel), exists_of_goes (by decide +kernel), exists_of_goes (by decide +kernel)⟩

/-! ### Work and phases -/

/-- R356, R363. Job 0 runs on the cores of die 0; at 0x30400 a launch record for core 1; g11 addresses it, and g12 a record of zeros, in
which word 16 names no core; g13 is the handle of phase 5, and g14 that of everything of job 0. -/
def working : State :=
  setRegs [(11, whole 0x30400), (12, whole 0x30800), (13, Reg.plain 0x8000000000000005), (14, Reg.plain 0xC000000000000000)]
    { jobbed with main := ((jobbed.main.write 0x40000 1 2).write 0x40018 10 (2 ^ 80 - 1)).write 0x30480 8 2 }

/-- The granules of the two records. -/
def forCore1 : List Reg := List.replicate 8 Reg.zero ++ Reg.plain 2 :: List.replicate 31 Reg.zero
def forNone : List Reg := List.replicate 40 Reg.zero

/-- What the record that a register addresses is read as. -/
def record (a : BitVec 5) : Option (List Reg) :=
  match working.readGranules (working.who me0) (working.x a) true 40 with
  | .ok (_, l) => some l
  | .error _ => none

/-- What LAUNCH says of a record. -/
def bad (l : List Reg) : Option Nat := badLaunch l (fun _ => true) (fun _ => true) (working.jobHas 0)

/-- The domain of the launch terminated. -/
def noLaunch : State := { working with dterm := 1 }

theorem witness_WorkInstructions_record : record 11 = some forCore1 := by decide +kernel

theorem witness_WorkInstructions_empty : record 12 = some forNone := by decide +kernel

theorem witness_WorkInstructions_launch :
    okay (checkCapRights (working.g 11) working.me.dom working.me.priv .load (working.x 11)) = true ∧
    (working.g 11).covers (working.x 11).toNat 640 = true ∧ (working.x 11).toNat % 64 = 0 ∧ (working.x 11).toNat < 2 ^ 55 ∧
    (working.g 11).permLC = true ∧ working.myCore.job = 0 ∧ bad forCore1 = none ∧ bad forNone = some 16 ∧ working.me.pend = [] ∧ storing.me.pend ≠ [] ∧ ((working.launch forCore1 0 0 1).map (·.2)).isSome = true ∧
    (noLaunch.launch forCore1 0 0 1).isNone = true := by decide +kernel

theorem witness_WorkInstructions_levels :
    okay (working.levelCheck (working.x 13) false) = true ∧ okay (working.levelCheck (working.x 13) true) = true ∧ working.arrival = none ∧
    (working.keep (.cancel 4)).arrival = some (.cancel 4) ∧ (working.x 13).toNat ≠ (working.x 14).toNat := by decide +kernel

/-- A core 1 with one slice, of job 3, and an item of that job in its queue, or there already. -/
def sliced (x : Slice) (here : Bool) : State :=
  let s := jobbed.modCore 1 fun c => { c with slices := [x], queue := if here then [] else [item0], current := if here then some item0 else none }
  { s.modCtx ⟨1, control⟩ (fun c => { c with life := if here then .live else .ended }) with cycle := 200 }

def slice0 : Slice := ⟨3, 100, 50, 190, true, false, false, 50, 100, false⟩

theorem witness_WorkInstructions_slices :
    (((sliced { slice0 with ready := false } true).core 1).slice 3).isSome = true ∧ 100 + slice0.period ≤ (sliced slice0 true).cycle.toNat ∧
    (sliced slice0 true).jobState 3 = 2 ∧ ((sliced slice0 false).core 1).preempted = false ∧ ((sliced slice0 false).core 1).runningSlice = none ∧
    ((sliced slice0 false).core 1).current = none ∧ (sliced slice0 false).dueSlice 1 = some slice0 ∧
    ((sliced { slice0 with running := true, left := 0 } true).core 1).runningSlice = some { slice0 with running := true, left := 0 } ∧
    ((sliced { slice0 with running := true, left := 0, grace := true } true).core 1).runningSlice =
      some { slice0 with running := true, left := 0, grace := true } ∧
    (sliced { slice0 with running := true, left := 0, grace := true } true).preemptible 1 = true ∧
    slice0.deadline < (sliced slice0 true).cycle.toNat := by decide +kernel

/-! ### Barriers, slots and the Stile -/

/-- R366, R367, R371. Object 5: a barrier of Stile domain 0, in which cores 0 and 1 are, at generation `gen`, `arrived` of `expected` there;
the current item's phase record at 0x30400 names it, slots of 64 cycles and one schedule at 0x30500 of two entries: core 0 sends to core 1 in
slot 3, and core 1 to core 0 in slot 1. g7 and g8 address the own scratchpad and core 1's, g9 holds a length, g10 a number out of range. -/
def barred (gen arrived : Nat) : State :=
  let m := (s0.main.write 0x30140 1 3).write 0x30150 16 (gen + 2 * 2 ^ 32 + arrived * 2 ^ 48)
  let p := (m.write 0x30400 8 (5 + 6 * 2 ^ 16)).write 0x30440 16 (0x30500 + 100 * 2 ^ 64)
  let q := ((p.write 0x30500 8 2).write 0x30508 8 (1 * 2 ^ 9 + 3 * 2 ^ 18 + 4 * 2 ^ 32)).write 0x30510 8 (1 + 1 * 2 ^ 18 + 4 * 2 ^ 32)
  setRegs [(7, whole (spad + 0x100)), (8, whole 0x7C00000001000000), (9, Reg.plain 32), (10, Reg.plain 0x100000000)]
    { s0.modCore 0 (fun c => { c with otbase := 0x30000, otlimit := 6, current := some { item0 with job := 0, phrec := 0x30400 } }) with
      main := q, stile := [(0, ⟨0, [(0, 3)]⟩)] }

/-- The object's place, and that it is what the barrier's index gives. -/
def place (s : State) : Option Nat :=
  match s.barrier 5 with
  | .ok (_, k) => some k
  | .error _ => none

theorem witness_BarriersAndSlots_barriers :
    place (barred 4 0) = some 0x30140 ∧ okay ((barred 4 0).barOperand 1) = true ∧ (barred 4 0).me.writesPending = false ∧
    okay ((barred 4 0).arrive 0x30140 5 5) = true ∧ okay ((barred 4 2).arrive 0x30140 5 5) = false ∧ (barred 4 0).arrival = none ∧
    (storing.me.writesPending) = true ∧ ((barred 4 0).barRec 0x30140).gen = 4 ∧ ((barred 5 0).barRec 0x30140).gen ≠ 4 ∧
    ((barred 4 0).keep (.bsync 4 0)).arrival = some (.bsync 4 0) := by decide +kernel

/-- The phase barrier's place and its phase record's slots. -/
def phased5 (s : State) : Option (Nat × Nat) := (s.phaseBarrier 0).bind fun r => r.2.2.map fun p => (r.2.1, p.slog)

/-- The entry of a slotted transfer of 32 bytes to core 1, or the reason against it. -/
def entry (s : State) (slot : Nat) : Option (Except (Nat × Option Nat) Nat) :=
  (s.phaseBarrier 0).map fun r => (r.1.slotEntry r.2.1 r.2.2 slot 1 32).map (·.2.1)

/-- The schedule's length. -/
def entries (s : State) : Option Nat := (s.phaseBarrier 0).bind fun r => r.2.2.bind fun p => (r.1.chosen 0 r.2.1 p).map (·.2.length)

def yields (o : Option (Except (Nat × Option Nat) Nat)) (n : Nat) (ok : Bool) : Bool :=
  match o with
  | some (.ok i) => ok && i == n
  | some (.error e) => !ok && e.1 == n && e.2.isNone
  | none => false

theorem witness_BarriersAndSlots_slots :
    okay ((barred 5 0).slotOperands 7 8 9) = true ∧ s0.phaseBarrier 0 = none ∧ phased5 (barred 5 0) = some (0x30140, 6) ∧
    yields (entry (barred 5 0) 3) 0 true = true ∧ yields (entry (barred 5 0) 2) 2 false = true ∧ entries (barred 5 0) = some 2 ∧
    (barred 5 0).myCore.locks.length + 2 ≤ 16 ∧ (barred 5 0).me.cntCopy < 15 ∧ ((barred 4 0).barRec 0x30140).gen % 2 = 0 ∧
    ((barred 5 0).barRec 0x30140).nf = false := by decide +kernel

/-- The same barrier with NF set; with an item whose phase record has no schedule at the index; past the end of slot 3. -/
def closed5 (f : BarRec → BarRec) (c : Word) : State := { (barred 5 0).modBarRec 0x30140 f with cycle := c }

/-- Whether a schedule is there, and its entry for 32 bytes to core 1 in slot 3. -/
def scheduled (s : State) : Option (Option (Option Nat)) :=
  (s.phaseBarrier 0).map fun r => r.2.2.bind fun p => (r.1.chosen 0 r.2.1 p).map fun e =>
    e.2.findIdx? fun x => x.src == 0 && x.dst == 1 && x.slot == 3 && decide (32 ≤ 16 * x.max)

theorem witness_BarriersAndSlots_violations :
    ((closed5 (fun r => { r with nf := true }) 0).barRec 0x30140).nf = true ∧ ((closed5 id 0).barRec 0x30140).gen % 2 = 1 ∧
    scheduled (closed5 id 257) = some (some (some 0)) ∧
    scheduled (closed5 (fun r => { r with sched := 9 }) 0) = some none ∧
    (3 + 1) * 2 ^ 6 < ((closed5 id 257).modCore 0 fun c => { c with stepAt := [(0, 0)] }).stepcyc 0 + (32 + 63) / 64 := by decide +kernel

/-- The Stile keeps the barrier, all of its members there; a transfer, as issued and as started; an item of the job on core 1. -/
def keptBar (arrived : Nat) : State := { barred 4 arrived with bars := [(0x30140, Bar.reset)] }
def transferring (slot : Nat) (started : Bool) : State :=
  let x := (barred 5 0).newXfer 0x30140 slot (some 0) 6 (32, 0x100, 1, 0)
  let s := (barred 5 0).modCore 1 (fun c => { c with current := some { item0 with job := 0 } })
  let t := s.modCore 0 (fun c => { c with stepAt := [(0, 0)] })
  { t with xfers := [{ x with started := started }], cycle := 1000 }

theorem witness_BarriersAndSlots_steps :
    (SMap.find (keptBar 2).bars 0x30140).isSome = true ∧ ((keptBar 2).barRec 0x30140).arrived = ((keptBar 2).barRec 0x30140).expected ∧
    ((keptBar 2).barRec 0x30140).expected ≠ 0 ∧ ((keptBar 2).barRec 0x30140).beats = 0 ∧
    (((transferring 3 false).xfer 0).map fun x => (x.slot, decide (x.slot * 2 ^ x.slog ≤ (transferring 3 false).stepcyc 0), (transferring 3 false).mayStartXfer x)) =
      some (3, true, true) ∧
    (((transferring 4095 false).xfer 0).map fun x => (x.slot, (transferring 4095 false).mayStartXfer x)) = some (4095, true) ∧
    (((transferring 3 true).xfer 0).map fun x => (x.started, (transferring 3 true).receives x)) = some (true, true) := by decide +kernel

/-! ### Containment and the system -/

/-- g11 addresses the page that the tables map, of 65536 bytes in g9; g12 one that they do not map. -/
def sealing : State := setRegs [(11, whole 0x30000), (12, whole 0x50000), (9, Reg.plain 0x10000)] s0

/-- A slot in use, of a page with a poisoned granule or none; all slots in use. -/
def slotOf (d : Option (BitVec 512)) : SealSlot := ⟨0, 0, 0x30000, 65536, [3], ⟨0, 0, true, 1⟩, me0, 0, d⟩
def sealed (d : Option (BitVec 512)) (poison : List Nat) : State :=
  { sealing with seals := [(0, slotOf d)], main := { sealing.main with poison := poison } }
def allSealed : State := { sealing with seals := (List.range 64).map fun k => (k, slotOf none) }

theorem witness_SystemOperations_seal :
    sealing.arrival = none ∧ okay (sealing.sealChecks 11 (sealing.x 11) (sealing.x 9)) = true ∧ sealing.me.writesPending = false ∧
    okay (sealing.sealPages (sealing.who me0) (sealing.x 11) 1 1) = true ∧ okay (sealing.sealPages (sealing.who me0) (sealing.x 12) 1 1) = false ∧
    sealing.freeSeal = some 0 ∧ allSealed.freeSeal = none ∧ storing.me.writesPending = true ∧
    (sealing.keep (.seal 0 none)).arrival = some (.seal 0 none) ∧ (sealing.keep (.seal 0 (some 4))).arrival = some (.seal 0 (some 4)) ∧
    (sealed none []).sealPoison (slotOf none) = none ∧ (sealed none [0x3001]).sealPoison (slotOf none) = some 0x30010 := by decide +kernel

/-- Device 2 with its window open, or an attestation under way; domain 9 terminated, with nothing left to record; a capture that waits for
core 0, which is at a group boundary, or for none. -/
def windowed : State := s0.modVdev 2 fun d => { d with en := true, atstat := 1 }
def ending : State := { s0 with dterm := BitVec.twoPow 64 9, terms := [(9, ⟨0, 0, []⟩)] }
def hostWriting : State := s0With fun x => { x with pend := [{ pending .store 8 with home := .local ⟨.host, 0, 0⟩ }], cntStore := 1 }
def capturing (l : NSet) : State := { s0 with capture := some ⟨l, true, []⟩ }

theorem witness_SystemOperations_events :
    (windowed.vdev 2).en = true ∧ (windowed.vdev 3).en = false ∧ (windowed.vdev 2).atstat = 1 ∧ ending.terminated 9 = true ∧
    (SMap.find ending.terms 9).isSome = true ∧ ending.someCoreRuns 9 = false ∧ NSet.has [0] 0 = true ∧
    (∀ p ∈ ((capturing [0]).core 0).ctxs, p.2.life ≠ .live ∨ p.2.gpos = 0) ∧ (capturing []).capture = some ⟨[], true, []⟩ ∧ (capturing []).reported ⟨[], true, []⟩ = true ∧
    hostWriting.reported ⟨[], true, [(me0, hostWriting.me.uid, 0)]⟩ = false := by decide +kernel

/-- Bring-up at a step, late enough. -/
def powering (p : Power) : State := { s0 with power := p, cycle := 1000000 }

theorem witness_SystemOperations_power :
    State.reset.testOpen = true ∧ State.reset.power.stage = .reset ∧ (powering ⟨12, 8, 4, 0, .booted, 0, .idcode, 0⟩).power.stage = .booted ∧
    (powering ⟨12, 0, 0, 0, .reset, 0, .idcode, 0⟩).power.lastWake + 62500 ≤ (powering ⟨12, 0, 0, 0, .reset, 0, .idcode, 0⟩).cycle.toNat := by decide +kernel

/-! ### The fabric -/

/-- R401, R402. Device 0 is the root of job 0's group, whose record is at 0x60000 and whose two plans are at 0x80000, plan 0 in force; each
uses port 0 and has devices 0 and 1 as members of each scope. g2 holds the fabric address 0x100 of device 0, g9 a RKEY of entry 1, with CHECK 5, g10 a number out of
range, and g11 addresses the page at 0x30000. -/
def grouped : State :=
  let rec1 := fun (m : Memory) (a : Nat) => (((((m.write a 1 1).write (a + 128) 1 0x88).write (a + 65664) 1 3).write (a + 73856) 1 3).write (a + 82048) 1 3)
  let m := ((s0.main.write 0x60004 4 7).write 0x60008 8 0x80000).write 0x60010 4 2
  setRegs [(2, whole 0x8000000000000100), (3, whole 0x8000000000000101), (9, Reg.plain (5 * 2 ^ 10 + 1)), (10, Reg.plain 0x100000000), (11, cap 63 0x7F 0 0x30000 0x31000 0x30000)]
    { s0 with grpbase := 0x60000, fabid := 0, main := rec1 (rec1 m 0x80000) 0xA0000,
              keys := [(1, { used := true, check := 5, kind := 0, rights := 7, base := 0x30000, length := 0x1000, core := 0x1FF, dom := 0, xlbase := 1, last := none })] }

/-- Its job changed. -/
def groupedJob (f : Job → Job) : State := grouped.modJob 0 f

theorem witness_FabricInstructions :
    okay (grouped.keyRegion 11 0 7) = true ∧ okay (grouped.newKey 0) = true ∧ okay (grouped.newKey (grouped.x 9)) = false ∧
    (grouped.x 9).toNat < 2 ^ 32 ∧ (grouped.keyAt 1).used = true ∧ (grouped.keyAt 1).check.toNat = (grouped.x 9).toNat / 1024 ∧
    (grouped.keyAt 1).dom = grouped.me.dom ∧ (grouped.keyAt 0).used = false ∧ (grouped.jobOf 0).reconf = none ∧
    (groupedJob fun j => { j with reconf := some (1, .draining) }).jobOf 0 ≠ grouped.jobOf 0 ∧ grouped.arrival = none ∧
    okay (checkCap (grouped.g 2) grouped.me.dom grouped.me.priv .store (grouped.x 2) 8 8) = true ∧ grouped.hasGroup 0 = true ∧
    isFabric (grouped.x 2) = true ∧ (grouped.x 2).toNat / 2 ^ 44 % 2 ^ 16 = 0 ∧ s0.hasGroup 0 = false ∧ grouped.me.writesPending = false := by decide +kernel

theorem witness_FabricInstructions_plans :
    grouped.scopeSet 0 (grouped.curPlan 0) 5 = [0, 1] ∧ (grouped.scopeSet 0 0 5).filter (fun n => n != 0) = [1] ∧
    (grouped.scopeSet 0 1 5) = [0, 1] ∧ grouped.curPlan 0 = 0 ∧ grouped.planCount 0 = 2 ∧ grouped.planValid 0 1 = true ∧
    ((grouped.jobOf 0).tgen = (grouped.jobOf 0).scopegen) ∧
    ((groupedJob fun j => { j with scopegen := 1 }).jobOf 0).tgen = ((groupedJob fun j => { j with scopegen := 1 }).jobOf 0).scopegen - 1 ∧
    (grouped.keep (.stmcIssued [1] true)).arrival = some (.stmcIssued [1] true) ∧ storing.me.writesPending = true ∧
    (grouped.keep (.stmc 0 [1] [])).arrival = some (.stmc 0 [1] []) ∧ (grouped.keep (.stmc 0 [1] [(1, 0x44)])).arrival = some (.stmc 0 [1] [(1, 0x44)]) ∧
    (grouped.keep (.gbar 0 (some 3))).arrival = some (.gbar 0 (some 3)) ∧ (grouped.keep (.reconf (some 3))).arrival = some (.reconf (some 3)) := by decide +kernel

/-- A request of eight bytes from device 1 for the region of the key, and the machine with it at hand on a port that is up. -/
def request (kind : ReqKind) (key : BitVec 32) (dst off : Nat) : Request :=
  { src := 1, dst := dst, job := 0, ctx := ⟨4, 15⟩, uid := 0, va := 0, tag := 6, gen := 0, key := key, core := 0x1FF, off := off, kind := kind
    size := 8, data := 9, expect := 0, expectTag := false, ordered := false, via := 8 }
def arriving (r : Request) : State :=
  { grouped with inbound := [r], cycle := 3000000, ports := [(0, { Port.reset with state := 2 }), (1, { Port.reset with state := 1 })] }

/-- What a request meets: refused, told to come again, or done. -/
def meets (r : Request) : Nat :=
  match (arriving r).admitRequest r with
  | .refused _ _ => 0
  | .retry => 1
  | .done _ _ => 2

/-- A deposit's key, for core 0: its mailbox is closed. -/
def depositing : Nat :=
  let r : Request := { request .store (BitVec.ofNat 32 (5 * 2 ^ 10 + 2)) 0 0 with core := 0 }
  match ({ (s0.modCore 0 fun c => { c with current := some item0 }) with keys := [(2, { (grouped.keyAt 1) with kind := 2, core := 0, rights := 2 })] } : State).admitRequest r with
  | .refused _ _ => 0
  | .retry => 1
  | .done _ _ => 2

theorem witness_FabricEvents_requests :
    ((arriving (request .load 5121 0 0x40)).port 0).state = 2 ∧ ((arriving (request .load 5121 0 0x40)).port 2).state ≠ 2 ∧
    ((arriving (request .load 5121 0 0x40)).port 1).state = 1 ∧
    (arriving (request .load 5121 0 0x40)).requestReady 0 (request .load 5121 0 0x40) = true ∧
    (arriving (request .load 5121 0 0x40)).tooNew (request .load 5121 0 0x40) = false ∧ ownRequest (request .load 5121 0 0x40) = false ∧
    meets (request .load 5121 0 0x40) = 2 ∧ meets (request .load 5120 0 0x40) = 0 ∧ depositing = 1 ∧
    ((arriving (request .load 5121 0 0x40)).keptReply (request .load 5121 0 0x40)).isNone = true ∧
    (({ arriving (request .load 5121 0 0x40) with kept := [⟨1, ⟨4, 15⟩, 6, 0, 0⟩] } : State).keptReply (request .load 5121 0 0x40)).isSome = true ∧
    (arriving (request .load 5121 1 0x40)).requestReady 0 (request .load 5121 1 0x40) = true ∧ (arriving (request .load 5121 1 0x40)).fabid ≠ 1 := by decide +kernel

/-- A request of this device's own that a RECONF holds; one in transit by port 0, and one without a way; and a port that keeps a flit. -/
def heldHere : State :=
  ({ arriving { request .load 5121 1 0x40 with src := 0, uid := 1 } with fabid := 0 } : State).modJob 0 fun j => { j with reconf := some (1, .draining) }
def keeping : State :=
  { grouped with cycle := 3000000, ports := [(0, { Port.reset with state := 2, kept := [⟨0, 0, true, none, none⟩] })], kept := [⟨1, ⟨4, 15⟩, 6, 0, 0⟩] }

theorem witness_FabricEvents_ports :
    ownRequest { request .load 5121 1 0x40 with src := 0, uid := 1 } = true ∧ heldHere.reconfiguring = true ∧
    heldHere.requestReady 0 { request .load 5121 1 0x40 with src := 0, uid := 1 } = true ∧
    (arriving (request .load 5121 1 0x40)).reconfiguring = false ∧ (arriving (request .load 5121 1 0x40)).nextPort 0 1 = some 0 ∧
    ((arriving (request .load 5121 1 0x40)).grant 0 ((arriving (request .load 5121 1 0x40)).portWaiting 0)).isSome = true ∧
    ({ arriving (request .load 5121 1 0x40) with ports := [] } : State).nextPort 0 1 = none ∧ (keeping.port 0).kept ≠ [] ∧
    (keeping.port 0).lastAck + 1250000 ≤ keeping.cycle.toNat ∧ (keeping.port 0).lastSend + 1250 ≤ keeping.cycle.toNat ∧
    (keeping.kept[0]?.map fun x => decide (x.at_ + 2500000 ≤ keeping.cycle.toNat)) = some true := by decide +kernel

/-- Device 0 no member's root. -/
def leaf : State := { grouped with fabid := 1 }

theorem witness_FabricEvents_groups :
    grouped.isRoot 0 = true ∧ leaf.isRoot 0 = false ∧ grouped.members 0 = [0, 1] ∧
    (∀ m ∈ grouped.members 0, ∃ e ∈ ((groupedJob fun j => { j with rootArr := [(0, 0), (1, 0)] }).jobOf 0).rootArr, e.1 = m) ∧
    ((groupedJob fun j => { j with rootOut := [.release 3] }).jobOf 0).rootOut = [.release 3] ∧
    ((grouped.members 0).filterMap (fun m => SMap.find [(0, 1), (1, 1)] m)).length = (grouped.members 0).length ∧
    ((groupedJob fun j => { j with reconf := some (1, .arrived), rootVerdict := some true }).jobOf 0).reconf = some (1, .arrived) ∧
    ((groupedJob fun j => { j with reconf := some (1, .reported), rootReports := [0, 1] }).jobOf 0).reconf = some (1, .reported) ∧
    (0x500000003 : BitVec 64).toNat / 2 ^ 32 % 8 ≠ 0 ∧ (3 : BitVec 64).toNat / 2 ^ 32 % 8 = 0 ∧ (0x400000003 : BitVec 64).toNat / 2 ^ 32 % 8 = 4 ∧
    (∀ m ∈ grouped.members 0, NSet.has [0, 1] m = true) ∧ ((groupedJob fun j => { j with tokens := [⟨1, 5⟩] }).jobOf 0).tokens = [⟨1, 5⟩] ∧
    (groupedJob fun j => { j with reconf := some (1, .switching [1] 0) }).jobs.any (fun j => j.2.trainingLate 1 3000000) = true := by decide +kernel

/-! ### The digest -/

/-- R283. The SHA-512 of the three bytes of "abc", the example of FIPS 180-4: its first eight bytes. -/
theorem test_sha512 : numOfBytes (sha512 [0x61, 0x62, 0x63]) % 2 ^ 64 = 0xBA7A6193A135AFDD := by decide +kernel

end Tests

end
end

/-! ## Frames of an instruction that changes its own context alone, and of the scalar float instructions (R22, R24, R118) -/

namespace Sys2Proof.Machine

/-- A change of the current context leaves everything outside it. -/
theorem State.sameElsewhere_setCtx (s : State) (x : Ctx) : SameElsewhere s (s.setCtx s.cur x) := by
  refine ⟨rfl, fun n hn => State.core_setCtx_ne s x hn, ?_, fun c hc => State.ctx_setCtx_ne s x hc⟩
  exact State.core_setCtx_rest s s.cur x s.cur.core

/-- A change of a context leaves every byte of every memory. -/
theorem State.sameBytes_setCtx (s : State) (c : CtxId) (x : Ctx) : SameBytes s (s.setCtx c x) := fun sp a => by
  rw [State.memory_setCtx]

/-- R22, R24. A context after a scalar float result: the flags merged, the result in its register, and the next head. -/
def Ctx.withFloat (x : Ctx) (d : BitVec 5) (r : Nat × Flags) : Ctx :=
  { (x.raiseFlags r.2).setReg d.toNat (Reg.plain (w64 r.1)) with pc := x.nextHead x.pc, waiting := false }

/-- Retiring a scalar float result replaces the current context. -/
theorem State.retireFlags_eq (s : State) (d : BitVec 5) (r : Nat × Flags) :
    s.retireFlags d r = .next (s.setCtx s.cur (s.me.withFloat d r)) := by
  have hline : ((s.me.raiseFlags r.2).setReg d.toNat (Reg.plain (w64 r.1))).line = s.me.line := by
    rw [Ctx.setReg_rest]; rfl
  have hpc : ((s.me.raiseFlags r.2).setReg d.toNat (Reg.plain (w64 r.1))).pc = s.me.pc := by
    rw [Ctx.setReg_rest]; rfl
  simp only [State.retireFlags, State.mergeFlags_eq, State.setX, State.setG_eq, State.advance_eq, State.setCtx_cur,
    State.me_setCtx_cur, State.setCtx_setCtx, Ctx.withFloat, Ctx.nextHead, hline, hpc]

/-- R22. Raising flags clears none. -/
theorem flags_kept (f g : Flags) : (f ||| g) &&& f = f := by
  ext i hi
  simp only [BitVec.getElem_and, BitVec.getElem_or]
  cases f[i] <;> simp

/-- A scalar float result changes its register and FLAGS alone, and clears no flag. -/
theorem Ctx.onlyRegisterAndFlags_withFloat (x : Ctx) (d : BitVec 5) (r : Nat × Flags) :
    OnlyRegisterAndFlags d x (x.withFloat d r) := by
  have hflags : (x.withFloat d r).flags = x.flags ||| r.2 := by
    rw [Ctx.withFloat, Ctx.setReg_rest]; rfl
  refine ⟨?_, ?_, fun n hn => ?_⟩
  · rw [Ctx.withFloat, Ctx.setReg_rest]; rfl
  · rw [hflags, flags_kept]
  · exact Ctx.reg_setReg_ne _ _ hn

/-- The frame of every instruction that retires a scalar float result. -/
theorem State.retireFlags_frame {s t : State} {d : BitVec 5} {r : Nat × Flags} (h : s.retireFlags d r = .next t) :
    OnlyRegisterAndFlags d s.me t.me ∧ SameElsewhere s t ∧ SameBytes s t := by
  rw [State.retireFlags_eq] at h
  cases h
  refine ⟨?_, s.sameElsewhere_setCtx _, s.sameBytes_setCtx _ _⟩
  rw [State.me_setCtx_cur]
  exact Ctx.onlyRegisterAndFlags_withFloat _ _ _

/-- R118 to R121. The scalar float instructions with a destination under the flags' rule. -/
def floatForms (w : BitVec 1) (d a b c : BitVec 5) (src dst : BitVec 4) (rnd : BitVec 3) : List Instr :=
  [ .sfadd w d a b, .sfsub w d a b, .sfmul w d a b, .sfdiv w d a b, .sfsqrt w d a, .sffma d a b c w, .sfmin w d a b
  , .sfmax w d a b, .sfeq w d a b, .sflt w d a b, .sfle w d a b, .sfcvt d a src dst rnd ]

/-- Each of them retires a result and its flags. -/
theorem exec_floatForms (s : State) (w : BitVec 1) (d a b c : BitVec 5) (src dst : BitVec 4) (rnd : BitVec 3) :
    ∀ p ∈ floatForms w d a b c src dst rnd, ∃ r, exec p s = s.retireFlags d r := by
  simp only [floatForms, List.forall_mem_cons]
  exact ⟨⟨_, rfl⟩, ⟨_, rfl⟩, ⟨_, rfl⟩, ⟨_, rfl⟩, ⟨_, rfl⟩, ⟨_, rfl⟩, ⟨_, rfl⟩, ⟨_, rfl⟩, ⟨_, rfl⟩, ⟨_, rfl⟩, ⟨_, rfl⟩, ⟨_, rfl⟩,
    List.forall_mem_nil _⟩

end Sys2Proof.Machine

/-! ## The operations over a memory (R14, R134, R184) -/

namespace Sys2Proof.Machine

/-- R184. A write leaves the poison marks. -/
@[simp] theorem Memory.poison_write (m : Memory) (a n v : Nat) : (m.write a n v).poison = m.poison := by
  induction n generalizing m a v with
  | zero => rfl
  | succ n ih =>
    rw [Memory.write, ih]
    simp only [Memory.setTag, Memory.setByte]
    split <;> rfl

@[simp] theorem Memory.tags_setByte (m : Memory) (a : Nat) (b : Byte) : (m.setByte a b).tags = m.tags := by
  unfold Memory.setByte
  split <;> rfl

/-- A byte's write and the clearing of its granule's tag. -/
theorem Memory.tag_setTag_setByte (m : Memory) (a x : Nat) (b : Byte) :
    ((m.setByte a b).setTag a false).tag x = true ↔ m.tag x = true ∧ a / 16 ≠ x / 16 := by
  simp only [Memory.tag, Memory.setTag, Memory.tags_setByte, NSet.has_put, granule]
  by_cases h : x / 16 = a / 16
  · simp [h]
  · simp [h, Ne.symm h]

/-- R134. A tag stands after a write where it stood and the write touches no byte of its granule. -/
theorem Memory.tag_write (m : Memory) (a n v x : Nat) :
    (m.write a n v).tag x = true ↔ m.tag x = true ∧ ¬∃ y, a ≤ y ∧ y < a + n ∧ y / 16 = x / 16 := by
  induction n generalizing m a v with
  | zero =>
    have hnone : ¬∃ y, a ≤ y ∧ y < a + 0 ∧ y / 16 = x / 16 := by rintro ⟨y, h1, h2, -⟩; omega
    rw [Memory.write]
    exact (and_iff_left hnone).symm
  | succ n ih =>
    have hspan : (∃ y, a ≤ y ∧ y < a + (n + 1) ∧ y / 16 = x / 16) ↔
        a / 16 = x / 16 ∨ ∃ y, a + 1 ≤ y ∧ y < a + 1 + n ∧ y / 16 = x / 16 := by
      constructor
      · rintro ⟨y, h1, h2, hy⟩
        rcases Nat.eq_or_lt_of_le h1 with rfl | h
        · exact .inl hy
        · exact .inr ⟨y, h, by omega, hy⟩
      · rintro (h | ⟨y, h1, h2, hy⟩)
        · exact ⟨a, Nat.le_refl a, by omega, h⟩
        · exact ⟨y, by omega, by omega, hy⟩
    rw [Memory.write, ih, Memory.tag_setTag_setByte, hspan, not_or, and_assoc]

end Sys2Proof.Machine

/-! ## Control registers (R18, R24, R94, R108, R153, R188, R206, R207, R244, R293, R382, R385) -/

namespace Sys2Proof.Machine

/-! ### Naming a register -/

section
variable {s : State} {n : Nat}

/-- R94. The numbers that a mode may name: all in privileged mode, those of the user registers in user mode. -/
theorem State.mayName (hp : n < 0x800 ∨ s.me.priv = true) : (regPrivileged n && !s.me.priv) = false := by
  rcases hp with h | h
  · simp [regPrivileged, Nat.not_le.mpr h]
  · simp [h]

/-- R108. An assigned number that the mode may name is its register's. -/
theorem State.named_assigned {r : Creg} (hr : cregOf n = some r) (hp : n < 0x800 ∨ s.me.priv = true) : s.named n = .ok r := by
  simp [State.named, State.mayName hp, hr]

/-- R94. A privileged number in user mode is PRIV at decode. -/
theorem State.named_user (hn : 0x800 ≤ n) (hp : s.me.priv = false) : s.named n = .error (s.decodeFault Cause.priv s.position) := by
  simp [State.named, regPrivileged, hn, hp]

/-- R108. An unassigned number is ILLEGAL_OPERAND with the number. -/
theorem State.named_unassigned (hr : cregOf n = none) (hp : n < 0x800 ∨ s.me.priv = true) :
    s.named n = .error (s.trapHere Cause.illegalOperand (w64 n) s.openProg) := by
  simp [State.named, State.mayName hp, hr]

end

/-! ### Reads and writes of one register -/

theorem State.waitFor_true (s t : State) : s.waitFor true t = t := rfl
theorem State.waitFor_false (s t : State) : s.waitFor false t = s.hold := rfl

section
variable {s : State} {r : Creg} {v : Word}

/-- The context may name the register: the control context, or a helper where the register is its own too. -/
theorem State.needOperand_named {b : Bool} (h : s.helper = false ∨ b = true) (w : Word) :
    s.needOperand (!s.helper || b) w = .ok () :=
  State.need_true _ _ _ (by rcases h with h | h <;> simp [h])

/-- R108. A read that need not wait writes its register and completes. -/
theorem State.movfcReg_ready (d : BitVec 5) (hh : s.helper = false ∨ r.helperReads = true) (hr : s.readReady r = true) :
    s.movfcReg d r = .ok (s.setX d (s.readReg r)).advance := by
  simp [State.movfcReg, State.needOperand_named hh, hr, State.waitFor_true, bind, Except.bind]

/-- R108. A write of an accepted value to a register but XLINV waits, or changes the register and completes. -/
theorem State.movtcReg_accepted (hh : s.helper = false ∨ r.helperWrites = true) (hl : s.writeLegal r v = true) (hx : r ≠ .xlinv) :
    s.movtcReg r v = .ok (s.waitFor (s.writeReady r) (s.advance.writeReg r v)) := by
  have hlegal : s.needOperand (s.writeLegal r v) v = .ok () := State.need_true _ _ _ hl
  simp [State.movtcReg, State.needOperand_named hh, hlegal, hx, bind, Except.bind]

theorem State.movtcReg_ready (hh : s.helper = false ∨ r.helperWrites = true) (hl : s.writeLegal r v = true) (hx : r ≠ .xlinv)
    (hr : s.writeReady r = true) : s.movtcReg r v = .ok (s.advance.writeReg r v) := by
  rw [State.movtcReg_accepted hh hl hx, hr, State.waitFor_true]

/-- R108. A refused value is ILLEGAL_OPERAND with the value. -/
theorem State.movtcReg_refused (hh : s.helper = false ∨ r.helperWrites = true) (hl : s.writeLegal r v = false) :
    s.movtcReg r v = .error ⟨Cause.illegalOperand, s.me.pc, v, s.openProg⟩ := by
  have hlegal : s.needOperand (s.writeLegal r v) v = _ := State.need_false _ _ _ hl
  simp [State.movtcReg, State.needOperand_named hh, hlegal, bind, Except.bind]

/-- R293. A write to XLINV whose context has no store to perform and whose entries no access uses removes them and completes. -/
theorem State.movtcReg_xlinv (hl : xlinvLegal v = true) (hw : s.me.writesPending = false) (hu : s.entriesUnused v = true) :
    s.movtcReg .xlinv v = .ok (s.invalidate v).advance := by
  have hlegal : s.needOperand (s.writeLegal .xlinv v) v = .ok () := State.need_true _ _ _ hl
  have hunused : (s.invalidate v).entriesUnused v = true := hu
  simp [State.movtcReg, State.needOperand_named (s := s) (b := Creg.helperWrites .xlinv) (.inr rfl), hlegal, State.writeXlinv, hw,
    hunused, State.waitFor_true, bind, Except.bind]

end

/-! ### MOVFC and MOVTC -/

theorem exec_movfc_eq (s : State) (d : BitVec 5) (n : BitVec 12) :
    exec (.movfc d n) s = s.finish (s.named n.toNat >>= fun r => s.movfcReg d r) := rfl
theorem exec_movtc_eq (s : State) (a : BitVec 5) (n : BitVec 12) :
    exec (.movtc a n) s = s.finish (s.named n.toNat >>= fun r => s.movtcReg r (s.x a)) := rfl

section
variable {s : State} {n : BitVec 12} {r : Creg} (hr : cregOf n.toNat = some r) (hp : n.toNat < 0x800 ∨ s.me.priv = true)

include hr hp

/-- R108. MOVFC of an assigned register reads it. -/
theorem exec_movfc_assigned (d : BitVec 5) : exec (.movfc d n) s = s.finish (s.movfcReg d r) := by
  rw [exec_movfc_eq, State.named_assigned hr hp]; rfl

/-- R108. MOVTC of an assigned register writes it. -/
theorem exec_movtc_assigned (a : BitVec 5) : exec (.movtc a n) s = s.finish (s.movtcReg r (s.x a)) := by
  rw [exec_movtc_eq, State.named_assigned hr hp]; rfl

theorem exec_movfc_ready (d : BitVec 5) (hh : s.helper = false ∨ r.helperReads = true) (hready : s.readReady r = true) :
    exec (.movfc d n) s = .next (s.setX d (s.readReg r)).advance := by
  rw [exec_movfc_assigned hr hp, State.movfcReg_ready d hh hready, State.finish_ok]

theorem exec_movtc_ready {a : BitVec 5} (hh : s.helper = false ∨ r.helperWrites = true) (hl : s.writeLegal r (s.x a) = true)
    (hx : r ≠ .xlinv) (hready : s.writeReady r = true) : exec (.movtc a n) s = .next (s.advance.writeReg r (s.x a)) := by
  rw [exec_movtc_assigned hr hp, State.movtcReg_ready hh hl hx hready, State.finish_ok]

theorem exec_movtc_refused {a : BitVec 5} (hh : s.helper = false ∨ r.helperWrites = true) (hl : s.writeLegal r (s.x a) = false) :
    exec (.movtc a n) s = .next (s.takeTrap s.cur ⟨Cause.illegalOperand, s.me.pc, s.x a, s.openProg⟩) := by
  rw [exec_movtc_assigned hr hp, State.movtcReg_refused hh hl, State.finish_error]

end

/-- MOVFC and MOVTC trap alike where the number names no register. -/
theorem exec_mov_unnamed {s : State} {n : BitVec 12} {t : Trap} (h : s.named n.toNat = .error t) (d a : BitVec 5) :
    ∀ i ∈ [Instr.movfc d n, .movtc a n], exec i s = .next (s.takeTrap s.cur t) := by
  simp only [List.forall_mem_cons]
  refine ⟨?_, ?_, List.forall_mem_nil _⟩
  · rw [exec_movfc_eq, h]; rfl
  · rw [exec_movtc_eq, h]; rfl

/-! ### The rows that write one privileged register -/

/-- The rows of the table that write a privileged register but XLINV, each with its register and the value that it writes. -/
noncomputable def privilegedWrites (v : BitVec 64) : List (Instr × Creg × Word) :=
  [ (.vsqctlDiscard, .vsqctl, 1), (.mxctlDiscard, .mxctl, 1), (.cpctlDiscard, .cpctl, 1), (.domainWrite v, .domain, v)
  , (.dtermClear v, .dterm, v), (.vdctlRst v, .vdctl, v ||| 2), (.vdirq v, .vdirq, v) ]

/-- Each writes as MOVTC does, to a register that a helper may write. -/
theorem exec_privilegedWrites (s : State) (v : BitVec 64) : ∀ p ∈ privilegedWrites v,
    exec p.1 s = s.privileged (s.movtcReg p.2.1 p.2.2) ∧ p.2.1.helperWrites = true ∧ p.2.1 ≠ .xlinv := by
  simp only [privilegedWrites, List.forall_mem_cons]
  exact ⟨⟨rfl, rfl, nofun⟩, ⟨rfl, rfl, nofun⟩, ⟨rfl, rfl, nofun⟩, ⟨rfl, rfl, nofun⟩, ⟨rfl, rfl, nofun⟩, ⟨rfl, rfl, nofun⟩,
    ⟨rfl, rfl, nofun⟩, List.forall_mem_nil _⟩

/-- R108. The rows that write a privileged register: the write, or a trap. -/
theorem exec_privilegedWrites_cases (s : State) (v : BitVec 64) : ∀ p ∈ privilegedWrites v,
    (s.me.priv = true → s.writeLegal p.2.1 p.2.2 = true → s.writeReady p.2.1 = true →
      exec p.1 s = .next (s.advance.writeReg p.2.1 p.2.2)) ∧
    (s.me.priv = true → s.writeLegal p.2.1 p.2.2 = false →
      ∃ prog, exec p.1 s = .next (s.takeTrap s.cur ⟨0x03, s.me.pc, p.2.2, prog⟩)) ∧
    (s.me.priv = false → ∃ prog, exec p.1 s = .next (s.takeTrap s.cur ⟨0x05, s.me.ghead, s.me.ir, prog⟩)) := by
  intro p hp
  obtain ⟨hexec, hwrites, hx⟩ := exec_privilegedWrites s v p hp
  rw [hexec]
  refine ⟨fun hpriv hl hready => ?_, fun hpriv hl => ⟨s.openProg, ?_⟩, fun huser => ⟨s.position, State.privileged_user _ huser⟩⟩
  · rw [State.privileged_priv _ hpriv, State.movtcReg_ready (.inr hwrites) hl hx hready, State.finish_ok]
  · rw [State.privileged_priv _ hpriv, State.movtcReg_refused (.inr hwrites) hl, State.finish_error]; rfl

/-- R293. The rows of XLINV, with the value that each writes. -/
noncomputable def xlinvWrites (v : BitVec 64) : List (Instr × Word) :=
  [(.xlinvPage v, xlinvKind v 0), (.xlinvDomain v, xlinvKind v 1), (.xlinvAll v, xlinvKind v 2)]

/-- Each writes XLINV as MOVTC does. -/
theorem exec_xlinvWrites (s : State) (v : BitVec 64) : ∀ p ∈ xlinvWrites v, exec p.1 s = s.privileged (s.movtcReg .xlinv p.2) := by
  simp only [xlinvWrites, List.forall_mem_cons]
  exact ⟨rfl, rfl, rfl, List.forall_mem_nil _⟩

/-- R293. Each removes the entries and completes where no store of the context and no access of an entry remains. -/
theorem exec_xlinvWrites_done (s : State) (v : BitVec 64) : ∀ p ∈ xlinvWrites v, s.me.priv = true → xlinvLegal p.2 = true →
    s.me.writesPending = false → s.entriesUnused p.2 = true → exec p.1 s = .next (s.invalidate p.2).advance := by
  intro p hp hpriv hl hw hu
  rw [exec_xlinvWrites s v p hp, State.privileged_priv _ hpriv, State.movtcReg_xlinv hl hw hu, State.finish_ok]

/-! ### The discards -/

/-- A fold whose steps leave the current context leaves it. -/
theorem State.cur_foldl {α : Type} {f : State → α → State} (hf : ∀ t x, (f t x).cur = t.cur) (l : List α) (s : State) :
    (l.foldl f s).cur = s.cur := by
  induction l generalizing s with
  | nil => rfl
  | cons x l ih => rw [List.foldl_cons, ih, hf]

theorem State.cur_physWrite (s : State) (a n v : Nat) : (s.physWrite a n v).cur = s.cur := by
  unfold State.physWrite
  split <;> rfl

theorem State.cur_clearLate (s : State) (k : Nat) : (s.clearLate k).cur = s.cur := by
  unfold State.clearLate
  split
  · rfl
  · exact s.cur_physWrite _ _ _

theorem State.cur_discardXfer (s : State) (x : Xfer) : (s.discardXfer x).cur = s.cur :=
  (State.cur_clearLate _ _).trans (s.cur_physWrite _ _ _)

theorem State.cur_discardXfers (s : State) (core : Nat) (m : SMap Ctx) : (s.discardXfers core m).cur = s.cur :=
  State.cur_foldl State.cur_discardXfer _ s

theorem State.cur_discardCopies (s : State) (core : Nat) : (s.discardCopies core).cur = s.cur :=
  State.cur_foldl (f := fun t (k : Copy) => t.retireCopy core k.seq) (fun _ _ => rfl) _ s

/-- R244. CPCTL.DISCARD leaves the current context what it was. -/
theorem State.cur_discardCopyEngine (s : State) (core : Nat) : (s.discardCopyEngine core).cur = s.cur :=
  (State.cur_discardCopies _ _).trans (s.cur_discardXfers _ _)

/-- R244. After CPCTL.DISCARD the copy engine is not suspended. -/
theorem State.cpSusp_discardCopyEngine (s : State) (core : Nat) : ((s.discardCopyEngine core).core core).cpSusp = false := by
  rw [State.discardCopyEngine, State.discardCopies, State.modCore_eq, State.core_setCore_self]

/-- A core changed, and then one of its contexts: the change of the core but for its contexts. -/
theorem State.core_modCtx_modCore (s : State) (k slot : Nat) (f : Core → Core) (g : Ctx → Ctx) :
    ∃ m, ((s.modCore k f).modCtx ⟨k, slot⟩ g).core k = { f (s.core k) with ctxs := m } := by
  rw [State.modCtx_eq, State.core_setCtx_self, State.modCore_eq, State.core_setCore_self]
  exact ⟨_, rfl⟩

/-- R153. VSQCTL.DISCARD empties the sequencer, which is no longer suspended. -/
theorem State.discardSeq_core (s : State) (k : Nat) :
    ((s.discardSeq k).core k).seq = [] ∧ ((s.discardSeq k).core k).vsqSusp = false := by
  obtain ⟨m, hm⟩ := s.core_modCtx_modCore k control _ _
  rw [State.discardSeq, hm]
  exact ⟨rfl, rfl⟩

/-- R188. MXCTL.DISCARD of a suspended engine empties its queue, and it is no longer suspended. -/
theorem State.discardMx_core {s : State} {k : Nat} (h : (s.core k).mxSusp = true) :
    ((s.discardMx k).core k).mxq = [] ∧ ((s.discardMx k).core k).mxSusp = false := by
  obtain ⟨m, hm⟩ := s.core_modCtx_modCore k control _ _
  rw [State.discardMx, h, Bool.not_true, if_neg Bool.false_ne_true, hm]
  exact ⟨rfl, rfl⟩

theorem State.cur_discardMx (s : State) (k : Nat) : (s.discardMx k).cur = s.cur := by
  unfold State.discardMx
  split <;> rfl

/-- R153, R188, R244. What the three DISCARD bits do to the writer's core. -/
theorem State.writeReg_discards (s : State) :
    (s.writeReg .vsqctl 1).myCore.seq = [] ∧ (s.writeReg .vsqctl 1).myCore.vsqSusp = false ∧
      (s.myCore.mxSusp = true → (s.writeReg .mxctl 1).myCore.mxq = [] ∧ (s.writeReg .mxctl 1).myCore.mxSusp = false) ∧
      (s.writeReg .cpctl 1).myCore.cpSusp = false := by
  have hseq : (s.writeReg .vsqctl 1).myCore = (s.discardSeq s.cur.core).core s.cur.core := rfl
  have hmx : (s.writeReg .mxctl 1).myCore = (s.discardMx s.cur.core).core s.cur.core :=
    congrArg (fun c : CtxId => (s.discardMx s.cur.core).core c.core) (s.cur_discardMx _)
  have hcp : (s.writeReg .cpctl 1).myCore = (s.discardCopyEngine s.cur.core).core s.cur.core :=
    congrArg (fun c : CtxId => (s.discardCopyEngine s.cur.core).core c.core) (s.cur_discardCopyEngine _)
  rw [hseq, hmx, hcp]
  exact ⟨(s.discardSeq_core _).1, (s.discardSeq_core _).2, fun h => State.discardMx_core h, s.cpSusp_discardCopyEngine _⟩

/-! ### Reading back -/

/-- A narrower register keeps the lowest bits of what is written. -/
theorem setWidth_setWidth_eq_and (v : Word) (k : Nat) : (v.setWidth k).setWidth 64 = v &&& (BitVec.allOnes k).setWidth 64 := by
  ext i hi
  simp only [BitVec.getElem_setWidth, BitVec.getLsbD_setWidth, BitVec.getElem_and, BitVec.getLsbD_allOnes]
  by_cases h : i < k <;> simp [h, BitVec.getLsbD_eq_getElem hi]

/-- The registers that hold every bit written, and those that hold some, with the bits that they hold. -/
def wholeRegs : List Creg := [.trappc, .trapval, .trapprog, .tvec, .estatus, .fntol, .prvec]
def maskedRegs : List (Creg × Word) :=
  [ (.flags, 0x1F), (.rnd, 3), (.trapcause, 0xFF), (.xlbase, 0xFFFFFFFF0001), (.savebase, 0xFFFFFFFFFFFFF000)
  , (.livebase, 0xFFFFFFFFFFFFFFF8), (.otbase, 0x7FFFFFFFFFFFC0), (.jobbase, 0x7FFFFFFFFFFFC0), (.frbase, 0x7FFFFFFFFC0000)
  , (.lnctl, 0x8F), (.lnbase, 0xFFFFFFFF8000), (.grpbase, 0xFFFFFFFFFFC0), (.hrbase, 0xFFFFFFFFFE00) ]
/-- The registers that ignore a write. -/
def readOnlyRegs : List Creg :=
  [ .cycle, .stepcyc, .budget, .deadline, .cnts, .parkstat, .fnstat, .scopegen, .cpseq, .mxseq, .ageing, .vsqpc, .vsqrem
  , .cpprog, .clstat, .memsize, .dfence, .lnstat, .portstat ]

theorem State.myCore_modMyCore (s : State) (f : Core → Core) : (s.modMyCore f).myCore = f s.myCore := by
  rw [State.modMyCore_eq]
  exact State.core_setCore_self _ _ _

theorem State.readReg_writeReg_whole (s : State) (v : Word) : ∀ r ∈ wholeRegs, (s.writeReg r v).readReg r = v := by
  simp [wholeRegs, State.writeReg, State.readReg, State.myCore_modMyCore]

theorem State.readReg_writeReg_masked (s : State) (v : Word) :
    ∀ p ∈ maskedRegs, (s.writeReg p.1 v).readReg p.1 = v &&& p.2 := by
  simp [maskedRegs, State.writeReg, State.readReg, State.myCore_modMyCore, setWidth_setWidth_eq_and, masked,
    BitVec.and_assoc]

theorem State.writeReg_readOnly (s : State) (v : Word) : ∀ r ∈ readOnlyRegs, s.writeReg r v = s := by
  simp [readOnlyRegs, State.writeReg]

/-! ### The rows of user registers (R18, R24, R206, R207) -/

/-- R18. A write of RND waits while the sequencer holds entries of the control context, suspended or not (log 99). -/
theorem State.writeReady_rnd (s : State) : s.writeReady .rnd = true ↔ s.helper = true ∨ s.myCore.seq = [] := by
  simp [State.writeReady]

section
variable {s : State} {v : BitVec 64}

theorem exec_rndWrite_done (h : s.helper = true ∨ s.myCore.seq = []) : exec (.rndWrite v) s = .next (s.advance.writeReg .rnd v) :=
  congrArg s.finish (State.movtcReg_ready (r := .rnd) (.inr rfl) rfl nofun (s.writeReady_rnd.mpr h))

theorem exec_rndWrite_waits (hh : s.helper = false) (hs : s.myCore.seq ≠ []) : exec (.rndWrite v) s = .next s.hold := by
  have hwait : s.writeReady .rnd = false := by simpa [hh, hs] using s.writeReady_rnd
  change s.finish (s.movtcReg .rnd v) = _
  rw [State.movtcReg_accepted (r := .rnd) (.inr rfl) rfl nofun, hwait, State.waitFor_false, State.finish_ok]

theorem exec_flagsWrite_ready (h : s.flagsReady = true) : exec (.flagsWrite v) s = .next (s.advance.writeReg .flags v) :=
  congrArg s.finish (State.movtcReg_ready (r := .flags) (.inr rfl) rfl nofun h)

theorem exec_flagsRead_ready (d : BitVec 5) (h : s.flagsReady = true) :
    exec (.flagsRead d) s = .next (s.setX d (s.me.flags.setWidth 64)).advance :=
  congrArg s.finish (State.movfcReg_ready (r := .flags) d (.inr rfl) h)

theorem exec_fntolWrite_legal (hh : s.helper = false) (hl : tolLegal v = true) :
    exec (.fntolWrite v) s = .next (s.advance.writeReg .fntol v) :=
  congrArg s.finish (State.movtcReg_ready (r := .fntol) (.inl hh) hl nofun rfl)

theorem exec_fnstatRead_done (d : BitVec 5) (hh : s.helper = false) (hd : s.myCore.functionsDone = true) :
    exec (.fnstatRead d) s = .next (s.setX d s.myCore.fnstat).advance :=
  congrArg s.finish (State.movfcReg_ready (r := .fnstat) d (.inl hh) hd)

end

end Sys2Proof.Machine

/-! ## The sequencer's steps (R24, R151, R152, R156, R157) -/

namespace Sys2Proof.Machine

/-- A suspended sequencer executes nothing. -/
theorem exec_sequencerExecute_suspended {s : State} {core : Nat} (h : (s.core core).vsqSusp = true) :
    exec (.sequencerExecute core) s = .next s := by
  change execSequencerExecute core s = _
  simp [execSequencerExecute, h]

/-- A suspended sequencer begins no pass. -/
theorem exec_vloopReplay_suspended {s : State} {core : Nat} (h : (s.core core).vsqSusp = true) :
    exec (.vloopReplay core) s = .next s := by
  change execVloopReplay core s = _
  simp [execVloopReplay, h]

section
variable {s : State} {core : Nat} {e : SeqEntry} (hrun : (s.core core).vsqSusp = false)
  (hhead : (s.core core).seqHead = some e) (hmay : s.mayExecute core e = true)
include hrun hhead hmay

/-- R24, R151. A head entry that may execute and does leaves the sequencer, its flags merged. -/
theorem exec_sequencerExecute_ok {u : State} {fl : Flags} (he : s.executeEntry core e = .ok (u, fl)) :
    exec (.sequencerExecute core) s = .next ((u.modCore core (fun k =>
      { k with seq := seqAfter k.seq, vsqEnded := NSet.put k.vsqEnded e.id (endedBy (s.core core) k e) })).modCtx ⟨core, control⟩
        (fun x => x.raiseFlags fl)) := by
  change execSequencerExecute core s = _
  simp [execSequencerExecute, hrun, hhead, hmay, he]

/-- R152. A head entry that may execute and fails suspends the sequencer. -/
theorem exec_sequencerExecute_error {f : VFail} (he : s.executeEntry core e = .error f) :
    exec (.sequencerExecute core) s = .next ((s.entryRead core e).failVector core e f) := by
  change execSequencerExecute core s = _
  simp [execSequencerExecute, hrun, hhead, hmay, he]
end

/-- R157. Between two passes of a replay, the next begins or the replay ends. -/
theorem exec_vloopReplay_between {s : State} {core rem : Nat} {body : List SeqEntry} {pos : Nat} {toEnd : Bool} {rest : List SeqItem}
    (hrun : (s.core core).vsqSusp = false) (hseq : (s.core core).seq = .replay body pos rem toEnd false :: rest) :
    exec (.vloopReplay core) s = .next (s.modCore core (fun k => { k with
      seq := if rem = 0 ∨ (toEnd = true ∧ (s.core core).loopEnded body = true) then rest
        else .replay body pos (rem - 1) toEnd true :: rest })) := by
  change execVloopReplay core s = _
  simp only [execVloopReplay, hrun, Core.replayNext, hseq, State.modCore_eq, Bool.false_eq_true, if_false]
  split <;> rfl

end Sys2Proof.Machine

/-! ## The engine's steps (R24, R25, R187 to R191, R213) -/

namespace Sys2Proof.Machine

/-- R190. The oldest operation that waits starts once it may. -/
theorem exec_matrixOpStart_may {s : State} {core : Nat} (h : s.mayStartMx core = true) :
    exec (.matrixOpStart core) s = .next (s.modCore core (fun c => { c with mxq := startFirst c.mxq })) := by
  change execMatrixOpStart core s = _
  simp [execMatrixOpStart, h]

section
variable {s : State} {core : Nat} {op : MxOp} {rest : List MxOp} (hq : (s.core core).mxq = op :: rest) (hst : op.started = true)
include hq hst

/-- R25, R190. A matrix operation at the head completes: its flags join the pending set. -/
theorem exec_matrixOpComplete_ok {u : State} {f : Flags} (hm : op.isMatrix = true) (hr : s.runMatrix core op = .ok (u, f)) :
    exec (.matrixOpComplete core) s = .next (((u.retireMx core).pendFlags ⟨core, control⟩ f).modCluster (clusterOf core)
      (fun k => { k with lastMatrix := s.cycle.toNat })) := by
  change execMatrixOpComplete core s = _
  simp [execMatrixOpComplete, hq, hst, hm, hr]

/-- R187. A matrix operation at the head that fails suspends the engine. -/
theorem exec_matrixOpComplete_error {e : Fail} (hm : op.isMatrix = true) (hr : s.runMatrix core op = .error e) :
    exec (.matrixOpComplete core) s = .next (s.failMx core op e false) := by
  change execMatrixOpComplete core s = _
  simp [execMatrixOpComplete, hq, hst, hm, hr]

/-- R24, R213. A function operation at the head completes: its flags are merged. -/
theorem exec_functionOpComplete_ok {u : State} {f : Flags} (hm : op.isMatrix = false) (hr : s.runFunction core op = .ok (u, f)) :
    exec (.functionOpComplete core) s = .next ((u.retireMx core).modCtx ⟨core, control⟩ (fun x => x.raiseFlags f)) := by
  change execFunctionOpComplete core s = _
  simp [execFunctionOpComplete, hq, hst, hm, hr]

/-- R213. A function operation at the head that fails suspends the engine. -/
theorem exec_functionOpComplete_error {e : FnFail} (hm : op.isMatrix = false) (hr : s.runFunction core op = .error e) :
    exec (.functionOpComplete core) s = .next (s.failMx core op ⟨e.cause, e.val⟩ e.buffer) := by
  change execFunctionOpComplete core s = _
  simp [execFunctionOpComplete, hq, hst, hm, hr]
end

/-- R191. The arrays of a cluster wake once their time has come. -/
theorem exec_arrayWake_due {s : State} {cl t : Nat} (hw : (s.cluster cl).wakeAt = some t) (ht : t + 16 * cl ≤ s.cycle.toNat) :
    exec (.arrayWake cl) s = .next (s.modCluster cl (fun c => { c with
      awake := true, wakeAt := none, lastMatrix := s.cycle.toNat })) := by
  change execArrayWake cl s = _
  simp [execArrayWake, hw, ht]

/-- R191. The arrays of a cluster that has been idle sleep; operations that wait ask for them again (log 79). -/
theorem exec_arraySleep_idle {s : State} {cl : Nat} (ha : (s.cluster cl).awake = true) (hb : s.clusterBusy cl = false)
    (hl : (s.cluster cl).lastMatrix + 65536 ≤ s.cycle.toNat) :
    exec (.arraySleep cl) s = .next ((List.range 8).foldl (fun t i => t.wakeForQueue (8 * cl + i))
      (s.modCluster cl (fun c => { c with awake := false }))) := by
  change execArraySleep cl s = _
  simp [execArraySleep, ha, hb, hl]

end Sys2Proof.Machine

/-! ## What is settled of the number formats' family -/

namespace Sys2Proof.Proofs

open Sys2Proof.Machine

/-- Settles O15: each of the twelve retires a result with its flags, and that changes its own context alone. -/
theorem floatFrame : Obligations.FloatFrame := by
  intro s t w d a b c src dst rnd p hp h
  obtain ⟨r, hr⟩ := exec_floatForms s w d a b c src dst rnd p hp
  rw [hr] at h
  exact State.retireFlags_frame h

/-- Settles O39: the laws of bytes, tags, marks and the canonical form, one by one. -/
theorem memoryOperations : Obligations.MemoryOperations := fun m a n v x b f =>
  ⟨m.byte_write a n v x, m.read_write a n v, m.tag_write a n v x, m.poison_write a n v, fun h =>
    ⟨Memory.wf_write a n v h, Memory.wf_setByte a b h, Memory.wf_setTag a f h, Memory.wf_setPoison a f h,
      Memory.wf_clearCovered _ h, Memory.wf_scrub a n h⟩⟩

/-- Settles O51: MOVFC and MOVTC, the rows that write a privileged register, those of user registers and of XLINV, and reading back. -/
theorem controlRegisters : Obligations.ControlRegisters :=
  ⟨fun s d a _ =>
      ⟨fun _ hr hp => ⟨exec_movfc_ready hr hp d, exec_movtc_ready hr hp, fun hh hl => ⟨s.openProg, exec_movtc_refused hr hp hh hl⟩⟩,
        fun hn hp i hi => ⟨s.position, exec_mov_unnamed (State.named_user hn hp) d a i hi⟩,
        fun hr hp i hi => ⟨s.openProg, exec_mov_unnamed (State.named_unassigned hr hp) d a i hi⟩⟩,
    fun s v => ⟨exec_privilegedWrites_cases s v, s.writeReg_discards⟩,
    fun s d v => ⟨exec_rndWrite_done, exec_rndWrite_waits, exec_flagsWrite_ready, exec_flagsRead_ready d, exec_fntolWrite_legal,
      exec_fnstatRead_done d, exec_xlinvWrites_done s v⟩,
    fun s v => ⟨s.readReg_writeReg_whole v, s.readReg_writeReg_masked v, s.writeReg_readOnly v⟩⟩

/-- Settles O41: a suspended sequencer does nothing, a running one executes its head entry or fails there, and a replay goes on or ends. -/
theorem sequencerSteps : Obligations.SequencerSteps := fun _ _ =>
  ⟨fun h => ⟨exec_sequencerExecute_suspended h, exec_vloopReplay_suspended h⟩,
    fun hrun _ hhead hmay => ⟨fun _ _ he => exec_sequencerExecute_ok hrun hhead hmay he,
      fun _ he => exec_sequencerExecute_error hrun hhead hmay he⟩,
    fun hrun _ _ _ _ _ hseq => exec_vloopReplay_between hrun hseq⟩

/-- Settles O45: start, completion, failure, waking and sleeping, each by its rule. -/
theorem engineSteps : Obligations.EngineSteps := fun _ _ _ =>
  ⟨exec_matrixOpStart_may,
    fun _ _ hq hst =>
      ⟨fun hm => ⟨fun _ _ hr => exec_matrixOpComplete_ok hq hst hm hr, fun _ hr => exec_matrixOpComplete_error hq hst hm hr⟩,
        fun hm => ⟨fun _ _ hr => exec_functionOpComplete_ok hq hst hm hr, fun _ hr => exec_functionOpComplete_error hq hst hm hr⟩⟩,
    fun _ hw ht => exec_arrayWake_due hw ht,
    exec_arraySleep_idle⟩

end Sys2Proof.Proofs

/-! ## Writes of the general registers (R89) -/

namespace Sys2Proof.Machine

/-- A change of the current context to what it is changes no context. -/
theorem State.ctx_setCtx_same (s : State) (c e : CtxId) : (s.setCtx c (s.ctx c)).ctx e = s.ctx e := by
  by_cases h : e = c
  · rw [h, State.ctx_setCtx_self]
  · exact State.ctx_setCtx_ne s _ h

@[simp] theorem State.g_zero (s : State) : s.g 0 = Reg.zero := rfl

/-- R89. A write to g0 is discarded. -/
theorem State.ctx_setG_zero (s : State) (r : Reg) (c : CtxId) : (s.setG 0 r).ctx c = s.ctx c := s.ctx_setCtx_same s.cur c

/-- R89. Another register reads as what was written. -/
theorem State.g_setG_self (s : State) {d : BitVec 5} (r : Reg) (h : d ≠ 0) : (s.setG d r).g d = r := by
  have hd : d.toNat ≠ 0 := fun e => h (BitVec.eq_of_toNat_eq e)
  simp only [State.g, State.setG, State.me_modMe, Ctx.reg_setReg_self _ r hd]

/-- R89. A write to one register leaves the others. -/
theorem State.g_setG_ne (s : State) {d n : BitVec 5} (r : Reg) (h : n ≠ d) : (s.setG d r).g n = s.g n := by
  have hn : n.toNat ≠ d.toNat := fun e => h (BitVec.eq_of_toNat_eq e)
  simp only [State.g, State.setG, State.me_modMe, Ctx.reg_setReg_ne _ r hn]

/-- R89, R110. Plain data reads back. -/
theorem State.x_setX_self (s : State) {d : BitVec 5} (w : Word) (h : d ≠ 0) : (s.setX d w).x d = w := by
  rw [State.x, State.setX, State.g_setG_self _ _ h, Reg.word_plain]

end Sys2Proof.Machine

/-! ## What a walk writes (R290, R291), and taking a trap (R95) -/

namespace Sys2Proof.Machine

/-- R291. A translation writes no byte but those of the leaf entry that its walk finds. -/
theorem State.sameBytesButWalk_of_translate {s u : State} {w : Who} {va : Word} {k : Access} {l : Loc} {b : Bool}
    (h : s.translate w va k = .ok (u, l, b)) : SameBytesButWalk w s u va k := by
  intro sp x hx
  rw [State.translate_frame h]
  cases sp with
  | host => rfl
  | spad n => rfl
  | cmem n => rfl
  | main =>
    change u.main.byte x = s.main.byte x
    unfold State.translate at h
    simp only at h
    split at h
    · split at h
      · cases h; rfl
      · cases h
    · split at h
      · cases h
      · next lf hlf =>
        cases h
        have hout : ¬(lf.at_ ≤ x ∧ x < lf.at_ + 8) := by have := hx rfl lf hlf; omega
        dsimp only
        split
        · rfl
        · rw [Memory.byte_write, if_neg hout]

/-- A state has the bytes that it has. -/
theorem State.sameBytesButWalk_refl (s : State) (w : Who) (va : Word) (k : Access) : SameBytesButWalk w s s va k := fun _ _ _ => rfl

/-- R291. The same of the fetch of a target's line. -/
theorem State.sameBytesButWalk_fetchedFor (s : State) (w : Who) (a : Word) :
    SameBytesButWalk w s (s.fetchedFor w a) (lineAddr a) .fetch := by
  unfold State.fetchedFor State.walked
  split
  · exact s.sameBytesButWalk_refl w _ _
  · split
    · next h => exact State.sameBytesButWalk_of_translate h
    · exact s.sameBytesButWalk_refl w _ _

/-- A change of a context keeps what bytes are the same. -/
theorem SameBytesButWalk.setCtx {w : Who} {s t : State} {va : Word} {k : Access} (h : SameBytesButWalk w s t va k) (c : CtxId)
    (x : Ctx) : SameBytesButWalk w s (t.setCtx c x) va k := fun sp a ha => by
  rw [State.memory_setCtx, h sp a ha]

/-- R95. A trapped context differs in what a trap writes alone. -/
theorem Ctx.onlyTrap_trapped (x : Ctx) (slot : Nat) (t : Trap) (ok : Bool) : OnlyTrap x (x.trapped slot t ok) := by
  cases ok <;> rfl

/-- R95. What taking a trap does to its context, whether TVEC passes its checks or not. -/
theorem Ctx.trapped_fields (x : Ctx) (slot : Nat) (t : Trap) (ok : Bool) :
    let y := x.trapped slot t ok
    y.trapCause = t.cause ∧ y.trapPc = t.pc ∧ y.trapVal = t.val ∧ y.trapProg = t.prog ∧ y.estatus = x.statusWord slot ∧
      y.priv = true ∧ y.uie = false ∧ y.uia = x.uia ∧ y.dom = x.dom := by
  cases ok <;> exact ⟨rfl, rfl, rfl, rfl, rfl, rfl, rfl, rfl, rfl⟩

end Sys2Proof.Machine

/-! ## Ends and yields (R85, R86, R104) -/

namespace Sys2Proof.Machine

/-- R97. All four counts are zero. -/
theorem Ctx.quiet_iff (x : Ctx) : x.quiet = true ↔ x.cntLoad = 0 ∧ x.cntStore = 0 ∧ x.cntCopy = 0 ∧ x.cntTile = 0 := by
  simp [Ctx.quiet, and_assoc]

/-- R104. HEND and HALT need not wait. -/
theorem State.hendReady_iff (s : State) : s.hendReady = true ↔
    (s.me.cntLoad = 0 ∧ s.me.cntStore = 0 ∧ s.me.cntCopy = 0 ∧ s.me.cntTile = 0) ∧ (s.helper = true ∨ s.myCore.seq = []) := by
  simp [State.hendReady, Ctx.quiet_iff]

/-- R86. The control context may end: no engine is suspended and every helper slot is FREE. -/
theorem State.hendChecks_ok {s : State} (hv : s.myCore.vsqSusp = false) (hm : s.myCore.mxSusp = false) (hc : s.myCore.cpSusp = false)
    (hb : s.busySlots s.cur.core = 0) : s.hendChecks = .ok () := by
  simp [State.hendChecks, State.needOperand, State.need, hv, hm, hc, hb, bind, Except.bind]

section
variable {s : State}

/-- R85. A helper's HEND ends it. -/
theorem exec_hend_helper (hh : s.helper = true) (hr : s.hendReady = true) : exec .hend s = .next (s.modMe Ctx.endHelper) := by
  change execHend s = _
  simp [execHend, hh, hr, State.waitFor_true]

/-- R86. The control context's HEND ends the item. -/
theorem exec_hend_control (hh : s.helper = false) (hc : s.hendChecks = .ok ()) (hr : s.hendReady = true) :
    exec .hend s = .next s.endControl := by
  change execHend s = _
  simp [execHend, hh, hc, hr, State.waitFor_true, bind, Except.bind]

/-- R104. HALT stops the core. -/
theorem exec_halt_ready (hp : s.me.priv = true) (hr : s.hendReady = true) :
    exec .halt s = .next (s.advance.modMyCore (fun k => { k with stopped := true })) := by
  change s.privileged _ = _
  rw [State.privileged_priv _ hp, hr, State.waitFor_true, State.finish_ok]

/-- R104. A helper's YIELD stands aside (log 12). -/
theorem exec_yield_helper (hh : s.helper = true) :
    exec .yield s = .next (s.advance.modMe (fun c => { c with standAside := 11, passed := [] })) := by
  change execYield s = _
  rw [execYield, hh]; rfl

/-- R104. The control context's YIELD gives up its slice. -/
theorem exec_yield_control (hh : s.helper = false) (hp : s.myCore.preempted = false) :
    exec .yield s = .next (s.advance.modMyCore (·.endSlice)) := by
  change execYield s = _
  rw [execYield, hh, hp]; rfl

end

end Sys2Proof.Machine

/-! ## Helpers (R85, R105, R106) -/

namespace Sys2Proof.Machine

/-- R93. A context that is no helper stands in slot 15. -/
theorem State.helper_eq_false_iff (s : State) : s.helper = false ↔ s.cur.slot = 15 := by
  simp [State.helper, control]

/-- A change of another context leaves the current one. -/
theorem State.me_setCtx_ne (s : State) {c : CtxId} (x : Ctx) (h : c ≠ s.cur) : (s.setCtx c x).me = s.me :=
  State.ctx_setCtx_ne s x (Ne.symm h)

@[simp] theorem State.me_fetchedFor (s : State) (w : Who) (a : Word) : (s.fetchedFor w a).me = s.me := by
  rw [State.me_eq, State.cur_fetchedFor, State.ctx_fetchedFor, State.me_eq]

/-- R105. The registers of the helper that HSTART starts: copies of two of the starting context's, the others zero. -/
theorem State.reg_newHelper (s : State) (slot a b : Nat) (entry : Word) :
    (s.newHelper slot a b entry).reg 1 = s.me.reg a ∧ (s.newHelper slot a b entry).reg 31 = s.me.reg b ∧
      ∀ k, k ≠ 1 → k ≠ 31 → (s.newHelper slot a b entry).reg k = Reg.zero := by
  refine ⟨?_, ?_, fun k h1 h31 => ?_⟩
  · rw [State.newHelper, Ctx.reg_setReg_ne _ _ (by decide), Ctx.reg_setReg_self _ _ (by decide)]
  · rw [State.newHelper, Ctx.reg_setReg_self _ _ (by decide)]
  · rw [State.newHelper, Ctx.reg_setReg_ne _ _ h31, Ctx.reg_setReg_ne _ _ h1]
    simp [Ctx.reg, Ctx.reset, SMap.getD, SMap.find]

/-- R105. The state after HSTART. -/
def State.helperStarted (s : State) (slot a b : Nat) (entry : Word) : State :=
  { s.targetTouched s.cur entry with uidNext := (s.targetTouched s.cur entry).uidNext + 1 }.advance.setCtx ⟨s.cur.core, slot⟩
    (s.newHelper slot a b entry)

/-- R105. HSTART of a FREE slot whose entry passes R70 starts a helper. -/
theorem exec_hstart_free {s : State} {slot : BitVec 4} {o : BitVec 16} (a b : BitVec 5) (hh : s.helper = false)
    (ht : s.checkTarget s.cur (s.relTarget o) = .ok ()) (hf : (s.slot s.cur.core slot.toNat).life = .free) :
    exec (.hstart slot a b o) s = .next (s.helperStarted slot.toNat a.toNat b.toNat (s.relTarget o)) := by
  have hfree : s.needOperand ((s.slot s.cur.core slot.toNat).life == .free) (zext slot) = .ok () := State.need_true _ _ _ (by simp [hf])
  change s.controlTarget _ _ = _
  simp [State.controlTarget, State.controlOn_control _ _ hh, State.check, asTrap, ht, hfree, bind, Except.bind, State.helperStarted]

/-- Completing moves the current context to its next head, and a change of another context leaves it there. -/
theorem State.me_advance_setCtx_ne (u : State) {c : CtxId} (x : Ctx) (h : c ≠ u.cur) :
    (u.advance.setCtx c x).me = { u.me with pc := u.me.nextHead u.me.pc, waiting := false } :=
  (State.me_setCtx_ne u.advance x h).trans (u.me_modMe _)

/-- R105. HSTART leaves the starting context at its next head. -/
theorem State.me_helperStarted (s : State) {slot : Nat} (a b : Nat) (entry : Word) (h : slot ≠ s.cur.slot) :
    (s.helperStarted slot a b entry).me = { s.me with pc := s.me.nextHead s.me.pc, waiting := false } := by
  unfold State.helperStarted
  generalize hu : ({ s.targetTouched s.cur entry with uidNext := (s.targetTouched s.cur entry).uidNext + 1 } : State) = u
  have hcur : u.cur = s.cur := hu ▸ State.cur_fetchedFor _ _ _
  have hme : u.me = s.me := hu ▸ State.me_fetchedFor _ _ _
  rw [State.me_advance_setCtx_ne u _ (fun e => h (congrArg CtxId.slot (e.trans hcur))), hme]

section
variable {s : State} {n : BitVec 5} (hh : s.helper = false)
include hh

/-- R106. HSTAT reads the state of a slot. -/
theorem exec_hstat_control (d : BitVec 5) :
    exec (.hstat d n) s = .next (s.setX d (w64 (s.slot s.cur.core n.toNat).life.code)).advance :=
  State.controlOnly_control _ hh

/-- R106. HJOIN of a slot that is not FREE waits for its helper to stop, and frees the slot. -/
theorem exec_hjoin_used (d : BitVec 5) (hf : (s.slot s.cur.core n.toNat).life ≠ .free) :
    exec (.hjoin d n) s = .next (s.waitFor ((s.slot s.cur.core n.toNat).life != .live)
      ((s.modSlot s.cur.core n.toNat Ctx.joined).setX d (s.slot s.cur.core n.toNat).exitVal).advance) := by
  have hused : s.needOperand ((s.slot s.cur.core n.toNat).life != .free) (zext n) = .ok () := State.need_true _ _ _ (by simp [hf])
  change s.controlOnly _ = _
  simp [State.controlOnly_control _ hh, hused, bind, Except.bind]

/-- R106. HJOIN of a FREE slot is ILLEGAL_OPERAND with the slot's number. -/
theorem exec_hjoin_free (d : BitVec 5) (hf : (s.slot s.cur.core n.toNat).life = .free) :
    exec (.hjoin d n) s = .next (s.takeTrap s.cur ⟨Cause.illegalOperand, s.me.pc, zext n, s.openProg⟩) := by
  have hfree : s.needOperand ((s.slot s.cur.core n.toNat).life != .free) (zext n) = .error _ := State.need_false _ _ _ (by simp [hf])
  change s.controlOnly _ = _
  simp [State.controlOnly_control _ hh, hfree, bind, Except.bind]

/-- R106. HKILL of a slot that is not LIVE only completes. -/
theorem exec_hkill_idle (hl : (s.slot s.cur.core n.toNat).life ≠ .live) : exec (.hkill n) s = .next s.advance := by
  change s.controlOnly _ = _
  simp [State.controlOnly_control _ hh, hl]

/-- R106. HKILL of a LIVE helper at a group boundary stops it at once. -/
theorem exec_hkill_boundary (hl : (s.slot s.cur.core n.toNat).life = .live) (hg : (s.slot s.cur.core n.toNat).gpos = 0)
    (hp : s.myCore.preempted = false) : exec (.hkill n) s = .next (s.advance.killHelper ⟨s.cur.core, n.toNat⟩) := by
  change s.controlOnly _ = _
  simp [State.controlOnly_control _ hh, hl, hg, hp]

end

end Sys2Proof.Machine

/-! ## Fields of a word, and capabilities that another replaces (R90, R91, R126 to R128) -/

namespace Sys2Proof.Machine

/-! ### Bits and fields -/

/-- A field of two words that agree in its bits is the same. -/
theorem field_congr {w lo n : Nat} {x y : BitVec w} (h : ∀ k, lo ≤ k → k < lo + n → x.getLsbD k = y.getLsbD k) :
    x.toNat / 2 ^ lo % 2 ^ n = y.toNat / 2 ^ lo % 2 ^ n := by
  refine Nat.eq_of_testBit_eq fun i => ?_
  rw [Nat.testBit_mod_two_pow, Nat.testBit_mod_two_pow, Nat.testBit_div_two_pow, Nat.testBit_div_two_pow, BitVec.testBit_toNat,
    BitVec.testBit_toNat]
  by_cases hi : i < n
  · rw [h (i + lo) (by omega) (by omega)]
  · simp [hi]

/-- Words whose low parts are the same agree in the bits of it. -/
theorem getLsbD_of_mod_eq {w n k : Nat} {x y : BitVec w} (h : x.toNat % 2 ^ n = y.toNat % 2 ^ n) (hk : k < n) :
    x.getLsbD k = y.getLsbD k := by
  simpa [Nat.testBit_mod_two_pow, hk, BitVec.testBit_toNat] using congrArg (Nat.testBit · k) h

/-- Words whose high parts are the same agree in the bits of it. -/
theorem getLsbD_of_div_eq {w n k : Nat} {x y : BitVec w} (h : x.toNat / 2 ^ n = y.toNat / 2 ^ n) (hk : n ≤ k) :
    x.getLsbD k = y.getLsbD k := by
  simpa [Nat.testBit_div_two_pow, BitVec.testBit_toNat, Nat.sub_add_cancel hk] using congrArg (Nat.testBit · (k - n)) h

/-- R89. Registers that agree below bit 64 hold the same data. -/
theorem Reg.word_congr {q r : Reg} (h : ∀ k < 64, q.bits.getLsbD k = r.bits.getLsbD k) : q.word = r.word :=
  BitVec.eq_of_getLsbD_eq fun i hi => by simp only [Reg.word, BitVec.getLsbD_setWidth, h i hi]

/-- R90. Registers that agree in bits [126:121] are of the same domain. -/
theorem Reg.dom_congr {q r : Reg} (h : ∀ k, 121 ≤ k → k < 127 → q.bits.getLsbD k = r.bits.getLsbD k) : q.dom = r.dom :=
  field_congr (n := 6) h

section
variable {q r : Reg} (h : ∀ k, 65 ≤ k → k < 114 → q.bits.getLsbD k = r.bits.getLsbD k)
include h

/-- R90. Registers that agree in bits [113:65] have the same bounds fields. -/
theorem Reg.boundsFields_congr : q.exp = r.exp ∧ q.capBase = r.capBase ∧ q.capTop = r.capTop :=
  ⟨field_congr (n := 6) fun k h1 h2 => h k (by omega) (by omega), field_congr fun k h1 h2 => h k (by omega) (by omega),
    field_congr fun k h1 h2 => h k (by omega) (by omega)⟩

/-- R91. With the same data as well, they have the same bounds. -/
theorem Reg.bounds_congr (hw : q.word = r.word) : q.bounds = r.bounds := by
  obtain ⟨he, hb, ht⟩ := Reg.boundsFields_congr h
  simp only [Reg.bounds, he, hb, ht, hw]
end

/-! ### Masked permissions -/

/-- R127. Masking leaves every bit outside [120:114], and ANDs each bit in it with the mask's. -/
theorem Reg.getLsbD_maskPerms (r : Reg) (m : BitVec 7) (k : Nat) :
    (r.maskPerms m).bits.getLsbD k = (r.bits.getLsbD k && (decide (k < 114) || decide (121 ≤ k) || m.getLsbD (k - 114))) := by
  by_cases hk : k < 128
  · simp only [Reg.maskPerms, BitVec.getLsbD_and, BitVec.getLsbD_not, BitVec.getLsbD_shiftLeft, BitVec.getLsbD_setWidth, hk]
    by_cases h1 : k < 114
    · simp [h1]
    · by_cases h2 : 121 ≤ k
      · have h3 : ¬(k - 114 < 7) := by omega
        simp [h2, h3]
      · have h3 : k - 114 < 7 := by omega
        have h4 : k - 114 < 128 := by omega
        simp [h1, h2, h3, h4]
  · rw [BitVec.getLsbD_of_ge _ _ (by omega), BitVec.getLsbD_of_ge r.bits _ (by omega), Bool.false_and]

/-- R127. Outside [120:114] a masked capability is the source. -/
theorem Reg.getLsbD_maskPerms_out (r : Reg) (m : BitVec 7) {k : Nat} (h : k < 114 ∨ 121 ≤ k) :
    (r.maskPerms m).bits.getLsbD k = r.bits.getLsbD k := by
  rcases h with h | h <;> simp [Reg.getLsbD_maskPerms, h]

/-- R127. A permission of a masked capability is the source's and the mask's. -/
theorem Reg.getLsbD_maskPerms_in (r : Reg) (m : BitVec 7) {k : Nat} (h : k < 7) :
    (r.maskPerms m).bits.getLsbD (114 + k) = (r.bits.getLsbD (114 + k) && m.getLsbD k) := by
  have h1 : ¬(121 ≤ 114 + k) := by omega
  simp [Reg.getLsbD_maskPerms, h1]

/-! ### Another address -/

/-- R91. A moved capability holds the address, and above it the source's bits. -/
theorem Reg.getLsbD_withAddr (r : Reg) (a : Word) {k : Nat} :
    (r.withAddr a).bits.getLsbD k = if k < 64 then a.getLsbD k else r.bits.getLsbD k := by
  by_cases hk : k < 128
  · have hmask : (BitVec.ofNat 128 (2 ^ 64 - 1)).getLsbD k = decide (k < 64) := by
      rw [BitVec.getLsbD_ofNat, Nat.testBit_two_pow_sub_one, decide_eq_true hk, Bool.true_and]
    simp only [Reg.withAddr, BitVec.getLsbD_or, BitVec.getLsbD_and, BitVec.getLsbD_not, BitVec.getLsbD_setWidth, hmask, hk,
      decide_true, Bool.true_and]
    by_cases h : k < 64
    · simp [h]
    · simp [h, BitVec.getLsbD_of_ge a k (by omega)]
  · have h : ¬(k < 64) := by omega
    rw [BitVec.getLsbD_of_ge _ _ (by omega), if_neg h, BitVec.getLsbD_of_ge r.bits _ (by omega)]

theorem Reg.getLsbD_withAddr_high (r : Reg) (a : Word) {k : Nat} (h : 64 ≤ k) :
    (r.withAddr a).bits.getLsbD k = r.bits.getLsbD k := by
  rw [Reg.getLsbD_withAddr, if_neg (Nat.not_lt.mpr h)]

@[simp] theorem Reg.word_withAddr (r : Reg) (a : Word) : (r.withAddr a).word = a :=
  BitVec.eq_of_getLsbD_eq fun i hi => by
    simp only [Reg.word, BitVec.getLsbD_setWidth, Reg.getLsbD_withAddr, hi, decide_true, Bool.true_and, if_true]

/-- R91. The base of a capability in units of 2^exp, from an address and the base field in those units. -/
def baseUnits (m base : Nat) : Int := ((m / 2 ^ 22 : Nat) - if m % 2 ^ 22 < base then 1 else 0) * 2 ^ 22 + base

/-- R91. Addresses in the 2^22 units from the base on give the same base. -/
theorem baseUnits_congr {m n base : Nat} (hb : base < 2 ^ 22) (h1 : baseUnits n base ≤ m) (h2 : m < baseUnits n base + 2 ^ 22) :
    baseUnits m base = baseUnits n base := by
  unfold baseUnits at *
  split at h1 <;> split <;> omega

/-- R91. The bounds of a capability whose exponent is 63: the whole space. -/
theorem Reg.bounds_whole {r : Reg} (h : r.exp = 63) : r.bounds = (0, 2 ^ 64) := by
  simp only [Reg.bounds, h, if_true]

/-- R91. The bounds of a capability whose exponent is not 63. -/
theorem Reg.bounds_eq (r : Reg) (h : r.exp ≠ 63) :
    r.bounds = (baseUnits (r.word.toNat / 2 ^ r.exp) r.capBase * 2 ^ r.exp,
      (baseUnits (r.word.toNat / 2 ^ r.exp) r.capBase + r.capTop) * 2 ^ r.exp) := by
  have hbase : ∀ hi : Int, hi * 2 ^ (r.exp + 22) + r.capBase * 2 ^ r.exp = (hi * 2 ^ 22 + r.capBase) * 2 ^ r.exp := by
    intro hi; rw [Int.pow_add]; ring
  have hdiv : r.word.toNat / 2 ^ (r.exp + 22) = r.word.toNat / 2 ^ r.exp / 2 ^ 22 := by rw [Nat.pow_add, Nat.div_div_eq_div_mul]
  simp only [Reg.bounds, h, if_false, hbase, hdiv, baseUnits, ← Int.add_mul]
  split <;> simp

theorem Reg.capBase_lt (r : Reg) : r.capBase < 2 ^ 22 := Nat.mod_lt _ (by decide)

@[simp] theorem Reg.tag_maskPerms (r : Reg) (m : BitVec 7) : (r.maskPerms m).tag = r.tag := rfl
@[simp] theorem Reg.tag_withBounds (r : Reg) (e base top : Nat) : (r.withBounds e base top).tag = r.tag := by
  rw [Reg.withBounds]

/-- R91. A moved capability stays tagged where its exponent is 63 or the address lies in the 2^22 units from its base on. -/
theorem Reg.tag_withAddr (r : Reg) (a : Word) : (r.withAddr a).tag = (r.tag && (decide (r.exp = 63) ||
    (decide (r.bounds.1 ≤ (a.toNat : Int)) && decide ((a.toNat : Int) < r.bounds.1 + 2 ^ (r.exp + 22))))) := rfl

/-- R91. A capability that stays tagged when moved was tagged. -/
theorem Reg.tag_of_withAddr {r : Reg} {a : Word} (h : (r.withAddr a).tag = true) : r.tag = true := by
  rw [Reg.tag_withAddr] at h
  exact (Bool.and_eq_true_iff.mp h).1

/-- R91. A moved capability that stays tagged has the source's bounds. -/
theorem Reg.bounds_withAddr {r : Reg} {a : Word} (h : (r.withAddr a).tag = true) : (r.withAddr a).bounds = r.bounds := by
  obtain ⟨he, hb, ht⟩ := Reg.boundsFields_congr (q := r.withAddr a) (r := r) fun k h1 _ => r.getLsbD_withAddr_high a (by omega)
  by_cases h63 : r.exp = 63
  · rw [Reg.bounds_whole h63, Reg.bounds_whole (he.trans h63)]
  · rw [Reg.bounds_eq _ (he ▸ h63), he, hb, ht, Reg.word_withAddr, r.bounds_eq h63]
    simp only [Reg.tag_withAddr, r.bounds_eq h63, Bool.and_eq_true, Bool.or_eq_true, decide_eq_true_eq, h63, false_or] at h
    obtain ⟨-, hlo, hhi⟩ := h
    have hpos : (0 : Int) < 2 ^ r.exp := by positivity
    have hdiv : ((a.toNat / 2 ^ r.exp : Nat) : Int) = a.toNat / 2 ^ r.exp := by push_cast; rfl
    have h1 : baseUnits (r.word.toNat / 2 ^ r.exp) r.capBase ≤ (a.toNat / 2 ^ r.exp : Nat) := by
      rw [hdiv]; exact (Int.le_ediv_iff_mul_le hpos).mpr hlo
    have h2 : ((a.toNat / 2 ^ r.exp : Nat) : Int) < baseUnits (r.word.toNat / 2 ^ r.exp) r.capBase + 2 ^ 22 := by
      rw [hdiv, Int.ediv_lt_iff_lt_mul hpos, Int.add_mul, ← Int.pow_add, Nat.add_comm 22]; exact hhi
    rw [baseUnits_congr r.capBase_lt h1 h2]

/-! ### Limited bounds -/

section
variable (r : Reg) {e base top : Nat} (he : e < 64) (hb : base < 2 ^ 22) (ht : top < 2 ^ 21)
include he hb ht

/-- R90, R128. A capability with other bounds fields, as a number. -/
theorem Reg.toNat_withBounds : (r.withBounds e base top).bits.toNat =
    r.bits.toNat / 2 ^ 114 * 2 ^ 114 + r.bits.toNat % 2 ^ 65 + e * 2 ^ 108 + base * 2 ^ 86 + top * 2 ^ 65 := by
  have h := r.bits.isLt
  rw [Reg.withBounds, BitVec.toNat_ofNat, Nat.mod_eq_of_lt]
  omega

/-- R90, R128. Outside [113:65] it is the source. -/
theorem Reg.getLsbD_withBounds {k : Nat} (hk : k < 65 ∨ 114 ≤ k) : (r.withBounds e base top).bits.getLsbD k = r.bits.getLsbD k := by
  have h := r.toNat_withBounds he hb ht
  rcases hk with hk | hk
  · exact getLsbD_of_mod_eq (n := 65) (by omega) hk
  · exact getLsbD_of_div_eq (n := 114) (by omega) hk

/-- R90, R128. Its bounds fields are those given. -/
theorem Reg.fields_withBounds : (r.withBounds e base top).exp = e ∧ (r.withBounds e base top).capBase = base ∧
    (r.withBounds e base top).capTop = top := by
  have h := r.toNat_withBounds he hb ht
  refine ⟨?_, ?_, ?_⟩
  · rw [Reg.exp]; omega
  · rw [Reg.capBase]; omega
  · rw [Reg.capTop]; omega

theorem Reg.word_withBounds : (r.withBounds e base top).word = r.word :=
  Reg.word_congr fun k hk => r.getLsbD_withBounds he hb ht (.inl (by omega))
end

/-- R91, R128. With the base field of its own address, a capability's bounds begin at the unit of that address. -/
theorem Reg.bounds_withBounds (r : Reg) {e top : Nat} (he : e ≤ 42) (ht : top < 2 ^ 21) :
    (r.withBounds e (r.word.toNat / 2 ^ e % 2 ^ 22) top).bounds =
      (((r.word.toNat / 2 ^ e * 2 ^ e : Nat) : Int), (((r.word.toNat / 2 ^ e + top) * 2 ^ e : Nat) : Int)) := by
  have hb : r.word.toNat / 2 ^ e % 2 ^ 22 < 2 ^ 22 := Nat.mod_lt _ (by decide)
  obtain ⟨h1, h2, h3⟩ := r.fields_withBounds (e := e) (by omega) hb ht
  have hunits : baseUnits (r.word.toNat / 2 ^ e) (r.word.toNat / 2 ^ e % 2 ^ 22) = (r.word.toNat / 2 ^ e : Nat) := by
    unfold baseUnits
    simp only [Nat.lt_irrefl, if_false]
    omega
  rw [Reg.bounds_eq _ (by omega), h1, h2, h3, r.word_withBounds (by omega) hb ht, hunits]
  push_cast
  trivial

/-- R128. The exponent that is found serves. -/
theorem limitExp_serves {a n k e : Nat} (h : limitExp a n k = some e) :
    e ≤ 42 ∧ ((limitSpan a n e).2 - (limitSpan a n e).1) / 2 ^ e < 2 ^ 21 := by
  induction k with
  | zero => cases h
  | succ k ih =>
    rw [limitExp] at h
    split at h
    · cases h; exact ⟨by omega, by omega⟩
    · exact ih h

/-- R128. The span at an exponent is whole units, so that its length in units leads from its start to its end. -/
theorem limitSpan_end (a n e : Nat) :
    (a / 2 ^ e + ((limitSpan a n e).2 - (limitSpan a n e).1) / 2 ^ e) * 2 ^ e = (limitSpan a n e).2 := by
  have hpos : 0 < 2 ^ e := Nat.two_pow_pos e
  have hle : a / 2 ^ e ≤ (a + n + 2 ^ e - 1) / 2 ^ e := Nat.div_le_div_right (by omega)
  rw [limitSpan, ← Nat.sub_mul, Nat.mul_div_cancel _ hpos, Nat.add_sub_cancel' hle]

/-- R128. A limited capability has new bounds fields alone, and bounds within the source's. -/
theorem Reg.limit_within {r q : Reg} {n : Nat} (h : r.limit n = some q) :
    ∃ e base top, e < 64 ∧ base < 2 ^ 22 ∧ top < 2 ^ 21 ∧ q = r.withBounds e base top ∧
      r.bounds.1 ≤ q.bounds.1 ∧ q.bounds.2 ≤ r.bounds.2 := by
  simp only [Reg.limit] at h
  split at h
  · cases h
  · split at h
    · next e he =>
      obtain ⟨he42, htop⟩ := limitExp_serves he
      split at h
      · cases h
      · next hin =>
        obtain rfl := Option.some.inj h
        refine ⟨_, _, _, by omega, Nat.mod_lt _ (by decide), htop, rfl, ?_⟩
        have hlo : (limitSpan r.word.toNat n e).1 / 2 ^ e = r.word.toNat / 2 ^ e :=
          Nat.mul_div_cancel _ (Nat.two_pow_pos e)
        rw [hlo, r.bounds_withBounds he42 htop, limitSpan_end]
        exact ⟨Int.not_lt.mp (not_or.mp hin).1, Int.not_lt.mp (not_or.mp hin).2⟩
    · split at h
      · cases h
      · next hin =>
        obtain rfl := Option.some.inj h
        refine ⟨63, 0, 0, by decide, by decide, by decide, rfl, ?_⟩
        obtain ⟨hexp, -, -⟩ := r.fields_withBounds (e := 63) (base := 0) (top := 0) (by decide) (by decide) (by decide)
        rw [Reg.bounds_whole hexp]
        exact ⟨Int.not_lt.mp (not_or.mp hin).1, Int.not_lt.mp (not_or.mp hin).2⟩

end Sys2Proof.Machine

/-! ## The checks of an access (R92, R133, R136, R184) -/

namespace Sys2Proof.Machine

/-- A check alone. -/
theorem ensure_eq (b : Bool) (cause : BitVec 8) (val : Word) :
    ensure b cause val = if b = false then .error ⟨cause, val⟩ else .ok () := by
  cases b <;> rfl

/-- A check before further checks: its failure, or theirs. -/
theorem ensure_bind {α : Type} (b : Bool) (cause : BitVec 8) (val : Word) (m : Unit → Res α) :
    ensure b cause val >>= m = if b = false then .error ⟨cause, val⟩ else m () := by
  cases b <;> rfl

section
variable (s : State) (base : BitVec 5) (a : Word) (n : Nat) (k : CapUse) (v : Reg)

/-- R92 check 3. The capability is of the context's domain or of domain 63, or the context is privileged. -/
def State.ownsCap (s : State) (base : BitVec 5) : Bool :=
  decide ((s.g base).dom = s.me.dom.toNat) || decide ((s.g base).dom = 63) || s.me.priv

/-- R92, R136. A value may be stored through a capability: it is untagged, or the capability has SC, the value G or the address lies in the
own scratchpad, and the address is no fabric address. -/
def Reg.mayStore (r v : Reg) (a : Word) : Bool := !v.tag || (r.permSC && (v.permG || isOwnSpad a) && !isFabric a)

/-- R92, R133. The capability checks of an access in their order. -/
theorem State.accessCap_eq : s.accessCap base a n k v =
    if (s.g base).tag = false then .error ⟨Cause.capTag, a⟩
    else if (s.g base).isSealed = true then .error ⟨Cause.capSealed, a⟩
    else if s.ownsCap base = false then .error ⟨Cause.capDomain, a⟩
    else if (s.g base).permits k a = false then .error ⟨Cause.capPerm, a⟩
    else if (s.g base).covers a.toNat n = false then .error ⟨Cause.capBounds, a⟩
    else if a.toNat % n ≠ 0 then .error ⟨Cause.align, a⟩
    else if (s.g base).mayStore v a = false then .error ⟨Cause.capPerm, a⟩ else .ok () := by
  simp only [State.accessCap, checkCapRights, bind_assoc]
  simp only [ensure_bind, Bool.not_eq_false', decide_eq_false_iff_not]
  rw [checkCapStore, ensure_eq]
  rfl
end

section
variable {s : State} {base : BitVec 5} {a : Word} {n : Nat} {k : CapUse} {v : Reg}

/-- R133. Where a capability check fails, the access traps with its cause, on the state as it stands. -/
theorem State.access_capFails {f : Fail} (h : s.accessCap base a n k v = .error f) :
    (∃ prog, s.access base a n k v = .error ⟨f.cause, s.me.pc, f.val, prog⟩) ∧ s.afterAccess base a n k v = s :=
  ⟨⟨_, by rw [State.access, h]; rfl⟩, by rw [State.afterAccess, h]⟩

section
variable (h : s.accessCap base a n k v = .ok ())
include h

/-- R133. Where they pass, the access goes where its address leads, and its translation leaves what it leaves. -/
theorem State.access_capPasses : s.access base a n k v = s.check (s.locate a n k) (accessProg base k.writes 0 false) := by
  rw [State.access, h]; rfl

theorem State.afterAccess_capPasses : s.afterAccess base a n k v = s.touched (s.who s.cur) a k := by
  rw [State.afterAccess, h]

/-- R133. An address that leads nowhere traps with what failed. -/
theorem State.access_unresolved {f : Fail} (hr : s.resolve (s.who s.cur) a n k = .error f) :
    ∃ prog, s.access base a n k v = .error ⟨f.cause, s.me.pc, f.val, prog⟩ :=
  ⟨_, by rw [State.access_capPasses h, State.locate, hr]; rfl⟩

section
variable {u : State} {p : Place} (hr : s.resolve (s.who s.cur) a n k = .ok (u, p))
include hr

/-- R133, R184. An access whose address leads to a place passes where it only stores, or meets no mark. -/
theorem State.access_resolved (hp : k = .store ∨ ∀ l, p = .local l → u.readsMarked l n = false) :
    s.access base a n k v = .ok (u, p) := by
  rw [State.access_capPasses h, State.locate, hr]
  change s.check (if k = .store then .ok (u, p) else u.checkPoison p a n >>= fun _ => .ok (u, p)) _ = _
  rcases hp with rfl | hp
  · rfl
  · have hpoison : u.checkPoison p a n = .ok () := by
      rcases p with l | ⟨_, _⟩
      · simp [State.checkPoison, ensure, hp l rfl]
      · rfl
    rw [hpoison]
    split <;> rfl

/-- R184. A read of a marked granule traps. -/
theorem State.access_marked {l : Loc} (hk : k ≠ .store) (hp : p = .local l) (hm : u.readsMarked l n = true) :
    ∃ prog, s.access base a n k v = .error ⟨Cause.poisonConsumed, s.me.pc, a, prog⟩ := by
  have hpoison : u.checkPoison p a n = .error ⟨Cause.poisonConsumed, a⟩ := by simp [hp, State.checkPoison, ensure, hm]
  refine ⟨accessProg base k.writes 0 false, ?_⟩
  rw [State.access_capPasses h, State.locate, hr]
  change s.check (if k = .store then .ok (u, p) else u.checkPoison p a n >>= fun _ => .ok (u, p)) _ = _
  rw [if_neg hk, hpoison]
  rfl
end
end
end

end Sys2Proof.Machine

/-! ## Performing an access (R97, R134, R137, R138, R184, R298, R305 to R307) -/

namespace Sys2Proof.Machine

/-! ### Which accesses are performed -/

/-- R399. An access to this device has no request to send. -/
theorem State.sentOut_local {s : State} {uid : Nat} {o : PendOp} {l : Loc} (h : o.home = .local l) : s.sentOut uid o = true := by
  simp [State.sentOut, requestFor, h]

/-- R306. What may fail to swap is a CAS or a CAS2. -/
theorem State.kind_of_not_swaps {s : State} {o : PendOp} (h : s.swaps o = false) :
    (∃ d e, o.kind = .cas d e) ∨ ∃ d e lc, o.kind = .cas2 d e lc := by
  rcases hl : o.home with l | ⟨a, key⟩
  · cases hk : o.kind with
    | cas d e => exact .inl ⟨d, e, rfl⟩
    | cas2 d e lc => exact .inr ⟨d, e, lc, rfl⟩
    | _ => simp [State.swaps, hl, State.swapsAt, hk] at h
  · simp [State.swaps, hl] at h

/-- R306. Such an access is no load that goes ahead of an earlier CAS. -/
theorem Ctx.mayPrecede_of_not_swaps {s : State} {x : Ctx} {k : Nat} {o : PendOp} {rest : List PendOp} (hd : x.pend.drop k = o :: rest)
    (hs : s.swaps o = false) : x.mayPrecede k = false := by
  rcases State.kind_of_not_swaps hs with ⟨d, e, hk⟩ | ⟨d, e, lc, hk⟩ <;> simp [Ctx.mayPrecede, hd, hk]

section
variable {s : State} {c : CtxId} {k : Nat} {o : PendOp} {rest : List PendOp} (hd : (s.ctx c).pend.drop k = o :: rest)
  (hmay : (s.ctx c).mayPerform k (s.swaps o) = true)
include hd hmay

/-- R306. An access that may be performed need not go ahead of a CAS. -/
theorem State.not_precedes : ((s.ctx c).mayPrecede k && !(s.ctx c).mayPerform k true) = false := by
  cases hs : s.swaps o with
  | true => rw [← hs, hmay]; simp
  | false => rw [Ctx.mayPrecede_of_not_swaps hd hs]; rfl

section
variable (hsent : s.sentOut (s.ctx c).uid o = true)
include hsent

/-- R97. An access that may be performed, and whose request, if any, has left, is performed. -/
theorem State.perform_may (reply : BitVec 128) : s.perform c k reply = s.performNow c k reply := by
  simp [State.perform, hd, hmay, hsent]

/-- R97. LOAD_COMPLETE performs an access that reads. -/
theorem exec_loadComplete_may (reply : BitVec 128) (hr : o.kind.reads = true) (hu : o.kind.isUnit = false) :
    exec (.loadComplete c k reply) s = .next (s.performNow c k reply) := by
  have hreads : s.pendReads c k = true := by simp [State.pendReads, hd, hr, hu]
  change execLoadComplete c k reply s = _
  rw [execLoadComplete, hreads, State.not_precedes hd hmay, State.perform_may hd hmay hsent]
  rfl

/-- R97. STORE_PERFORMED performs an access that only writes. -/
theorem exec_storePerformed_may (hr : o.kind.reads = false) (hw : o.kind.writes = true) :
    exec (.storePerformed c k) s = .next (s.performNow c k 0) := by
  have hstores : s.pendStores c k = true := by simp [State.pendStores, hd, hr, hw]
  change execStorePerformed c k s = _
  rw [execStorePerformed, hstores, State.perform_may hd hmay hsent]
  rfl
end
end

/-! ### The effect at a place of this device -/

/-- R184. A read meets a mark. -/
theorem State.meetsMark_iff {s : State} {l : Loc} {o : PendOp} : s.meetsMark l o = true ↔
    o.kind.reads = true ∧ o.size ≠ 0 ∧ o.early = none ∧ s.poisonAt l o.size = true := by
  simp [State.meetsMark, and_assoc]

section
variable {s : State} {l : Loc} {o : PendOp} {d : BitVec 5}

theorem State.performAt_load {sgn : Bool} (h : o.kind = .load d sgn) : s.performAt l o =
    (if o.acq then s.setMemory l.space ((s.memory l.space).setTag l.off false) else s, Reg.plain (extend o.size (s.readAt l o.size) sgn)) := by
  simp only [State.performAt, h]

theorem State.performAt_loadCap {lc : Bool} (h : o.kind = .loadCap d lc) : s.performAt l o =
    (s, Reg.loaded (BitVec.ofNat 128 (s.readAt l o.size)) (s.tagAt l && lc)) := by
  simp only [State.performAt, h]

theorem State.performAt_amo {f : AmoOp} (h : o.kind = .amo d f) : s.performAt l o =
    (s.writeAt l o.size (amoApply f o.size (s.readAt l o.size) (o.data.bits.toNat % 2 ^ (8 * o.size))),
      Reg.plain (w64 (s.readAt l o.size))) := by
  simp only [State.performAt, h]

theorem State.performAt_cas {e : Word} (h : o.kind = .cas d e) : s.performAt l o =
    (if s.readAt l o.size = e.toNat % 2 ^ (8 * o.size) then s.writeAt l o.size (o.data.bits.toNat % 2 ^ (8 * o.size)) else s,
      Reg.plain (w64 (s.readAt l o.size))) := by
  simp only [State.performAt, h]

theorem State.performAt_cas2 {e : Reg} {lc : Bool} (h : o.kind = .cas2 d e lc) : s.performAt l o =
    (if s.readAt l o.size = e.bits.toNat ∧ s.tagAt l = e.tag then s.writeCapAt l o.data else s,
      Reg.loaded (BitVec.ofNat 128 (s.readAt l o.size)) (s.tagAt l && lc)) := by
  simp only [State.performAt, h]

theorem State.performAt_store (h : o.kind = .store) : s.performAt l o = (s.writeAt l o.size o.data.bits.toNat, Reg.zero) := by
  simp only [State.performAt, h]

theorem State.performAt_storeCap (h : o.kind = .storeCap) : s.performAt l o = (s.writeCapAt l o.data, Reg.zero) := by
  simp only [State.performAt, h]
end

/-- R97, R306. A context whose `k`-th pending access has been performed: a CAS that has swapped undoes what later reads took ahead of it,
and the register receives what the access took ahead, or else what it has read. -/
def Ctx.performed (x : Ctx) (k : Nat) (o : PendOp) (swapped : Bool) (d : BitVec 5) (r : Reg) : Ctx :=
  ((x.finishOp k o).dropEarly swapped).deliver o.bank d (o.early.getD r)

section
variable {s : State} {c : CtxId} {k : Nat} {o : PendOp} {rest : List PendOp} {l : Loc}
  (hd : (s.ctx c).pend.drop k = o :: rest) (hmay : (s.ctx c).mayPerform k (s.swaps o) = true) (hl : o.home = .local l)
  (hfence : s.homeFenced l = false) (hseal : s.sealedAt l = false ∨ o.kind.writes = false)
include hd hl hfence hseal

/-- R184. At a home that neither a fence nor a seal closes, a read that meets a mark is refused (log 71). -/
theorem State.performNow_marked (reply : BitVec 128) (hm : s.meetsMark l o = true) :
    s.performNow c k reply = s.refuse c k o Cause.poisonConsumed (w64 l.va) := by
  have hclosed : (o.kind.writes && o.size != 0 && s.sealedAt l) = false := by rcases hseal with h | h <;> simp [h]
  simp [State.performNow, hd, hl, hfence, hclosed, hm]

/-- R97, R306. There any other access takes its effect, and its context goes on with it performed. -/
theorem State.performNow_local (reply : BitVec 128) (hm : s.meetsMark l o = false) :
    s.performNow c k reply = (s.performAt l o).1.modCtx c
      (·.performed k o (o.swap ≠ 0 ∧ s.swapsAt l o = true) o.kind.dest (s.performAt l o).2) := by
  have hclosed : (o.kind.writes && o.size != 0 && s.sealedAt l) = false := by rcases hseal with h | h <;> simp [h]
  have hswapped : (o.swap != 0 && s.swapsAt l o) = decide (o.swap ≠ 0 ∧ s.swapsAt l o = true) := by
    rw [Bool.eq_iff_iff]; simp
  simp only [State.performNow, hd, hl, hfence, hclosed, hm, hswapped, Bool.and_false, Bool.false_eq_true, if_false]
  rfl

include hmay

/-- R97. LOAD_COMPLETE of an access with an effect and a value. -/
theorem exec_loadComplete_local (reply : BitVec 128) (hm : s.meetsMark l o = false) {m : MemKind} (hk : o.kind = m)
    (hr : m.reads = true) (hu : m.isUnit = false) {u : State} {r : Reg} (hp : s.performAt l o = (u, r)) :
    exec (.loadComplete c k reply) s =
      .next (u.modCtx c (·.performed k o (o.swap ≠ 0 ∧ s.swapsAt l o = true) m.dest r)) := by
  rw [exec_loadComplete_may hd hmay (State.sentOut_local hl) reply (hk ▸ hr) (hk ▸ hu),
    State.performNow_local hd hl hfence hseal reply hm, hp, hk]

/-- R97. STORE_PERFORMED of an access with an effect. -/
theorem exec_storePerformed_local (hm : s.meetsMark l o = false) {m : MemKind} (hk : o.kind = m)
    (hr : m.reads = false) (hw : m.writes = true) {u : State} {r : Reg} (hp : s.performAt l o = (u, r)) :
    exec (.storePerformed c k) s =
      .next (u.modCtx c (·.performed k o (o.swap ≠ 0 ∧ s.swapsAt l o = true) m.dest r)) := by
  rw [exec_storePerformed_may hd hmay (State.sentOut_local hl) (hk ▸ hr) (hk ▸ hw),
    State.performNow_local hd hl hfence hseal 0 hm, hp, hk]
end

/-! ### The reply of another device -/

/-- R97, R136. An answered access writes its reply (log 94: a CAS with an order counts as one that swaps). -/
theorem State.performNow_remote {s : State} {c : CtxId} {k : Nat} {o : PendOp} {rest : List PendOp} {a : Word} {key : BitVec 32}
    (hd : (s.ctx c).pend.drop k = o :: rest) (hl : o.home = .remote a key) (reply : BitVec 128) :
    s.performNow c k reply = s.modCtx c (fun x => (x.answer k o reply).dropEarly (o.swap ≠ 0)) := by
  have hswap : (o.swap != 0) = decide (o.swap ≠ 0) := by rw [Bool.eq_iff_iff]; simp
  simp only [State.performNow, hd, hl, hswap]

/-! ### The frame -/

/-- R134, R137. What an access leaves of the memory of its place: it changes no byte outside its own, none at all where it does not write,
and the canonical form stands. -/
def PendOp.leaves (o : PendOp) (l : Loc) (m m' : Memory) : Prop :=
  (∀ x, (o.kind.writes = true → ¬(l.off ≤ x ∧ x < l.off + o.span)) → m'.byte x = m.byte x) ∧ (m.wf = true → m'.wf = true)

section
variable {o : PendOp} {l : Loc}

theorem PendOp.leaves_write (m : Memory) {n : Nat} (v : Nat) (hw : o.kind.writes = true) (hs : o.span = n) :
    o.leaves l m (m.write l.off n v) :=
  ⟨fun x hx => by rw [Memory.byte_write, if_neg (hs ▸ hx hw)], Memory.wf_write _ _ _⟩

theorem PendOp.leaves_writeCap (m : Memory) (r : Reg) (hw : o.kind.writes = true) (hs : o.span = 16) :
    o.leaves l m (((m.write l.off 16 r.bits.toNat).setTag l.off r.tag).setPoison l.off false) := by
  obtain ⟨hbytes, hwf⟩ := PendOp.leaves_write (l := l) m r.bits.toNat hw hs
  exact ⟨hbytes, fun h => Memory.wf_setPoison _ _ (Memory.wf_setTag _ _ (hwf h))⟩
end

/-- R97. The effect of an access at its home is none, or a change of the home's memory that leaves what it must. -/
theorem State.performAt_cases (s : State) (l : Loc) (o : PendOp) : (s.performAt l o).1 = s ∨
    ∃ m, (s.performAt l o).1 = s.setMemory l.space m ∧ o.leaves l (s.memory l.space) m := by
  cases hk : o.kind with
  | load d sgn =>
    rw [State.performAt_load hk]
    cases o.acq with
    | true => exact .inr ⟨_, rfl, fun _ _ => rfl, Memory.wf_setTag _ _⟩
    | false => exact .inl rfl
  | loadCap d lc => rw [State.performAt_loadCap hk]; exact .inl rfl
  | store =>
    rw [State.performAt_store hk]
    exact .inr ⟨_, rfl, PendOp.leaves_write _ _ (by rw [hk]; rfl) (by rw [PendOp.span, hk])⟩
  | storeCap =>
    rw [State.performAt_storeCap hk]
    exact .inr ⟨_, rfl, PendOp.leaves_writeCap _ _ (by rw [hk]; rfl) (by rw [PendOp.span, hk])⟩
  | amo d f =>
    rw [State.performAt_amo hk]
    exact .inr ⟨_, rfl, PendOp.leaves_write _ _ (by rw [hk]; rfl) (by rw [PendOp.span, hk])⟩
  | cas d e =>
    rw [State.performAt_cas hk]
    dsimp only
    split
    · exact .inr ⟨_, rfl, PendOp.leaves_write _ _ (by rw [hk]; rfl) (by rw [PendOp.span, hk])⟩
    · exact .inl rfl
  | cas2 d e lc =>
    rw [State.performAt_cas2 hk]
    dsimp only
    split
    · exact .inr ⟨_, rfl, PendOp.leaves_writeCap _ _ (by rw [hk]; rfl) (by rw [PendOp.span, hk])⟩
    · exact .inl rfl
  | reply d => simp [State.performAt, hk]
  | unit d w => simp [State.performAt, hk]
  | ack => simp [State.performAt, hk]
  | fence f => simp [State.performAt, hk]

/-- What performing the `k`-th pending access of a context may lead to: the state itself, a change of the context, or the effect at a
place of this device beside such a change. -/
def State.performedTo (s : State) (c : CtxId) (k : Nat) (t : State) : Prop :=
  t = s ∨ (∃ x, t = s.setCtx c x) ∨
    ∃ o rest l x, (s.ctx c).pend.drop k = o :: rest ∧ o.home = .local l ∧ t = (s.performAt l o).1.setCtx c x

theorem State.performNow_to (s : State) (c : CtxId) (k : Nat) (reply : BitVec 128) : s.performedTo c k (s.performNow c k reply) := by
  cases hd : (s.ctx c).pend.drop k with
  | nil => exact .inl (by simp only [State.performNow, hd])
  | cons o rest =>
    rcases hl : o.home with l | ⟨a, key⟩
    · simp only [State.performNow, hd, hl]
      split
      · exact .inr (.inl ⟨_, rfl⟩)
      · split
        · exact .inr (.inl ⟨_, rfl⟩)
        · split
          · exact .inr (.inl ⟨_, rfl⟩)
          · exact .inr (.inr ⟨o, rest, l, _, hd, hl, rfl⟩)
    · exact .inr (.inl ⟨_, State.performNow_remote hd hl reply⟩)

theorem State.perform_to (s : State) (c : CtxId) (k : Nat) (reply : BitVec 128) : s.performedTo c k (s.perform c k reply) := by
  simp only [State.perform]
  split
  · exact s.performNow_to c k reply
  · exact .inl rfl

theorem State.precede_to (s : State) (c : CtxId) (k : Nat) : s.performedTo c k (s.precede c k) := by
  unfold State.precede
  split
  · exact .inl rfl
  · split
    · split
      · exact .inl rfl
      · exact .inr (.inl ⟨_, rfl⟩)
    · exact .inl rfl

theorem execLoadComplete_to {s t : State} {c : CtxId} {k : Nat} {reply : BitVec 128} (h : exec (.loadComplete c k reply) s = .next t) :
    s.performedTo c k t := by
  change execLoadComplete c k reply s = _ at h
  cases h
  split
  · exact .inl rfl
  · split
    · exact s.precede_to c k
    · exact s.perform_to c k reply

theorem execStorePerformed_to {s t : State} {c : CtxId} {k : Nat} (h : exec (.storePerformed c k) s = .next t) : s.performedTo c k t := by
  change execStorePerformed c k s = _ at h
  cases h
  split
  · exact s.perform_to c k 0
  · exact .inl rfl

/-- R134, R137. Performing an access keeps the memory of every space but that of its place, and of that one what the access leaves. -/
theorem State.performedTo.memory {s t : State} {c : CtxId} {k : Nat} (h : s.performedTo c k t) (sp : Space) :
    t.memory sp = s.memory sp ∨ ∃ o rest l, (s.ctx c).pend.drop k = o :: rest ∧ o.home = .local l ∧ l.space = sp ∧
      o.leaves l (s.memory sp) (t.memory sp) := by
  rcases h with rfl | ⟨x, rfl⟩ | ⟨o, rest, l, x, hd, hl, rfl⟩
  · exact .inl rfl
  · exact .inl (s.memory_setCtx c x sp)
  · rw [State.memory_setCtx]
    rcases s.performAt_cases l o with he | ⟨m, he, hm⟩
    · rw [he]; exact .inl rfl
    · rw [he]
      by_cases hsp : sp = l.space
      · subst hsp
        rw [State.memory_setMemory_self]
        exact .inr ⟨o, rest, l, hd, hl, rfl, hm⟩
      · exact .inl (s.memory_setMemory_ne m hsp)

end Sys2Proof.Machine

/-! ## What is settled of the contexts' family -/

namespace Sys2Proof.Proofs

open Sys2Proof.Machine

/-- Settles O7: g0, the register written, the others, and plain data. -/
theorem registerWrites : Obligations.RegisterWrites := fun s _ _ r w =>
  ⟨State.g_zero _, fun h => h ▸ s.ctx_setG_zero r, s.g_setG_self r, s.g_setG_ne r, rfl,
    fun h => ⟨s.x_setX_self w h, congrArg Reg.tag (s.g_setG_self (Reg.plain w) h)⟩⟩

/-- Settles O9: the trapped context stands beside what the fetch of TVEC's line leaves. -/
theorem trapEntry : Obligations.TrapEntry := by
  intro s c t
  obtain ⟨ok, hu, hok⟩ := s.takeTrap_eq c t
  have hy : (s.takeTrap c t).ctx c = (s.ctx c).trapped c.slot t ok := by rw [hu, State.ctx_setCtx_self]
  obtain ⟨hcause, hpc, hval, hprog, hstatus, hpriv, huie, huia, hdom⟩ := (s.ctx c).trapped_fields c.slot t ok
  dsimp only
  rw [hy]
  refine ⟨hcause, hpc, hval, hprog, hstatus, hpriv, huie, huia, hdom, fun h => ?_, fun h => ?_, Ctx.onlyTrap_trapped _ _ _ _, hu, ?_⟩
  · rw [hok.mpr h]; exact ⟨rfl, rfl⟩
  · have hfail : ok = false := by simpa using mt hok.mp h
    rw [hfail]; exact ⟨rfl, rfl⟩
  · rw [hu]
    exact (s.sameBytesButWalk_fetchedFor _ _).setCtx _ _

/-- Settles O23: each ends or gives way once it need not wait. -/
theorem endsAndYields : Obligations.EndsAndYields := fun s =>
  ⟨fun hh hq => exec_hend_helper hh (s.hendReady_iff.mpr ⟨hq, .inl hh⟩),
    fun hh hv hm hc hb hq hs => exec_hend_control hh (State.hendChecks_ok hv hm hc hb) (s.hendReady_iff.mpr ⟨hq, .inr hs⟩),
    fun hp hq hs => exec_halt_ready hp (s.hendReady_iff.mpr ⟨hq, hs⟩),
    exec_yield_helper,
    exec_yield_control⟩

/-- Settles O26: HSTART's helper, HSTAT, and HJOIN and HKILL by the slot's state. -/
theorem helperControl : Obligations.HelperControl := by
  intro s slot n a b d o hh
  refine ⟨fun hslot ht hf => ?_, exec_hstat_control hh d, fun hl => ?_, fun hl => ?_, fun hl => ⟨_, exec_hjoin_free hh d hl⟩,
    exec_hkill_idle hh, exec_hkill_boundary hh⟩
  · have hcur : slot.toNat ≠ s.cur.slot := by rw [s.helper_eq_false_iff.mp hh]; omega
    obtain ⟨h1, h31, hrest⟩ := s.reg_newHelper slot.toNat a.toNat b.toNat (s.relTarget o)
    refine ⟨_, s.newHelper slot.toNat a.toNat b.toNat (s.relTarget o), exec_hstart_free a b hh ht hf,
      (State.ctx_setCtx_self _ _ _).symm, rfl, rfl, h1, h31, hrest, rfl, rfl, rfl, rfl, rfl, rfl, rfl, rfl, rfl, rfl,
      s.me_helperStarted _ _ _ hcur⟩
  · rw [exec_hjoin_used hh d (by rcases hl with h | h <;> rw [h] <;> decide)]
    rcases hl with h | h <;> rw [h] <;> rfl
  · rw [exec_hjoin_used hh d (by rw [hl]; decide), hl]
    rfl

/-- Settles O17: masking touches the permissions alone, moving the address alone, limiting the bounds fields alone. -/
theorem capabilitiesNeverGrow : Obligations.CapabilitiesNeverGrow := by
  refine ⟨fun r m => ?_, fun r a => ?_, fun r q n h => ?_⟩
  · have hout : ∀ k, k < 114 ∨ 121 ≤ k → _ := fun k => r.getLsbD_maskPerms_out m
    exact ⟨r.tag_maskPerms m, Reg.dom_congr fun k h _ => hout k (.inr h),
      Reg.bounds_congr (fun k _ h => hout k (.inl h)) (Reg.word_congr fun k h => hout k (.inl (by omega))), hout 127 (.inr (by decide)),
      fun k => r.getLsbD_maskPerms_in m⟩
  · exact ⟨r.word_withAddr a, Reg.dom_congr fun k h _ => r.getLsbD_withAddr_high a (by omega), fun k => r.getLsbD_withAddr_high a,
      fun h => ⟨Reg.tag_of_withAddr h, Reg.bounds_withAddr h⟩⟩
  · obtain ⟨e, base, top, he, hb, ht, rfl, hlo, hhi⟩ := Reg.limit_within h
    exact ⟨r.tag_withBounds e base top, Reg.dom_congr fun k h _ => r.getLsbD_withBounds he hb ht (.inr (by omega)),
      fun k => r.getLsbD_withBounds he hb ht, hlo, hhi⟩

/-- Settles O28: the first failing check of the capability decides, and with none failing the place that the address leads to. -/
theorem accessChecks : Obligations.AccessChecks := by
  intro s base a n k v r fails traps owned mayStore
  have hcap : s.accessCap base a n k v = _ := s.accessCap_eq base a n k v
  change _ = if r.tag = false then _ else if r.isSealed = true then _ else if owned = false then _ else if r.permits k a = false then _
    else if r.covers a.toNat n = false then _ else if a.toNat % n ≠ 0 then _ else if mayStore = false then _ else _ at hcap
  have htraps : ∀ {cause}, s.accessCap base a n k v = .error ⟨cause, a⟩ → traps cause := fun h => State.access_capFails h
  refine ⟨fun h1 => htraps ?_, fun h1 h2 => htraps ?_, fun h1 h2 h3 => htraps ?_, fun h1 h2 h3 h4 => htraps ?_, fun h1 h2 h3 h4 =>
    ⟨fun h5 => htraps ?_, fun h5 h6 => htraps ?_, fun h5 h6 h7 => htraps ?_, fun h5 h6 h7 => ?_⟩⟩
  · simpa [h1, Cause.capTag] using hcap
  · simpa [h1, h2, Cause.capSealed] using hcap
  · simpa [h1, h2, h3, Cause.capDomain] using hcap
  · simpa [h1, h2, h3, h4, Cause.capPerm] using hcap
  · simpa [h1, h2, h3, h4, h5, Cause.capBounds] using hcap
  · simpa [h1, h2, h3, h4, h5, h6, Cause.align] using hcap
  · simpa [h1, h2, h3, h4, h5, h6, h7, Cause.capPerm] using hcap
  · have hok : s.accessCap base a n k v = .ok () := by simpa [h1, h2, h3, h4, h5, h6, h7] using hcap
    exact ⟨State.afterAccess_capPasses hok, fun f => State.access_unresolved hok, fun u p hr =>
      ⟨State.access_resolved hok hr, fun hk ⟨l, hp, hm⟩ => State.access_marked hok hr hk hp hm⟩⟩

/-- Settles O33: at an open home a read that meets a mark is refused, any other access takes the effect of its kind; another device's reply
is written. -/
theorem accessesPerformed : Obligations.AccessesPerformed := by
  intro s c k reply o rest hd hmay
  refine ⟨fun l hl hfence hseal => ⟨fun hr hu hsize hearly hpoison => ?_, fun hclean => ?_⟩, fun a key hl hsent => ?_⟩
  · rw [exec_loadComplete_may hd hmay (State.sentOut_local hl) reply hr hu,
      State.performNow_marked hd hl hfence hseal reply (State.meetsMark_iff.mpr ⟨hr, hsize, hearly, hpoison⟩)]
    rfl
  · have hm : s.meetsMark l o = false := by
      rw [Bool.eq_false_iff, Ne, State.meetsMark_iff]
      rintro ⟨hr, hsize, hearly, hpoison⟩
      rcases hclean with h | h | h | h
      · exact hsize h
      · exact h hearly
      · exact absurd (hpoison.symm.trans h) (by decide)
      · exact absurd (hr.symm.trans h) (by decide)
    have hload {m u r} := exec_loadComplete_local hd hmay hl hfence hseal reply hm (m := m) (u := u) (r := r)
    have hstore {m u r} := exec_storePerformed_local hd hmay hl hfence hseal hm (m := m) (u := u) (r := r)
    exact ⟨fun d sgn hk => hload hk rfl rfl (State.performAt_load hk), fun d lc hk => hload hk rfl rfl (State.performAt_loadCap hk),
      fun d f hk => hload hk rfl rfl (State.performAt_amo hk), fun d e hk => hload hk rfl rfl (State.performAt_cas hk),
      fun d e lc hk => hload hk rfl rfl (State.performAt_cas2 hk), fun hk => hstore hk rfl rfl (State.performAt_store hk),
      fun hk => hstore hk rfl rfl (State.performAt_storeCap hk)⟩
  · refine ⟨fun hr hu => ?_, fun hk => ?_⟩
    · rw [exec_loadComplete_may hd hmay hsent reply hr hu, State.performNow_remote hd hl]
      rfl
    · obtain ⟨hr, hw, hdest⟩ : o.kind.reads = false ∧ o.kind.writes = true ∧ o.kind.dest = 0 := by
        rcases hk with hk | hk <;> rw [hk] <;> exact ⟨rfl, rfl, rfl⟩
      rw [exec_storePerformed_may hd hmay hsent hr hw, State.performNow_remote hd hl]
      simp only [Ctx.answer, hdest]

/-- Settles O36: both events lead where performing an access leads, and that keeps bytes and canonical form. -/
theorem performFrame : Obligations.PerformFrame := by
  intro s t c k reply h
  have hto : s.performedTo c k t := h.elim execLoadComplete_to execStorePerformed_to
  refine ⟨fun sp x hout => ?_, fun hwf sp => ?_⟩
  · rcases hto.memory sp with hm | ⟨o, rest, l, hd, hl, hsp, hbytes, -⟩
    · rw [hm]
    · exact hbytes x fun hw hin => hout o rest l hd hl hw ⟨hsp.symm, hin⟩
  · rcases hto.memory sp with hm | ⟨o, rest, l, -, -, -, -, hkeeps⟩
    · rw [hm]; exact hwf sp
    · exact hkeeps (hwf sp)

end Sys2Proof.Proofs

/-! ## The scalar instructions that write one register (R113 to R117, R122, R127) -/

namespace Sys2Proof.Machine

/-! ### The frame -/

/-- A context after a register's write: the register, and the next head. -/
def Ctx.withReg (x : Ctx) (d : BitVec 5) (r : Reg) : Ctx :=
  { x.setReg d.toNat r with pc := x.nextHead x.pc, waiting := false }

/-- Writing a register and completing replaces the current context. -/
theorem State.setG_advance_eq (s : State) (d : BitVec 5) (r : Reg) :
    (s.setG d r).advance = s.setCtx s.cur (s.me.withReg d r) := by
  have hline : (s.me.setReg d.toNat r).line = s.me.line := by rw [Ctx.setReg_rest]
  have hpc : (s.me.setReg d.toNat r).pc = s.me.pc := by rw [Ctx.setReg_rest]
  simp only [State.setG_eq, State.advance_eq, State.setCtx_cur, State.me_setCtx_cur, State.setCtx_setCtx, Ctx.withReg, Ctx.nextHead,
    hline, hpc]

/-- A register's write changes no other register, and nothing else of its context but the program counter. -/
theorem Ctx.onlyRegister_withReg (x : Ctx) (d : BitVec 5) (r : Reg) : OnlyRegister d x (x.withReg d r) := by
  refine ⟨?_, fun n hn => Ctx.reg_setReg_ne x r hn⟩
  rw [Ctx.withReg, Ctx.setReg_rest]

/-- The frame of every instruction that writes a register and completes. -/
theorem State.setG_advance_frame (s : State) (d : BitVec 5) (r : Reg) :
    OnlyRegister d s.me (s.setG d r).advance.me ∧ SameElsewhere s (s.setG d r).advance ∧ SameBytes s (s.setG d r).advance := by
  rw [State.setG_advance_eq, State.me_setCtx_cur]
  exact ⟨Ctx.onlyRegister_withReg _ _ _, s.sameElsewhere_setCtx _, s.sameBytes_setCtx _ _⟩

/-- The instructions that write g[D] and touch nothing else. -/
def registerForms (d a b c sel : BitVec 5) (i : BitVec 16) (k : BitVec 6) (j : BitVec 32) (w : BitVec 1) : List Instr :=
  [ .add d a b, .sub d a b, .mul d a b, .mulh d a b, .mulhu d a b, .div d a b, .divu d a b, .rem d a b, .remu d a b
  , .and_ d a b, .or_ d a b, .xor_ d a b, .andn d a b, .shl d a b, .shr d a b, .sra d a b, .rotr d a b, .min_ d a b
  , .max_ d a b, .minu d a b, .maxu d a b, .seq d a b, .sne d a b, .slt d a b, .sltu d a b, .sle d a b, .sleu d a b
  , .addi d a i, .andi d a i, .ori d a i, .xori d a i, .shli d a k, .shri d a k, .srai d a k, .rotri d a k, .slti d a i
  , .sltui d a i, .muli d a i, .clz d a, .ctz d a, .popc d a, .sextb d a, .sexth d a, .sextw d a, .zextb d a, .zexth d a
  , .zextw d a, .brev d a, .bswap d a, .ldi d j, .ldih d a j, .ldipc d j, .sel d a b c, .sfclass d a w, .kinfo d a sel
  , .kstrip d a, .kcopy d a ]

/-- Each of them writes some value to g[D] and completes. -/
theorem exec_registerForms (s : State) (d a b c sel : BitVec 5) (i : BitVec 16) (k : BitVec 6) (j : BitVec 32) (w : BitVec 1) :
    ∀ p ∈ registerForms d a b c sel i k j w, ∃ r, exec p s = .next (s.setG d r).advance := by
  simp only [registerForms, List.forall_mem_cons, List.not_mem_nil, false_implies, implies_true, and_true]
  and_intros <;> exact ⟨_, rfl⟩

/-! ### The functions of two registers, by comparisons of numbers (R113) -/

/-- An instruction that writes plain data, by another form of what it writes. -/
theorem State.retire_congr (s : State) (d : BitVec 5) {v w : Word} (h : v = w) : s.retire d v = .next (s.setX d w).advance := by
  rw [h]; rfl

theorem Int64.min_eq (x y : Word) : Int64.min x y = if x.toInt < y.toInt then x else y := by simp [Int64.min, BitVec.slt]
theorem Int64.max_eq (x y : Word) : Int64.max x y = if x.toInt < y.toInt then y else x := by simp [Int64.max, BitVec.slt]
theorem Int64.minu_eq (x y : Word) : Int64.minu x y = if x.toNat < y.toNat then x else y := by simp [Int64.minu, BitVec.ult]
theorem Int64.maxu_eq (x y : Word) : Int64.maxu x y = if x.toNat < y.toNat then y else x := by simp [Int64.maxu, BitVec.ult]
theorem Int64.seq_eq (x y : Word) : Int64.seq x y = if x = y then 1 else 0 := by simp [Int64.seq, flag]
theorem Int64.sne_eq (x y : Word) : Int64.sne x y = if x = y then 0 else 1 := by simp [Int64.sne, flag]
theorem Int64.slt_eq (x y : Word) : Int64.slt x y = if x.toInt < y.toInt then 1 else 0 := by simp [Int64.slt, flag, BitVec.slt]
theorem Int64.sltu_eq (x y : Word) : Int64.sltu x y = if x.toNat < y.toNat then 1 else 0 := by simp [Int64.sltu, flag, BitVec.ult]
theorem Int64.sle_eq (x y : Word) : Int64.sle x y = if x.toInt ≤ y.toInt then 1 else 0 := by simp [Int64.sle, flag, BitVec.sle]
theorem Int64.sleu_eq (x y : Word) : Int64.sleu x y = if x.toNat ≤ y.toNat then 1 else 0 := by simp [Int64.sleu, flag, BitVec.ule]

/-- R114. A shift amount of six bits is itself. -/
theorem Int64.amount_zext (k : BitVec 6) : Int64.amount (zext k) = k.toNat := by
  rw [Int64.amount, BitVec.toNat_setWidth]
  omega

/-! ### The functions of one register (R115) -/

/-- R115. Of `n` bits in some order, the run of zeros at their start is `r` long. -/
def ZeroRun (bit : Nat → Bool) (n r : Nat) : Prop := r ≤ n ∧ (∀ k < r, bit k = false) ∧ (r < n → bit r = true)

/-- One more bit before them. -/
theorem ZeroRun.cons {bit : Nat → Bool} {n r : Nat} (h : ZeroRun (fun k => bit (k + 1)) n r) :
    ZeroRun bit (n + 1) (if bit 0 then 0 else r + 1) := by
  obtain ⟨hle, hzeros, hone⟩ := h
  split
  · next h0 => exact ⟨Nat.zero_le _, nofun, fun _ => h0⟩
  · next h0 =>
    refine ⟨Nat.succ_le_succ hle, fun k hk => ?_, fun hlt => hone (Nat.lt_of_succ_lt_succ hlt)⟩
    cases k with
    | zero => exact Bool.eq_false_iff.mpr h0
    | succ k => exact hzeros k (Nat.lt_of_succ_lt_succ hk)

/-- R115. `leading a n` is the run of zeros at the top of the lowest `n` bits. -/
theorem Int64.leading_run (a : Word) (n : Nat) : ZeroRun (fun k => a.getLsbD (n - 1 - k)) n (Int64.leading a n) := by
  induction n with
  | zero => exact ⟨Nat.le_refl 0, nofun, nofun⟩
  | succ n ih =>
    have hbit : ∀ k, n - 1 - k = n - (k + 1) := fun k => by omega
    simp only [hbit] at ih
    exact ih.cons (bit := fun k => a.getLsbD (n - k))

/-- R115. `trailing a n` is the run of zeros at the bottom of the highest `n` bits. -/
theorem Int64.trailing_run (a : Word) {n : Nat} (hn : n ≤ 64) :
    ZeroRun (fun k => a.getLsbD (64 - n + k)) n (Int64.trailing a n) := by
  induction n with
  | zero => exact ⟨Nat.le_refl 0, nofun, nofun⟩
  | succ n ih =>
    have hbit : ∀ k, 64 - n + k = 63 - n + (k + 1) := fun k => by omega
    have hstart : 64 - (n + 1) = 63 - n := by omega
    simp only [hbit] at ih
    rw [hstart]
    exact (ih (by omega)).cons (bit := fun k => a.getLsbD (63 - n + k))

/-- R115. `ones a n` counts the one bits among the lowest `n`. -/
theorem Int64.ones_eq (a : Word) (n : Nat) : Int64.ones a n = ((List.range n).filter (fun k => a.getLsbD k)).length := by
  induction n with
  | zero => rfl
  | succ n ih =>
    rw [Int64.ones, ih, List.range_succ, List.filter_append, List.length_append]
    cases h : a.getLsbD n <;> simp [h]

/-- R115. Bit `k` of the lowest `n` bits in reverse order. -/
theorem Int64.getLsbD_reversed (a : Word) {n k : Nat} (hn : n ≤ 64) (hk : k < 64) :
    (Int64.reversed a n).getLsbD k = (decide (63 - k < n) && a.getLsbD (63 - k)) := by
  induction n with
  | zero => simp [Int64.reversed]
  | succ n ih =>
    have hone : ((1 : Word) <<< (63 - n)).getLsbD k = decide (63 - k = n) := by
      change (BitVec.twoPow 64 (63 - n)).getLsbD k = _
      rw [BitVec.getLsbD_twoPow, decide_eq_true (by omega), Bool.true_and, decide_eq_decide]
      omega
    rw [Int64.reversed, BitVec.getLsbD_or, ih (by omega), apply_ite (BitVec.getLsbD · k), hone]
    by_cases h : 63 - k = n
    · subst h
      cases a.getLsbD (63 - k) <;> simp
    · have hlt : decide (63 - k < n + 1) = decide (63 - k < n) := by rw [decide_eq_decide]; omega
      rw [hlt]
      cases a.getLsbD n <;> simp [h]

/-- A bit of an OR of words over a list. -/
theorem getLsbD_foldl_or {α : Type} (f : α → Word) (l : List α) (z : Word) (k : Nat) :
    (l.foldl (fun r i => r ||| f i) z).getLsbD k = (z.getLsbD k || l.any (fun i => (f i).getLsbD k)) := by
  induction l generalizing z with
  | nil => simp
  | cons i l ih => rw [List.foldl_cons, ih, BitVec.getLsbD_or, List.any_cons, Bool.or_assoc]

/-- R115. Bit `k` of the bytes in reverse order: byte `i` goes to byte `7 - i`. -/
theorem Int64.getLsbD_bswap (a : Word) {k : Nat} (hk : k < 64) :
    (Int64.bswap a).getLsbD k = a.getLsbD (8 * (7 - k / 8) + k % 8) := by
  have hbyte : ∀ i < 8, (zext (a.extractLsb' (8 * i) 8) <<< (8 * (7 - i))).getLsbD k =
      (decide (i = 7 - k / 8) && a.getLsbD (8 * (7 - k / 8) + k % 8)) := by
    intro i hi
    rw [BitVec.getLsbD_shiftLeft, BitVec.getLsbD_setWidth, BitVec.getLsbD_extractLsb']
    by_cases h : i = 7 - k / 8
    · subst h
      have h1 : ¬(k < 8 * (7 - (7 - k / 8))) := by omega
      have h2 : k - 8 * (7 - (7 - k / 8)) = k % 8 := by omega
      have h3 : k % 8 < 8 := by omega
      have h4 : k % 8 < 64 := by omega
      simp [hk, h1, h2, h3, h4]
    · have hout : k < 8 * (7 - i) ∨ ¬(k - 8 * (7 - i) < 8) := by omega
      rcases hout with h1 | h1 <;> simp [h, h1]
  have hzero : (0 : Word).getLsbD k = false := BitVec.getLsbD_zero
  rw [Int64.bswap, getLsbD_foldl_or, hzero, Bool.false_or, Bool.eq_iff_iff, List.any_eq_true]
  constructor
  · rintro ⟨i, hi, hb⟩
    rw [hbyte i (List.mem_range.mp hi), Bool.and_eq_true] at hb
    exact hb.2
  · intro hb
    exact ⟨7 - k / 8, List.mem_range.mpr (by omega), by rw [hbyte _ (by omega), hb]; simp⟩

/-! ### Bit fields (R117) -/

/-- The lowest `n` bits of a word. -/
theorem getLsbD_lowMask {n k : Nat} (hk : k < 64) : (w64 (2 ^ n - 1)).getLsbD k = decide (k < n) := by
  rw [BitVec.getLsbD_ofNat, Nat.testBit_two_pow_sub_one, decide_eq_true hk, Bool.true_and]

/-- R117. The bits of an extracted field: the field's, and above them its sign or zeros. -/
theorem getLsbD_extractField (a : Word) {pos len : Nat} (sgn : Bool) (h : 1 ≤ len) (hl : pos + len ≤ 64) {k : Nat} (hk : k < 64) :
    (extractField a pos len sgn).getLsbD k =
      if k < len then a.getLsbD (pos + k) else sgn && a.getLsbD (pos + len - 1) := by
  have hfield : ∀ j < 64, ((a >>> pos) &&& w64 (2 ^ len - 1)).getLsbD j = (a.getLsbD (pos + j) && decide (j < len)) := by
    intro j hj
    rw [BitVec.getLsbD_and, BitVec.getLsbD_ushiftRight, getLsbD_lowMask hj]
  have hsign : ((a >>> pos) &&& w64 (2 ^ len - 1)).getLsbD (len - 1) = a.getLsbD (pos + len - 1) := by
    rw [hfield _ (by omega), show pos + (len - 1) = pos + len - 1 by omega]
    simp; omega
  simp only [extractField, hsign]
  split
  · next hs =>
    rw [BitVec.getLsbD_or, hfield k hk, BitVec.getLsbD_not, getLsbD_lowMask hk, hs]
    by_cases h1 : k < len <;> simp [h1, hk]
  · next hs =>
    rw [hfield k hk, Bool.eq_false_iff.mpr hs]
    by_cases h1 : k < len <;> simp [h1]

/-- R117. The bits of a word with a field inserted: the field's in its place, the word's elsewhere. -/
theorem getLsbD_insertField (b a : Word) {pos len k : Nat} (hk : k < 64) :
    (insertField b a pos len).getLsbD k = if pos ≤ k ∧ k < pos + len then a.getLsbD (k - pos) else b.getLsbD k := by
  simp only [insertField, BitVec.getLsbD_or, BitVec.getLsbD_and, BitVec.getLsbD_not, BitVec.getLsbD_shiftLeft,
    getLsbD_lowMask (show k - pos < 64 by omega), hk, decide_true, Bool.true_and]
  by_cases h1 : k < pos
  · have h2 : ¬(pos ≤ k ∧ k < pos + len) := by omega
    simp [h1, h2]
  · by_cases h3 : k - pos < len
    · have h2 : pos ≤ k ∧ k < pos + len := by omega
      simp [h1, h2, h3]
    · have h2 : ¬(pos ≤ k ∧ k < pos + len) := by omega
      simp [h1, h2, h3]

/-- R117. A field within 64 bits is legal. -/
theorem fieldLegal_iff (pos lenm : BitVec 6) : fieldLegal pos lenm = true ↔ pos.toNat + (lenm.toNat + 1) ≤ 64 := by
  rw [fieldLegal, decide_eq_true_eq, Nat.add_assoc]

/-- R117. A legal field's instruction writes its register. -/
theorem exec_bitFields_legal (s : State) (d a b : BitVec 5) {pos lenm : BitVec 6} (sgn : BitVec 1) (h : fieldLegal pos lenm = true) :
    exec (.bext d a pos lenm sgn) s =
        .next (s.setX d (extractField (s.x a) pos.toNat (lenm.toNat + 1) (sgn == 1))).advance ∧
      exec (.bins d a b pos lenm) s =
        .next (s.setX d (insertField (s.x b) (s.x a) pos.toNat (lenm.toNat + 1))).advance := by
  have hneed : ∀ v, s.needOperand (fieldLegal pos lenm) v = .ok () := fun v => State.need_true _ _ _ h
  change execBext d a pos lenm sgn s = _ ∧ execBins d a b pos lenm s = _
  rw [execBext, execBins, hneed, hneed]
  exact ⟨rfl, rfl⟩

/-- R117. An illegal field is ILLEGAL_OPERAND with the T2 halfword. -/
theorem exec_bitFields_illegal (s : State) (d a b : BitVec 5) {pos lenm : BitVec 6} (sgn : BitVec 1) (h : fieldLegal pos lenm = false) :
    exec (.bext d a pos lenm sgn) s =
        .next (s.takeTrap s.cur ⟨Cause.illegalOperand, s.me.pc, fieldT2 pos lenm sgn, s.openProg⟩) ∧
      exec (.bins d a b pos lenm) s =
        .next (s.takeTrap s.cur ⟨Cause.illegalOperand, s.me.pc, fieldT2 pos lenm 0, s.openProg⟩) := by
  have hneed : ∀ v, s.needOperand (fieldLegal pos lenm) v = .error ⟨Cause.illegalOperand, s.me.pc, v, s.openProg⟩ :=
    fun v => State.need_false _ _ _ h
  change execBext d a pos lenm sgn s = _ ∧ execBins d a b pos lenm s = _
  rw [execBext, execBins, hneed, hneed]
  exact ⟨rfl, rfl⟩

/-- R117. The T2 halfword of a bit-field instruction. -/
theorem fieldT2_eq (pos lenm : BitVec 6) (sgn : BitVec 1) :
    fieldT2 pos lenm sgn = BitVec.ofNat 64 (pos.toNat + 64 * lenm.toNat + 4096 * sgn.toNat) := by
  have hsum : pos.toNat + lenm.toNat * 2 ^ 6 + sgn.toNat * 2 ^ 12 = pos.toNat + 64 * lenm.toNat + 4096 * sgn.toNat := by omega
  exact congrArg w64 hsum

end Sys2Proof.Machine

/-! ## The scalar float instructions' results (R118 to R122) -/

namespace Sys2Proof.Machine

/-- R119. A comparison's result as plain data, its flags merged. -/
theorem State.retireFlags_truth (s : State) (d : BitVec 5) (b : Bool) (f : Flags) :
    s.retireFlags d (if b then 1 else 0, f) = .next ((s.mergeFlags f).setX d (if b then 1 else 0)).advance := by
  cases b <;> rfl

end Sys2Proof.Machine

/-! ## The capability instructions (R126 to R130) -/

namespace Sys2Proof.Machine

/-! ### Their checks -/

/-- R126. The trap of a capability instruction on g[a] whose register `n` failed a check. -/
def State.capTrap (s : State) (cause : BitVec 8) (a n : BitVec 5) : Trap := ⟨cause, s.me.pc, s.x a, s.regProg n⟩

/-- R126. TRAPPROG[4:0] is the number stated. -/
theorem State.setWidth_regProg (s : State) (n : BitVec 5) : (s.regProg n).setWidth 5 = n := by
  refine BitVec.eq_of_getLsbD_eq fun i hi => ?_
  simp [State.regProg, hi]

/-- R126. An instruction that fails on register `n` traps at its own head, g[a] in TRAPVAL and `n` in TRAPPROG[4:0]. -/
theorem State.traps_of_capTrap {s : State} {p : Instr} {cause : BitVec 8} {a n : BitVec 5}
    (h : exec p s = s.finish (.error (s.capTrap cause a n))) :
    ∃ prog, prog.setWidth 5 = n ∧ exec p s = .next (s.takeTrap s.cur ⟨cause, s.me.pc, s.x a, prog⟩) :=
  ⟨s.regProg n, s.setWidth_regProg n, h⟩

/-- A check on a capability before further checks: its failure, or theirs. -/
theorem State.needCap_bind {α : Type} (s : State) (b : Bool) (cause : BitVec 8) (a n : BitVec 5) (m : Unit → Chk α) :
    s.needCap b cause a n >>= m = if b = false then .error (s.capTrap cause a n) else m () := by
  cases b <;> rfl

/-- R126. What an instruction does that wants its source tagged and unsealed. -/
def State.onSource (s : State) (a : BitVec 5) (m : Chk State) : Chk State :=
  if (s.g a).tag = false then .error (s.capTrap Cause.capTag a a)
  else if (s.g a).isSealed = true then .error (s.capTrap Cause.capSealed a a) else m

/-- R126. The checks of a source, before what follows them. -/
theorem State.source_bind (s : State) (a : BitVec 5) (m : Unit → Chk State) :
    (s.needTagged a >>= fun _ => s.needUnsealed a >>= m) = s.onSource a (m ()) := by
  simp only [State.needTagged, State.needUnsealed, State.needCap_bind, State.onSource]
  cases (s.g a).tag <;> simp

/-- R129. What KLOCK and KOPEN do once their source is right: the checks of the key g[b], in their order. -/
def State.onKey (s : State) (a b : BitVec 5) (m : Chk State) : Chk State :=
  if (s.g b).tag = false then .error (s.capTrap Cause.capTag a b)
  else if (s.g b).isSealed = true then .error (s.capTrap Cause.capSealed a b)
  else if (decide ((s.g b).dom = (s.g a).dom) && (s.g b).permW) = false then .error (s.capTrap Cause.capPerm a b)
  else if (decide ((s.g b).bounds.1 ≤ (s.g a).bounds.1) && decide ((s.g a).bounds.2 ≤ (s.g b).bounds.2)) = false then
    .error (s.capTrap Cause.capBounds a b)
  else m

theorem State.needKey_bind (s : State) (a b : BitVec 5) (m : Unit → Chk State) : s.needKey a b >>= m = s.onKey a b (m ()) := by
  simp only [State.needKey, bind_assoc]
  simp only [State.needCap_bind, State.onKey, Bool.not_eq_false']

/-! ### Their outcomes -/

section
variable (s : State) (d a b : BitVec 5)

/-- R127, R130. KMASK, KMASKI. -/
theorem State.kmask_eq (m : BitVec 7) : s.kmask d a m = s.onSource a (s.retireG d ((s.g a).maskPerms m)) := s.source_bind a _

/-- R128, R130. KLIM, KLIMI. -/
theorem State.klim_eq (n : Nat) : s.klim d a n = s.onSource a (match (s.g a).limit n with
    | some r => s.retireG d r
    | none => .error (s.capTrap Cause.capBounds a a)) := (s.source_bind a _).trans rfl

/-- R126, R127, R130. KSET, KADV, KADVI. -/
theorem State.moveCap_eq (w : Word) : s.moveCap d a w =
    if ((s.g a).tag && (s.g a).isSealed) = true then .error (s.capTrap Cause.capSealed a a)
    else s.retireG d (if (s.g a).tag then (s.g a).withAddr w else Reg.plain w) := by
  simp only [State.moveCap, State.needUnsealed, State.needCap_bind, Bool.not_eq_false']

/-- R129. KLOCK. -/
theorem exec_klock_eq : exec (.klock d a b) s =
    s.finish (s.onSource a (s.onKey a b (s.retireG d ((s.g a).setSealed true)))) := by
  change execKlock d a b s = _
  simp only [execKlock, State.needTagged, State.needCap_bind, State.needKey_bind, Bool.not_eq_false', State.onSource]

/-- R129. KOPEN. -/
theorem exec_kopen_eq : exec (.kopen d a b) s =
    s.finish (if (s.g a).tag = false then .error (s.capTrap Cause.capTag a a)
      else if (s.g a).isSealed = false then .error (s.capTrap Cause.illegalOperand a a)
      else s.onKey a b (s.retireG d ((s.g a).setSealed false))) := by
  change execKopen d a b s = _
  simp only [execKopen, State.needTagged, State.needCap_bind, State.needKey_bind]

/-- The instructions that want their source tagged and unsealed. -/
def sourceForms (d a b : BitVec 5) (i : BitVec 16) (m : BitVec 7) : List Instr :=
  [.kmask d a b, .kmaski d a m, .klim d a b, .klimi d a i, .klock d a b]

theorem exec_sourceForms (i : BitVec 16) (m : BitVec 7) :
    ∀ p ∈ sourceForms d a b i m, ∃ r, exec p s = s.finish (s.onSource a r) := by
  simp only [sourceForms, List.forall_mem_cons]
  exact ⟨⟨_, congrArg s.finish (s.kmask_eq d a _)⟩, ⟨_, congrArg s.finish (s.kmask_eq d a m)⟩,
    ⟨_, congrArg s.finish (s.klim_eq d a _)⟩, ⟨_, congrArg s.finish (s.klim_eq d a _)⟩, ⟨_, exec_klock_eq s d a b⟩,
    List.forall_mem_nil _⟩

/-- The instructions that move a capability's address, each with the address. -/
def moveForms (s : State) (d a b : BitVec 5) (i : BitVec 16) : List (Instr × Word) :=
  [(.kset d a b, s.x b), (.kadv d a b, s.x a + s.x b), (.kadvi d a i, s.x a + i.signExtend 64)]

theorem exec_moveForms (i : BitVec 16) : ∀ p ∈ moveForms s d a b i, exec p.1 s = s.finish (s.moveCap d a p.2) := by
  simp only [moveForms, List.forall_mem_cons]
  exact ⟨rfl, rfl, rfl, List.forall_mem_nil _⟩
end

section
variable {s : State} {a : BitVec 5}

theorem State.onSource_untagged (h : (s.g a).tag = false) (m : Chk State) :
    s.onSource a m = .error (s.capTrap Cause.capTag a a) := by
  rw [State.onSource, if_pos h]

theorem State.onSource_sealed (ht : (s.g a).tag = true) (hs : (s.g a).isSealed = true) (m : Chk State) :
    s.onSource a m = .error (s.capTrap Cause.capSealed a a) := by
  simp [State.onSource, ht, hs]

theorem State.onSource_open (ht : (s.g a).tag = true) (hs : (s.g a).isSealed = false) (m : Chk State) : s.onSource a m = m := by
  simp [State.onSource, ht, hs]
end

/-! ### The key's checks -/

section
variable {s : State} {a b : BitVec 5} (m : Chk State)

theorem State.onKey_untagged (h : (s.g b).tag = false) : s.onKey a b m = .error (s.capTrap Cause.capTag a b) := by
  rw [State.onKey, if_pos h]

section
variable (ht : (s.g b).tag = true)
include ht

theorem State.onKey_sealed (hs : (s.g b).isSealed = true) : s.onKey a b m = .error (s.capTrap Cause.capSealed a b) := by
  simp [State.onKey, ht, hs]

variable (hs : (s.g b).isSealed = false)
include hs

/-- R129. A key of another domain, or without W. -/
theorem State.onKey_noRight (h : (s.g b).dom ≠ (s.g a).dom ∨ (s.g b).permW = false) :
    s.onKey a b m = .error (s.capTrap Cause.capPerm a b) := by
  have hright : (decide ((s.g b).dom = (s.g a).dom) && (s.g b).permW) = false := by
    rcases h with h | h <;> simp [h]
  simp [State.onKey, ht, hs, hright]

variable (hd : (s.g b).dom = (s.g a).dom) (hw : (s.g b).permW = true)
include hd hw

/-- R129. A key whose bounds do not hold those of the source. -/
theorem State.onKey_narrow (h : (s.g a).bounds.1 < (s.g b).bounds.1 ∨ (s.g b).bounds.2 < (s.g a).bounds.2) :
    s.onKey a b m = .error (s.capTrap Cause.capBounds a b) := by
  have hin : (decide ((s.g b).bounds.1 ≤ (s.g a).bounds.1) && decide ((s.g a).bounds.2 ≤ (s.g b).bounds.2)) = false := by
    rcases h with h | h <;> simp [Int.not_le.mpr h]
  simp [State.onKey, ht, hs, hd, hw, hin]

/-- R129. A key that passes. -/
theorem State.onKey_passes (h1 : (s.g b).bounds.1 ≤ (s.g a).bounds.1) (h2 : (s.g a).bounds.2 ≤ (s.g b).bounds.2) :
    s.onKey a b m = m := by
  simp [State.onKey, ht, hs, hd, hw, h1, h2]
end
end

/-! ### The bounds of KLIM and KLIMI (R128) -/

/-- R128. An exponent serves: the span in its units fits the top field. -/
def servesExp (a n e : Nat) : Prop := ((limitSpan a n e).2 - (limitSpan a n e).1) / 2 ^ e ≤ 2 ^ 21 - 1

/-- R128. The first exponent that serves is the one found, from any start at or before it. -/
theorem limitExp_first {a n e k : Nat} (hk : k ≤ 43) (hlo : 43 - k ≤ e) (he : e ≤ 42) (hserves : servesExp a n e)
    (hfirst : ∀ f < e, ¬servesExp a n f) : limitExp a n k = some e := by
  induction k with
  | zero => omega
  | succ k ih =>
    rw [limitExp]
    by_cases h : 42 - k = e
    · subst h
      exact if_pos hserves
    · have hnot : ¬servesExp a n (42 - k) := hfirst _ (by omega)
      exact (if_neg hnot).trans (ih (by omega) (by omega))

/-- R128. Where no exponent serves, none is found. -/
theorem limitExp_none {a n k : Nat} (hnone : ∀ e ≤ 42, ¬servesExp a n e) : limitExp a n k = none := by
  induction k with
  | zero => rfl
  | succ k ih =>
    have hnot : ¬servesExp a n (42 - k) := hnone _ (by omega)
    rw [limitExp]
    exact (if_neg hnot).trans ih

section
variable {r : Reg} {n : Nat}

/-- R128. A request beyond the space has no bounds. -/
theorem Reg.limit_beyond (h : 2 ^ 64 < r.word.toNat + n) : r.limit n = none := by
  rw [Reg.limit]
  exact if_pos h

variable (hin : r.word.toNat + n ≤ 2 ^ 64)
include hin

section
variable {e : Nat} (hexp : limitExp r.word.toNat n 43 = some e)
include hexp

/-- R128. At the exponent found the request has the span's bounds where the source holds them. -/
theorem Reg.limit_some (hlo : r.bounds.1 ≤ ((limitSpan r.word.toNat n e).1 : Nat))
    (hhi : ((limitSpan r.word.toNat n e).2 : Nat) ≤ r.bounds.2) :
    ∃ q, r.limit n = some q ∧ q.exp = e ∧
      q.bounds = (((limitSpan r.word.toNat n e).1 : Int), ((limitSpan r.word.toNat n e).2 : Int)) := by
  obtain ⟨he, htop⟩ := limitExp_serves hexp
  have hunit : (limitSpan r.word.toNat n e).1 / 2 ^ e = r.word.toNat / 2 ^ e := Nat.mul_div_cancel _ (Nat.two_pow_pos e)
  have hlimit : r.limit n = some (r.withBounds e (r.word.toNat / 2 ^ e % 2 ^ 22)
      (((limitSpan r.word.toNat n e).2 - (limitSpan r.word.toNat n e).1) / 2 ^ e)) := by
    simp only [Reg.limit, Nat.not_lt.mpr hin, hexp, hunit, Int.not_lt.mpr hlo, Int.not_lt.mpr hhi, or_self, if_false]
  refine ⟨_, hlimit, (r.fields_withBounds (by omega) (Nat.mod_lt _ (by decide)) htop).1, ?_⟩
  rw [r.bounds_withBounds he htop, limitSpan_end]
  rfl

/-- R128. It has none where the source does not hold them. -/
theorem Reg.limit_outside (hout : ¬(r.bounds.1 ≤ ((limitSpan r.word.toNat n e).1 : Nat) ∧
    ((limitSpan r.word.toNat n e).2 : Nat) ≤ r.bounds.2)) : r.limit n = none := by
  have h : ((limitSpan r.word.toNat n e).1 : Int) < r.bounds.1 ∨ r.bounds.2 < ((limitSpan r.word.toNat n e).2 : Int) := by omega
  simp only [Reg.limit, Nat.not_lt.mpr hin, hexp, h, if_true, if_false]
end

section
variable (hexp : limitExp r.word.toNat n 43 = none)
include hexp

/-- R128. Where no exponent serves, the bounds are the whole space where the source holds it. -/
theorem Reg.limit_whole (hlo : r.bounds.1 ≤ 0) (hhi : 2 ^ 64 ≤ r.bounds.2) :
    ∃ q, r.limit n = some q ∧ q.exp = 63 ∧ q.bounds = (0, 2 ^ 64) := by
  have hlimit : r.limit n = some (r.withBounds 63 0 0) := by
    simp only [Reg.limit, Nat.not_lt.mpr hin, hexp, Int.not_lt.mpr hlo, Int.not_lt.mpr hhi, or_self, if_false]
  have h63 := (r.fields_withBounds (e := 63) (base := 0) (top := 0) (by decide) (by decide) (by decide)).1
  exact ⟨_, hlimit, h63, Reg.bounds_whole h63⟩

theorem Reg.limit_notWhole (hout : ¬(r.bounds.1 ≤ 0 ∧ 2 ^ 64 ≤ r.bounds.2)) : r.limit n = none := by
  have h : 0 < r.bounds.1 ∨ r.bounds.2 < 2 ^ 64 := by omega
  simp only [Reg.limit, Nat.not_lt.mpr hin, hexp, h, if_true, if_false]
end
end

/-! ### Results and traps -/

section
variable {s : State} (d : BitVec 5) {a : BitVec 5}

/-- R126. A moved capability. -/
theorem exec_moveForms_open (b : BitVec 5) (i : BitVec 16) (ht : (s.g a).tag = true) (hs : (s.g a).isSealed = false) :
    ∀ p ∈ moveForms s d a b i, exec p.1 s = .next (s.setG d ((s.g a).withAddr p.2)).advance := by
  intro p hp
  rw [exec_moveForms s d a b i p hp, State.moveCap_eq, ht, hs]
  rfl

/-- R126. A moved integer. -/
theorem exec_moveForms_untagged (b : BitVec 5) (i : BitVec 16) (ht : (s.g a).tag = false) :
    ∀ p ∈ moveForms s d a b i, exec p.1 s = .next (s.setX d p.2).advance := by
  intro p hp
  rw [exec_moveForms s d a b i p hp, State.moveCap_eq, ht]
  rfl

theorem exec_moveForms_sealed (b : BitVec 5) (i : BitVec 16) (ht : (s.g a).tag = true) (hs : (s.g a).isSealed = true) :
    ∀ p ∈ moveForms s d a b i, exec p.1 s = s.finish (.error (s.capTrap Cause.capSealed a a)) := by
  intro p hp
  rw [exec_moveForms s d a b i p hp, State.moveCap_eq, ht, hs]
  rfl

section
variable (ht : (s.g a).tag = true) (hs : (s.g a).isSealed = false)
include ht hs

theorem State.kmask_open (m : BitVec 7) : s.kmask d a m = .ok (s.setG d ((s.g a).maskPerms m)).advance := by
  rw [State.kmask_eq, State.onSource_open ht hs]; rfl

theorem State.klim_some {n : Nat} {q : Reg} (h : (s.g a).limit n = some q) : s.klim d a n = .ok (s.setG d q).advance := by
  rw [State.klim_eq, State.onSource_open ht hs, h]; rfl

theorem State.klim_none {n : Nat} (h : (s.g a).limit n = none) : s.klim d a n = .error (s.capTrap Cause.capBounds a a) := by
  rw [State.klim_eq, State.onSource_open ht hs, h]
end

/-- R129. KLOCK and KOPEN, each with the seal that it wants on its source. -/
def keyForms (d a b : BitVec 5) : List (Instr × Bool) := [(.klock d a b, false), (.kopen d a b, true)]

/-- R129. On such a source each sets the other seal where its key passes. -/
theorem exec_keyForms (b : BitVec 5) (ht : (s.g a).tag = true) : ∀ p ∈ keyForms d a b, (s.g a).isSealed = p.2 →
    exec p.1 s = s.finish (s.onKey a b (s.retireG d ((s.g a).setSealed (!p.2)))) := by
  simp only [keyForms, List.forall_mem_cons]
  refine ⟨fun hs => ?_, fun hs => ?_, List.forall_mem_nil _⟩
  · rw [exec_klock_eq, State.onSource_open ht hs]; rfl
  · rw [exec_kopen_eq, ht, hs]; rfl
end

end Sys2Proof.Machine

/-! ## Where an address leads (R131 to R133, R235, R290, R381) -/

namespace Sys2Proof.Machine

/-! ### Regions (R131) -/

section
variable (core : Nat) {a : Word}

/-- R132. The fabric addresses are those from 2^63 on. -/
theorem isFabric_iff (a : Word) : isFabric a = true ↔ 2 ^ 63 ≤ a.toNat := by
  have := a.isLt
  rw [isFabric, ← BitVec.testBit_toNat, Nat.testBit_eq_decide_div_mod_eq, decide_eq_true_eq]
  omega

theorem decodeRegion_fabric (h : 2 ^ 63 ≤ a.toNat) : decodeRegion core a = .ok .fabric := by
  rw [decodeRegion, (isFabric_iff a).mpr h]; rfl

/-- R131. Below 2^55 an address is translated. -/
theorem decodeRegion_translated (h : a.toNat < 2 ^ 55) : decodeRegion core a = .ok .translated := by
  have hf : isFabric a = false := Bool.eq_false_iff.mpr fun hf => by have := (isFabric_iff a).mp hf; omega
  simp only [decodeRegion, hf, h, if_true, Bool.false_eq_true, if_false]

/-- R131. The window that a top selects, within its size. -/
def windowRegion (core top off : Nat) : Option Region :=
  if top = 0x7E00 ∧ off < 0xC0000 then some (.spad core off)
  else if top = 0x7D00 ∧ off < 0x800000 then some (.cmem (core / 8) off)
  else if top = 0x7C00 ∧ off / 2 ^ 24 < 320 ∧ off % 2 ^ 24 < 0xC0000 then some (.spad (off / 2 ^ 24) (off % 2 ^ 24))
  else none

/-- R131. Between 2^55 and 2^63 an address lies in one of the windows, or leads nowhere. -/
theorem decodeRegion_window (h1 : 2 ^ 55 ≤ a.toNat) (h2 : a.toNat < 2 ^ 63) : decodeRegion core a =
    match windowRegion core (a.toNat / 2 ^ 48) (a.toNat % 2 ^ 48) with
    | some r => .ok r
    | none => .error ⟨Cause.pageFault, a⟩ := by
  have hf : isFabric a = false := Bool.eq_false_iff.mpr fun hf => by have := (isFabric_iff a).mp hf; omega
  have htop : bits a 63 48 = a.toNat / 2 ^ 48 := Nat.mod_eq_of_lt (by omega)
  have hoff : bits a 47 0 = a.toNat % 2 ^ 48 := by rw [bits]; omega
  have hhigh : bits a 47 33 = a.toNat % 2 ^ 48 / 2 ^ 33 := by rw [bits]; omega
  have hcore : bits a 32 24 = a.toNat % 2 ^ 48 / 2 ^ 24 % 2 ^ 9 := by rw [bits]; omega
  have hlow : bits a 23 0 = a.toNat % 2 ^ 48 % 2 ^ 24 := by rw [bits]; omega
  simp only [decodeRegion, hf, Nat.not_lt.mpr h1, if_false, Bool.false_eq_true, htop, hoff, hhigh, hcore, hlow, Config.spadBytes,
    Config.cmemBytes, clusterOf, windowRegion]
  have hlt : a.toNat % 2 ^ 48 < 2 ^ 48 := Nat.mod_lt _ (by decide)
  generalize a.toNat / 2 ^ 48 = top, a.toNat % 2 ^ 48 = off at hlt
  have hpeer : (off / 2 ^ 33 = 0 ∧ off / 2 ^ 24 % 2 ^ 9 < 320 ∧ off % 2 ^ 24 < 0xC0000) ↔
      off / 2 ^ 24 < 320 ∧ off % 2 ^ 24 < 0xC0000 := by omega
  split
  · next h =>
    simp only [hpeer]
    by_cases hin : off / 2 ^ 24 < 320 ∧ off % 2 ^ 24 < 0xC0000
    · have hc : off / 2 ^ 24 % 2 ^ 9 = off / 2 ^ 24 := by omega
      simp [hin, hc, -Nat.reducePow]
    · simp [hin, -Nat.reducePow]
  · by_cases hin : off < 0x800000 <;> simp [hin]
  · by_cases hin : off < 0xC0000 <;> simp [hin]
  · next h1 h2 h3 => rw [if_neg (fun h => h3 h.1), if_neg (fun h => h2 h.1), if_neg (fun h => h1 h.1)]
end

/-! ### Walks that a fenced die stops (R381) -/

/-- R287. A level's index takes thirteen bits. -/
theorem levelIndex_lt (va : Word) (l : Nat) : levelIndex va l < 2 ^ 13 :=
  (Nat.mod_lt _ (Nat.two_pow_pos _)).trans_le (Nat.pow_le_pow_right (by decide) (by omega))

/-- R381. A walk that ends in LINK_DOWN names the entry that the fence keeps from it. -/
theorem State.homeFenced_of_walkTables {s : State} {va : Word} {k : Access} {priv : Bool} {ls : List Nat} {t : Nat} {g : Fail}
    (h : s.walkTables va k priv ls t = .error g) (hc : g.cause = Cause.linkDown) (v : Nat) :
    s.homeFenced ⟨.main, g.val.toNat, v⟩ = true := by
  induction ls generalizing t with
  | nil =>
    cases h
    exact absurd (show Cause.pageFault = Cause.linkDown from hc) (by decide)
  | cons l ls ih =>
    have hno : ∀ {cause}, Except.error (ε := Fail) (α := Leaf) ⟨cause, va⟩ = .error g → cause ≠ Cause.linkDown → False :=
      fun he hne => by cases he; exact hne hc
    simp only [State.walkTables] at h
    split at h
    · exact (hno h (by decide)).elim
    split at h
    · next hmem hfence =>
      cases h
      have hindex := levelIndex_lt va l
      have hsmall : t + 8 * levelIndex va l < 2 ^ 64 := by rw [Config.memSize] at hmem; omega
      rw [BitVec.toNat_ofNat, Nat.mod_eq_of_lt hsmall]
      exact hfence
    split at h
    · exact (hno h (by decide)).elim
    split at h
    · exact (hno h (by decide)).elim
    split at h
    · exact ih h
    split at h
    · exact (hno h (by decide)).elim
    split at h
    · exact (hno h (by decide)).elim
    split at h
    · exact (hno h (by decide)).elim
    · cases h

theorem State.homeFenced_of_walk {s : State} {w : Who} {va : Word} {k : Access} {g : Fail} (h : s.walk w va k = .error g)
    (hc : g.cause = Cause.linkDown) (v : Nat) : s.homeFenced ⟨.main, g.val.toNat, v⟩ = true := by
  unfold State.walk at h
  split at h
  · exact State.homeFenced_of_walkTables h hc v
  · cases h
    exact absurd (show Cause.pageFault = Cause.linkDown from hc) (by decide)

/-- R290, R292. A translation fails where its walk does, or where a cached entry does not permit the access. -/
theorem State.translate_error {s : State} {w : Who} {va : Word} {k : Access} {f : Fail} (h : s.translate w va k = .error f) :
    f.cause = Cause.pagePerm ∨ ∃ g, s.walk w va k = .error g ∧ f.cause = g.cause := by
  simp only [State.translate] at h
  split at h
  · split at h
    · cases h
    · cases h; exact .inl rfl
  · split at h
    · next g hg => cases h; exact .inr ⟨g, hg, rfl⟩
    · cases h

/-! ### Places (R131 to R133) -/

section
variable {s : State} {w : Who} {a : Word} (n : Nat) (k : CapUse)

theorem State.resolve_fabric (h : decodeRegion w.core a = .ok .fabric) :
    s.resolve w a n k = .ok (s, .remote a (s.remoteKey w.core a)) := by
  rw [State.resolve, h]; rfl

theorem State.resolve_nowhere {f : Fail} (h : decodeRegion w.core a = .error f) : s.resolve w a n k = .error f := by
  rw [State.resolve, h]; rfl

/-- R133 step 5. A place of the package's own memories, where no lock refuses the access. -/
def State.lands (s : State) (w : Who) (a : Word) (n : Nat) (k : CapUse) (sp : Space) (o : Nat) : Prop :=
  (s.locked w.core ⟨sp, o, a.toNat⟩ n k.writes = false → s.resolve w a n k = .ok (s, .local ⟨sp, o, a.toNat⟩)) ∧
    (s.locked w.core ⟨sp, o, a.toNat⟩ n k.writes = true → s.resolve w a n k = .error ⟨Cause.rangeLocked, a⟩)

theorem State.lands_spad {c o : Nat} (h : decodeRegion w.core a = .ok (.spad c o)) : s.lands w a n k (.spad c) o := by
  unfold State.lands State.resolve
  rw [h]
  exact ⟨fun hl => by simp [hl, ensure, bind, Except.bind], fun hl => by simp [hl, ensure, bind, Except.bind]⟩

theorem State.lands_cmem {c o : Nat} (h : decodeRegion w.core a = .ok (.cmem c o)) : s.lands w a n k (.cmem c) o := by
  unfold State.lands State.resolve
  rw [h]
  exact ⟨fun hl => by simp [hl, ensure, bind, Except.bind], fun hl => by simp [hl, ensure, bind, Except.bind]⟩

section
variable (h : a.toNat < 2 ^ 55)
include h

theorem State.touched_translated : s.touched w a k = s.walked w a k.access := by
  rw [State.touched, decodeRegion_translated w.core h]

theorem State.resolve_translated {u : State} {l : Loc} {sl : Bool} (ht : s.translate w a k.access = .ok (u, l, sl)) :
    s.resolve w a n k = if sl = true ∧ k.writes = true then .error ⟨Cause.sealedWrite, a⟩
      else if u.locked w.core l n k.writes = true then .error ⟨Cause.rangeLocked, a⟩ else .ok (u, .local l) := by
  rw [State.resolve, decodeRegion_translated w.core h]
  simp only [bind, Except.bind, ht, ensure]
  cases sl <;> cases k.writes <;> cases u.locked w.core l n _ <;> rfl

theorem State.resolve_untranslated {f : Fail} (ht : s.translate w a k.access = .error f) :
    s.resolve w a n k = s.stoppedAt w a k f := by
  rw [State.resolve, decodeRegion_translated w.core h]
  simp only [bind, Except.bind, ht]
end

theorem State.stoppedAt_other {f : Fail} (h : f.cause ≠ Cause.linkDown) : s.stoppedAt w a k f = .error f := by
  unfold State.stoppedAt
  split
  · exact if_neg fun hc => h hc.1
  · rfl

/-- R381. A translation that a fence stops sends its access to a home that the fence closes (log 59). -/
theorem State.stoppedAt_fenced {f : Fail} (ht : s.translate w a k.access = .error f) (h : f.cause = Cause.linkDown) :
    ∃ l, s.stoppedAt w a k f = .ok (s, .local l) ∧ s.homeFenced l = true ∧ l.va = a.toNat := by
  rcases State.translate_error ht with hp | ⟨g, hg, hc⟩
  · exact absurd (hp.symm.trans h) (by decide)
  · refine ⟨⟨.main, g.val.toNat, a.toNat⟩, ?_, State.homeFenced_of_walk hg (hc.symm.trans h) _, rfl⟩
    rw [State.stoppedAt, hg]
    exact if_pos ⟨h, hc.symm.trans h⟩
end

end Sys2Proof.Machine

/-! ## Issuing an access (R133, R137 to R139, R291, R304 to R307) -/

namespace Sys2Proof.Machine

section
variable (s : State) (base : BitVec 5) (a : Word) (n : Nat) (use : CapUse) (v : Reg)

/-- R133, R291. An instruction that issues one access, its place found by `acc`, and completes, or traps on what its translation leaves. -/
def State.issueAt (acc : Chk (State × Place)) (op : Place → PendOp) : Out :=
  s.finishAccess base a n use v (acc >>= fun p => .ok (p.1.issueOps [op p.2]).advance)

section
variable {acc : Chk (State × Place)} (op : Place → PendOp)

theorem State.issueAt_ok {u : State} {home : Place} (h : acc = .ok (u, home)) :
    s.issueAt base a n use v acc op = .next (u.issueOps [op home]).advance := by
  rw [h]; rfl

theorem State.issueAt_error {t : Trap} (h : acc = .error t) :
    s.issueAt base a n use v acc op = .next ((s.afterAccess base a n use v).takeTrap s.cur t) := by
  rw [h]; rfl
end

/-- R137 to R139. An instruction that issues an access of one kind behaves by the outcome of its checks. -/
theorem State.issueAt_access {o : Out} {kind : MemKind} {data : Reg}
    (h : o = s.issueAt base a n use v (s.access base a n use v) (fun home => s.pendOp kind home n data)) :
    (∀ u home, s.access base a n use v = .ok (u, home) → o = .next (u.issueOps [s.pendOp kind home n data]).advance) ∧
      ∀ t, s.access base a n use v = .error t → o = .next ((s.afterAccess base a n use v).takeTrap s.cur t) :=
  ⟨fun _ _ hok => h.trans (s.issueAt_ok base a n use v _ hok), fun _ herr => h.trans (s.issueAt_error base a n use v _ herr)⟩
end

section
variable (s : State) (d a b c : BitVec 5) (i : BitVec 16)

/-- R137, R139. The loads of plain data: address, bytes, and whether the value is sign-extended. -/
def loadForms : List (Instr × Word × Nat × Bool) :=
  [ (.ldb d a i, s.dispAddr a i, 1, false), (.ldh d a i, s.dispAddr a i, 2, false), (.ldw d a i, s.dispAddr a i, 4, false)
  , (.ldd d a i, s.dispAddr a i, 8, false), (.ldbs d a i, s.dispAddr a i, 1, true), (.ldhs d a i, s.dispAddr a i, 2, true)
  , (.ldws d a i, s.dispAddr a i, 4, true), (.ldbx d a b, s.indexAddr a b 1, 1, false), (.ldhx d a b, s.indexAddr a b 2, 2, false)
  , (.ldwx d a b, s.indexAddr a b 4, 4, false), (.lddx d a b, s.indexAddr a b 8, 8, false) ]

theorem exec_loadForms : ∀ p ∈ loadForms s d a b i, exec p.1 s =
    s.issueAt a p.2.1 p.2.2.1 .load Reg.zero (s.access a p.2.1 p.2.2.1 .load Reg.zero)
      (fun home => s.pendOp (.load d p.2.2.2) home p.2.2.1 Reg.zero) := by
  simp only [loadForms, List.forall_mem_cons]
  exact ⟨rfl, rfl, rfl, rfl, rfl, rfl, rfl, rfl, rfl, rfl, rfl, List.forall_mem_nil _⟩

/-- R138, R139. The stores of plain data: address and bytes. -/
def storeForms : List (Instr × Word × Nat) :=
  [ (.stb c a i, s.dispAddr a i, 1), (.sth c a i, s.dispAddr a i, 2), (.stw c a i, s.dispAddr a i, 4), (.std c a i, s.dispAddr a i, 8)
  , (.stbx c a b, s.indexAddr a b 1, 1), (.sthx c a b, s.indexAddr a b 2, 2), (.stwx c a b, s.indexAddr a b 4, 4)
  , (.stdx c a b, s.indexAddr a b 8, 8) ]

theorem exec_storeForms : ∀ p ∈ storeForms s a b c i, exec p.1 s =
    s.issueAt a p.2.1 p.2.2 .store Reg.zero (s.access a p.2.1 p.2.2 .store Reg.zero)
      (fun home => s.pendOp .store home p.2.2 (s.g c)) := by
  simp only [storeForms, List.forall_mem_cons]
  exact ⟨rfl, rfl, rfl, rfl, rfl, rfl, rfl, rfl, List.forall_mem_nil _⟩
end

end Sys2Proof.Machine

/-! ## What a translation changes beside its context (R290, R291) -/

namespace Sys2Proof.Machine

/-- R290 to R292. A state differs from another at most in what a walk changes: the bytes of the leaf entry that it finds, the cached
translations, and the free-value counter. -/
def OnlyWalk (w : Who) (s u : State) (a : Word) (k : Access) : Prop :=
  u = { s with main := u.main, xcache := u.xcache, freeN := u.freeN } ∧ SameBytesButWalk w s u a k

section
variable {s u : State} {w : Who} {a : Word} {k : Access}

theorem OnlyWalk.refl (s : State) (w : Who) (a : Word) (k : Access) : OnlyWalk w s s a k := ⟨rfl, s.sameBytesButWalk_refl w a k⟩

section
variable (h : OnlyWalk w s u a k)
include h

theorem OnlyWalk.cur : u.cur = s.cur := by rw [h.1]
theorem OnlyWalk.core (n : Nat) : u.core n = s.core n := by rw [h.1]; rfl
theorem OnlyWalk.ctx (c : CtxId) : u.ctx c = s.ctx c := by rw [h.1]; rfl
theorem OnlyWalk.me : u.me = s.me := by rw [h.1]; rfl
theorem OnlyWalk.inbound : u.inbound = s.inbound := by rw [h.1]
theorem OnlyWalk.heldReqs : u.heldReqs = s.heldReqs := by rw [h.1]

/-- Nothing outside the current context has changed but what a walk changes. -/
theorem OnlyWalk.sameButWalkOf : SameButWalkOf w s u a k := by
  obtain ⟨hu, hbytes⟩ := h
  rw [hu] at hbytes ⊢
  exact ⟨rfl, fun _ _ => rfl, rfl, fun _ _ => rfl, hbytes⟩

/-- Nor where the current context has changed as well. -/
theorem OnlyWalk.sameButWalkOf_setCtx (x : Ctx) : SameButWalkOf w s (u.setCtx s.cur x) a k := by
  obtain ⟨hu, hbytes⟩ := h
  rw [hu] at hbytes ⊢
  exact ⟨rfl, fun n hn => State.core_setCtx_ne _ x hn, State.core_setCtx_rest _ s.cur x s.cur.core,
    fun c hc => State.ctx_setCtx_ne _ x hc, hbytes.setCtx _ _⟩
end

/-- R291. A translation. -/
theorem State.onlyWalk_of_translate {l : Loc} {b : Bool} (h : s.translate w a k = .ok (u, l, b)) : OnlyWalk w s u a k :=
  ⟨State.translate_frame h, State.sameBytesButWalk_of_translate h⟩

theorem State.onlyWalk_walked (s : State) (w : Who) (a : Word) (k : Access) : OnlyWalk w s (s.walked w a k) a k := by
  unfold State.walked
  split
  · next h => exact State.onlyWalk_of_translate h
  · exact OnlyWalk.refl s w a k

/-- R291. The fetch of a target's line. -/
theorem State.onlyWalk_fetchedFor (s : State) (w : Who) (a : Word) : OnlyWalk w s (s.fetchedFor w a) (lineAddr a) .fetch :=
  ⟨s.fetchedFor_frame w a, s.sameBytesButWalk_fetchedFor w a⟩

/-- R291. The translation of an access, whatever check fails after it. -/
theorem State.onlyWalk_touched (s : State) (w : Who) (a : Word) (k : CapUse) : OnlyWalk w s (s.touched w a k) a k.access := by
  unfold State.touched
  split
  · exact s.onlyWalk_walked w a _
  · exact OnlyWalk.refl s w a _

theorem State.onlyWalk_afterAccess (s : State) (base : BitVec 5) (a : Word) (n : Nat) (k : CapUse) (v : Reg) :
    OnlyWalk (s.who s.cur) s (s.afterAccess base a n k v) a k.access := by
  unfold State.afterAccess
  split
  · exact s.onlyWalk_touched _ a k
  · exact OnlyWalk.refl s _ a _

/-- R133. A check before a place that leaves the state as it stands. -/
theorem ensure_bind_ok {α : Type} {b : Bool} {cause : BitVec 8} {val : Word} {m : Res α} {x : α}
    (h : (ensure b cause val >>= fun _ => m) = .ok x) : m = .ok x := by
  rw [ensure_bind] at h
  split at h
  · cases h
  · exact h

/-- R133, R291. An access on its way to its place. -/
theorem State.onlyWalk_of_resolve {n : Nat} {k : CapUse} {p : Place} (h : s.resolve w a n k = .ok (u, p)) :
    OnlyWalk w s u a k.access := by
  have hrefl := OnlyWalk.refl s w a k.access
  unfold State.resolve at h
  cases hr : decodeRegion w.core a with
  | error f => rw [hr] at h; cases h
  | ok r =>
    rw [hr] at h
    cases r with
    | fabric => cases h; exact hrefl
    | spad c o => cases ensure_bind_ok h; exact hrefl
    | cmem c o => cases ensure_bind_ok h; exact hrefl
    | translated =>
      change (match s.translate w a k.access with
        | .error f => s.stoppedAt w a k f
        | .ok (s1, l, sealed) => _) = _ at h
      split at h
      · unfold State.stoppedAt at h
        split at h
        · split at h
          · cases h; exact hrefl
          · cases h
        · cases h
      · next ht =>
        cases ensure_bind_ok (ensure_bind_ok h)
        exact State.onlyWalk_of_translate ht

/-- R184. And where it meets no mark there. -/
theorem State.resolve_of_locate {n : Nat} {k : CapUse} {p : Place} (h : s.locate a n k = .ok (u, p)) :
    s.resolve (s.who s.cur) a n k = .ok (u, p) := by
  unfold State.locate at h
  cases hr : s.resolve (s.who s.cur) a n k with
  | error f => rw [hr] at h; cases h
  | ok q =>
    obtain ⟨u', p'⟩ := q
    rw [hr] at h
    change (if k = .store then .ok (u', p') else u'.checkPoison p' a n >>= fun _ => .ok (u', p')) = _ at h
    split at h
    · exact h
    · cases hc : u'.checkPoison p' a n with
      | error f => rw [hc] at h; cases h
      | ok _ => rw [hc] at h; exact h

theorem State.onlyWalk_of_access {base : BitVec 5} {n : Nat} {k : CapUse} {v : Reg} {p : Place}
    (h : s.access base a n k v = .ok (u, p)) : OnlyWalk (s.who s.cur) s u a k.access := by
  unfold State.access at h
  cases hc : s.accessCap base a n k v with
  | error f => rw [hc] at h; cases h
  | ok _ =>
    rw [hc] at h
    change s.check (s.locate a n k) _ = _ at h
    cases hl : s.locate a n k with
    | error f => rw [hl] at h; cases h
    | ok q =>
      rw [hl] at h
      cases h
      exact State.onlyWalk_of_resolve (State.resolve_of_locate hl)
end

end Sys2Proof.Machine

/-! ## Load and store multiple (R140, R141) -/

namespace Sys2Proof.Machine

/-- R140, R141. What `multiple` issues from element `k` on, of `fuel` elements: accesses of the instruction, of 8 bytes each; all of
them, or those before one that traps with their count in TRAPPROG. -/
theorem State.multiple_spec {s u : State} {load : Bool} {f a : BitVec 5} {addr : Word} {fuel k : Nat} {ops ops' : List PendOp}
    {t : Option Trap} (h : s.multiple load f a addr fuel k ops = (u, ops', t)) :
    ∃ new, ops' = ops ++ new ∧ (∀ o ∈ new, o.seq = s.me.pendSeq ∧ o.size = 8) ∧
      match t with
      | none => new.length = fuel
      | some t => t.pc = s.me.pc ∧ t.prog = accessProg a (!load) (k + new.length) true := by
  induction fuel generalizing s k ops with
  | zero =>
    cases h
    exact ⟨[], (List.append_nil _).symm, List.forall_mem_nil _, rfl⟩
  | succ fuel ih =>
    rw [State.multiple] at h
    split at h
    · cases h
      exact ⟨[], (List.append_nil _).symm, List.forall_mem_nil _, rfl, rfl⟩
    · next s1 p hp =>
      have hme := (State.onlyWalk_of_resolve (State.resolve_of_locate hp)).me
      obtain ⟨new, hops, hall, hend⟩ := ih h
      rw [hme] at hall hend
      refine ⟨_ :: new, by rw [hops, List.append_assoc]; rfl, List.forall_mem_cons.mpr ⟨⟨rfl, rfl⟩, hall⟩, ?_⟩
      cases t with
      | none => rw [List.length_cons, hend]
      | some t => rw [List.length_cons, ← Nat.add_assoc, Nat.add_right_comm]; exact hend

/-- R140. A register range is legal: g[F] to g[L] without g0, and of LDM without its base. -/
def multipleLegal (load : Bool) (f l a : BitVec 5) : Bool :=
  decide (f ≠ 0) && decide (f.toNat ≤ l.toNat) && !(load && decide (f.toNat ≤ a.toNat) && decide (a.toNat ≤ l.toNat))

theorem multipleLegal_iff (load : Bool) (f l a : BitVec 5) : multipleLegal load f l a = true ↔
    f ≠ 0 ∧ f.toNat ≤ l.toNat ∧ (load = true → a.toNat < f.toNat ∨ l.toNat < a.toNat) := by
  cases load
  · simp [multipleLegal]
  · simp [multipleLegal, and_assoc]

/-- R140, R141. What the elements' outcome makes of the instruction: all are issued, or those before one that traps are transferred first,
once the accesses that they must follow are performed. -/
def State.multipleOutcome (s : State) : State × List PendOp × Option Trap → Out
  | (u, ops, none) => .next (u.modMe (·.issue ops)).advance
  | (u, ops, some t) => .next (if ops.any (fun o => heldBack (s.me.pend.map (·.swapped)) o) then s.hold
      else (u.transferNow ops).takeTrap s.cur t)

section
variable {s : State} {load : Bool} {f l a : BitVec 5} {i : BitVec 16}

/-- R140. An illegal range is ILLEGAL_OPERAND with F and L. -/
theorem State.moveMultiple_illegal (h : multipleLegal load f l a = false) : s.moveMultiple load f l a i =
    .next (s.takeTrap s.cur ⟨Cause.illegalOperand, s.me.pc, w64 (f.toNat + l.toNat * 2 ^ 8), s.openProg⟩) := by
  have hneed : s.needOperand (multipleLegal load f l a) (w64 (f.toNat + l.toNat * 2 ^ 8)) = _ := State.need_false _ _ _ h
  unfold multipleLegal at hneed
  simp only [State.moveMultiple, hneed, bind, Except.bind]

section
variable (h : multipleLegal load f l a = true)
  (hcap : checkCap (s.g a) s.me.dom s.me.priv (if load then .load else .store) (s.dispAddr a i) (8 * (l.toNat - f.toNat + 1)) 8 = .ok ())
  (hfab : isFabric (s.dispAddr a i) = false)
include h hcap hfab

/-- R140, R141. Within its rights it does what its elements' outcome says. -/
theorem State.moveMultiple_legal : s.moveMultiple load f l a i = s.multipleOutcome
    (s.multiple load f a (s.dispAddr a i) (l.toNat - f.toNat + 1 - s.me.resumeCount) s.me.resumeCount []) := by
  have hneed : s.needOperand (multipleLegal load f l a) (w64 (f.toNat + l.toNat * 2 ^ 8)) = .ok () := State.need_true _ _ _ h
  unfold multipleLegal at hneed
  simp only [State.moveMultiple, hneed, bind, Except.bind, hcap, hfab, ensure, State.check, asTrap, Bool.not_false, if_true]
  rcases s.multiple load f a (s.dispAddr a i) (l.toNat - f.toNat + 1 - s.me.resumeCount) s.me.resumeCount [] with ⟨u, ops, t⟩
  cases t <;> rfl
end
end

end Sys2Proof.Machine

/-! ## The frame of issuing an access (R133, R291, R399) -/

namespace Sys2Proof.Machine

/-! ### The context -/

/-- R87. Awaiting registers changes nothing else of a context. -/
theorem Ctx.foldl_await_rest (ops : List PendOp) (c : Ctx) :
    ops.foldl (fun x o => x.await o.kind.dest) c = { c with awaits := (ops.foldl (fun x o => x.await o.kind.dest) c).awaits } := by
  induction ops generalizing c with
  | nil => rfl
  | cons o ops ih =>
    have hone : c.await o.kind.dest = { c with awaits := (c.await o.kind.dest).awaits } := by
      unfold Ctx.await
      split <;> rfl
    rw [List.foldl_cons, ih, hone]

/-- R97. Issuing accesses changes the pending ones, the counts and the awaited registers of a context. -/
theorem Ctx.issue_rest (c : Ctx) (ops : List PendOp) : c.issue ops = { c with
    pend := (c.issue ops).pend, pendSeq := (c.issue ops).pendSeq, awaits := (c.issue ops).awaits
    cntLoad := (c.issue ops).cntLoad, cntStore := (c.issue ops).cntStore } := by
  cases ops with
  | nil => rfl
  | cons o ops =>
    simp only [Ctx.issue]
    rw [Ctx.foldl_await_rest]
    split <;> rfl

/-- A context after an instruction that issued accesses and completed. -/
def Ctx.issued (c : Ctx) (ops : List PendOp) : Ctx := { c.issue ops with pc := c.nextHead c.pc, waiting := false }

theorem Ctx.reg_issued (c : Ctx) (ops : List PendOp) (n : Nat) : (c.issued ops).reg n = c.reg n := by
  rw [Ctx.issued, Ctx.issue_rest]; rfl

theorem Ctx.flags_issued (c : Ctx) (ops : List PendOp) : (c.issued ops).flags = c.flags := by
  rw [Ctx.issued, Ctx.issue_rest]

/-! ### The state -/

/-- A change of the current core after its replacement. -/
theorem State.modMyCore_setCore (s : State) (k : Core) (f : Core → Core) :
    (s.setCore s.cur.core k).modMyCore f = s.setCore s.cur.core (f k) := by
  rw [State.modMyCore_eq, State.myCore_eq, State.setCore_cur, State.core_setCore_self, State.setCore_setCore]

/-- A change of a context after the replacement of its core. -/
theorem State.setCtx_setCore (s : State) (c : CtxId) (k : Core) (x : Ctx) :
    (s.setCore c.core k).setCtx c x = s.setCore c.core { k with ctxs := SMap.set k.ctxs c.slot x } := by
  rw [State.setCtx, State.modCore_eq, State.core_setCore_self, State.setCore_setCore]

/-- R97, R399. A state whose current context is another, with other request tags on its core and other requests at the network interface. -/
def State.sending (s : State) (x : Ctx) (tags : SMap Nat) (inb held : List Request) : State :=
  { s.setCore s.cur.core { s.myCore with ctxs := SMap.set s.myCore.ctxs s.cur.slot x, tags := tags } with
    inbound := inb, heldReqs := held }

/-- R399. The same with the requests put aside, and the count of request tags what it was. -/
def State.unsent (t s : State) : State :=
  ({ t with inbound := s.inbound, heldReqs := s.heldReqs } : State).modMyCore (fun q => { q with tags := s.myCore.tags })

section
variable (s : State) (x y : Ctx) (tags : SMap Nat) (inb held : List Request)

theorem State.me_sending : (s.sending x tags inb held).me = x := by
  change SMap.getD ((s.setCore s.cur.core _).core s.cur.core).ctxs s.cur.slot Ctx.reset = x
  rw [State.core_setCore_self, SMap.getD_set_self]

theorem State.setCtx_sending : (s.sending x tags inb held).setCtx s.cur y = s.sending y tags inb held := by
  change { (s.setCore s.cur.core _).setCtx s.cur y with inbound := inb, heldReqs := held } = _
  rw [State.setCtx_setCore, SMap.set_set]
  rfl

/-- Such a state differs from the first in the current context alone, once the requests are put aside. -/
theorem State.unsent_sending : (s.sending x tags inb held).unsent s = s.setCtx s.cur x := by
  change (s.setCore s.cur.core _).modMyCore _ = _
  rw [State.modMyCore_setCore]
  rfl
end

/-- R399. Counting request tags leads to such a state. -/
theorem State.useTags_sending (s : State) (x : Ctx) (n : Nat) :
    ∃ tags, (s.setCtx s.cur x).useTags n = s.sending x tags s.inbound s.heldReqs := by
  unfold State.useTags
  split
  · exact ⟨s.myCore.tags, rfl⟩
  · exact ⟨_, s.modMyCore_setCore _ _⟩

/-- R97, R399. So does issuing accesses. -/
theorem State.issueOps_sending (s : State) (ops : List PendOp) :
    ∃ tags inb held, s.issueOps ops = s.sending (s.me.issue ops) tags inb held := by
  have hissue : ∃ n reqs, s.issueOps ops = ((s.setCtx s.cur (s.me.issue ops)).useTags n).enqueue reqs s.reconfiguring := ⟨_, _, rfl⟩
  obtain ⟨n, reqs, h⟩ := hissue
  obtain ⟨tags, htags⟩ := s.useTags_sending (s.me.issue ops) n
  rw [htags] at h
  exact ⟨tags, _, _, h⟩

/-- R97, R399. And so does an instruction that issues accesses and completes. -/
theorem State.issueOps_advance (s : State) (ops : List PendOp) :
    ∃ tags inb held, (s.issueOps ops).advance = s.sending (s.me.issued ops) tags inb held := by
  obtain ⟨tags, inb, held, h⟩ := s.issueOps_sending ops
  have hcur : (s.sending (s.me.issue ops) tags inb held).cur = s.cur := rfl
  have hnext : (s.me.issue ops).nextHead (s.me.issue ops).pc = s.me.nextHead s.me.pc := by
    rw [Ctx.issue_rest]; rfl
  refine ⟨tags, inb, held, ?_⟩
  rw [h, State.advance_eq, State.me_sending, hcur, State.setCtx_sending, hnext]
  rfl

/-! ### The frame -/

/-- R133, R291, R399. What an instruction that issues an access leaves: the registers and the flags, and beside the context what its walk
needs and, where it traps, that of TVEC's line. -/
def IssuedFrame (s t : State) (a : Word) (k : Access) : Prop :=
  (∀ n, t.me.reg n = s.me.reg n) ∧ t.me.flags = s.me.flags ∧
    (SameButWalk s (t.unsent s) a k ∨ (OnlyTrap s.me t.me ∧ SameButTrapWalks s t a k))

section
variable {s u : State} {a : Word} {k : Access} (h : OnlyWalk (s.who s.cur) s u a k)
include h

/-- Where the access is issued. -/
theorem OnlyWalk.issuedFrame_issue (ops : List PendOp) : IssuedFrame s (u.issueOps ops).advance a k := by
  obtain ⟨tags, inb, held, hadv⟩ := u.issueOps_advance ops
  have hunsent : (u.sending (u.me.issued ops) tags inb held).unsent s = u.setCtx s.cur (u.me.issued ops) := by
    rw [← h.cur, ← u.unsent_sending _ tags inb held, State.unsent, State.unsent, h.inbound, h.heldReqs, State.myCore_eq,
      State.myCore_eq, h.cur, h.core]
  rw [hadv, IssuedFrame, State.me_sending, hunsent]
  refine ⟨fun n => ?_, ?_, .inl (h.sameButWalkOf_setCtx _)⟩
  · rw [Ctx.reg_issued, h.me]
  · rw [Ctx.flags_issued, h.me]

/-- Where it traps. -/
theorem OnlyWalk.issuedFrame_trap (t : Trap) : IssuedFrame s (u.takeTrap s.cur t) a k := by
  obtain ⟨ok, hu, -⟩ := u.takeTrap_eq s.cur t
  have hctx : u.ctx s.cur = s.me := h.ctx s.cur
  have hreader : u.trapReader s.cur = s.trapReader s.cur := by simp only [State.trapReader, State.who, h.ctx]
  rw [hctx, hreader] at hu
  have hcur : (u.fetchedFor (s.trapReader s.cur) s.me.tvec).cur = s.cur := (State.cur_fetchedFor _ _ _).trans h.cur
  have hme : (u.takeTrap s.cur t).me = s.me.trapped s.cur.slot t ok := by
    rw [hu, State.me_eq, State.setCtx_cur, hcur, State.ctx_setCtx_self]
  refine ⟨fun n => ?_, ?_, .inr ⟨?_, u, h.sameButWalkOf, h.me, ?_⟩⟩
  · rw [hme, Ctx.reg_trapped]
  · rw [hme]; cases ok <;> rfl
  · rw [hme]; exact Ctx.onlyTrap_trapped _ _ _ _
  · rw [hu, ← h.cur]
    exact (u.onlyWalk_fetchedFor _ _).sameButWalkOf_setCtx _
end

/-- Where the context alone changes, and keeps its registers and flags. -/
theorem State.issuedFrame_setCtx (s : State) {x : Ctx} (a : Word) (k : Access) (hreg : ∀ n, x.reg n = s.me.reg n)
    (hflags : x.flags = s.me.flags) : IssuedFrame s (s.setCtx s.cur x) a k := by
  have hunsent : (s.setCtx s.cur x).unsent s = s.setCtx s.cur x := s.unsent_sending x s.myCore.tags s.inbound s.heldReqs
  rw [IssuedFrame, State.me_setCtx_cur, hunsent]
  exact ⟨hreg, hflags, .inl ((OnlyWalk.refl s _ a k).sameButWalkOf_setCtx x)⟩

/-- R294. An ordered access finds its place as any access does. -/
theorem State.access_of_orderedAccess {s u : State} {base : BitVec 5} {n : Nat} {use : CapUse} {v : Reg} {home : Place}
    (h : s.orderedAccess base n use v = .ok (u, home)) : s.access base (s.x base) n use v = .ok (u, home) := by
  unfold State.orderedAccess at h
  cases ha : s.access base (s.x base) n use v with
  | error t => rw [ha] at h; cases h
  | ok q =>
    obtain ⟨u', home'⟩ := q
    rw [ha] at h
    rcases home' with l | ⟨_, _⟩
    · change (s.need (decide (l.space ≠ .host)) Cause.illegalOperand (s.x base) s.openProg >>= fun _ => .ok (u', Home.local l)) = _ at h
      cases hn : s.need (decide (l.space ≠ .host)) Cause.illegalOperand (s.x base) s.openProg with
      | error t => rw [hn] at h; cases h
      | ok _ => rw [hn] at h; exact h
    · exact h

section
variable {s t : State} {base : BitVec 5} {a : Word} {n : Nat} (use : CapUse) {v : Reg} {op : Place → PendOp}

/-- R133, R291. The frame of every instruction that issues one access. -/
theorem State.issueAt_frame {acc : Chk (State × Place)}
    (hacc : ∀ u home, acc = .ok (u, home) → s.access base a n use v = .ok (u, home))
    (h : s.issueAt base a n use v acc op = .next t) : IssuedFrame s t a use.access := by
  cases hr : acc with
  | ok p =>
    rw [s.issueAt_ok base a n use v op hr] at h
    cases h
    exact (State.onlyWalk_of_access (hacc _ _ hr)).issuedFrame_issue _
  | error e =>
    rw [s.issueAt_error base a n use v op hr] at h
    cases h
    exact (s.onlyWalk_afterAccess base a n use v).issuedFrame_trap e

theorem State.access_frame (h : s.issueAt base a n use v (s.access base a n use v) op = .next t) : IssuedFrame s t a use.access :=
  State.issueAt_frame use (fun _ _ hacc => hacc) h

theorem State.orderedAccess_frame (h : s.issueAt base (s.x base) n use v (s.orderedAccess base n use v) op = .next t) :
    IssuedFrame s t (s.x base) use.access :=
  State.issueAt_frame use (fun _ _ => State.access_of_orderedAccess) h
end

section
variable {s t : State} {d a b c : BitVec 5}

theorem State.load_frame {w : Word} {n : Nat} {sgn : Bool} (h : s.load d a w n sgn = .next t) : IssuedFrame s t w .load :=
  State.access_frame (op := fun home => s.pendOp (.load d sgn) home n Reg.zero) .load h

theorem State.store_frame {w : Word} {n : Nat} (h : s.store c a w n = .next t) : IssuedFrame s t w .store :=
  State.access_frame (op := fun home => s.pendOp .store home n (s.g c)) .store h

theorem exec_ldc_frame {i : BitVec 16} (h : exec (.ldc d a i) s = .next t) : IssuedFrame s t (s.dispAddr a i) .load :=
  State.access_frame (op := fun home => s.pendOp (.loadCap d (s.g a).permLC) home 16 Reg.zero) .load h

theorem exec_stc_frame {i : BitVec 16} (h : exec (.stc c a i) s = .next t) : IssuedFrame s t (s.dispAddr a i) .store :=
  State.access_frame (op := fun home => s.pendOp .storeCap home 16 (s.g c)) .store h

theorem State.issueOrdered_frame {n : Nat} {use : CapUse} {kind : MemKind} {data v : Reg} {order scope : BitVec 3}
    (h : s.issueOrdered a n use kind data v order scope = .next t) : IssuedFrame s t (s.x a) use.access :=
  State.orderedAccess_frame (op := fun home => (s.pendOp kind home n data).ordered order scope) use h

variable {scope order : BitVec 3} {size : BitVec 2} {fa : BitVec 1}

theorem State.issueAmo_frame {f : AmoOp} (h : s.issueAmo f d a b scope order size = .next t) : IssuedFrame s t (s.x a) .atomic :=
  State.issueOrdered_frame (use := .atomic) h

theorem exec_cas_frame (h : exec (.cas d a b scope order size fa c) s = .next t) : IssuedFrame s t (s.x a) .atomic :=
  State.orderedAccess_frame
    (op := fun home => (s.pendOp (.cas d (s.x b)) home (sizeBytes size) (s.g c)).swapping order scope fa) .atomic h

theorem exec_cas2_frame (h : exec (.cas2 d a b scope order fa c) s = .next t) : IssuedFrame s t (s.x a) .atomic :=
  State.orderedAccess_frame
    (op := fun home => (s.pendOp (.cas2 d (s.g b) (s.g a).permLC) home 16 (s.g c)).swapping order scope fa) .atomic h
end

/-- R308. The frame of FENCE. -/
theorem exec_fence_frame {s t : State} {scope kind : BitVec 3} (a : Word) (k : Access) (h : exec (.fence scope kind) s = .next t) :
    IssuedFrame s t a k := by
  change execFence scope kind s = .next t at h
  unfold execFence State.waitFor at h
  cases h
  split
  · rw [State.modMe_eq, State.advance_eq, State.setCtx_cur, State.me_setCtx_cur, State.setCtx_setCtx]
    refine s.issuedFrame_setCtx a k (fun n => ?_) ?_
    · split <;> rfl
    · split <;> rfl
  · exact s.issuedFrame_setCtx a k (fun _ => rfl) rfl

end Sys2Proof.Machine

/-! ## What is settled of the scalar instructions' family -/

namespace Sys2Proof.Proofs

open Sys2Proof.Machine

/-- Settles O13: each of them writes one register, and that changes its own context alone. -/
theorem integerFrame : Obligations.IntegerFrame := by
  intro s t d a b c sel i k j w p hp h
  obtain ⟨r, hr⟩ := exec_registerForms s d a b c sel i k j w p hp
  cases hr.symm.trans h
  exact s.setG_advance_frame d r

/-- Settles O10: each writes its function of the two registers, minima, maxima and comparisons by the numbers that they compare. -/
theorem integerResults : Obligations.IntegerResults := by
  intro s d a b x y n
  simp only [List.forall_mem_cons]
  exact ⟨rfl, rfl, rfl, rfl, rfl, rfl, rfl, rfl, rfl, rfl, rfl, rfl, rfl, rfl, rfl, rfl, rfl,
    s.retire_congr d (Int64.min_eq x y), s.retire_congr d (Int64.max_eq x y), s.retire_congr d (Int64.minu_eq x y),
    s.retire_congr d (Int64.maxu_eq x y), s.retire_congr d (Int64.seq_eq x y), s.retire_congr d (Int64.sne_eq x y),
    s.retire_congr d (Int64.slt_eq x y), s.retire_congr d (Int64.sltu_eq x y), s.retire_congr d (Int64.sle_eq x y),
    s.retire_congr d (Int64.sleu_eq x y), List.forall_mem_nil _⟩

/-- Settles O11: the immediate forms as the register forms, with the amount of a shift in its six bits; the counts and reversals by
their bits. -/
theorem immediateAndUnaryResults : Obligations.ImmediateAndUnaryResults := by
  refine ⟨fun s d a b c i k j => ?_, fun s d a => ?_⟩
  · intro x y
    have hshift : ∀ f : Word → Nat → Word, f x (Int64.amount (zext k)) = f x k.toNat := fun f => by rw [Int64.amount_zext]
    simp only [List.forall_mem_cons]
    exact ⟨⟨rfl, rfl, rfl, rfl, s.retire_congr d (hshift (· <<< ·)), s.retire_congr d (hshift (· >>> ·)),
      s.retire_congr d (hshift BitVec.sshiftRight), s.retire_congr d (hshift BitVec.rotateRight),
      s.retire_congr d (Int64.slt_eq x y), s.retire_congr d (Int64.sltu_eq x y), rfl, rfl, rfl, rfl, List.forall_mem_nil _⟩, rfl⟩
  · intro x
    obtain ⟨hclz, hclzZeros, hclzOne⟩ := Int64.leading_run x 64
    obtain ⟨hctz, hctzZeros, hctzOne⟩ := Int64.trailing_run x (Nat.le_refl 64)
    simp only [Nat.sub_self, Nat.zero_add] at hctzZeros hctzOne
    refine ⟨⟨_, hclz, hclzZeros, hclzOne, rfl⟩, ⟨_, hctz, hctzZeros, hctzOne, rfl⟩,
      s.retire_congr d (congrArg w64 (Int64.ones_eq x 64)), ⟨Int64.brev x, fun k hk => ?_, rfl⟩,
      ⟨Int64.bswap x, fun k hk => Int64.getLsbD_bswap x hk, rfl⟩, ?_⟩
    · rw [Int64.brev, Int64.getLsbD_reversed x (Nat.le_refl 64) hk, decide_eq_true (by omega), Bool.true_and]
    · simp only [List.forall_mem_cons]
      exact ⟨rfl, rfl, rfl, s.retire_congr d (setWidth_setWidth_eq_and x 8), s.retire_congr d (setWidth_setWidth_eq_and x 16),
        s.retire_congr d (setWidth_setWidth_eq_and x 32), List.forall_mem_nil _⟩

/-- Settles O12: a legal field bit by bit, and an illegal one's trap. -/
theorem bitFieldResults : Obligations.BitFieldResults := by
  intro s d a b pos lenm sgn x y len
  refine ⟨fun h => ?_, fun h => ?_⟩
  · obtain ⟨hbext, hbins⟩ := exec_bitFields_legal s d a b sgn ((fieldLegal_iff pos lenm).mpr h)
    exact ⟨⟨_, hbext, fun k hk => getLsbD_extractField x _ (Nat.le_add_left 1 _) h hk⟩,
      ⟨_, hbins, fun k hk => getLsbD_insertField y x hk⟩⟩
  · have hill : fieldLegal pos lenm = false :=
      Bool.eq_false_iff.mpr fun hl => absurd ((fieldLegal_iff pos lenm).mp hl) (Nat.not_le.mpr h)
    obtain ⟨hbext, hbins⟩ := exec_bitFields_illegal s d a b sgn hill
    rw [fieldT2_eq] at hbext hbins
    exact ⟨⟨_, hbext⟩, ⟨_, hbins⟩⟩

/-- Settles O14: arithmetic and the conversion retire what they compute, and a comparison its truth. -/
theorem floatResults : Obligations.FloatResults := by
  intro s w d a b c src dst rnd f m x y z
  refine ⟨?_, ?_, ⟨_, rfl, rfl⟩, rfl⟩
  · simp only [List.forall_mem_cons]
    exact ⟨rfl, rfl, rfl, rfl, rfl, rfl, rfl, rfl, List.forall_mem_nil _⟩
  · simp only [List.forall_mem_cons]
    exact ⟨s.retireFlags_truth d _ _, s.retireFlags_truth d _ _, s.retireFlags_truth d _ _, List.forall_mem_nil _⟩

/-- Settles O16: the results where the checks pass, the bounds that limiting finds, and the traps in the order of the checks. -/
theorem capabilityResults : Obligations.CapabilityResults := by
  refine ⟨?_, ?_, ?_⟩
  · intro s d a b sel i m r k keyed
    have hkey : keyed = true → ∀ m, s.onKey a b m = m := fun h m => by
      simp only [keyed, Bool.and_eq_true, Bool.not_eq_true', decide_eq_true_eq] at h
      obtain ⟨⟨⟨⟨⟨ht, hs⟩, hd⟩, hw⟩, h1⟩, h2⟩ := h
      exact State.onKey_passes m ht hs hd hw h1 h2
    refine ⟨fun p hp => ⟨fun ht hs => exec_moveForms_open d b i ht hs p hp, fun ht => exec_moveForms_untagged d b i ht p hp⟩,
      fun ht hs => ⟨congrArg s.finish (State.kmask_open d ht hs _), congrArg s.finish (State.kmask_open d ht hs m),
        fun q h => congrArg s.finish (State.klim_some d ht hs h), fun q h => congrArg s.finish (State.klim_some d ht hs h),
        fun h => ?_⟩,
      fun ht hs h => ?_, rfl, rfl, rfl⟩
    · exact (exec_keyForms d b ht _ List.mem_cons_self hs).trans (congrArg s.finish (hkey h _))
    · exact (exec_keyForms d b ht _ (List.mem_cons_of_mem _ List.mem_cons_self) hs).trans (congrArg s.finish (hkey h _))
  · intro r n a lo hi serves holds
    refine ⟨Reg.limit_beyond, fun hin e he hserves hfirst => ?_, fun hin hnone => ?_⟩
    · have hexp : limitExp r.word.toNat n 43 = some e := limitExp_first (Nat.le_refl 43) (by omega) he hserves hfirst
      exact ⟨fun h => Reg.limit_some hin hexp h.1 h.2, Reg.limit_outside hin hexp⟩
    · have hexp : limitExp r.word.toNat n 43 = none := limitExp_none hnone
      exact ⟨fun h => Reg.limit_whole hin hexp h.1 h.2, Reg.limit_notWhole hin hexp⟩
  · intro s d a b i m r k traps
    have htraps : ∀ {p cause n}, exec p s = s.finish (.error (s.capTrap cause a n)) → traps p cause n := State.traps_of_capTrap
    have hsource : ∀ {cause}, (∀ m, s.onSource a m = .error (s.capTrap cause a a)) →
        ∀ p ∈ sourceForms d a b i m, traps p cause a := fun h p hp => htraps <| by
      obtain ⟨r, hr⟩ := exec_sourceForms s d a b i m p hp
      rw [hr, h]
    refine ⟨fun p hp ht => ?_, fun p hp ht hs => ?_, fun ht hs => htraps ?_, fun ht hs => ⟨fun h => htraps ?_, fun h => htraps ?_⟩,
      fun p hp ht hs => ?_⟩
    · rcases List.mem_append.mp (show p ∈ sourceForms d a b i m ++ [.kopen d a b] from hp) with h | h
      · exact hsource (State.onSource_untagged ht) p h
      · obtain rfl := List.mem_singleton.mp h
        exact htraps (by rw [exec_kopen_eq, ht]; rfl)
    · rcases List.mem_append.mp (show p ∈ sourceForms d a b i m ++ (moveForms s d a b i).map Prod.fst from hp) with h | h
      · exact hsource (State.onSource_sealed ht hs) p h
      · obtain ⟨q, hq, rfl⟩ := List.mem_map.mp h
        exact htraps (exec_moveForms_sealed d b i ht hs q hq)
    · rw [exec_kopen_eq, ht, hs]; rfl
    · exact congrArg s.finish (State.klim_none d ht hs h)
    · exact congrArg s.finish (State.klim_none d ht hs h)
    · have hkey : ∀ {cause n}, (∀ m, s.onKey a b m = .error (s.capTrap cause a n)) → traps p.1 cause n := fun h =>
        htraps (by rw [exec_keyForms d b ht p hp hs, h])
      exact ⟨fun h => hkey fun m => State.onKey_untagged m h, fun h1 h2 => hkey fun m => State.onKey_sealed m h1 h2,
        fun h1 h2 h => hkey fun m => State.onKey_noRight m h1 h2 h,
        fun h1 h2 h3 h4 h => hkey fun m => State.onKey_narrow m h1 h2 h3 h4 h⟩

/-- Settles O29: the windows within their sizes, the fabric, and below 2^55 the translation, with what follows each. -/
theorem regionsOfAddresses : Obligations.RegionsOfAddresses := by
  intro s w a n k top off lands
  have hwindow : ∀ {r}, 0x7C00 ≤ top → top ≤ 0x7E00 → windowRegion w.core top off = some r → decodeRegion w.core a = .ok r :=
    fun h1 h2 h => by
      rw [decodeRegion_window w.core (by omega) (by omega), h]
  refine ⟨fun ht ho => ?_, fun ht ho => ?_, fun ht hc ho => ?_, fun h => State.resolve_fabric n k (decodeRegion_fabric w.core h),
    fun h1 h2 hown hcmem hpeer => ?_, fun h => ⟨fun f hf => ?_, fun u l sl hok => ?_⟩⟩
  · exact State.lands_spad n k (hwindow (by omega) (by omega) (if_pos ⟨ht, ho⟩))
  · exact State.lands_cmem n k (hwindow (by omega) (by omega) (by simp [windowRegion, ht, ho]))
  · exact State.lands_spad n k (hwindow (by omega) (by omega) (by simp [windowRegion, ht, hc, ho, -Nat.reducePow]))
  · refine State.resolve_nowhere n k ?_
    rw [decodeRegion_window w.core h1 h2, windowRegion, if_neg hown, if_neg hcmem, if_neg hpeer]
    rfl
  · refine ⟨?_, fun hc => ?_, fun hc => ?_⟩
    · rw [State.touched_translated k h, State.walked, hf]
    · rw [State.resolve_untranslated n k h hf, State.stoppedAt_other k hc]
    · rw [State.resolve_untranslated n k h hf]
      exact State.stoppedAt_fenced k hf hc
  · exact ⟨by rw [State.touched_translated k h, State.walked, hok], State.resolve_translated n k h hok⟩

/-- Settles O30: each issues one access, of its address, size and kind. -/
theorem loadsAndStoresIssue : Obligations.LoadsAndStoresIssue := by
  intro s d a b c i near at_ issues
  refine ⟨fun p hp => ?_, fun p hp => ?_, ?_, ?_⟩
  · exact s.issueAt_access a _ _ .load Reg.zero (exec_loadForms s d a b i p hp)
  · exact s.issueAt_access a _ _ .store Reg.zero (exec_storeForms s a b c i p hp)
  · exact s.issueAt_access a near 16 .load Reg.zero rfl
  · exact s.issueAt_access a near 16 .store (s.g c) rfl

/-- Settles O31: the elements' own outcome decides, and of those issued there are as many as found their places. -/
theorem multiplesIssue : Obligations.MultiplesIssue := by
  intro s f l a i load p addr n k legal
  have hexec : exec p s = s.moveMultiple load f l a i := by
    cases load <;> rfl
  have hlegal : multipleLegal load f l a = true ↔ legal := multipleLegal_iff load f l a
  rw [hexec]
  refine ⟨fun h hcap hfab u ops hm => ?_, fun h hcap hfab u ops t hm => ?_, fun h => ⟨s.openProg, ?_⟩⟩
  · obtain ⟨new, rfl, hall, hlength⟩ := State.multiple_spec hm
    exact ⟨hlength, hall, (State.moveMultiple_legal (hlegal.mpr h) hcap hfab).trans (congrArg s.multipleOutcome hm)⟩
  · obtain ⟨new, rfl, -, hpc, hprog⟩ := State.multiple_spec hm
    refine ⟨_, rfl, hpc, ?_, (State.moveMultiple_legal (hlegal.mpr h) hcap hfab).trans (congrArg s.multipleOutcome hm)⟩
    rw [hprog, accessProg, Nat.mul_comm _ (2 ^ 6)]
    cases load <;> rfl
  · rw [State.moveMultiple_illegal (Bool.eq_false_iff.mpr (mt hlegal.mp h)), Nat.mul_comm]
    rfl

/-- Settles O35: each but FENCE issues one access, by plain or by ordered checks; FENCE changes its context alone. -/
theorem issueFrame : Obligations.IssueFrame := by
  intro s t d a b c i scope order size fa near at_
  simp only [List.forall_mem_cons]
  exact ⟨State.load_frame, State.load_frame, State.load_frame, State.load_frame, State.load_frame, State.load_frame, State.load_frame,
    exec_ldc_frame, State.load_frame, State.load_frame, State.load_frame, State.load_frame, State.store_frame, State.store_frame,
    State.store_frame, State.store_frame, exec_stc_frame, State.store_frame, State.store_frame, State.store_frame, State.store_frame,
    State.issueOrdered_frame (use := .load), State.issueOrdered_frame (use := .store), State.issueAmo_frame, State.issueAmo_frame,
    State.issueAmo_frame, State.issueAmo_frame, State.issueAmo_frame, State.issueAmo_frame, State.issueAmo_frame, State.issueAmo_frame,
    State.issueAmo_frame, exec_cas_frame, exec_cas2_frame, exec_fence_frame 0 .load, List.forall_mem_nil _⟩

end Sys2Proof.Proofs

/-! ## The engine's instructions at issue (R185, R186, R195 to R202, R211, R212) -/

namespace Sys2Proof.Machine

/-! ### Checks that pass -/

theorem mxNeed_true {b : Bool} (word : Word) (check : Nat) (h : b = true) : mxNeed b word check = .ok () := by
  rw [mxNeed, if_pos h]

/-- R186, R243. A named tile of a valid shape that no unfinished CPYM targets passes with its shape. -/
theorem Core.namedTile_ok {c : Core} {t : BitVec 3} (word : Word) (hv : (tshapeOf (c.tshapeWord t.toNat)).valid = true)
    (hc : c.copyTargets t.toNat = false) : c.namedTile t word = .ok (tshapeOf (c.tshapeWord t.toNat)) := by
  simp [Core.namedTile, mxNeed, hv, hc, bind, Except.bind]

/-- R198, R199. ACCRD and ACCWR pass on a dense tile whose rows and columns the accumulator store holds. -/
theorem accTileCheck_ok {sh : TShape} {rb : BitVec 10} {cq : BitVec 2} (word : Word) (hs : sh.sp = 0)
    (hr : rb.toNat + sh.rows ≤ 1024) (hc : 32 * cq.toNat + sh.cols ≤ 128) : accTileCheck sh rb cq word = .ok () :=
  mxNeed_true word 2 (by simp [hs, hr, hc])

section
variable {s : State} (hh : s.helper = false) (hs : s.myCore.mxSusp = false) (hp : s.myCore.parkBusy = 0)
include hh hs hp

/-- R186. In the control context, with the engine not suspended and no PARK held, an instruction whose checks pass takes its effect at
issue and completes. -/
theorem State.issueEngine_ok {check : MxChk State} {t : State} (h : check = .ok t) : s.issueEngine check = .next t.advance := by
  have hneed : s.need (!s.myCore.mxSusp) Cause.illegalOperand 0x818 (s.byteProg 0) = .ok () := State.need_true _ _ _ (by rw [hs]; rfl)
  have hpark : s.myCore.parkHeld = false := by simp [Core.parkHeld, hp]
  unfold State.issueEngine
  rw [State.controlOnly_control _ hh, hneed, hpark, h]
  rfl

/-- The same for an instruction that names a tile, by what follows the tile's checks. -/
theorem State.issueEngine_tile {t : BitVec 3} {check : TShape → MxChk State} {u : State}
    (hv : (tshapeOf (s.myCore.tshapeWord t.toNat)).valid = true) (hc : s.myCore.copyTargets t.toNat = false)
    (h : check (tshapeOf (s.myCore.tshapeWord t.toNat)) = .ok u) :
    s.issueEngine (s.myCore.namedTile t s.me.ir >>= check) = .next u.advance :=
  State.issueEngine_ok hh hs hp (by rw [Core.namedTile_ok _ hv hc]; exact h)

/-- R212. A function instruction whose registers are VALID, its operands within their limits and its capability right, joins the queue. -/
theorem State.issueFn_ok (i : Instr) {reads : List (BitVec 3)} {limits : Bool} {cap : Option (BitVec 5 × CapUse)} (ra : Reg) {rb : Reg}
    (rc : Reg) (hr : ∀ r ∈ reads, s.myCore.fnValid r = true) (hl : limits = true)
    (hc : ∀ a use, cap = some (a, use) → checkCapRights (s.g a) s.me.dom s.me.priv use ((s.g a).word + rb.word) = .ok ()) :
    s.issueFn i reads limits cap ra rb rc = .next ((s.enqueueMx s.cur.core (s.mxOp i 0 0 ra rb rc)).modMe
      (fun c => c.await (s.mxOp i 0 0 ra rb rc).gdest)).advance := by
  refine State.issueEngine_ok hh hs hp ?_
  rw [mxNeed_true _ 1 (List.all_eq_true.mpr hr), mxNeed_true _ 2 hl]
  rcases cap with _ | ⟨a, use⟩
  · rfl
  · simp only [hc a use rfl]
    rfl
end

end Sys2Proof.Machine

/-! ## Copies at issue and at work (R203, R234, R237 to R244) -/

namespace Sys2Proof.Machine

/-! ### Issue -/

section
variable {s read : State} {checks : CopyChk (State × CopyPlan)} {make : CopyPlan → Copy} (hh : s.helper = false)
include hh

/-- R237 to R239. In the control context a copy whose checks pass, with room in the lock tables and in CNTS.COPY, joins the copy queue. -/
theorem State.issueCopy_ok {u : State} {p : CopyPlan} (hs : s.myCore.cpSusp = false) (hc : checks = .ok (u, p))
    (hl : s.lockSpace s.cur.core p = true) (hn : s.me.cntCopy < 15) :
    s.issueCopy read checks make = .next (((u.registerLocks s.cur.core (make p).seq s.me.dom p).modMyCore (fun k =>
      { k with copies := k.copies ++ [make p], cpIssued := k.cpIssued + 1 })).modMe
        (fun c => { c with cntCopy := c.cntCopy + 1 })).advance := by
  have hneed : s.need (!s.myCore.cpSusp) Cause.illegalOperand 0x830 (s.byteProg 0) = .ok () := State.need_true _ _ _ (by rw [hs]; rfl)
  have hroom : (!s.lockSpace s.cur.core p || decide (15 ≤ s.me.cntCopy)) = false := by simp [hl, hn]
  unfold State.issueCopy
  rw [State.controlOn_control _ _ hh, hneed, hc]
  simp only [hroom]
  rfl

/-- R244. A suspended copy engine refuses every copy. -/
theorem State.issueCopy_suspended (hs : s.myCore.cpSusp = true) :
    s.issueCopy read checks make = .next (s.takeTrap s.cur ⟨Cause.illegalOperand, s.me.pc, 0x830, s.byteProg 0⟩) := by
  have hneed : s.need (!s.myCore.cpSusp) Cause.illegalOperand 0x830 (s.byteProg 0) = .error _ :=
    State.need_false _ _ _ (by rw [hs]; rfl)
  unfold State.issueCopy
  rw [State.controlOn_control _ _ hh, hneed, hs]
  rfl
end

/-- R237. The copy instructions, each with its checks and the copy that it makes of its plan. -/
noncomputable def copyForms (s : State) (ui : BitVec 1) (t : BitVec 3) (a b : BitVec 5) (sr dr : BitVec 16) (rb : BitVec 10)
    (cq : BitVec 2) (sw : BitVec 1) : List (Instr × CopyChk (State × CopyPlan) × (CopyPlan → Copy)) :=
  [ (.cpy ui a b sr dr, s.copyChecks a b sr dr, s.newCopy 0 ui a b), (.cpyq ui a b sr dr, s.copyChecks a b sr dr, s.newCopy 2 ui a b)
  , (.cpym ui t a b sr rb cq sw, s.copyTileChecks t a b sr (sw == 1), fun p => { s.newCopy 1 ui a b p with
      tile := t.toNat, tshape := s.shapeWord t, rb := rb.toNat, cq := cq.toNat, sw := sw == 1 }) ]

/-- R237 to R239. Each issues by its checks. -/
theorem exec_copyForms (s : State) (ui : BitVec 1) (t : BitVec 3) (a b : BitVec 5) (sr dr : BitVec 16) (rb : BitVec 10) (cq : BitVec 2)
    (sw : BitVec 1) : ∀ x ∈ copyForms s ui t a b sr dr rb cq sw, ∃ read, exec x.1 s = s.issueCopy read x.2.1 x.2.2 := by
  simp only [copyForms, List.forall_mem_cons]
  exact ⟨⟨_, rfl⟩, ⟨_, rfl⟩, ⟨_, rfl⟩, List.forall_mem_nil _⟩

/-! ### Start -/

/-- R234. Joining peer tables leaves device memory. -/
theorem State.main_registerPeers (s : State) (core : Nat) (k : Copy) : (s.registerPeers core k).main = s.main := by
  unfold State.registerPeers
  induction k.peerSpans core generalizing s with
  | nil => rfl
  | cons x l ih => rw [List.foldl_cons, ih]; rfl

/-- R240. The copy that starts is its core's only change beside lock tables. -/
theorem exec_copyStart_may {s : State} {core : Nat} {c : Copy} (hn : (s.core core).nextCopy = some c)
    (hm : s.mayStartCopy core c = true) : exec (.copyStart core) s =
      .next ((s.registerPeers core c).modCore core (·.modCopy c.seq (fun x => { x with started := true }))) := by
  change execCopyStart core s = _
  simp only [execCopyStart, hn, hm, Bool.not_true, Bool.false_eq_true, if_false]

/-- A copy of a core in which the copies of a number were marked as started, if of that number, is so. -/
theorem Core.started_modCopy {k : Core} {seq : Nat} {x : Copy} (h : x ∈ (k.modCopy seq (fun x => { x with started := true })).copies)
    (hx : x.seq = seq) : x.started = true := by
  obtain ⟨y, -, rfl⟩ := List.mem_map.mp h
  split at hx
  · next h => rw [if_pos h]
  · next h => exact absurd hx h

/-! ### What the elements of a copy leave (R240, R290, R291) -/

/-- A state differs from another at most in device memory, the cached translations and the free-value counter. -/
def OnlyTranslated (s u : State) : Prop := u = { s with main := u.main, xcache := u.xcache, freeN := u.freeN }

theorem OnlyTranslated.refl (s : State) : OnlyTranslated s s := rfl

theorem OnlyTranslated.trans {s u t : State} (h1 : OnlyTranslated s u) (h2 : OnlyTranslated u t) : OnlyTranslated s t := by
  unfold OnlyTranslated at *
  rw [h2, h1]

theorem OnlyTranslated.core {s u : State} (h : OnlyTranslated s u) (n : Nat) : u.core n = s.core n := by
  rw [h]; rfl

section
variable {s u : State} {who : Who} {a : Int} {w : Bool}

/-- Finding the place of a byte translates at most. -/
theorem State.onlyTranslated_of_copyByte {l : Loc} {t : Bool} (h : s.copyByte who a w = .ok (u, l, t)) : OnlyTranslated s u := by
  simp only [State.copyByte] at h
  cases hr : decodeRegion who.core (i64 a) with
  | error f => rw [hr] at h; cases h
  | ok r =>
    rw [hr] at h
    cases r with
    | fabric => cases h
    | spad c o => cases ensure_bind_ok h; exact .refl _
    | cmem c o => cases h; exact .refl _
    | translated =>
      cases ht : s.translate who (i64 a) (if w then .store else .load) with
      | error f => simp only [ht, bind, Except.bind] at h; cases h
      | ok p =>
        obtain ⟨v, l', b⟩ := p
        have htail : (ensure (!v.homeFenced l') Cause.linkDown (i64 a) >>= fun _ =>
            ensure (!(w && (b || v.sealedAt l'))) Cause.sealedWrite (i64 a) >>= fun _ => .ok (v, l', true)) = .ok (u, l, t) := by
          simpa only [ht, bind, Except.bind] using h
        cases ensure_bind_ok (ensure_bind_ok htail)
        exact State.translate_frame ht

/-- R292. And so do the places of bytes that share their pages' choices. -/
theorem State.onlyTranslated_of_pageBytes {free n : Nat} {page : Int} {ls : List Loc} {t : Bool}
    (h : s.pageBytes who free page a w n = .ok (u, ls, t)) : OnlyTranslated s u := by
  induction n generalizing s a ls t with
  | zero => cases h; exact .refl _
  | succ n ih =>
    simp only [State.pageBytes, bind, Except.bind] at h
    split at h
    · cases h
    · next v hv =>
      split at h
      · cases h
      · next v' hv' =>
        cases h
        have hfree : OnlyTranslated s { s with freeN := free + (a / 65536 - page).toNat } := rfl
        exact (hfree.trans (State.onlyTranslated_of_copyByte hv)).trans (ih hv')

/-- Finding the places of the bytes of an element translates at most. -/
theorem State.onlyTranslated_of_copyBytes {n : Nat} {ls : List Loc} {t : Bool} (h : s.copyBytes who a w n = .ok (u, ls, t)) :
    OnlyTranslated s u := by
  simp only [State.copyBytes, bind, Except.bind] at h
  split at h
  · cases h
  · next v hv =>
    cases h
    exact (State.onlyTranslated_of_pageBytes hv).trans rfl
end

/-- R240. The cores of a state differ from another's at most in tiles. -/
def OnlyTiles (s u : State) : Prop := ∀ n, u.core n = { s.core n with tiles := (u.core n).tiles }

theorem OnlyTiles.refl (s : State) : OnlyTiles s s := fun _ => rfl

theorem OnlyTiles.trans {s u t : State} (h1 : OnlyTiles s u) (h2 : OnlyTiles u t) : OnlyTiles s t := fun n => by
  rw [h2 n, h1 n]

theorem OnlyTiles.ctx {s u : State} (h : OnlyTiles s u) (c : CtxId) : u.ctx c = s.ctx c := by
  rw [State.ctx, h c.core]; rfl

/-- A write of a tile of one core. -/
theorem State.onlyTiles_setTile (s : State) (core t : Nat) (f : Core → Tile) :
    OnlyTiles s (s.modCore core (fun k => k.setTile t (f k))) := fun n => by
  by_cases h : n = core
  · subst h
    rw [State.modCore_eq, State.core_setCore_self]
    rfl
  · rw [State.modCore_eq, State.core_setCore_ne s _ h]

section
variable {s u : State} {core : Nat} {c c' : Copy}

/-- A copy that has moved an element is of the same kind. -/
theorem State.fn_copyElement (h : s.copyElement core c = .ok (u, c')) : c'.fn = c.fn := by
  simp only [State.copyElement] at h
  split at h
  · cases h
  · split at h
    · cases h; rfl
    · split at h
      · cases h
      · split at h
        · cases h
        · cases h; rfl

/-- R240. An element of a CPYM changes no core but in a tile. -/
theorem State.onlyTiles_copyElement (hf : c.fn = 1) (h : s.copyElement core c = .ok (u, c')) : OnlyTiles s u := by
  simp only [State.copyElement, hf, if_true] at h
  split at h
  · cases h
  · next v ls t hv =>
    cases h
    have hread : OnlyTiles s v := fun n => by rw [(State.onlyTranslated_of_copyBytes hv).core n]
    exact hread.trans (v.onlyTiles_setTile core _ _)

theorem State.fn_copyElements {n : Nat} {stop : Option CopyStop} (h : s.copyElements core c n = (u, c', stop)) : c'.fn = c.fn := by
  induction n generalizing s c with
  | zero => cases h; rfl
  | succ n ih =>
    simp only [State.copyElements] at h
    split at h
    · cases h; rfl
    · split at h
      · cases h; rfl
      · next he => exact (ih h).trans (State.fn_copyElement he)

/-- R240. The elements of a CPYM change no core but in a tile. -/
theorem State.onlyTiles_copyElements {n : Nat} (hf : c.fn = 1) (h : s.copyElements core c n = (u, c', none)) : OnlyTiles s u := by
  induction n generalizing s c with
  | zero => cases h; exact .refl _
  | succ n ih =>
    simp only [State.copyElements] at h
    split at h
    · cases h; exact .refl _
    · split at h
      · cases h
      · next he =>
        exact (State.onlyTiles_copyElement hf he).trans (ih ((State.fn_copyElement he).trans hf) h)
end

/-! ### A copy that leaves the engine (R242) -/

theorem State.ctx_modCore (s : State) {core : Nat} {f : Core → Core} (h : (f (s.core core)).ctxs = (s.core core).ctxs) (slot : Nat) :
    (s.modCore core f).ctx ⟨core, slot⟩ = s.ctx ⟨core, slot⟩ := by
  simp only [State.ctx, State.modCore_eq, State.core_setCore_self, h]

@[simp] theorem State.ctx_modCtx_self (s : State) (c : CtxId) (f : Ctx → Ctx) : (s.modCtx c f).ctx c = f (s.ctx c) :=
  State.ctx_setCtx_self s c _

/-- A change of a context of a core leaves the rest of the core. -/
theorem State.core_modCtx (s : State) (core slot : Nat) (f : Ctx → Ctx) :
    ∃ m, (s.modCtx ⟨core, slot⟩ f).core core = { s.core core with ctxs := m } :=
  ⟨_, State.core_setCtx_self s ⟨core, slot⟩ _⟩

/-- R242. The effects of completion on a context leave its counts of copies and of tiles. -/
theorem Ctx.counts_copyDone (x : Ctx) (c : Copy) : (x.copyDone c).cntCopy = x.cntCopy ∧ (x.copyDone c).cntTile = x.cntTile := by
  unfold Ctx.copyDone
  split <;> exact ⟨rfl, rfl⟩

/-- R234. A core without the locks of a copy. -/
def Core.withoutLocks (k : Core) (core seq : Nat) : Core := { k with locks := k.locks.filter (fun l => !l.ofCopy core seq) }

/-- R234. Removing a copy's locks leaves everything of a core but its locks. -/
theorem State.core_removeLocks (s : State) (core seq n : Nat) : (s.removeLocks core seq).core n = (s.core n).withoutLocks core seq := by
  have hfind := SMap.find_map (fun k : Core => k.withoutLocks core seq) s.cores n
  refine (congrArg (·.getD Core.reset) hfind).trans ?_
  rw [State.core, SMap.getD]
  cases SMap.find s.cores n <;> rfl

/-- R242. A copy that has completed leaves the matrix engine, and is counted out in its core and its control context. -/
theorem State.completed_copy (s : State) (core n : Nat) (c : Copy) :
    let t := (s.retireCopy core n).modCtx ⟨core, control⟩ (·.copyDone c)
    (t.core core).mxq = (s.core core).mxq ∧ (t.core core).mxIssued = (s.core core).mxIssued ∧
      (t.core core).mxSusp = (s.core core).mxSusp ∧ (t.core core).cpDone = (s.core core).cpDone + 1 ∧
      (t.ctx ⟨core, control⟩).cntTile = (s.ctx ⟨core, control⟩).cntTile ∧
      (t.ctx ⟨core, control⟩).cntCopy = (s.ctx ⟨core, control⟩).cntCopy - 1 := by
  intro t
  obtain ⟨m, hretire⟩ := (s.removeLocks core n).core_modCtx_modCore core control
    (fun k => { k with copies := k.copies.filter (fun x => x.seq != n), cpDone := k.cpDone + 1 })
    (fun x => { x with cntCopy := x.cntCopy - 1 })
  obtain ⟨m', ht⟩ := (s.retireCopy core n).core_modCtx core control (·.copyDone c)
  rw [State.core_removeLocks] at hretire
  have hcore : t.core core = _ := ht.trans (congrArg (fun k : Core => { k with ctxs := m' }) hretire)
  have hunlocked : (s.removeLocks core n).ctx ⟨core, control⟩ = s.ctx ⟨core, control⟩ := by
    rw [State.ctx, State.core_removeLocks]; rfl
  have hctx : t.ctx ⟨core, control⟩ =
      Ctx.copyDone { s.ctx ⟨core, control⟩ with cntCopy := (s.ctx ⟨core, control⟩).cntCopy - 1 } c := by
    rw [State.ctx_modCtx_self, State.retireCopy, State.ctx_modCtx_self, State.ctx_modCore _ rfl, hunlocked]
  obtain ⟨hcopy, htile⟩ := Ctx.counts_copyDone { s.ctx ⟨core, control⟩ with cntCopy := (s.ctx ⟨core, control⟩).cntCopy - 1 } c
  rw [hcore, hctx]
  exact ⟨rfl, rfl, rfl, rfl, htile, hcopy⟩

/-! ### The follow-on of a CPYM (R203, R243) -/

/-- R203, R243. The follow-on of a CPYM, under an issue number, with the KIND that it gives its rows. -/
noncomputable def Copy.followOp (c : Copy) (kind : AccKind) (num : Nat) : MxOp :=
  { seq := num
    instr := if c.sw then .mmasw (BitVec.ofNat 3 c.tile) c.breg (BitVec.ofNat 10 c.rb) (BitVec.ofNat 2 c.cq)
      else .mma (BitVec.ofNat 3 c.tile) c.breg (BitVec.ofNat 10 c.rb) (BitVec.ofNat 2 c.cq)
    head := c.head, word := c.word, shapeX := c.tshape, shapeA := 0, a := c.dst, b := Reg.zero, c := Reg.zero, tol := 0
    memSeq := c.memSeq, bank := false, kind := kind, words := none, started := false, follow := true, dom := c.dom }

/-- R186, R203. The deferred trap of a follow-on that finds the engine suspended. -/
def followTrap (num : Nat) (prog : Word) : Deferred := ⟨.matrix, num, ⟨Cause.illegalOperand, 0, 0x818, prog⟩⟩

section
variable (s : State) (core : Nat)

/-- R185, R188. An operation that joins a core's queue takes the next issue number and counts in CNTS.TILE. -/
theorem State.enqueueMx_spec (op : MxOp) :
    let t := s.enqueueMx core op
    (t.core core).mxq = (s.core core).mxq ++ [{ op with seq := (s.core core).mxIssued.toNat }] ∧
      (t.core core).mxIssued = (s.core core).mxIssued + 1 ∧ (t.core core).cpDone = (s.core core).cpDone ∧
      t.ctx ⟨core, control⟩ = { s.ctx ⟨core, control⟩ with cntTile := (s.ctx ⟨core, control⟩).cntTile + 1 } := by
  intro t
  obtain ⟨m, hcore⟩ := s.core_modCtx_modCore core control
    (fun k => { k with mxq := k.mxq ++ [{ op with seq := k.mxIssued.toNat }], mxIssued := k.mxIssued + 1 })
    (fun x => { x with cntTile := x.cntTile + 1 })
  rw [show t.core core = _ from hcore]
  refine ⟨rfl, rfl, rfl, ?_⟩
  exact (State.ctx_modCtx_self _ _ _).trans (by rw [State.ctx_modCore _ rfl])

/-- R424. A deferred trap leaves its core's queue and counts. -/
theorem State.core_defer (d : Deferred) : ∃ m, (s.defer ⟨core, control⟩ d).core core = { s.core core with ctxs := m } :=
  s.core_modCtx core control _

variable (c : Copy)

/-- The follow-on joins the queue of the core that the copy ran on, and where the engine is suspended its trap becomes pending. -/
theorem State.followOn_eq : ∃ kind prog, s.followOn core c =
    if (s.core core).mxSusp then
      ((s.requestWake core).enqueueMx core (c.followOp kind 0)).defer ⟨core, control⟩ (followTrap (s.core core).mxIssued.toNat prog)
    else (s.requestWake core).enqueueMx core (c.followOp kind 0) := ⟨_, _, rfl⟩

/-- R203. It is the last of that queue, under the next issue number, and counts in CNTS.TILE. -/
theorem State.followOn_spec :
    let t := s.followOn core c
    let num := (s.core core).mxIssued.toNat
    (∃ kind, (t.core core).mxq = (s.core core).mxq ++ [c.followOp kind num]) ∧ (t.core core).mxIssued = (s.core core).mxIssued + 1 ∧
      (t.core core).cpDone = (s.core core).cpDone ∧ (t.ctx ⟨core, control⟩).cntTile = (s.ctx ⟨core, control⟩).cntTile + 1 ∧
      (t.ctx ⟨core, control⟩).cntCopy = (s.ctx ⟨core, control⟩).cntCopy ∧
      ((s.core core).mxSusp = true → ∃ prog, followTrap num prog ∈ (t.ctx ⟨core, control⟩).deferred) := by
  intro t num
  obtain ⟨kind, prog, ht⟩ := s.followOn_eq core c
  obtain ⟨hq, hissued, hdone, hctx⟩ := (s.requestWake core).enqueueMx_spec core (c.followOp kind 0)
  rw [show t = _ from ht]
  split
  · obtain ⟨m, hcore⟩ := ((s.requestWake core).enqueueMx core (c.followOp kind 0)).core_defer core (followTrap num prog)
    rw [hcore, State.defer, State.ctx_modCtx_self, hctx]
    exact ⟨⟨kind, hq⟩, hissued, hdone, rfl, rfl, fun _ => ⟨prog, List.mem_append_right _ (List.mem_singleton_self _)⟩⟩
  · next hs =>
    rw [hctx]
    exact ⟨⟨kind, hq⟩, hissued, hdone, rfl, rfl, fun h => absurd h hs⟩
end

/-! ### Completion and failure (R242 to R244) -/

section
variable {s u : State} {core n : Nat} {c c' : Copy} (hr : (s.core core).running n = some c)
include hr

/-- R242. A running copy whose elements all move completes, and issues its follow-on where it is a CPYM. -/
theorem exec_copyComplete_moved (he : s.copyElements core c (c.count - c.done) = (u, c', none)) :
    exec (.copyComplete core n) s =
      .next (if c'.fn = 1 then ((u.retireCopy core n).modCtx ⟨core, control⟩ (·.copyDone c')).followOn core c'
        else (u.retireCopy core n).modCtx ⟨core, control⟩ (·.copyDone c')) := by
  change execCopyComplete core n s = _
  simp only [execCopyComplete, hr, he]

/-- R244. A running copy that stops before an element suspends the engine and defers its trap. -/
theorem exec_copyFail_stopped {f : CopyStop} (he : s.copyElements core c (c.count - c.done) = (u, c', some f)) :
    ∃ k : Core, k.cpSusp = true ∧ exec (.copyFail core n) s =
      .next ((u.setCore core k).defer ⟨core, control⟩ ⟨.copy, n, ⟨f.cause, 0, f.val, c'.prog f.dst⟩⟩) := by
  change ∃ k : Core, k.cpSusp = true ∧ execCopyFail core n s = _
  simp only [execCopyFail, hr, he, State.modCore_eq]
  refine ⟨_, ?_, rfl⟩
  split
  · assumption
  · rfl
end

end Sys2Proof.Machine

/-! ## The walker's instructions and the digest unit (R277 to R281) -/

namespace Sys2Proof.Machine

/-! ### Threads -/

@[simp] theorem Cluster.thread_setThread_self (k : Cluster) (th : Nat) (t : Thread) : (k.setThread th t).thread th = t :=
  SMap.getD_set_self _ _ _ _

/-- A changed thread of a cluster. -/
@[simp] theorem State.thread_modThread_self (s : State) (cl th : Nat) (f : Thread → Thread) :
    ((s.modThread cl th f).cluster cl).thread th = f ((s.cluster cl).thread th) := by
  rw [State.modThread, State.cluster_modCluster_self, Cluster.thread_setThread_self]

/-! ### The operands' limits and the accesses -/

theorem State.walkNeed_true {s : State} {b : Bool} (h : b = true) : s.walkNeed b = .ok () := by
  rw [State.walkNeed, if_pos h]

/-- R277. The address of an access without displacement. -/
theorem State.walkAddr_zero (s : State) (c : BitVec 2) (a : BitVec 4) :
    s.walkAddr c a 0 = (s.thread.win.getD c.toNat Reg.zero).word + s.w a :=
  BitVec.add_zero _

section
variable {s u : State} (d : BitVec 4) {a : BitVec 4} {c : BitVec 2} {i : BitVec 14} {n : Nat}

/-- R278. A load whose access passes writes its register and steps. -/
theorem State.walkLoad_ok {ls : List Loc} (h : s.walkAccess c (s.walkAddr c a i) n false = .ok (u, ls)) :
    s.walkLoad d a c i n = .next (u.modWk (·.setW d (w64 (u.bytesAt ls)))).walkNext := by
  rw [State.walkLoad, h]; rfl

/-- R278. A store whose access passes writes its bytes and steps. -/
theorem State.walkStore_ok {ls : List Loc} (h : s.walkAccess c (s.walkAddr c a i) n true = .ok (u, ls)) :
    s.walkStore d a c i n = .next (u.walkWrite ls (s.w d).toNat).walkNext := by
  rw [State.walkStore, h]; rfl

/-- R281. A load whose access fails faults on what its translation leaves, and so does a store. -/
theorem State.walkLoad_error {f : Fail} (h : s.walkAccess c (s.walkAddr c a i) n false = .error (u, f)) :
    s.walkLoad d a c i n = .next (u.walkFault f.cause f.val) := by
  rw [State.walkLoad, h]; rfl

theorem State.walkStore_error {f : Fail} (h : s.walkAccess c (s.walkAddr c a i) n true = .error (u, f)) :
    s.walkStore d a c i n = .next (u.walkFault f.cause f.val) := by
  rw [State.walkStore, h]; rfl
end

/-- R277. The walker's loads, each with its number of bytes. -/
noncomputable def walkLoads (d a : BitVec 4) (c : BitVec 2) (i : BitVec 14) : List (Instr × Nat) :=
  [(.wldB d a c i, 1), (.wldH d a c i, 2), (.wldW d a c i, 4), (.wldD d a c i, 8)]
/-- R277. The walker's stores, each with its number of bytes. -/
noncomputable def walkStores (d a : BitVec 4) (c : BitVec 2) (i : BitVec 14) : List (Instr × Nat) :=
  [(.wstB d a c i, 1), (.wstH d a c i, 2), (.wstW d a c i, 4), (.wstD d a c i, 8)]

section
variable (s : State) (d a : BitVec 4) (c : BitVec 2) (i : BitVec 14)

theorem exec_walkLoads : ∀ p ∈ walkLoads d a c i, exec p.1 s = s.walkLoad d a c i p.2 := by
  simp only [walkLoads, List.forall_mem_cons]
  exact ⟨rfl, rfl, rfl, rfl, List.forall_mem_nil _⟩

theorem exec_walkStores : ∀ p ∈ walkStores d a c i, exec p.1 s = s.walkStore d a c i p.2 := by
  simp only [walkStores, List.forall_mem_cons]
  exact ⟨rfl, rfl, rfl, rfl, List.forall_mem_nil _⟩
end

/-! ### The row buffer -/

section
variable {s : State}

/-- R277. WRINS of an aligned place within the row buffer. -/
theorem exec_wrins_within {d a : BitVec 4} {sn : BitVec 2} {i : BitVec 14} (ha : (s.w a + sext i).toNat % 2 ^ sn.toNat = 0)
    (hr : (s.w a + sext i).toNat + 2 ^ sn.toNat ≤ 256) :
    exec (.wrins d a sn i) s = .next (s.modWk (fun t =>
      { t with row := putRow t.row (s.w a + sext i).toNat (2 ^ sn.toNat) (s.w d).toNat })).walkNext := by
  change execWrins d a sn i s = _
  simp only [execWrins]
  rw [State.walkNeed_true (Bool.and_eq_true_iff.mpr ⟨decide_eq_true ha, decide_eq_true (Nat.le_sub_of_add_le hr)⟩)]
  rfl

/-- R277. WEMIT of 1 to 256 bytes whose access passes. -/
theorem exec_wemit_ok {a : BitVec 4} {c : BitVec 2} {i : BitVec 14} {u : State} {ls : List Loc} (h1 : 1 ≤ i.toInt)
    (h2 : i.toInt ≤ 256) (h : s.walkAccess c (s.walkAddr c a 0) i.toInt.toNat true = .ok (u, ls)) :
    exec (.wemit a c i) s = .next (u.walkWrite ls s.thread.row.toNat).walkNext := by
  change execWemit a c i s = _
  simp only [execWemit]
  rw [State.walkNeed_true (by simp [h1, h2]), h]
  rfl

/-! ### Digests -/

@[simp] theorem length_bytesOfNum (n v : Nat) : (bytesOfNum n v).length = n := by
  induction n generalizing v with
  | zero => rfl
  | succ n ih => rw [bytesOfNum, List.length_cons, ih]

/-- R279. WDABS that leaves the message short of a block asks the digest unit for nothing. -/
theorem exec_wdabs_short {a : BitVec 4} {g : Digest} (hd : s.thread.digest = some g) (hl : g.msg.length < 120) :
    exec (.wdabs a) s = .next (s.modWk (fun t =>
      { t with digest := some { g with msg := g.msg ++ bytesOfNum 8 (s.w a).toNat, len := g.len + 8 } })).walkNext := by
  have hshort : ¬128 ≤ (g.msg ++ bytesOfNum 8 (s.w a).toNat).length := by
    rw [List.length_append, length_bytesOfNum]; omega
  change execWdabs a s = _
  simp only [execWdabs, hd, hshort, if_false]

/-- R279. WDFIN of a padded digest whose blocks are all compressed writes it and ends it. -/
theorem exec_wdfin_done {a : BitVec 4} {c : BitVec 2} {i : BitVec 14} {g : Digest} {u : State} {ls : List Loc}
    (hd : s.thread.digest = some g) (hp : g.padded = true) (hl : g.msg.length < 128)
    (h : s.walkAccess c (s.walkAddr c a i) 64 true = .ok (u, ls)) :
    exec (.wdfin a c i) s = .next (((u.walkWrite ls (numOfBytes (g.h.flatMap bytesOfWord))).modWk
      (fun t => { t with digest := none })).walkNext) := by
  change execWdfin a c i s = _
  simp [execWdfin, hd, h, hp, Nat.not_le.mpr hl]

/-- R279. The digest unit compresses a whole block of the thread at the head of its queue. -/
theorem exec_digestBlockCompress_head {cl th : Nat} {qs : List Nat} {g : Digest} (hq : (s.cluster cl).digestQ = th :: qs)
    (hd : ((s.cluster cl).thread th).digest = some g) (hl : 128 ≤ g.msg.length) :
    exec (.digestBlockCompress cl th) s =
      .next ((s.modCluster cl (fun k => { k with digestQ := if 128 ≤ (g.msg.drop 128).length then qs ++ [th] else qs })).modThread cl
        th (fun t => { t with digest := some { g with h := shaCompress g.h (g.msg.take 128), msg := g.msg.drop 128 } })) := by
  have hblock : (some g).filter (fun g => decide (128 ≤ g.msg.length)) = some g := by simp [Option.filter, hl]
  change execDigestBlockCompress cl th s = _
  simp only [execDigestBlockCompress, hq, hd, hblock, ne_eq, not_true_eq_false, if_false]

/-! ### The step limit -/

/-- R281. A running thread that has taken as many steps as its limit faults. -/
theorem exec_walkStepLimit_exhausted {cl th : Nat} (hr : ((s.cluster cl).thread th).state = .run)
    (h0 : ((s.cluster cl).thread th).limit ≠ 0) (hl : ((s.cluster cl).thread th).limit ≤ ((s.cluster cl).thread th).steps) :
    exec (.walkStepLimit cl th) s = .next (s.walkFaultOf cl th Cause.budget s.openVal) := by
  have hex : ((s.cluster cl).thread th).exhausted = true := by simp [Thread.exhausted, hr, h0, hl]
  change execWalkStepLimit cl th s = _
  rw [execWalkStepLimit, if_pos hex]
end

end Sys2Proof.Machine

/-! ## What is settled of the matrix engine's family -/

namespace Sys2Proof.Proofs

open Sys2Proof.Machine

/-- Settles O46: issue by the checks' outcome, start, completion and failure by the outcome of the elements; those of a CPYM change of
the core its tile alone, so that the follow-on meets the engine as the copy's core held it. -/
theorem copiesIssueAndRun : Obligations.CopiesIssueAndRun := by
  refine ⟨fun s ui t a b sr dr rb cq sw hh => ?_, fun s core n c => ⟨fun hn hm => ?_, fun hr => ⟨fun u c' he hf => ?_,
    fun u c' he hf => ?_, fun u c' f he => ?_⟩⟩⟩
  · intro tiled x hx
    obtain ⟨read, hexec⟩ := exec_copyForms s ui t a b sr dr rb cq sw x hx
    rw [hexec]
    exact ⟨fun hs u p hc hl hcount => State.issueCopy_ok hh hs hc hl hcount, fun hs => ⟨_, State.issueCopy_suspended hh hs⟩⟩
  · refine ⟨_, exec_copyStart_may hn hm, State.main_registerPeers s core c, fun x hx hseq => ?_⟩
    rw [State.modCore_eq, State.core_setCore_self] at hx
    exact Core.started_modCopy hx hseq
  · rw [exec_copyComplete_moved hr he, if_neg hf]
  · intro tile rb cq
    have htiles : OnlyTiles s u := State.onlyTiles_copyElements ((State.fn_copyElements he).symm.trans hf) he
    obtain ⟨hq, hissued, hsusp, hdone, hcntTile, hcntCopy⟩ := u.completed_copy core n c'
    obtain ⟨⟨kind, hq'⟩, hissued', hdone', hcntTile', hcntCopy', htrap⟩ :=
      ((u.retireCopy core n).modCtx ⟨core, control⟩ (·.copyDone c')).followOn_spec core c'
    have hcore : u.core core = { s.core core with tiles := (u.core core).tiles } := htiles core
    have hnum := hissued.trans (congrArg Core.mxIssued hcore)
    rw [hq, congrArg Core.mxq hcore, hnum] at hq'
    rw [htiles.ctx] at hcntTile hcntCopy
    refine ⟨_, _, by rw [exec_copyComplete_moved hr he, if_pos hf], hq', rfl, rfl, rfl, by rw [hissued', hnum], rfl, rfl, rfl, rfl, rfl,
      hcntTile'.trans (by rw [hcntTile]), hcntCopy'.trans hcntCopy, ?_, fun hs => ?_⟩
    · rw [hdone', hdone, congrArg Core.cpDone hcore]
    · obtain ⟨prog, hmem⟩ := htrap (hsusp.trans ((congrArg Core.mxSusp hcore).trans hs))
      exact ⟨_, hmem, rfl, congrArg BitVec.toNat hnum, rfl, rfl⟩
  · obtain ⟨k, hk, hexec⟩ := exec_copyFail_stopped hr he
    obtain ⟨m, hcore⟩ := (u.setCore core k).core_defer core ⟨.copy, n, ⟨f.cause, 0, f.val, c'.prog f.dst⟩⟩
    refine ⟨_, hexec, ?_, ⟨.copy, n, ⟨f.cause, 0, f.val, c'.prog f.dst⟩⟩, ?_, rfl, rfl, rfl⟩
    · rw [hcore, State.core_setCore_self]
      exact hk
    · rw [State.defer, State.ctx_modCtx_self]
      exact List.mem_append_right _ (List.mem_singleton_self _)

/-- Settles O42: each names its tile, if any, and makes its own checks, which pass. -/
theorem matrixInstructionsIssue : Obligations.MatrixInstructionsIssue := by
  intro s t x a b fmt rb rd nm stride n cq pr sat cvt hh hs hp k sh tile z w joins
  have joined : ∀ {i : Instr} {check : MxChk State} {op : MxOp}, exec i s = s.issueEngine check → check = .ok (s.submitMx op) →
      joins i op := fun hexec h => hexec.trans (State.issueEngine_ok hh hs hp h)
  have tiled : ∀ {i : Instr} {check : TShape → MxChk State} {u : State}, tile →
      exec i s = s.issueEngine (s.myCore.namedTile t s.me.ir >>= check) → check sh = .ok u → exec i s = .next u.advance :=
    fun ht hexec h => hexec.trans (State.issueEngine_tile hh hs hp ht.1 ht.2 h)
  refine ⟨fun _ h => joined rfl ?_, fun ht kind h => tiled ht rfl ?_, fun ht kind h => tiled ht rfl ?_, fun h => joined rfl ?_,
    fun ht h1 h2 h3 => ⟨tiled ht rfl ?_, tiled ht rfl ?_⟩, fun h1 h2 => joined rfl ?_, fun ht h => tiled ht rfl ?_,
    fun ht h1 h => tiled ht rfl ?_, fun ht h1 h2 h3 h4 h5 => tiled ht rfl ?_⟩
  · rw [h]; rfl
  · rw [h]; rfl
  · rw [h]; rfl
  · rw [mxNeed_true _ 2 (decide_eq_true h)]; rfl
  · rw [accTileCheck_ok _ h1 h2 h3]; rfl
  · rw [accTileCheck_ok _ h1 h2 h3]; rfl
  · rw [mxNeed_true _ 2 (by simp [h1, h2])]; rfl
  · rw [h]; rfl
  · rw [mxNeed_true _ 2 (by simpa using h1), h]; rfl
  · rw [mxNeed_true _ 2 (by simp [h1, h2, h3, h4, show s.myCore.copyTargets x.toNat = false from h5])]; rfl

/-- Settles O43: the registers that each reads are VALID, and its limits and rights are the hypotheses. -/
theorem functionInstructionsIssue : Obligations.FunctionInstructionsIssue := by
  intro s d a b e f h n k hh hs hp z valid may joins
  have joined : ∀ {i : Instr} {reads : List (BitVec 3)} {limits : Bool} {ra rb rc : Reg},
      exec i s = s.issueFn i reads limits none ra rb rc → (∀ r ∈ reads, valid r) → limits = true → joins i ra rb rc :=
    fun hexec hr hl => hexec.trans (State.issueFn_ok hh hs hp _ _ _ hr hl nofun)
  have joinedBy : ∀ {i : Instr} {reads : List (BitVec 3)} {limits : Bool} {use : CapUse},
      exec i s = s.issueFn i reads limits (some (e, use)) (s.g e) (s.g f) z → (∀ r ∈ reads, valid r) → limits = true → may use →
      joins i (s.g e) (s.g f) z := fun hexec hr hl hm => hexec.trans (State.issueFn_ok hh hs hp _ _ _ hr hl fun _ _ h => by
        cases h
        exact hm)
  have noReads : ∀ r ∈ [], valid r := List.forall_mem_nil _
  refine ⟨fun ha hb => ?_, fun ha => ?_, joined rfl noReads rfl, fun h1 h2 hm => joinedBy rfl noReads (by simp [h1, h2]) hm,
    fun hm => joinedBy rfl noReads rfl hm, fun hd => ⟨joined rfl noReads hd, joined rfl noReads hd⟩⟩
  · have hab : ∀ r ∈ [a, b], valid r := by simpa using ⟨ha, hb⟩
    exact ⟨joined rfl hab rfl, joined rfl hab rfl, joined rfl hab rfl, joined rfl hab rfl⟩
  · have hr : ∀ r ∈ [a], valid r := by simpa using ha
    exact ⟨joined rfl hr rfl, joined rfl hr rfl, joined rfl hr rfl, joined rfl hr rfl, joined rfl hr rfl, joined rfl hr rfl,
      joined rfl hr rfl, fun hf => joined rfl hr (by simpa using hf), fun hk => joined rfl hr (decide_eq_true hk),
      fun hm => joinedBy rfl hr rfl hm⟩

/-- Settles O49: each instruction by its own rule, and the two events of the digest unit and of the step limit. -/
theorem walkerMemoryAndDigest : Obligations.WalkerMemoryAndDigest := by
  refine ⟨fun s d a c sn i e => ?_, fun s cl th => ⟨fun hr h0 hl => ?_, fun qs g hq hd hl => ?_⟩⟩
  · intro addr puts
    refine ⟨fun p hp => ?_, fun p hp => ?_, rfl, fun ha hr => exec_wrins_within ha hr, fun h1 h2 u ls h => ?_, rfl,
      fun g hd hl => exec_wdabs_short hd hl, fun g u ls hd hp hl h => exec_wdfin_done hd hp hl h, rfl, rfl⟩
    · rw [exec_walkLoads s d a c i p hp]
      exact ⟨fun u ls h => State.walkLoad_ok d h, fun u f h => State.walkLoad_error d h⟩
    · rw [exec_walkStores s d a c i p hp]
      exact ⟨fun u ls h => State.walkStore_ok d h, fun u f h => State.walkStore_error d h⟩
    · rw [← State.walkAddr_zero] at h
      exact exec_wemit_ok h1 h2 h
  · exact ⟨_, exec_walkStepLimit_exhausted hr h0 hl⟩
  · refine ⟨_, exec_digestBlockCompress_head hq hd hl, ?_⟩
    rw [State.thread_modThread_self]

end Sys2Proof.Proofs

/-! ## Event lines, the cluster barrier and indirect posts (R263 to R271) -/

namespace Sys2Proof.Machine

/-- An operand that its condition admits passes. -/
theorem State.needOperand_true {s : State} {b : Bool} (h : b = true) (v : Word) : s.needOperand b v = .ok () :=
  State.need_true _ _ _ h

theorem ensure_true {b : Bool} (h : b = true) (cause : BitVec 8) (v : Word) : ensure b cause v = .ok () := by
  rw [ensure, if_pos h]

/-! ### Event lines -/

/-- R270. The number of an EVWAIT or EVSIG, as a number. -/
theorem State.toNat_eventCount (s : State) (a : BitVec 5) : (s.eventCount a).toNat = if a = 0 then 1 else (s.x a).toNat := by
  unfold State.eventCount
  split <;> rfl

section
variable {s : State} {ev : BitVec 4} {a : BitVec 5} {l : EventLine}

/-- R270, R300. EVSIG of a legal number adds it to the line once the context's earlier accesses are performed. -/
theorem exec_evsig_legal (h : (s.eventCount a).toNat ≤ 65535) :
    exec (.evsig ev a) s = .next (if s.me.accessesPending then s.hold
      else s.advance.eventAdd (clusterOf s.cur.core) ev.toNat (s.eventCount a).toNat) := by
  change execEvsig ev a s = _
  simp only [execEvsig, State.needOperand_true (decide_eq_true h)]
  cases s.me.accessesPending <;> rfl

/-- R270. EVWAIT of a legal number, by the state of its line. -/
theorem exec_evwait_legal (hl : (s.cluster (clusterOf s.cur.core)).line ev.toNat = l) (h1 : 1 ≤ (s.eventCount a).toNat)
    (h2 : (s.eventCount a).toNat ≤ 65535) :
    exec (.evwait ev a) s = .next (if l.waiters.any (fun w => w.1 == s.cur) then s.hold
      else if l.waiters.isEmpty && decide ((s.eventCount a).toNat ≤ l.count) then
        (s.modCluster (clusterOf s.cur.core) (fun k =>
          k.setLine ev.toNat { l with count := l.count - (s.eventCount a).toNat })).advance
      else (s.modCluster (clusterOf s.cur.core) (fun k =>
          k.setLine ev.toNat { l with waiters := l.waiters ++ [(s.cur, (s.eventCount a).toNat)] })).hold) := by
  have hlegal := Bool.and_eq_true_iff.mpr ⟨decide_eq_true h1, decide_eq_true h2⟩
  change execEvwait ev a s = _
  simp only [execEvwait, hl, State.needOperand_true hlegal, bind, Except.bind]
  split
  · rfl
  · split <;> rfl

/-- R270. EVWAIT passes where no context waits and the count suffices. -/
theorem exec_evwait_passes (hl : (s.cluster (clusterOf s.cur.core)).line ev.toNat = l) (h1 : 1 ≤ (s.eventCount a).toNat)
    (h2 : (s.eventCount a).toNat ≤ 65535) (hw : l.waiters = []) (hc : (s.eventCount a).toNat ≤ l.count) :
    exec (.evwait ev a) s = .next (s.modCluster (clusterOf s.cur.core) (fun k =>
      k.setLine ev.toNat { l with count := l.count - (s.eventCount a).toNat })).advance := by
  rw [exec_evwait_legal hl h1 h2, if_neg (by simp [hw]), if_pos (by simp [hw, hc])]

/-- R270. EVWAIT joins the queue where it does not wait there yet and the line does not let it pass. -/
theorem exec_evwait_joins (hl : (s.cluster (clusterOf s.cur.core)).line ev.toNat = l) (h1 : 1 ≤ (s.eventCount a).toNat)
    (h2 : (s.eventCount a).toNat ≤ 65535) (hw : ∀ w ∈ l.waiters, w.1 ≠ s.cur)
    (hc : l.waiters ≠ [] ∨ l.count < (s.eventCount a).toNat) :
    exec (.evwait ev a) s = .next (s.modCluster (clusterOf s.cur.core) (fun k =>
      k.setLine ev.toNat { l with waiters := l.waiters ++ [(s.cur, (s.eventCount a).toNat)] })).hold := by
  have hnew : ¬l.waiters.any (fun w => w.1 == s.cur) = true := fun h =>
    let ⟨w, hmem, hcur⟩ := List.any_eq_true.mp h
    hw w hmem (eq_of_beq hcur)
  have hstays : ¬(l.waiters.isEmpty && decide ((s.eventCount a).toNat ≤ l.count)) = true := by
    rcases hc with h | h
    · simp [h]
    · simp [Nat.not_le.mpr h]
  rw [exec_evwait_legal hl h1 h2, if_neg hnew, if_neg hstays]
end

/-! ### The cluster barrier -/

/-- R271. A mask that holds the core's bit meets it. -/
theorem and_coreBit_ne_zero {w : Word} {core : Nat} (h : w.getLsbD (core % 8) = true) : w.setWidth 8 &&& coreBit core ≠ 0 := by
  have hlt : core % 8 < 8 := Nat.mod_lt _ (by decide)
  have hbit : (w.setWidth 8 &&& coreBit core).getLsbD (core % 8) = true := by
    simp only [coreBit, BitVec.getLsbD_and, BitVec.getLsbD_setWidth, BitVec.getLsbD_ofNat, Nat.testBit_two_pow_self, hlt, h,
      decide_true, Bool.and_self]
  intro h0
  rw [h0] at hbit
  exact Bool.false_ne_true (BitVec.getLsbD_zero.symm.trans hbit)

section
variable {s : State} {a : BitVec 5}

/-- R271. A first CBAR with a mask of eight bits that holds the own core, and that is the open episode's, arrives and waits. -/
theorem exec_cbar_arrives {w : Word} (hword : s.cbarWord a = w) (ha : s.arrival = none) (hm : w.toNat < 256)
    (hc : w.getLsbD (s.cur.core % 8) = true)
    (ho : (s.cluster (clusterOf s.cur.core)).cbOpen = false ∨ (s.cluster (clusterOf s.cur.core)).cbMask = w.setWidth 8)
    (hw : s.me.writesPending = false) :
    exec (.cbar a) s = .next ((s.keep (.cbar false)).cbarArrive s.cur.core (w.setWidth 8)).cbarWait := by
  have hhigh : bits w 63 8 = 0 := by
    rw [bits, Nat.div_eq_of_lt (b := 2 ^ 8) hm, Nat.zero_mod]
  have hepisode : (!(s.cluster (clusterOf s.cur.core)).cbOpen ||
      (s.cluster (clusterOf s.cur.core)).cbMask == w.setWidth 8) = true := by
    rcases ho with h | h <;> simp [h]
  have hlegal : (decide (bits w 63 8 = 0) && (w.setWidth 8 &&& coreBit s.cur.core != 0) &&
      (!(s.cluster (clusterOf s.cur.core)).cbOpen || (s.cluster (clusterOf s.cur.core)).cbMask == w.setWidth 8)) = true := by
    rw [hepisode, decide_eq_true hhigh, bne_iff_ne.mpr (and_coreBit_ne_zero hc)]
    rfl
  change execCbar a s = _
  simp only [execCbar, ha, hword]
  rw [State.needOperand_true hlegal, hw]
  rfl

/-- R271. A CBAR whose episode has closed completes. -/
theorem exec_cbar_released (ha : s.arrival = some (.cbar true)) : exec (.cbar a) s = .next s.dropArrival.advance := by
  change execCbar a s = _
  simp only [execCbar, State.cbarWait, ha]
  rfl
end

/-! ### Indirect posts -/

/-- R263. IGATHER and ISCATTER are the two directions of one post. -/
theorem exec_post (s : State) (scatter : Bool) (wide : BitVec 1) (ev : BitVec 4) (t ix n p : BitVec 5) (ru : BitVec 10) :
    exec (if scatter then .iscatter wide ev t ix n p ru else .igather wide ev t ix n p ru) s =
      s.issuePost scatter wide ev t ix n p ru := by
  cases scatter <;> rfl

section
variable {s : State} {k : Post} {t ix n p : BitVec 5}

/-- R264. A post that passes its checks registers its two spans. -/
theorem State.postChecks_ok (hn : k.n ≤ 65535) (ht : s.postRights t (if k.scatter then .store else .load) = .ok ())
    (hix : s.postRights ix .load = .ok ()) (hp : s.postRights p (if k.scatter then .load else .store) = .ok ())
    (hbix : s.postBounds ix (k.es * k.n) = .ok ()) (hbp : s.postBounds p (k.rb * k.n) = .ok ())
    (haix : (s.x ix).toNat % k.es = 0) (hap : (s.x p).toNat % 16 = 0) (hat : (s.x t).toNat % 16 = 0) {ir pr : Region}
    (hir : ownRange s.cur.core (s.x ix) (k.es * k.n) true = some ir)
    (hpr : ownRange s.cur.core (s.x p) (k.rb * k.n) false = some pr) : s.postChecks k t ix n p = .ok (k.spans ir pr) := by
  simp only [State.postChecks, ensure_true (decide_eq_true hn), ht, hix, hp, hbix, hbp, ensure_true (decide_eq_true haix),
    ensure_true (decide_eq_true hap), ensure_true (decide_eq_true hat), hir, hpr]
  rfl

/-- R263, R265. A post of at least one row whose checks pass, below its context's limit of copies and with room in the tables and in the
queue, registers its spans, joins the queue and is counted. -/
theorem State.issuePost_ok {scatter : Bool} {wide : BitVec 1} {ev : BitVec 4} {ru : BitVec 10} {spans : List (Span × Region × Bool)}
    (hk : s.newPost scatter wide ev t ix n p (postRowBytes ru) = k) (hchecks : s.postChecks k t ix n p = .ok spans) (hn : 1 ≤ k.n)
    (hcount : s.me.cntCopy < 15) (hspace : s.postSpace s.cur.core spans = true) :
    s.issuePost scatter wide ev t ix n p ru =
      .next (((s.registerPost s.cur.core k spans).modCluster (clusterOf s.cur.core) (fun c =>
        { c with posts := c.posts ++ [k], postNext := c.postNext + 1 })).modMe (fun x => { x with cntCopy := x.cntCopy + 1 })).advance := by
  have hroom : ¬(decide (15 ≤ s.me.cntCopy) || !s.postSpace s.cur.core spans) = true := by
    simp [Nat.not_le.mpr hcount, hspace]
  simp only [State.issuePost, hk, hchecks, bind, Except.bind]
  rw [if_neg hroom, if_neg (Nat.one_le_iff_ne_zero.mp hn)]
  rfl
end

section
variable {s : State} {cl num : Nat} {p : Post}

/-- R265. The oldest post that has not started starts where fewer than four run. -/
theorem exec_indirectPostStart_may (hp : (s.cluster cl).posts.find? (fun x => !x.started) = some p)
    (h4 : ((s.cluster cl).posts.filter (·.started)).length < 4) :
    exec (.indirectPostStart cl) s = .next (s.modCluster cl (fun k => k.setPost { p with started := true })) := by
  change execIndirectPostStart cl s = _
  simp only [execIndirectPostStart, hp]
  rw [if_pos h4]

/-- R266. A running post whose remaining rows all move leaves the engine. -/
theorem exec_indirectPostComplete_moved {u : State} {q : Post} (hr : (s.cluster cl).runningPost num = some p)
    (hm : s.postRows p (p.n - p.done) = (u, q, none)) (ho : u.postOrdered q = true) :
    exec (.indirectPostComplete cl num) s = .next (u.retirePost cl q) := by
  change execIndirectPostComplete cl num s = _
  simp only [execIndirectPostComplete, hr, hm]
  rw [if_pos ho]

/-- R268. A running post whose row fails leaves the engine, and its context takes a deferred trap. -/
theorem exec_indirectPostFail_failed {u : State} {q : Post} {c : BitVec 8} {v : Word}
    (hr : (s.cluster cl).runningPost num = some p) (hm : s.postRows p (p.n - p.done) = (u, q, some (.failed c v)))
    (ho : u.postOrdered q = true) :
    exec (.indirectPostFail cl num) s = .next ((u.retirePost cl q).deferOwner p.ctx p.uid ⟨.post, num, ⟨c, 0, v, q.prog⟩⟩) := by
  change execIndirectPostFail cl num s = _
  simp only [execIndirectPostFail, hr, hm]
  rw [if_pos ho]
end

end Sys2Proof.Machine

/-! ## The walker's register instructions, WKSTART and WKSTAT (R272 to R277) -/

namespace Sys2Proof.Machine

/-! ### Register instructions and branches -/

/-- The amount of a shift is the number in six bits. -/
theorem bits_five_zero (w : Word) : bits w 5 0 = w.toNat % 64 :=
  congrArg (· % 64) (Nat.div_one w.toNat)

section
variable (s : State) (d a b : BitVec 4)

/-- R277. The shifts, by the number in the low six bits of w[B]. -/
theorem exec_wshl_eq : exec (.wshl d a b) s = s.walkPut d (s.w a <<< ((s.w b).toNat % 64)) := by
  rw [← bits_five_zero]; rfl
theorem exec_wshr_eq : exec (.wshr d a b) s = s.walkPut d (s.w a >>> ((s.w b).toNat % 64)) := by
  rw [← bits_five_zero]; rfl

/-- R277. The value of a comparison of FP32 numbers: 1 where it holds of two numbers, else 0. -/
theorem w64_compareFp (anyNaN : Bool) (f : Val → Val → Bool) (x y : Val) :
    w64 (compareFp anyNaN f x y).1 = if !x.isNaN && !y.isNaN && f x y then 1 else 0 :=
  apply_ite w64 _ 1 0

/-- R277. A branch goes on by its immediate where it is taken, to the next word where not. -/
theorem State.walkBranch_eq (taken : Bool) (i : BitVec 14) :
    s.walkBranch taken i = .next (s.modWk (fun t => t.stepTo (t.pc + if taken then i.toInt else 1))) := by
  cases taken <;> rfl

theorem exec_wbne_eq (i : BitVec 14) : exec (.wbne a b i) s = s.walkBranch (decide (s.w a ≠ s.w b)) i := by
  rw [decide_not]; rfl
end

/-! ### Starting a thread -/

section
variable {s u : State} {d a b : BitVec 5} {obj : BitVec 16} {r : BitVec 512} {code : List (BitVec 32)}

/-- R274. WKSTART once its checks have passed, by the cluster's threads and its program store. -/
def State.threadStart (s u : State) (d a b : BitVec 5) (r : BitVec 512) (code : List (BitVec 32)) : State :=
  let cl := clusterOf s.cur.core
  match (u.cluster cl).freeThread with
  | none => (u.setX d 0xFFFFFFFFFFFFFFFF).advance
  | some j =>
    match (u.cluster cl).loadProgram (w64 (recBits r 64 64)) (s.who s.cur) code with
    | none => (u.setX d 0xFFFFFFFFFFFFFFFE).advance
    | some (k, words) =>
      ((u.modCluster cl (fun _ => (k.dropDigest j).setThread j (s.newThread a b r words))).setX d (w64 j)).advance

/-- R274. A WKSTART whose operands pass goes by the cluster that the reads of its program leave. -/
theorem exec_wkstart_fit (h1 : 1 ≤ a.toNat) (h28 : a.toNat ≤ 28) (hp : s.walkProgram obj = .ok (u, r, code))
    (hw : ∀ k ∈ [a, a + 1, a + 2, a + 3], s.checkWindow k = .ok ()) :
    exec (.wkstart d a b obj) s = .next (s.threadStart u d a b r code) := by
  have hread : s.check (s.walkProgram obj) s.openProg = .ok (u, r, code) := by rw [hp]; rfl
  simp only [List.forall_mem_cons] at hw
  obtain ⟨hw0, hw1, hw2, hw3, -⟩ := hw
  change execWkstart d a b obj s = _
  simp only [execWkstart, State.needOperand_true (Bool.and_eq_true_iff.mpr ⟨decide_eq_true h1, decide_eq_true h28⟩), hread, hw0, hw1,
    hw2, hw3, bind, Except.bind, State.threadStart]
  cases (u.cluster (clusterOf s.cur.core)).freeThread with
  | none => rfl
  | some j =>
    simp only
    cases (u.cluster (clusterOf s.cur.core)).loadProgram (w64 (recBits r 64 64)) (s.who s.cur) code <;> rfl

theorem State.threadStart_none (hf : (u.cluster (clusterOf s.cur.core)).freeThread = none) :
    s.threadStart u d a b r code = (u.setX d 0xFFFFFFFFFFFFFFFF).advance := by
  simp only [State.threadStart, hf]

theorem State.threadStart_some {j : Nat} {k : Cluster} {words : List (BitVec 32)}
    (hf : (u.cluster (clusterOf s.cur.core)).freeThread = some j)
    (hl : (u.cluster (clusterOf s.cur.core)).loadProgram (w64 (recBits r 64 64)) (s.who s.cur) code = some (k, words)) :
    s.threadStart u d a b r code = ((u.modCluster (clusterOf s.cur.core)
      (fun _ => (k.dropDigest j).setThread j (s.newThread a b r words))).setX d (w64 j)).advance := by
  simp only [State.threadStart, hf, hl]
end

/-! ### Reading a thread -/

section
variable {s : State} {d a : BitVec 5} {sel : BitVec 2} {rel : BitVec 1} {t : Thread}

/-- R275. WKSTAT of a legal thread and field, by the thread's domain and state. -/
theorem exec_wkstat_legal (ha : (s.x a).toNat ≤ 7) (hsel : sel ≠ 3)
    (ht : (s.cluster (clusterOf s.cur.core)).thread (s.x a).toNat = t) :
    exec (.wkstat d a sel rel) s = .next (if t.who.dom ≠ s.me.dom then (s.setX d 0).advance
      else ((if rel == 1 && (t.state == .ended || t.state == .faulted) then
        s.modCluster (clusterOf s.cur.core) (·.clearThread (s.x a).toNat) else s).setX d (t.field sel.toNat)).advance) := by
  change execWkstat d a sel rel s = _
  simp only [execWkstat, ht, bind, Except.bind,
    State.needOperand_true (Bool.and_eq_true_iff.mpr ⟨decide_eq_true ha, bne_iff_ne.mpr hsel⟩), bne_iff_ne]
  split <;> rfl

/-- R275. A thread of another domain reads 0. -/
theorem exec_wkstat_foreign (ha : (s.x a).toNat ≤ 7) (hsel : sel ≠ 3)
    (ht : (s.cluster (clusterOf s.cur.core)).thread (s.x a).toNat = t) (hd : t.who.dom ≠ s.me.dom) :
    exec (.wkstat d a sel rel) s = .next (s.setX d 0).advance := by
  rw [exec_wkstat_legal ha hsel ht, if_pos hd]

/-- R275. A thread of the own domain that is not released is read and stays. -/
theorem exec_wkstat_kept (ha : (s.x a).toNat ≤ 7) (hsel : sel ≠ 3)
    (ht : (s.cluster (clusterOf s.cur.core)).thread (s.x a).toNat = t) (hd : t.who.dom = s.me.dom)
    (hk : rel = 0 ∨ t.state = .free ∨ t.state = .run) :
    exec (.wkstat d a sel rel) s = .next (s.setX d (t.field sel.toNat)).advance := by
  have hstays : ¬(rel == 1 && (t.state == .ended || t.state == .faulted)) = true := by
    rcases hk with h | h | h <;> simp [h]
  rw [exec_wkstat_legal ha hsel ht, if_neg (not_not_intro hd), if_neg hstays]

/-- R275. REL frees a thread of the own domain that has ended or faulted, after it is read. -/
theorem exec_wkstat_freed (ha : (s.x a).toNat ≤ 7) (hsel : sel ≠ 3)
    (ht : (s.cluster (clusterOf s.cur.core)).thread (s.x a).toNat = t) (hd : t.who.dom = s.me.dom) (hr : rel = 1)
    (he : t.state = .ended ∨ t.state = .faulted) :
    exec (.wkstat d a sel rel) s =
      .next ((s.modCluster (clusterOf s.cur.core) (·.clearThread (s.x a).toNat)).setX d (t.field sel.toNat)).advance := by
  have hends : (rel == 1 && (t.state == .ended || t.state == .faulted)) = true := by
    rcases he with h | h <;> simp [hr, h]
  rw [exec_wkstat_legal ha hsel ht, if_neg (not_not_intro hd), if_pos hends]
end

end Sys2Proof.Machine

/-! ## What is settled of the cluster's family -/

namespace Sys2Proof.Proofs

open Sys2Proof.Machine

/-- Settles O47: the event lines and the barrier by their state, a post by its checks, and the events of the indirect copy engine by what
the rows that remain do. -/
theorem clusterInstructions : Obligations.ClusterInstructions := by
  refine ⟨fun s ev a => ?_, fun s wide ev t ix n p ru sc => ?_, fun s cl num p => ⟨exec_indirectPostStart_may, fun hr =>
    ⟨fun _ _ hm ho => exec_indirectPostComplete_moved hr hm ho, fun _ _ _ _ hm ho => exec_indirectPostFail_failed hr hm ho⟩⟩⟩
  · rw [← State.toNat_eventCount]
    exact ⟨exec_evsig_legal, exec_evwait_passes rfl, exec_evwait_joins rfl, fun hm hc ho hw ha => exec_cbar_arrives rfl ha hm hc ho hw,
      exec_cbar_released⟩
  · intro rb k i h1 hn ht hix hp hbix hbp haix hap hat ir pr hir hpr hcount hspace
    exact (exec_post s sc wide ev t ix n p ru).trans
      (State.issuePost_ok rfl (State.postChecks_ok hn ht hix hp hbix hbp haix hap hat hir hpr) h1 hcount hspace)

/-- Settles O48: each instruction writes its value or branches by its condition. -/
theorem walkerRegisterInstructions : Obligations.WalkerRegisterInstructions := by
  intro s d a b i j x y n y' fp puts goes
  refine ⟨rfl, ?_, ?_⟩
  · simp only [List.forall_mem_cons]
    exact ⟨rfl, rfl, rfl, rfl, rfl, exec_wshl_eq s d a b, exec_wshr_eq s d a b, rfl, rfl, rfl,
      congrArg (s.walkPut d) (w64_compareFp true _ _ _), congrArg (s.walkPut d) (w64_compareFp true _ _ _), List.forall_mem_nil _⟩
  · simp only [List.forall_mem_cons]
    exact ⟨s.walkBranch_eq _ i, (exec_wbne_eq s a b i).trans (s.walkBranch_eq _ i), s.walkBranch_eq _ i, s.walkBranch_eq true i,
      List.forall_mem_nil _⟩

/-- Settles O50: WKSTART by the cluster that the reads of its program leave, WKSTAT by the thread's domain and state. -/
theorem walkerStartAndStatus : Obligations.WalkerStartAndStatus := by
  intro s d a b obj sel rel cl
  refine ⟨fun h1 h28 u r code hp hw => ?_, fun ha hsel => ?_⟩
  · rw [exec_wkstart_fit h1 h28 hp hw]
    exact ⟨fun hf => congrArg _ (State.threadStart_none hf), fun j k words hf hl => congrArg _ (State.threadStart_some hf hl)⟩
  · exact ⟨exec_wkstat_foreign ha hsel rfl, exec_wkstat_kept ha hsel rfl, exec_wkstat_freed ha hsel rfl⟩

end Sys2Proof.Proofs

/-! ## What a walk sets (R290 to R292) -/

namespace Sys2Proof.Machine

/-- Setting bits leaves a word as it is where they are set in it. -/
theorem or_eq_self_iff {w : Nat} (e m : BitVec w) : e ||| m = e ↔ ∀ j, m.getLsbD j = true → e.getLsbD j = true := by
  constructor
  · intro h j hj
    rw [← h, BitVec.getLsbD_or, hj, Bool.or_true]
  · intro h
    refine BitVec.eq_of_getLsbD_eq fun j _ => ?_
    rw [BitVec.getLsbD_or]
    cases hm : m.getLsbD j with
    | false => rw [Bool.or_false]
    | true => rw [h j hm, Bool.or_true]

theorem or_twoPow_eq_self_iff {w : Nat} (e : BitVec w) {i : Nat} (hi : i < w) : e ||| BitVec.twoPow w i = e ↔ e.getLsbD i = true := by
  simp [or_eq_self_iff, BitVec.getLsbD_twoPow, hi]

theorem or_or_eq_self_iff {w : Nat} (e x y : BitVec w) : e ||| x ||| y = e ↔ e ||| x = e ∧ e ||| y = e := by
  simp only [BitVec.or_assoc, or_eq_self_iff, BitVec.getLsbD_or, Bool.or_eq_true, or_imp, forall_and]

/-- R291. The bits that an access sets in a leaf entry: A, and D where it stores. -/
theorem Entry.accessed_eq (e : Word) (k : Access) : Entry.accessed e k = e ||| (if k = .load ∨ k = .fetch then 0x80 else 0xC0) := by
  cases k <;> simp [Entry.accessed, BitVec.or_assoc]

/-- R291. An access leaves a leaf entry as it is where A is set, and D where it stores. -/
theorem Entry.accessed_eq_self_iff (e : Word) (k : Access) :
    Entry.accessed e k = e ↔ e.getLsbD 7 = true ∧ (k = .load ∨ k = .fetch ∨ e.getLsbD 6 = true) := by
  have ha : e ||| 0x80 = e ↔ e.getLsbD 7 = true := or_twoPow_eq_self_iff e (i := 7) (by decide)
  have hd : e ||| 0x40 = e ↔ e.getLsbD 6 = true := or_twoPow_eq_self_iff e (i := 6) (by decide)
  have hboth : e ||| 0xC0 = e ↔ e.getLsbD 7 = true ∧ e.getLsbD 6 = true := by
    rw [show (0xC0 : Word) = 0x80 ||| 0x40 from rfl, ← BitVec.or_assoc, or_or_eq_self_iff, ha, hd]
  rw [Entry.accessed_eq]
  split
  · next h => rw [ha, and_iff_left (h.imp_right Or.inl)]
  · next h => rw [hboth, ← or_assoc, or_iff_right h]

section
variable {s u : State} {c : CtxId} {va : Word} {k : Access}

/-- R290. The walk of the die's walker changes what a translation changes. -/
theorem exec_translationWalk_eq (s : State) (c : CtxId) (va : Word) (k : Access) :
    exec (.translationWalk c va k) s = .next (s.walked (s.who c) va k) := rfl

theorem State.walked_ok {w : Who} {l : Loc} {b : Bool} (h : s.translate w va k = .ok (u, l, b)) : s.walked w va k = u := by
  rw [State.walked, h]

theorem State.walked_error {w : Who} {f : Fail} (h : s.translate w va k = .error f) : s.walked w va k = s := by
  rw [State.walked, h]

/-- R291. The device memory that a translation leaves whose walk finds a leaf: the entry is written where its bits change. -/
theorem State.main_walked {w : Who} {lf : Leaf} (hst : s.staleEntry w va k (s.walk w va k) = none) (hw : s.walk w va k = .ok lf) :
    (s.walked w va k).main = if Entry.accessed lf.entry k = lf.entry then s.main
      else s.main.write lf.at_ 8 (Entry.accessed lf.entry k).toNat := by
  simp only [State.walked, State.translate, hst]
  rw [hw]
end

end Sys2Proof.Machine

/-! ## Ordered accesses and FENCE (R294, R299, R304 to R308) -/

namespace Sys2Proof.Machine

section
variable {s u : State} {a : BitVec 5} {n : Nat} {use : CapUse} {v : Reg} {home : Place}

/-- R294, R304. An access that host memory does not serve may be ordered. -/
theorem State.orderedAccess_ok (h : s.access a (s.x a) n use v = .ok (u, home)) (hh : ∀ l, home = .local l → l.space ≠ .host) :
    s.orderedAccess a n use v = .ok (u, home) := by
  rw [State.orderedAccess, h]
  rcases home with l | ⟨addr, key⟩
  · exact congrArg (· >>= fun _ => .ok (u, Home.local l)) (State.need_true _ _ _ (decide_eq_true (hh l rfl)))
  · rfl

/-- R304 to R307. Such an access is issued, with its order and scope, and its instruction completes. -/
theorem State.issueOrdered_ok (op : Place → PendOp) (h : s.access a (s.x a) n use v = .ok (u, home))
    (hh : ∀ l, home = .local l → l.space ≠ .host) :
    s.issueAt a (s.x a) n use v (s.orderedAccess a n use v) op = .next (u.issueOps [op home]).advance :=
  s.issueAt_ok a (s.x a) n use v op (State.orderedAccess_ok h hh)
end

/-- R305. The AMO instructions, each with its operation. -/
def amoForms (d a b : BitVec 5) (scope order : BitVec 3) (size : BitVec 2) : List (Instr × AmoOp) :=
  [ (.amoadd d a b scope order size, .add), (.amoand d a b scope order size, .and), (.amoor d a b scope order size, .or)
  , (.amoxor d a b scope order size, .xor), (.amoswap d a b scope order size, .swap), (.amomin d a b scope order size, .min)
  , (.amomax d a b scope order size, .max), (.amominu d a b scope order size, .minu), (.amomaxu d a b scope order size, .maxu) ]

theorem exec_amoForms (s : State) (d a b : BitVec 5) (scope order : BitVec 3) (size : BitVec 2) :
    ∀ p ∈ amoForms d a b scope order size, exec p.1 s =
      s.issueAt a (s.x a) (sizeBytes size) .atomic Reg.zero (s.orderedAccess a (sizeBytes size) .atomic Reg.zero)
        (fun home => (s.pendOp (.amo d p.2) home (sizeBytes size) (s.g b)).ordered order scope) := by
  simp only [amoForms, List.forall_mem_cons]
  exact ⟨rfl, rfl, rfl, rfl, rfl, rfl, rfl, rfl, rfl, List.forall_mem_nil _⟩

/-- R308. The context after a FENCE that completes: the fence stands behind the accesses before it, if there are any. -/
def State.fenced (s : State) (scope kind : BitVec 3) : Ctx :=
  if s.me.pend = [] then s.me
  else { s.me with pend := s.me.pend ++ [{ s.pendOp (.fence kind) (.remote 0 0) 0 Reg.zero with scope := scope }] }

/-- R308. FENCE completes where its kind is not 4 or every earlier store is performed, and holds its context otherwise. -/
theorem exec_fence_eq (s : State) (scope kind : BitVec 3) : exec (.fence scope kind) s =
    .next (s.waitFor (decide (kind ≠ 4 ∨ ∀ o ∈ s.me.pend, o.kind.writes = true → o.kind.isUnit = true))
      (s.setCtx s.cur (s.fenced scope kind)).advance) := by
  have hfenced : s.fenced scope kind = if s.me.pend.isEmpty then s.me
      else { s.me with pend := s.me.pend ++ [{ s.pendOp (.fence kind) (.remote 0 0) 0 Reg.zero with scope := scope }] } := by
    simp only [State.fenced, List.isEmpty_iff]
  have hdone : (kind != 4 || s.me.pend.all fun o => !o.kind.writes || o.kind.isUnit) =
      decide (kind ≠ 4 ∨ ∀ o ∈ s.me.pend, o.kind.writes = true → o.kind.isUnit = true) := by
    rw [Bool.eq_iff_iff]
    simp [imp_iff_not_or]
  rw [hfenced, ← hdone]
  rfl

end Sys2Proof.Machine

/-! ## Virtual devices and their interrupts (R386) -/

namespace Sys2Proof.Machine

@[simp] theorem State.vdev_modVdev_self (s : State) (n : Nat) (f : VDev → VDev) : (s.modVdev n f).vdev n = f (s.vdev n) :=
  SMap.getD_set_self _ _ _ _

theorem State.vdev_modVdev_ne (s : State) {n m : Nat} (f : VDev → VDev) (h : m ≠ n) : (s.modVdev n f).vdev m = s.vdev m :=
  SMap.getD_set_ne _ _ _ h

/-- R386. An interrupt's vector is pending. -/
theorem VDev.getLsbD_interrupt (d : VDev) {v : Nat} (h : v < 32) : (d.interrupt v).irqPend.getLsbD v = true := by
  simp only [VDev.interrupt, BitVec.getLsbD_or, BitVec.getLsbD_ofNat, Nat.testBit_two_pow_self, h, decide_true, Bool.and_self,
    Bool.or_true]

/-- R386. The vector is pending at every device that has received it or had it pending. -/
theorem State.interrupt_foldl (l : List Nat) (s : State) {n v : Nat} (hv : v < 32)
    (h : n ∈ l ∨ (s.vdev n).irqPend.getLsbD v = true) :
    ((l.foldl (fun t m => t.modVdev m (·.interrupt v)) s).vdev n).irqPend.getLsbD v = true := by
  induction l generalizing s with
  | nil => exact h.resolve_left List.not_mem_nil
  | cons m l ih =>
    rw [List.foldl_cons]
    refine ih _ ?_
    by_cases hn : n = m
    · subst hn
      exact .inr (by rw [State.vdev_modVdev_self, VDev.getLsbD_interrupt _ hv])
    · rw [State.vdev_modVdev_ne _ _ hn]
      exact h.imp_left fun hmem => (List.mem_cons.mp hmem).resolve_left hn

theorem State.getLsbD_interruptAll (s : State) {n v : Nat} (hv : v < 32) (hn : n < 16) :
    ((s.interruptAll v).vdev n).irqPend.getLsbD v = true :=
  State.interrupt_foldl _ s hv (.inl (List.mem_range.mpr hn))

/-- R386. An interrupt to every device changes the devices alone. -/
theorem State.interruptAll_frame (s : State) (v : Nat) : s.interruptAll v = { s with vdevs := (s.interruptAll v).vdevs } := by
  unfold State.interruptAll
  generalize List.range 16 = l
  induction l generalizing s with
  | nil => rfl
  | cons m l ih => rw [List.foldl_cons, ih]; rfl

/-- A write of the device changes device memory alone. -/
theorem State.physWrite_frame (s : State) (a n v : Nat) : s.physWrite a n v = { s with main := (s.physWrite a n v).main } := by
  unfold State.physWrite
  split <;> rfl

theorem State.core_physWrite (s : State) (a n v core : Nat) : (s.physWrite a n v).core core = s.core core := by
  rw [State.physWrite_frame]; rfl

/-! ### What the host writes -/

section
variable {s : State} {vd : Nat}

theorem State.hostWrite_open (f : State → State) (h : vd < 16) (he : (s.vdev vd).en = true) : s.hostWrite vd f = f s :=
  if_pos (by rw [decide_eq_true h, he]; rfl)

theorem State.hostWrite_closed (f : State → State) (he : (s.vdev vd).en = false) : s.hostWrite vd f = s :=
  if_neg (by rw [he, Bool.and_false]; decide)
end

/-- R384, R386, R392. The host's writes to a device's windows, each with the state that it leaves where the window is open. -/
noncomputable def hostForms (s : State) (vd off size : Nat) (v adr : BitVec 64) (w : Bool) : List (Instr × State) :=
  [ (.jsgo vd v, s.jsgo vd v), (.irqstatClear vd v, s.irqClear vd v), (.lntrig vd v, s.hostTrigger v), (.lnres vd v, s.hostResume v)
  , (.atgo vd v, s.attest vd v), (.hostRegisterWrite vd off v, s.windowWrite vd off v)
  , (.hostMemoryWindowAccess vd w adr size v,
      if w && decide (size ≤ 8) && (List.range size).all (fun k => Config.vdMayReach vd (adr.toNat + k)) then
        s.physWrite adr.toNat size (v.toNat % 2 ^ (8 * size)) else s) ]

theorem exec_hostForms (s : State) (vd off size : Nat) (v adr : BitVec 64) (w : Bool) :
    ∀ p ∈ hostForms s vd off size v adr w, exec p.1 s = .next (s.hostWrite vd (fun _ => p.2)) := by
  simp only [hostForms, List.forall_mem_cons]
  exact ⟨rfl, rfl, rfl, rfl, rfl, rfl, rfl, List.forall_mem_nil _⟩

/-- R392. An attestation under way ends in ATSTAT 2 and vector 3. -/
theorem exec_attestationDone_running {s : State} {vd : Nat} (h : (s.vdev vd).atstat = 1) : ∃ t, exec (.attestationDone vd) s = .next t ∧
    (t.vdev vd).atstat = 2 ∧ (t.vdev vd).irqPend.getLsbD 3 = true := by
  have hexec : ∃ u : State, execAttestationDone vd s = .next (u.modVdev vd (fun x => { x with atstat := 2 }.interrupt 3)) := by
    simp only [execAttestationDone, h, ne_eq, not_true_eq_false, if_false]
    exact ⟨_, rfl⟩
  obtain ⟨u, hu⟩ := hexec
  refine ⟨_, hu, ?_, ?_⟩ <;> rw [State.vdev_modVdev_self]
  · rfl
  · exact VDev.getLsbD_interrupt _ (by decide)

end Sys2Proof.Machine

/-! ## Sealing (R388, R389) -/

namespace Sys2Proof.Machine

/-- R87. What a context keeps for a head is found there. -/
theorem Ctx.arrivalAt_keep (c : Ctx) (h : Word) (a : Arrival) : (c.keep h a).arrivalAt h = some a := by
  have hnone : (c.dropArrival h).arrivals.find? (fun p => p.1 == h) = none := by
    simp [Ctx.dropArrival]
  simp [Ctx.arrivalAt, Ctx.keep, List.find?_append, hnone]

/-- R87. A held instruction finds what it kept. -/
theorem State.arrival_keep_hold (s : State) (a : Arrival) : (s.keep a).hold.arrival = some a := by
  rw [State.arrival, State.hold, State.me_modMe, State.keep, State.me_modMe]
  exact Ctx.arrivalAt_keep s.me s.me.pc a

/-- R389. The slot that a SEAL of the current context takes. -/
def State.newSeal (s : State) (a len : Word) (ps : List SealPage) : SealSlot :=
  { dom := s.me.dom, vd := (s.vdOf s.me.dom).getD 16, addr := a, len := len.toNat, pages := ps.map (·.page)
    who := s.who s.cur, owner := s.cur, uid := s.me.uid, digest := none }

/-- R389. The state after the sealing moment, while the digest is computed. -/
def State.sealStarted (s : State) (a len : Word) (ps : List SealPage) (k : Nat) : State :=
  (({ s.sealRegion s.me.dom a ps with seals := SMap.set s.seals k (s.newSeal a len ps) } : State).keep (.seal k none)).hold

/-- R389. It holds the context, which keeps the slot's number, and the slot is the new one. -/
theorem State.sealStarted_spec (s : State) (a len : Word) (ps : List SealPage) (k : Nat) :
    (s.sealStarted a len ps k).me.waiting = true ∧ (s.sealStarted a len ps k).arrival = some (.seal k none) ∧
      SMap.find (s.sealStarted a len ps k).seals k = some (s.newSeal a len ps) := by
  refine ⟨?_, State.arrival_keep_hold _ _, SMap.find_set_self _ _ _⟩
  rw [State.sealStarted, State.hold, State.me_modMe]

section
variable {s : State} (d : BitVec 5) {a b : BitVec 5}

section
variable (ha : s.arrival = none) (hc : s.sealChecks a (s.x a) (s.x b) = .ok ())
include ha hc

/-- R388. A SEAL that passes its first checks waits for the context's writes. -/
theorem exec_seal_waits (hw : s.me.writesPending = true) : exec (.seal d a b) s = .next s.hold := by
  change execSeal d a b s = _
  simp only [execSeal, ha, hc, hw]
  rfl

section
variable {ps : List SealPage} (hw : s.me.writesPending = false)
  (hp : s.sealPages (s.who s.cur) (s.x a) ((s.x b).toNat / 65536) ((s.x b).toNat / 65536) = .ok ps)
include hw hp

/-- R389. With no slot free it gives all ones. -/
theorem exec_seal_full (hf : s.freeSeal = none) : exec (.seal d a b) s = .next (s.setX d 0xFFFFFFFFFFFFFFFF).advance := by
  change execSeal d a b s = _
  simp only [execSeal, ha, hc, hw, hp, hf]
  rfl

/-- R389. With one free it seals the region there, and is held until the digest is there. -/
theorem exec_seal_starts {k : Nat} (hf : s.freeSeal = some k) : exec (.seal d a b) s = .next (s.sealStarted (s.x a) (s.x b) ps k) := by
  change execSeal d a b s = _
  simp only [execSeal, ha, hc, hw, hp, hf]
  rfl
end
end

/-- R389. A SEAL past its sealing moment completes with its slot once the digest is there. -/
theorem exec_seal_sealed {k : Nat} {x : SealSlot} (ha : s.arrival = some (.seal k none)) (hx : SMap.find s.seals k = some x) :
    exec (.seal d a b) s = .next (if x.digest.isSome then s.completeWait d (BitVec.ofNat 64 k) else s.hold) := by
  change execSeal d a b s = _
  simp only [execSeal, ha, State.sealWait, hx]
  rfl

/-- R389. And traps where hashing met a poisoned granule. -/
theorem exec_seal_poisoned {k : Nat} {p : Word} (ha : s.arrival = some (.seal k (some p))) :
    exec (.seal d a b) s = .next (s.dropArrival.takeTrap s.cur ⟨Cause.poisonConsumed, s.me.pc, p, s.openProg⟩) := by
  change execSeal d a b s = _
  simp only [execSeal, ha]
  rfl
end

section
variable {s : State} {k : Nat} {x : SealSlot} (hx : SMap.find s.seals k = some x) (hd : x.digest = none)
include hx hd

/-- R389. Hashing ends with the digest of the region's bytes. -/
theorem exec_sealDigestDone_clean (hp : s.sealPoison x = none) : exec (.sealDigestDone k) s =
    .next { s with seals := SMap.set s.seals k { x with digest := some (BitVec.ofNat 512 (numOfBytes (sha512 (s.sealBytes x)))) } } := by
  change execSealDigestDone k s = _
  simp only [execSealDigestDone, hx, hd, hp]
  rfl

/-- R389. Or, at a poisoned granule, it frees the slot and tells the SEAL. -/
theorem exec_sealDigestDone_poisoned {p : Word} (hp : s.sealPoison x = some p) : exec (.sealDigestDone k) s =
    .next ((s.releaseSeal k).modOwner x.owner x.uid (fun c => c.sealPoisoned k p)) := by
  change execSealDigestDone k s = _
  simp only [execSealDigestDone, hx, hd, hp]
  rfl
end

end Sys2Proof.Machine

/-! ## Errors and terminations (R376 to R378) -/

namespace Sys2Proof.Machine

/-- A member of a set is one of its list. -/
theorem NSet.has_iff_mem (m : NSet) (k : Nat) : m.has k = true ↔ k ∈ m := by
  induction m with
  | nil => simp [NSet.has]
  | cons x m ih => simp [NSet.has, ih]

/-- R184. Bytes that begin in a marked granule meet a mark. -/
theorem Memory.anyPoison_setPoison (m : Memory) (a n : Nat) (hn : 0 < n) : (m.setPoison a true).anyPoison a n = true := by
  have hmem : granule a ∈ (m.setPoison a true).poison := by
    rw [← NSet.has_iff_mem, Memory.setPoison, NSet.has_put, if_pos rfl]
  have hgranule : granule a * 16 ≤ a ∧ a < granule a * 16 + 16 := by rw [granule]; omega
  refine List.any_eq_true.mpr ⟨granule a, hmem, ?_⟩
  rw [Bool.and_eq_true, decide_eq_true_eq, decide_eq_true_eq]
  omega

/-- R377, R378. A further error of a terminated domain is only counted. -/
theorem State.terminate_again {s : State} {c : Charge} (owner : State → State) (h : s.terminated c.dom = true) :
    s.terminate c owner = s.countError c.dom := if_pos h

/-- R377 step 7. DONE is written, and the domain's termination is over. -/
def State.terminationEnded (s : State) (d : BitVec 6) : State :=
  { s.physWrite (s.failAddr d + 7) 1 0x80 with terms := SMap.erase s.terms d.toNat }

/-- R377 step 7. TERMINATION_DONE once every item is recorded: the domain's device receives vector 0. -/
theorem exec_terminationDone_recorded {s : State} {d : BitVec 6} {t : Termination} (ht : SMap.find s.terms d.toNat = some t)
    (hr : s.someCoreRuns d = false) (hi : t.items = []) : ∃ u, exec (.terminationDone d) s = .next u ∧
      SMap.find u.terms d.toNat = none ∧ ∀ n, s.vdOf d = some n → (u.vdev n).irqPend.getLsbD 0 = true := by
  have hexec : exec (.terminationDone d) s =
      .next ((s.vdOf d).elim (s.terminationEnded d) (fun n => (s.terminationEnded d).modVdev n (·.interrupt 0))) := by
    change execTerminationDone d s = _
    simp only [execTerminationDone, ht, hr, hi]
    cases s.vdOf d <;> rfl
  refine ⟨_, hexec, ?_, fun n hn => ?_⟩
  · cases s.vdOf d <;> exact SMap.find_erase_self _ _
  · rw [hn, Option.elim_some, State.vdev_modVdev_self, VDev.getLsbD_interrupt _ (by decide)]

end Sys2Proof.Machine

/-! ## Captures of the Lantern (R384, R386) -/

namespace Sys2Proof.Machine

section
variable {s : State} {k : Capture} (hk : s.capture = some k)
include hk

/-- R384. A core that the capture waits for, at a group boundary, is captured, and stops where the trigger halts. -/
theorem exec_lanternCoreCapture_boundary {core : Nat} (hp : NSet.has k.pending core = true)
    (hb : ∀ p ∈ (s.core core).ctxs, p.2.life ≠ .live ∨ p.2.gpos = 0) : ∃ t, exec (.lanternCoreCapture core) s = .next t ∧
      t.capture = some { k with pending := NSet.del k.pending core } ∧ (t.core core).lnStop = ((s.core core).lnStop || k.halt) := by
  have hall : (s.core core).ctxs.all (fun p => p.2.life != .live || p.2.gpos == 0) = true := by
    simpa [List.all_eq_true] using hb
  let u : State := { s.physWrite (s.lnbase.toNat + 128 * core) 128 (s.captureRecord core) with
    capture := some { k with pending := NSet.del k.pending core } }
  have hcore : u.core core = s.core core := s.core_physWrite _ _ _ core
  have hexec : exec (.lanternCoreCapture core) s = .next (u.modCore core (fun c => { c with lnStop := c.lnStop || k.halt })) := by
    change execLanternCoreCapture core s = _
    simp only [execLanternCoreCapture, hk, hp, hall]
    rfl
  refine ⟨_, hexec, rfl, ?_⟩
  rw [State.modCore_eq, State.core_setCore_self, hcore]

/-- R386. A capture with a write to host memory before it does not report. -/
theorem exec_lanternCaptureComplete_unreported (hr : s.reported k = false) : exec .lanternCaptureComplete s = .next s := by
  change execLanternCaptureComplete s = _
  simp only [execLanternCaptureComplete, hk, hr, Bool.and_false]
  rfl

/-- R384. With every record written and those writes performed, it does: every device receives vector 2. -/
theorem exec_lanternCaptureComplete_reported (hp : k.pending = []) (hr : s.reported k = true) :
    ∃ t, exec .lanternCaptureComplete s = .next t ∧ t.capture = none ∧ t.lnseq = s.lnseq + 1 ∧
      ∀ n, n < 16 → (t.vdev n).irqPend.getLsbD 2 = true := by
  let u : State := { s with capture := none, lnseq := s.lnseq + 1 }
  have hexec : exec .lanternCaptureComplete s = .next (u.interruptAll 2) := by
    change execLanternCaptureComplete s = _
    simp only [execLanternCaptureComplete, hk, hp, hr]
    rfl
  have hframe := u.interruptAll_frame 2
  exact ⟨_, hexec, congrArg State.capture hframe, congrArg State.lnseq hframe, fun n => u.getLsbD_interruptAll (by decide)⟩
end

end Sys2Proof.Machine

/-! ## Bring-up, test access and the stacks (R284, R393, R394) -/

namespace Sys2Proof.Machine

section
variable {s : State}

/-- R393. A stack wakes a microsecond after the last wake. -/
theorem exec_stackWake_due (hn : s.power.hbmStacks < 12) (ht : s.power.lastWake + 1250 ≤ s.cycle.toNat) : exec .stackWake s =
    .next { s with power := { s.power with hbmStacks := s.power.hbmStacks + 1, lastWake := s.cycle.toNat } } :=
  congrArg _ (if_pos ⟨hn, decide_eq_true ht⟩)

/-- R393. The state with one more optical engine awake. -/
def State.engineWoken (s : State) : State :=
  s.modPower (fun q => { q with engines := q.engines + 1, lastWake := s.cycle.toNat })

/-- R393. Waking an optical engine starts to train its port where that is dark. -/
theorem exec_opticalEngineWake_due (hs : s.power.hbmStacks = 12) (hn : s.power.engines < 8)
    (ht : s.power.lastWake + 12500 ≤ s.cycle.toNat) : ∃ t, exec .opticalEngineWake s = .next t ∧
      t.power = { s.power with engines := s.power.engines + 1, lastWake := s.cycle.toNat } ∧
      ((s.port s.power.engines).state = 0 → (t.port s.power.engines).state = 1) := by
  have hexec : exec .opticalEngineWake s =
      .next (if (s.port s.power.engines).state = 0 then s.engineWoken.modPort s.power.engines (fun q => { q with state := 1 })
        else s.engineWoken) := congrArg _ (if_pos ⟨hs, hn, decide_eq_true ht⟩)
  refine ⟨_, hexec, ?_, fun hdark => ?_⟩
  · split <;> rfl
  · rw [if_pos hdark, State.modPort, State.port, SMap.getD_set_self]

theorem exec_dieRailWake_due (hs : s.power.engines = 8) (hn : s.power.rails < 4) (ht : s.power.lastWake + 62500 ≤ s.cycle.toNat) :
    exec .dieRailWake s = .next { s with power := { s.power with rails := s.power.rails + 1, lastWake := s.cycle.toNat } } :=
  congrArg _ (if_pos ⟨hs, hn, decide_eq_true ht⟩)

/-- R391, R394. The boot by the firmware image's signature. -/
theorem exec_securityProcessorBoot_powered (f : SignedImage) (hr : s.power.rails = 4) (hs : s.power.stage = .reset) :
    exec (.securityProcessorBoot f) s = .next { s with power := { s.power with
      stage := if pssVerify Config.firmwareModulus Config.firmwareExponent f.image f.signature then .booted else .refused
      firmware := BitVec.ofNat 512 (numOfBytes (sha512 f.image)) } } :=
  congrArg _ (if_pos ⟨hr, hs⟩)

/-- R394. The link trains once firmware runs, and device 0's window opens. -/
theorem exec_decsynLinkTrain_booted (h : s.power.stage = .booted) :
    ∃ t, exec .decsynLinkTrain s = .next t ∧ t.power.stage = .trained ∧ (t.vdev 0).en = true := by
  have hexec : exec .decsynLinkTrain s =
      .next ((s.firmwareUp.modPower (fun p => { p with stage := .trained })).modVdev 0 (fun d => { d with en := true })) :=
    congrArg _ (if_pos h)
  exact ⟨_, hexec, rfl, by rw [State.vdev_modVdev_self]⟩

/-- R394. A test instruction, with test access open. -/
theorem State.test_open (s : State) (i : TapInstr) (v : BitVec 32) (h : s.testOpen = true) :
    s.test i v = { s with power := { s.power with tap := i, tapData := v } } := if_pos h

/-- R394. The four test instructions, with test access open. -/
theorem exec_testForms_open (h : s.testOpen = true) :
    exec .bypass s = .next { s with power := { s.power with tap := .bypass, tapData := 0 } } ∧
      exec .idcode s = .next { s with power := { s.power with tap := .idcode, tapData := idcodeWord } } ∧
      exec .samplePreload s =
        .next { s with power := { s.power with tap := .sample, tapData := Config.boundaryScan s.freeN }, freeN := s.freeN + 1 } ∧
      exec .extest s =
        .next { s with power := { s.power with tap := .extest, tapData := Config.boundaryScan s.freeN }, freeN := s.freeN + 1 } :=
  ⟨congrArg _ (s.test_open _ _ h), congrArg _ (s.test_open _ _ h),
    congrArg (fun t : State => (.next { t with freeN := s.freeN + 1 } : Out)) (s.test_open _ _ h),
    congrArg (fun t : State => (.next { t with freeN := s.freeN + 1 } : Out)) (s.test_open _ _ h)⟩

section
variable {k : Nat} (hk : k < 12)
include hk

theorem exec_perBankRefresh_stack : exec (.perBankRefresh k) s =
    .next { s with hbmStacks := SMap.set s.hbmStacks k { s.stack k with refreshes := (s.stack k).refreshes + 1 } } :=
  congrArg _ (if_pos hk)

theorem exec_stackTemperatureReport_stack (hot : Bool) : exec (.stackTemperatureReport k hot) s =
    .next { s with hbmStacks := SMap.set s.hbmStacks k { s.stack k with hot := hot } } :=
  congrArg _ (if_pos hk)
end
end

end Sys2Proof.Machine

/-! ## What is settled of the memory model's family -/

namespace Sys2Proof.Proofs

open Sys2Proof.Machine

/-- Settles O34: the walk leaves what the translation leaves, which writes the entry where A or D is new. -/
theorem translationWalks : Obligations.TranslationWalks := by
  intro s c va k
  refine ⟨fun u l b h => congrArg _ (State.walked_ok h), fun f h => congrArg _ (State.walked_error h), fun lf hst hw =>
    ⟨_, exec_translationWalk_eq s c va k, fun hA hD => ?_, fun hnew => ?_⟩⟩
  · rw [State.main_walked hst hw, if_pos ((Entry.accessed_eq_self_iff _ k).mpr ⟨hA, hD⟩)]
  · have hchanged : Entry.accessed lf.entry k ≠ lf.entry := fun h => by
      obtain ⟨hA, hD⟩ := (Entry.accessed_eq_self_iff _ k).mp h
      rcases hnew with h | ⟨rfl | rfl, h⟩ <;> simp_all
    rw [State.main_walked hst hw, if_neg hchanged, Entry.accessed_eq]

/-- Settles O32: each names its access, which host memory does not serve; FENCE by what is still to be performed. -/
theorem atomicsAndFencesIssue : Obligations.AtomicsAndFencesIssue := by
  constructor
  · intro s d a b c scope order size fa u home n remoteOrDevice op swap hh
    refine ⟨fun h => ⟨fun p hp => ?_, ?_⟩, fun h => ?_, fun h => ?_, fun h => ?_⟩
    · exact (exec_amoForms s d a b scope order size p hp).trans (State.issueOrdered_ok _ h hh)
    · exact State.issueOrdered_ok (fun q => (s.pendOp (.cas d (s.x b)) q n (s.g c)).swapping order scope fa) h hh
    · exact State.issueOrdered_ok (fun q => (s.pendOp (.cas2 d (s.g b) (s.g a).permLC) q 16 (s.g c)).swapping order scope fa) h hh
    · exact State.issueOrdered_ok (fun q => (s.pendOp (.load d false) q n Reg.zero).ordered (if order = 4 then 4 else 1) scope) h hh
    · exact State.issueOrdered_ok (fun q => (s.pendOp .store q n (s.g b)).ordered (if order = 4 then 4 else 2) scope) h hh
  · intro s scope kind op done held performed
    refine ⟨fun h => ?_, fun hk hp => ?_⟩
    · rw [exec_fence_eq, decide_eq_true h]; rfl
    · rw [exec_fence_eq, decide_eq_false (not_or.mpr ⟨fun h => h hk, hp⟩)]; rfl

/-- Settles O58: the seals, the host's windows, the events of containment and bring-up, each by its rule. -/
theorem systemOperations : Obligations.SystemOperations := by
  refine ⟨fun s d a b => ⟨fun ha hc => ⟨exec_seal_waits d ha hc, fun hw ps hp =>
      ⟨exec_seal_full d ha hc hw hp, fun k hf => ?_⟩⟩, fun k x => exec_seal_sealed d, fun k p ha =>
      ⟨_, exec_seal_poisoned d ha⟩⟩,
    fun s k x hx hd => ⟨exec_sealDigestDone_clean hx hd, fun p => exec_sealDigestDone_poisoned hx hd⟩, ?_, fun s => ?_, ?_⟩
  · obtain ⟨hwaiting, harrival, hslot⟩ := s.sealStarted_spec (s.x a) (s.x b) ps k
    exact ⟨_, exec_seal_starts d ha hc hw hp hf, hwaiting, harrival, _, hslot, rfl, rfl, rfl, rfl⟩
  · intro s vd off size v adr w rows p hp
    have hexec := exec_hostForms s vd off size v adr w p hp
    exact ⟨fun h he => hexec.trans (congrArg _ (State.hostWrite_open _ h he)),
      fun he => hexec.trans (congrArg _ (State.hostWrite_closed _ he))⟩
  · exact ⟨fun vd => exec_attestationDone_running, fun site => rfl, fun c owner => State.terminate_again owner,
      fun g => s.main.anyPoison_setPoison (16 * g) 16 (by decide), fun d t => exec_terminationDone_recorded,
      fun k core hk => exec_lanternCoreCapture_boundary hk, fun k => exec_lanternCaptureComplete_unreported,
      fun k => exec_lanternCaptureComplete_reported, rfl⟩
  · intro s firmware hot k p now
    exact ⟨exec_stackWake_due, exec_opticalEngineWake_due, exec_dieRailWake_due, exec_securityProcessorBoot_powered firmware,
      exec_decsynLinkTrain_booted, exec_testForms_open,
      fun hk => ⟨exec_perBankRefresh_stack hk, exec_stackTemperatureReport_stack hk hot⟩⟩

end Sys2Proof.Proofs

/-! ## The Hamper's entries (R310, R311, R316) -/

namespace Sys2Proof.Machine

/-! ### A die and an entry that change -/

@[simp] theorem State.die_modDie_self (s : State) (die : Nat) (f : Die → Die) : (s.modDie die f).die die = f (s.die die) := by
  simp [State.die, State.modDie]

@[simp] theorem State.node_modNode_self (s : State) (die i : Nat) (f : Node → Node) :
    ((s.modNode die i f).die die).node i = f ((s.die die).node i) := by
  simp [State.modNode, Die.node]

@[simp] theorem State.reservations_modNode_self (s : State) (die i : Nat) (f : Node → Node) :
    ((s.modNode die i f).die die).reservations = (s.die die).reservations := by
  simp [State.modNode]

/-! ### NSUBMIT (R315, R316) -/

section
variable {s u : State} {d a : BitVec 5} {o : BitVec 1} {l : List Reg}

theorem State.recordCap_ok {n align : Nat} (hr : checkCapRights (s.g a) s.me.dom s.me.priv .load (s.x a) = .ok ())
    (hc : (s.g a).covers (s.x a).toNat n = true) (ha : (s.x a).toNat % align = 0) : s.recordCap a n align = .ok () := by
  simp only [State.recordCap, hr, ensure_true hc, ensure_true (decide_eq_true ha), bind, Except.bind]

/-- R316. The entry of a descriptor, HELD, or READY with ARM: it has no predecessor yet. -/
def State.submittedNode (s u : State) (l : List Reg) (o : BitVec 1) (i : Nat) : Node :=
  let old := (u.die (dieOf s.cur.core)).node i
  let n := s.newNode l old.gen old.last
  if o = 1 then n.enterReady (u.die (dieOf s.cur.core)).age s.cycle.toNat else n

/-- R316. The state in which that entry is taken and counted, and its handle is the reply. -/
def State.submitAt (s u : State) (d : BitVec 5) (l : List Reg) (o : BitVec 1) (i : Nat) : State :=
  let old := (u.die (dieOf s.cur.core)).node i
  let n := s.newNode l old.gen old.last
  ((u.modNode (dieOf s.cur.core) i (fun _ => s.submittedNode u l o i)).modJob s.myCore.job
    (fun j => j.countItem n.graph n.phase true)).awaitReply d (nodeHandle (dieOf s.cur.core) old.gen i)

/-- R316. What NSUBMIT does with a descriptor in order: the lowest FREE entry is the node's, where the domain runs and one is FREE. -/
def State.submit (s u : State) (d : BitVec 5) (l : List Reg) (o : BitVec 1) : State :=
  match if s.terminated s.me.dom then none else (u.die (dieOf s.cur.core)).firstFree with
  | none => u.awaitReply d noResource
  | some i => s.submitAt u d l o i

theorem State.submit_none (h : s.terminated s.me.dom = true ∨ (u.die (dieOf s.cur.core)).firstFree = none) :
    s.submit u d l o = u.awaitReply d noResource := by
  have hnone : (if s.terminated s.me.dom then none else (u.die (dieOf s.cur.core)).firstFree) = none := by
    rcases h with h | h <;> simp [h]
  simp only [State.submit, hnone]

theorem State.submit_some {i : Nat} (ht : s.terminated s.me.dom = false) (hi : (u.die (dieOf s.cur.core)).firstFree = some i) :
    s.submit u d l o = s.submitAt u d l o i := by
  have hsome : (if s.terminated s.me.dom then none else (u.die (dieOf s.cur.core)).firstFree) = some i := by simp [ht, hi]
  simp only [State.submit, hsome]

/-- R319. A release: NSUBMIT waits for the context's earlier accesses. -/
theorem exec_nsubmit_waits (h : s.me.pend ≠ []) : exec (.nsubmit d a o) s = .next s.hold := by
  change execNsubmit d a o s = _
  rw [execNsubmit, if_pos (by simp [h])]

section
variable (hp : s.me.pend = []) (hc : s.recordCap a 128 16 = .ok ())
  (hr : s.readGranules (s.who s.cur) (s.x a) (s.g a).permLC 8 = .ok (u, l))
include hp hc hr

/-- R316 check 3. The first word out of order is ILLEGAL_OPERAND with its address. -/
theorem exec_nsubmit_malformed {k : Nat} (hb : badDescriptor l = some k) : exec (.nsubmit d a o) s =
    .next (u.takeTrap s.cur ⟨Cause.illegalOperand, s.me.pc, s.x a + w64 (8 * k), s.openProg⟩) := by
  change execNsubmit d a o s = _
  rw [execNsubmit, if_neg (by simp [hp]), State.recordTouched_of_read hc hr]
  simp only [State.check, asTrap, hc, hr, hb, bind, Except.bind]
  rfl

/-- R316. A descriptor in order is submitted. -/
theorem exec_nsubmit_wellFormed (hb : badDescriptor l = none) : exec (.nsubmit d a o) s = .next (s.submit u d l o) := by
  change execNsubmit d a o s = _
  rw [execNsubmit, if_neg (by simp [hp]), State.recordTouched_of_read hc hr]
  simp only [State.check, asTrap, hc, hr, hb, bind, Except.bind, State.submit]
  cases if s.terminated s.me.dom then none else (u.die (dieOf s.cur.core)).firstFree <;> rfl
end
end

end Sys2Proof.Machine

/-! ## Handles and the instructions that name them (R310, R317, R318) -/

namespace Sys2Proof.Machine

section
variable {s : State} {d a b : BitVec 5} {o : BitVec 1}

/-- A value that its condition refuses, before further checks. -/
theorem State.finish_needOperand_false {c : Bool} (h : c = false) (v : Word) (m : Unit → Chk State) :
    s.finish (s.needOperand c v >>= m) = .next (s.takeTrap s.cur ⟨Cause.illegalOperand, s.me.pc, v, s.openProg⟩) := by
  rw [State.needOperand, State.need_false _ _ _ h]; rfl

theorem State.needOperand_bind_true {α : Type} {c : Bool} (h : c = true) (v : Word) (m : Unit → Chk α) :
    s.needOperand c v >>= m = m () := by
  rw [State.needOperand_true h]; rfl

/-- R317. A handle whose fixed bits or whose die are not in order. -/
theorem exec_handleForms_illegal (h : s.handleLegal (s.x a) = false) : ∀ i ∈ [Instr.narm a, .ndone a, .ndoneQ d a o],
    exec i s = .next (s.takeTrap s.cur ⟨Cause.illegalOperand, s.me.pc, s.x a, s.openProg⟩) := by
  simp only [List.forall_mem_cons]
  refine ⟨?_, State.finish_needOperand_false h _ _, State.finish_needOperand_false h _ _, List.forall_mem_nil _⟩
  change s.finish (s.armChecks (s.x a) >>= _) = _
  rw [State.armChecks, bind_assoc]
  exact State.finish_needOperand_false h _ _

section
variable (hl : s.handleLegal (s.x a) = true) (hs : s.handleState (s.x a) = .current) (hf : s.handleForeign (s.x a) = false)
  (hp : s.me.pend = [])
include hl hs hf hp

/-- R318. NARM of a HELD node arms it. -/
theorem exec_narm_held (hn : (s.handleNode (s.x a)).state = .held) : exec (.narm a) s =
    .next (s.modHandle (s.x a) (·.armed (s.die (dieOf s.cur.core)).age s.cycle.toNat)).awaitAck := by
  have hchecks : s.armChecks (s.x a) = .ok () := by
    rw [State.armChecks, State.needOperand_bind_true hl, State.needOperand_bind_true (by simp [hs]),
      State.needOperand_bind_true (by simp [hf]), State.needOperand_true (by simp [hs, hn])]
  change execNarm a s = _
  simp [execNarm, hchecks, hp, bind, Except.bind]

/-- R318. NDONE of a SIGNAL node that has been armed. -/
theorem exec_ndone_signal (hg : (s.handleNode (s.x a)).signal = true) (hn : (s.handleNode (s.x a)).state ≠ .held) :
    exec (.ndone a) s = .next (s.signalNode (s.x a)).awaitAck := by
  change execNdone a s = _
  rw [execNdone, State.needOperand_bind_true hl, State.needOperand_bind_true (by simp [hs]),
    State.needOperand_bind_true (by simp [hf]), State.needOperand_bind_true (by simp [hs, hg, hn]), if_neg (by simp [hp]),
    State.finish_ok]
end

/-- R318. NDONE.q of a handle in order reads the entry; REL frees a FAILED one. -/
theorem exec_ndoneQ_legal (hl : s.handleLegal (s.x a) = true) : exec (.ndoneQ d a o) s =
    .next ((if o = 1 ∧ s.handleState (s.x a) = .current ∧ s.handleForeign (s.x a) = false ∧ (s.handleNode (s.x a)).state = .failed
      then s.loseNode (dieOf s.cur.core) (handleIdx (s.x a)) else s).awaitReply d (s.queryNode (s.x a))) := by
  change execNdoneQ d a o s = _
  rw [execNdoneQ, State.needOperand_bind_true hl]
  simp [and_assoc]

/-! ### NARM.edge (R318) -/

/-- R318. NARM.edge of handles in order does what adding the edge does, and replies its answer. -/
theorem exec_narmEdge_ok {t : State} {r : Word} (hc : s.edgeChecks (s.x a) (s.x b) = .ok ()) (hp : s.me.pend = [])
    (h : s.addEdge (s.x a) (s.x b) = .ok (t, r)) : exec (.narmEdge d a b) s = .next (t.setX d r).awaitAck := by
  change execNarmEdge d a b s = _
  simp [execNarmEdge, hc, h, hp, bind, Except.bind]

variable {h p : Word}

theorem State.addEdge_done (hs : s.handleState p = .behind .done) : s.addEdge h p = .ok (s, 0) := by
  simp only [State.addEdge, hs]

theorem State.addEdge_lost (hs : s.handleState p = .behind .lost ∨ (s.handleState p = .current ∧ (s.handleNode p).state = .failed)) :
    s.addEdge h p = .ok (s.failNodeItem (dieOf s.cur.core) (handleIdx h), 2) := by
  rcases hs with hs | ⟨hs, hn⟩
  · simp only [State.addEdge, hs]
  · simp only [State.addEdge, hs, hn, if_true]

section
variable (hs : s.handleState p = .current) (hn : (s.handleNode p).state ≠ .failed)
include hs hn

theorem State.addEdge_full (he : edgeStore ≤ (s.die (dieOf s.cur.core)).edges.length) : s.addEdge h p = .ok (s, 1) := by
  simp only [State.addEdge, hs, if_neg hn, if_pos he]

theorem State.addEdge_counted (he : (s.die (dieOf s.cur.core)).edges.length < edgeStore) (hc : (s.handleNode h).count < 65535) :
    s.addEdge h p = .ok ((s.modDie (dieOf s.cur.core) (fun k => { k with edges := k.edges ++ [(handleIdx p, handleIdx h)] })).modHandle h
      (fun n => { n with count := n.count + 1 }), 0) := by
  simp only [State.addEdge, hs, if_neg hn, if_neg (Nat.not_le.mpr he), if_neg (Nat.not_le.mpr hc)]
end
end

end Sys2Proof.Machine

/-! ## Placement of single nodes (R313, R320 to R322, R325) -/

namespace Sys2Proof.Machine

/-! ### The oldest of the nodes for a steal -/

/-- R321. No node is older for a steal than itself. -/
@[simp] theorem olderFor_self (p : Nat × Node) : olderFor p p = false := by
  simp [olderFor]

/-- R321. Of two nodes, one alone is older for a steal. -/
theorem olderFor_asymm {p q : Nat × Node} (h : olderFor p q = true) : olderFor q p = false := by
  simp only [olderFor, Bool.or_eq_true, Bool.or_eq_false_iff, Bool.and_eq_true, Bool.and_eq_false_iff, decide_eq_true_eq,
    decide_eq_false_iff_not, beq_iff_eq, beq_eq_false_iff_ne] at h ⊢
  omega

/-- The older of what stands and a node is one of the two. -/
theorem olderSteal_eq_or (best : Option (Nat × Node)) (p : Nat × Node) : olderSteal best p = some p ∨ olderSteal best p = best := by
  cases best with
  | none => exact .inl rfl
  | some b => rw [olderSteal]; exact ite_eq_or_eq _ _ _

theorem foldl_olderSteal_mem {l : List (Nat × Node)} {best : Option (Nat × Node)} {b : Nat × Node}
    (h : l.foldl olderSteal best = some b) : b ∈ l ∨ best = some b := by
  induction l generalizing best with
  | nil => exact .inr h
  | cons q l ih =>
    rcases ih h with hb | hb
    · exact .inl (List.mem_cons_of_mem _ hb)
    · rcases olderSteal_eq_or best q with he | he
      · exact .inl (by simp_all)
      · exact .inr (he ▸ hb)

section
variable {p : Nat × Node}

/-- A node that none of a list is older than stands to its end. -/
theorem foldl_olderSteal_some {l : List (Nat × Node)} (h : ∀ q ∈ l, olderFor q p = false) : l.foldl olderSteal (some p) = some p := by
  induction l with
  | nil => rfl
  | cons q l ih =>
    have hq : olderSteal (some p) q = some p := by simp [olderSteal, h q List.mem_cons_self]
    rw [List.foldl_cons, hq, ih fun x hx => h x (List.mem_cons_of_mem _ hx)]

/-- R321. The oldest node of a list is the one that a steal takes. -/
theorem foldl_olderSteal_oldest {l : List (Nat × Node)} (hp : p ∈ l) (h : ∀ q ∈ l, q ≠ p → olderFor p q = true) :
    l.foldl olderSteal none = some p := by
  obtain ⟨before, after, rfl⟩ := List.append_of_mem hp
  have htaken : olderSteal (before.foldl olderSteal none) p = some p := by
    cases hb : before.foldl olderSteal none with
    | none => rfl
    | some b =>
      have hmem : b ∈ before := (foldl_olderSteal_mem hb).resolve_right (by simp)
      by_cases hbp : b = p
      · simp [olderSteal, hbp]
      · simp [olderSteal, h b (List.mem_append_left _ hmem) hbp]
  rw [List.foldl_append, List.foldl_cons, htaken]
  refine foldl_olderSteal_some fun q hq => ?_
  by_cases hqp : q = p
  · rw [hqp, olderFor_self]
  · exact olderFor_asymm (h q (by simp [hq]) hqp)
end

/-! ### The steps of a single node -/

section
variable {s : State} {die n core : Nat} {m : Node}

/-- R322. A READY node ages at the end of its AGE cycles. -/
theorem exec_nodeAgeing_due (hr : ((s.die die).node n).state = .ready) (hg : ((s.die die).node n).signal = false)
    (ht : ((s.die die).node n).readyAt + ((s.die die).node n).age ≤ s.cycle.toNat) :
    exec (.nodeAgeing die n) s = .next (s.modNode die n (fun m => { m with
      state := .stealable, stealAt := ((s.die die).node n).readyAt + ((s.die die).node n).age })) :=
  congrArg _ (if_pos ⟨hr, by simp [hg], ht⟩)

/-- R321. The oldest of the nodes whose affinity cores are idle starts, no gang coming first. -/
theorem exec_nodePlaceAffinity_oldest (hm : (s.placeable die).find? (fun p => p.1 == n) = some (n, m)) (hg : s.gangFirst die = false)
    (ho : ∀ q ∈ s.placeable die, earlier q (n, m) = false) :
    exec (.nodePlaceAffinity die n) s = .next (s.startNode die n [m.affinity die]) := by
  have hfirst : (s.placeable die).any (fun q => earlier q (n, m)) = false := List.any_eq_false.mpr (by simpa using ho)
  change execNodePlaceAffinity die n s = _
  simp only [execNodePlaceAffinity, hm, hg, hfirst, Bool.or_self, Bool.false_eq_true, if_false]

/-- R321, R322. The nodes of a die that a steal may take, or that have reached AGE and are to be taken no later. -/
def State.stealCandidates (s : State) (die : Nat) : List (Nat × Node) :=
  (s.die die).used.filter (fun p => p.2.single .stealable || p.2.due s.cycle.toNat)

theorem State.mem_stealCandidates {p : Nat × Node} : p ∈ s.stealCandidates die ↔ p ∈ (s.die die).used ∧
    (p.2.single .stealable = true ∨ (p.2.single .ready = true ∧ p.2.readyAt + p.2.age ≤ s.cycle.toNat)) := by
  simp [State.stealCandidates, Node.due]

/-- R321. Those of them that a core takes: STEALABLE, the core their lowest idle one, none of their job older. -/
def State.stealChoices (s : State) (die core : Nat) : List (Nat × Node) :=
  (s.stealCandidates die).filter (fun p => p.2.state == .stealable && s.lowestIdle die p.2 == some core &&
    !((s.stealCandidates die).any (fun q => q.2.job == p.2.job && olderFor q p)))

theorem exec_nodeSteal_eq (hg : s.gangFirst die = false) (hp : s.placeable die = []) : exec (.nodeSteal die core) s =
    .next (match (s.stealChoices die core).foldl olderSteal none with
      | none => s
      | some p => s.startNode die p.1 [core]) := by
  change execNodeSteal die core s = _
  rw [execNodeSteal, hg, hp]; rfl

theorem Node.state_of_single {st : NodeState} (h : m.single st = true) : m.state = st := by
  simp only [Node.single, Bool.and_eq_true, beq_iff_eq] at h
  exact h.1.1.1

/-- R321, R325. The core takes the oldest node of all that a steal may take. -/
theorem exec_nodeSteal_oldest (hm : (n, m) ∈ (s.die die).used) (hs : m.single .stealable = true)
    (hi : s.lowestIdle die m = some core) (hg : s.gangFirst die = false) (hp : s.placeable die = [])
    (ho : ∀ q ∈ s.stealCandidates die, q ≠ (n, m) → olderFor (n, m) q = true) :
    exec (.nodeSteal die core) s = .next (s.startNode die n [core]) := by
  have hnone : (s.stealCandidates die).any (fun q => q.2.job == m.job && olderFor q (n, m)) = false := by
    refine List.any_eq_false.mpr fun q hq => ?_
    by_cases hqm : q = (n, m)
    · simp [hqm]
    · simp [olderFor_asymm (ho q hq hqm)]
  have hmem : (n, m) ∈ s.stealChoices die core :=
    List.mem_filter.mpr ⟨State.mem_stealCandidates.mpr ⟨hm, .inl hs⟩, by simp [Node.state_of_single hs, hi, hnone]⟩
  rw [exec_nodeSteal_eq hg hp, foldl_olderSteal_oldest hmem fun q hq => ho q (List.mem_filter.mp hq).1]

/-- R313, R360. A RUNNING node leaves once its members have ended. -/
theorem exec_nodeCompletion_ended (hr : ((s.die die).node n).state = .running) (hd : ((s.die die).node n).doomed = false)
    (he : ∀ c ∈ ((s.die die).node n).members, NSet.has ((s.die die).node n).ended c = true) :
    exec (.nodeCompletion die n) s =
      .next (if ((s.die die).node n).lost then s.loseNode die n else s.completeNode die n) :=
  congrArg _ (if_pos ⟨hr, by simp [hd], List.all_eq_true.mpr he⟩)

/-- R313. A node whose predecessor or task has failed. -/
theorem exec_nodeFail_doomed (h : ((s.die die).node n).doomed = true) : exec (.nodeFail die n) s = .next (s.failNodeItem die n) :=
  congrArg _ (if_pos h)
end

end Sys2Proof.Machine

/-! ## Gangs: reservation and drain (R323, R324) -/

namespace Sys2Proof.Machine

section
variable {s : State} {die n core cl : Nat} {cores : List Nat}

/-- R323 phase 1. A gang that may be placed reserves its candidate region. -/
theorem exec_gangReserveBegin_candidate (hk : ((s.die die).node n).gang = true)
    (hs : ((s.die die).node n).state = .ready ∨ ((s.die die).node n).state = .stealable)
    (hb : ((s.die die).node n).backUntil = none) (hl : (s.die die).reservations.length < 4) (hd : (s.die die).drain = none)
    (hc : s.candidate die ((s.die die).node n) = some (cl, cores)) : exec (.gangReserveBegin die n cl) s =
      .next ((s.modDie die (fun d => { d with
        reservations := d.reservations ++ [⟨n, cores, cores.foldl NSet.add [], s.cycle.toNat⟩] })).modNode die n
          (fun m => { m with state := .reserving, came := m.state })) := by
  change execGangReserveBegin die n cl s = _
  rw [execGangReserveBegin, if_neg (by simpa [hk, hb, hl, hd] using or_iff_not_imp_left.mp hs)]
  simp only [hc, ne_eq, not_true_eq_false, if_false]

/-- R323 phase 2. A gang whose cores are granted or reserved commits. -/
theorem exec_gangCommit_free (hc : s.commitCores die n = some cores) (hk : ((s.die die).node n).gang = true) :
    exec (.gangCommit die n) s = .next (s.startNode die n cores) := by
  change execGangCommit die n s = _
  simp only [execGangCommit, hc, hk, if_true]

/-- R323. A reservation that does not commit is released, and the gang backs off. -/
theorem exec_gangReserveFail_denied {r : Reservation} (hr : (s.die die).reservations.find? (fun x => x.node == n) = some r)
    (hc : s.commitCores die n = none) : exec (.gangReserveFail die n) s =
      .next ((s.modDie die (fun d => { d with reservations := d.reservations.filter (fun r => r.node != n) })).modNode die n
        (·.denied s.cycle.toNat)) := by
  change execGangReserveFail die n s = _
  simp only [execGangReserveFail, hr, hc, Option.isSome_none, Bool.false_eq_true, if_false]

/-- R323. Back-off ends. -/
theorem exec_gangBackoffExpiry_due {t : Nat} (hb : ((s.die die).node n).backUntil = some t) (ht : t ≤ s.cycle.toNat) :
    exec (.gangBackoffExpiry die n) s = .next (s.modNode die n (fun m => { m with backUntil := none })) := by
  change execGangBackoffExpiry die n s = _
  simp only [execGangBackoffExpiry, hb, if_pos ht]

/-- R324. A gang whose turn it is drains its region. -/
theorem exec_gangDrainStart_first {w : Nat} (hd : (s.die die).drainDue ((s.die die).node n) s.cycle.toNat = true)
    (hn : (s.die die).drain = none) (hq : (s.die die).drainQ = [] ∨ (s.die die).drainQ.head? = some n)
    (hr : s.drainRegion die ((s.die die).node n) = some (cl, w, cores)) : exec (.gangDrainStart die n cl) s =
      .next ((s.modDie die (fun x => { x.release n with drain := some ⟨n, ((s.die die).node n).gen, cores, []⟩ })).modNode die n
        Node.leaveReserve) := by
  have hturn : (s.die die).drainQ.head?.any (· != n) = false := by rcases hq with h | h <;> simp [h]
  change execGangDrainStart die n cl s = _
  rw [execGangDrainStart, if_neg (by simp [hd, hn]), if_neg (by simp [hn, hturn])]
  simp only [hr, ne_eq, not_true_eq_false, if_false]

/-- R324. A core of the drain region whose context has ended is reserved. -/
theorem exec_drainCoreReserve_free {r : Drain} (hd : (s.die die).drain = some r) (hm : core ∈ r.cores)
    (hc : (s.core core).current = none) (hl : (s.ctx ⟨core, control⟩).life ≠ .live) (hp : (s.core core).preempted = false) :
    exec (.drainCoreReserve die core) s =
      .next (s.modDie die (fun x => { x with drain := some { r with reserved := NSet.add r.reserved core } })) := by
  change execDrainCoreReserve die core s = _
  simp only [execDrainCoreReserve, hd]
  rw [if_pos ⟨List.contains_iff_mem.mpr hm, by simp [hc], hl, by simp [hp]⟩]
end

end Sys2Proof.Machine

/-! ## What is settled of the Hamper's family -/

namespace Sys2Proof.Proofs

open Sys2Proof.Machine

/-- Settles O53: NSUBMIT by its descriptor and the lowest FREE entry, NARM and NDONE by the entry that a handle names, an edge by its
predecessor. -/
theorem nodeInstructions : Obligations.NodeInstructions := by
  intro s d a b o die h p
  refine ⟨exec_nsubmit_waits, fun u l hrights hcovers halign hread => ?_,
    fun i hi hl => ⟨_, exec_handleForms_illegal hl i hi⟩,
    fun hl hs hf hp => ⟨exec_narm_held hl hs hf hp, exec_ndone_signal hl hs hf hp⟩,
    fun hc hp => ⟨fun hs => exec_narmEdge_ok hc hp (State.addEdge_done hs), fun hs => exec_narmEdge_ok hc hp (State.addEdge_lost hs),
      fun hs hn => ⟨fun he => exec_narmEdge_ok hc hp (State.addEdge_full hs hn he),
        fun he hcount => exec_narmEdge_ok hc hp (State.addEdge_counted hs hn he hcount)⟩⟩,
    exec_ndoneQ_legal⟩
  have hcap : s.recordCap a 128 16 = .ok () := State.recordCap_ok hrights hcovers halign
  refine ⟨fun k hp hb => ⟨_, exec_nsubmit_malformed hp hcap hread hb⟩, fun hb hp => ?_⟩
  rw [exec_nsubmit_wellFormed hp hcap hread hb]
  exact ⟨fun hfull => congrArg _ (State.submit_none hfull), fun i ht hi => congrArg _ (State.submit_some ht hi)⟩

/-- Settles O54: each step where its condition holds; a reservation and its refusal by the entry that they leave. -/
theorem nodeEvents : Obligations.NodeEvents := by
  intro s die n core d k
  refine ⟨exec_nodeAgeing_due, fun m => exec_nodePlaceAffinity_oldest, fun m hm hs hi hg hp ho => ?_, exec_nodeCompletion_ended,
    exec_nodeFail_doomed, fun cl cores hk hs hb hl hd hc => ⟨_, exec_gangReserveBegin_candidate hk hs hb hl hd hc, ?_⟩,
    fun cores => exec_gangCommit_free, fun r hr hc => ⟨_, exec_gangReserveFail_denied hr hc, ?_⟩, fun t => exec_gangBackoffExpiry_due,
    fun cl w cores => exec_gangDrainStart_first, fun r => exec_drainCoreReserve_free⟩
  · refine exec_nodeSteal_oldest hm hs hi hg hp fun q hq hne => ?_
    obtain ⟨hused, hmay⟩ := State.mem_stealCandidates.mp hq
    exact ho q hused hne hmay
  · simp only [State.node_modNode_self, State.reservations_modNode_self, State.die_modDie_self]
    exact ⟨trivial, rfl, rfl⟩
  · simp only [State.node_modNode_self, State.die_modDie_self]
    exact ⟨rfl, rfl, rfl⟩

end Sys2Proof.Proofs

/-! ## The proximity index: issue (R338 to R343) -/

namespace Sys2Proof.Machine

/-- R339. An id is in range where the upper half of its register is zero. -/
theorem bits_upper_eq_zero {w : Word} (h : w.toNat < 2 ^ 32) : bits w 63 32 = 0 := by
  rw [bits, Nat.div_eq_of_lt h, Nat.zero_mod]

theorem bits_upper_ne_zero {w : Word} (h : 2 ^ 32 ≤ w.toNat) : bits w 63 32 ≠ 0 := by
  rw [bits]; omega

/-- R339. And it is then the register's whole value. -/
theorem bits_lower_eq {w : Word} (h : w.toNat < 2 ^ 32) : bits w 31 0 = w.toNat := by
  rw [bits, Nat.pow_zero, Nat.div_one, Nat.mod_eq_of_lt h]

section
variable {s u : State} {d a b : BitVec 5} {ix : BitVec 16} {ex : BitVec 1} {p : IndexRec} {r : Region}

/-- R340 checks 7 and 8, R342, R343. What is left once the record, the operands and the places pass: the operation waits, or the vector is
copied and goes to its unit. -/
def State.sendCopied (s u : State) (d : BitVec 5) (p : IndexRec) (addr : Word) (r : Region) (cluster waits : Bool) (k : RambleKind)
    (area : Nat) : Out :=
  s.finishOn u (if waits then .ok s.hold else do
    let (_, v) ← s.copiedVector p addr r cluster
    .ok (u.sendUnit d p k v area))

section
variable {addr : Word} {cluster waits : Bool} {k : RambleKind} {area : Nat}

theorem State.sendCopied_waits (h : waits = true) : s.sendCopied u d p addr r cluster waits k area = .next s.hold := by
  rw [State.sendCopied, if_pos h, State.finishOn_ok]

theorem State.sendCopied_copied {m : Loc} {v : Nat} (h : ¬waits = true) (hv : s.copiedVector p addr r cluster = .ok (m, v)) :
    s.sendCopied u d p addr r cluster waits k area = .next (u.sendUnit d p k v area) := by
  rw [State.sendCopied, if_neg h, hv]; rfl

theorem State.sendCopied_refused {t : Trap} (h : ¬waits = true) (hv : s.copiedVector p addr r cluster = .error t) :
    s.sendCopied u d p addr r cluster waits k area = .next (u.takeTrap s.cur t) := by
  rw [State.sendCopied, if_neg h, hv]; rfl
end

section
variable (hi : s.indexRecord ix true = .ok (u, p))
include hi

/-- R343. STVEC with its record and its vector's place in order waits for the context's stores, and for the vector's. -/
theorem exec_stvec_placed {l : Loc} (hr : s.unitSpan a (s.x a) p.vb p.elemBytes .load = .ok r)
    (hl : s.vectorPlace (s.x a) r true = .ok l) : exec (.stvec d a ix) s =
      s.sendCopied u d p (s.x a) r true (s.me.writesPending || s.vectorWaits l p.vb) .stvec 0 := by
  change execStvec d a ix s = _
  rw [execStvec, State.recordRead_of_indexRecord hi, hi]
  simp only [State.check, asTrap, hr, hl, bind, Except.bind]
  rfl

/-- R339, R343. DELVEC of an id in range waits for the context's stores. -/
theorem exec_delvec_inRange (h : (s.x b).toNat < 2 ^ 32) : exec (.delvec d b ix) s =
    .next (if s.me.writesPending then s.hold else u.sendUnit d p (.delvec (s.x b).toNat) 0 0) := by
  have hid : s.needOperand (decide (bits (s.x b) 63 32 = 0)) (s.x b) = .ok () :=
    State.needOperand_true (decide_eq_true (bits_upper_eq_zero h)) _
  change execDelvec d b ix s = _
  rw [execDelvec, State.recordRead_of_indexRecord hi, hi, bits_lower_eq h]
  simp only [hid, bind, Except.bind]
  split <;> rfl

/-- R340 check 4. DELVEC of an id out of range. -/
theorem exec_delvec_outOfRange (h : 2 ^ 32 ≤ (s.x b).toNat) : exec (.delvec d b ix) s =
    .next (u.takeTrap s.cur ⟨Cause.illegalOperand, s.me.pc, s.x b, s.openProg⟩) := by
  have hid : s.needOperand (decide (bits (s.x b) 63 32 = 0)) (s.x b) = .error ⟨Cause.illegalOperand, s.me.pc, s.x b, s.openProg⟩ :=
    State.need_false _ _ _ (decide_eq_false (bits_upper_ne_zero h))
  change execDelvec d b ix s = _
  rw [execDelvec, State.recordRead_of_indexRecord hi, hi]
  simp only [hid, bind, Except.bind]
  rfl
end

section
variable (hi : s.indexRecord ix false = .ok (u, p))
include hi

/-- R341. IXSTAMP asks for nothing more. -/
theorem exec_ixstamp_readable : exec (.ixstamp d ix) s = .next (u.sendUnit d p .ixstamp 0 0) := by
  change execIxstamp d ix s = _
  rw [execIxstamp, State.recordRead_of_indexRecord hi, hi]; rfl

/-- R340 check 4. LDNEAR of a control word out of order. -/
theorem exec_ldnear_badControl (hn : nearControl (s.x b) = none) : exec (.ldnear ex d a b ix) s =
    .next (u.takeTrap s.cur ⟨Cause.illegalOperand, s.me.pc, s.x b, s.openProg⟩) := by
  change execLdnear ex d a b ix s = _
  rw [execLdnear, State.recordRead_of_indexRecord hi, hi]
  simp only [hn, bind, Except.bind]
  rfl

/-- R135, R343. LDNEAR with its record, its control word, its query's and its result area's place in order waits for the context's accesses
there. -/
theorem exec_ldnear_placed {k st : Nat} {cur : Bool} {ra : Region} {ql al : Loc} (hn : nearControl (s.x b) = some (k, cur, st))
    (hr : s.unitSpan a (s.x a) p.vb 16 .load = .ok r) (hra : s.unitSpan a (p.areaAddr (s.x a)) (8 * k) 1 .store = .ok ra)
    (hq : unitPlaceOf s.cur.core (s.x a) false r = some ql) (hal : unitPlaceOf s.cur.core (p.areaAddr (s.x a)) false ra = some al) :
    exec (.ldnear ex d a b ix) s = s.sendCopied u d p (s.x a) r false
      (s.vectorWaits ql p.vb || s.me.pend.any (·.sameByte (s.pendOp .store (.local al) (8 * k) Reg.zero))) (.ldnear (ex == 1) cur k st)
      al.off := by
  change execLdnear ex d a b ix s = _
  rw [execLdnear, State.recordRead_of_indexRecord hi, hi]
  simp only [State.check, asTrap, hn, hr, hra, hq, hal, bind, Except.bind]
  rfl
end
end

/-! ### An operation sent (R342) -/

/-- R97. One access issued that reads counts in LOAD. -/
theorem Ctx.cntLoad_issue_reads (c : Ctx) {o : PendOp} (h : o.kind.reads = true) : (c.issue [o]).cntLoad = c.cntLoad + 1 := by
  simp only [Ctx.issue, h, if_true]
  rw [Ctx.foldl_await_rest]

theorem Ctx.nextHead_issue (c : Ctx) (ops : List PendOp) : (c.issue ops).nextHead (c.issue ops).pc = c.nextHead c.pc := by
  rw [Ctx.issue_rest]; rfl

section
variable (s : State) (d : BitVec 5) (p : IndexRec) (k : RambleKind) (v ar : Nat)

/-- R342. The context of an operation sent has issued a read, and is at its next head. -/
theorem State.me_sendUnit : ∃ mutation, (s.sendUnit d p k v ar).me = s.me.issued [s.unitOp d mutation] := by
  obtain ⟨mutation, units, h⟩ : ∃ mutation units, s.sendUnit d p k v ar =
      ({ s.modMe (·.issue [s.unitOp d mutation]) with units := units } : State).advance := ⟨_, _, rfl⟩
  refine ⟨mutation, ?_⟩
  have hme : ({ s.modMe (·.issue [s.unitOp d mutation]) with units := units } : State).me = s.me.issue [s.unitOp d mutation] :=
    s.me_modMe (·.issue [s.unitOp d mutation])
  rw [h, State.advance, State.me_modMe, hme, Ctx.issued, Ctx.nextHead_issue]

/-- R337. The operation joins those of its unit as the last. -/
theorem State.unitOps_sendUnit : ∃ o, (s.sendUnit d p k v ar).unitOps p.unit = s.unitOps p.unit ++ [o] :=
  ⟨_, SMap.getD_set_self ..⟩
end

end Sys2Proof.Machine

/-! ## The Ramble units (R337, R342, R344, R345) -/

namespace Sys2Proof.Machine

section
variable {s : State} {u k : Nat} {o : RambleOp}

/-! ### Where an operation's end goes (R345) -/

section
variable {deliver : State → State} {hold : RamblePhase}

theorem State.unitEnd_present (h : s.present (s.unitSlot o) o.uid = true) : s.unitEnd u k o deliver hold = deliver (s.dropUnit u k) :=
  if_pos h

theorem State.unitEnd_away (h : s.present (s.unitSlot o) o.uid = false) (hc : (s.unitCtx o).isSome = true) :
    s.unitEnd u k o deliver hold = s.modUnit u k (fun x => { x with phase := hold }) := by
  rw [State.unitEnd, if_neg (by simp [h]), if_pos hc]

theorem State.unitEnd_gone (h : s.present (s.unitSlot o) o.uid = false) (hc : s.unitCtx o = none) :
    s.unitEnd u k o deliver hold = s.dropUnit u k := by
  rw [State.unitEnd, if_neg (by simp [h]), if_neg (by simp [hc])]
end

/-! ### Which operation fails (R344, R381) -/

theorem State.unitFenced_of_mayAdmit (h : s.mayAdmit u k o = true) : s.unitFenced u = false := by
  simp only [State.mayAdmit, Bool.and_eq_true, Bool.not_eq_true'] at h
  obtain ⟨⟨⟨⟨⟨_, hf⟩, _⟩, _⟩, _⟩, _⟩ := h
  exact hf

/-- R381. In a unit of a fenced die, every operation that is not finished, by the base of its partition. -/
theorem State.unitFails_fenced (hf : s.unitFenced u = true) (hp : o.phase.isArrived = true ∨ o.phase.isAdmitted = true) :
    s.unitFails u k o = some ⟨Cause.linkDown, w64 o.rec_.base⟩ := by
  rw [State.unitFails, if_pos (by simp [hf, hp])]

/-- R344. An admitted search whose run fails. -/
theorem State.unitFails_search {f : Fail} (hf : s.unitFenced u = false) (hp : o.phase.isAdmitted = true) (hs : s.runSearch o = .error f) :
    s.unitFails u k o = some f := by
  rw [State.unitFails, if_neg (by simp [hf]), if_pos hp, hs]

/-- R344. An operation whose turn has come and whose admission fails. -/
theorem State.unitFails_admission {f : Fail} (hp : o.phase.isAdmitted = false) (hm : s.mayAdmit u k o = true)
    (ha : s.admitOp o = .error f) : s.unitFails u k o = some f := by
  rw [State.unitFails, if_neg (by simp [State.unitFenced_of_mayAdmit hm]), if_neg (by simp [hp]), if_pos hm, ha]

/-! ### The steps of a unit -/

section
variable (ho : s.unitOpAt u k = some o)
include ho

/-- R337. An operation that may be admitted leaves what its admission does. -/
theorem exec_rambleAdmit_ok {t : State} {ph : RamblePhase} (hm : s.mayAdmit u k o = true) (ha : s.admitOp o = .ok (t, ph)) :
    exec (.rambleAdmit u k) s = .next (t.modUnit u k (fun x => { x with phase := ph })) := by
  change execRambleAdmit u k s = _
  simp only [execRambleAdmit, ho, hm, ha, Bool.not_true, Bool.false_eq_true, if_false]

/-- R333. An admitted search runs in a unit of a die that is not fenced. -/
theorem exec_rambleSearch_ok {t : State} {ph : RamblePhase} (hp : o.phase.isAdmitted = true) (hf : s.unitFenced u = false)
    (hs : s.runSearch o = .ok (t, ph)) : exec (.rambleSearch u k) s = .next (t.modUnit u k (fun x => { x with phase := ph })) := by
  change execRambleSearch u k s = _
  simp only [execRambleSearch, ho, hp, hf, hs, Bool.not_true, Bool.or_self, Bool.false_eq_true, if_false]

/-- R341, R345. The reply of a finished operation ends it. -/
theorem exec_rambleReply_finished {w : Word} {recs : List Word} (hp : o.phase = .finished w recs) : exec (.rambleReply u k) s =
    .next (s.unitEnd u k o (fun t => t.unitReply o w recs) (.held w recs)) := by
  change execRambleReply u k s = _
  simp only [execRambleReply, ho, hp]

/-- R344. The failure of an operation of a context that is present is a deferred trap there. -/
theorem exec_rambleFail_present {f : Fail} (h : s.present (s.unitSlot o) o.uid = true) (hf : s.unitFails u k o = some f) :
    exec (.rambleFail u k) s = .next ((s.dropUnit u k).unitFailure o f.cause f.val) := by
  change execRambleFail u k s = _
  simp only [execRambleFail, ho, hf, State.unitEnd_present h]
end

/-! ### What a restored context receives (R345) -/

section
variable {c : CtxId} (hh : s.heldReply c = some (u, k, o))
include hh

theorem exec_rambleHeldReplyDelivery_reply {w : Word} {recs : List Word} (hp : o.phase = .held w recs) :
    exec (.rambleHeldReplyDelivery c) s = .next ((s.dropUnit u k).unitReply o w recs) := by
  change execRambleHeldReplyDelivery c s = _
  simp only [execRambleHeldReplyDelivery, hh, hp]

theorem exec_rambleHeldReplyDelivery_failure {cause : BitVec 8} {v : Word} (hp : o.phase = .failed cause v) :
    exec (.rambleHeldReplyDelivery c) s = .next ((s.dropUnit u k).unitFailure o cause v) := by
  change execRambleHeldReplyDelivery c s = _
  simp only [execRambleHeldReplyDelivery, hh, hp]
end
end

end Sys2Proof.Machine

/-! ## What is settled of the proximity index's family -/

namespace Sys2Proof.Proofs

open Sys2Proof.Machine

/-- Settles O55: an instruction by its record and places and the wait before the vector's copy; a unit's step by the phase of its
operation, the fence and where its context is. -/
theorem rambleOperations : Obligations.RambleOperations := by
  refine ⟨fun s d a b ix ex => ⟨fun u p hi => ⟨fun r l hr hl => ?_, exec_delvec_inRange hi,
      fun h => ⟨_, exec_delvec_outOfRange hi h⟩⟩, fun u p hi => ⟨exec_ixstamp_readable hi, fun hn => ⟨_, exec_ldnear_badControl hi hn⟩,
      fun k cur st r ra ql al hn hr hra hq hal => ?_⟩⟩,
    fun s d p k v ar => ?_, fun s u k o ho => ⟨fun t ph => exec_rambleAdmit_ok ho, fun t ph => exec_rambleSearch_ok ho,
      fun w recs hp => ?_, fun f hhere hf => exec_rambleFail_present ho hhere ?_⟩,
    fun s c u k o hh => ⟨fun w recs => exec_rambleHeldReplyDelivery_reply hh, fun cause v => exec_rambleHeldReplyDelivery_failure hh⟩⟩
  · rw [exec_stvec_placed hi hr hl, ← Bool.or_eq_true]
    exact ⟨State.sendCopied_waits, fun h => ⟨fun m v => State.sendCopied_copied h, fun t => State.sendCopied_refused h⟩⟩
  · rw [exec_ldnear_placed hi hn hr hra hq hal, ← Bool.or_eq_true]
    exact ⟨State.sendCopied_waits, fun h => ⟨fun m v => State.sendCopied_copied h, fun t => State.sendCopied_refused h⟩⟩
  · obtain ⟨mutation, hme⟩ := s.me_sendUnit d p k v ar
    obtain ⟨o, hops⟩ := s.unitOps_sendUnit d p k v ar
    intro t
    rw [hme, hops]
    exact ⟨s.me.cntLoad_issue_reads rfl, List.length_append, rfl⟩
  · rw [exec_rambleReply_finished ho hp]
    exact ⟨fun h => congrArg _ (State.unitEnd_present h), fun h hc => congrArg _ (State.unitEnd_away h hc),
      fun h hc => congrArg _ (State.unitEnd_gone h hc)⟩
  · rcases hf with ⟨hfence, hp, rfl⟩ | ⟨hfence, hp, hs⟩ | ⟨hp, hm, ha⟩
    · exact State.unitFails_fenced hfence hp
    · exact State.unitFails_search hfence hp hs
    · exact State.unitFails_admission hp hm ha

end Sys2Proof.Proofs

/-! ## A RUNNING slice and its work (R364) -/

namespace Sys2Proof.Machine

/-- R364. Once its RUNNING slice is DONE, a core has none. -/
@[simp] theorem Core.runningSlice_endSlice (k : Core) : k.endSlice.runningSlice = none := by
  refine List.find?_eq_none.mpr fun y hy => ?_
  obtain ⟨x, -, rfl⟩ := List.mem_map.mp hy
  cases h : x.running <;> simp [h]

/-- R364. A core keeps its RUNNING slice where the slice has work; a slice without any is DONE. -/
theorem Core.dropIdle_cases (k : Core) : (k.dropIdle = k ∧ k.SliceHasWork) ∨ k.dropIdle = k.endSlice := by
  unfold Core.dropIdle
  cases hr : k.runningSlice with
  | none => exact .inl ⟨rfl, fun x hx => by rw [hr] at hx; cases hx⟩
  | some x =>
    simp only
    split
    · next hwork =>
      refine .inl ⟨rfl, fun y hy => ?_⟩
      cases hr.symm.trans hy
      simp only [Bool.or_eq_true, Option.any_eq_true, List.any_eq_true, beq_iff_eq] at hwork
      obtain ((hcur | hpre) | hqueue) | haway := hwork
      · exact .inr (.inl hcur)
      · exact .inl hpre
      · exact .inr (.inr (.inl hqueue))
      · exact .inr (.inr (.inr haway))
    · exact .inr rfl

theorem Core.sliceHasWork_dropIdle (k : Core) : k.dropIdle.SliceHasWork := by
  obtain ⟨h, hwork⟩ | h := k.dropIdle_cases
  · rwa [h]
  · intro x hx
    rw [h, Core.runningSlice_endSlice] at hx
    cases hx

/-- A step is what takes place in it, and then its cycle. -/
theorem exists_tick_of_step {s t : State} (h : step s = .next t) : ∃ u, s.next = .next u ∧ t = u.tick := by
  unfold step at h
  cases hn : s.next with
  | next u => rw [hn] at h; cases h; exact ⟨u, rfl, rfl⟩
  | fault f => rw [hn] at h; cases h
  | refused r => rw [hn] at h; cases h

/-- R364. Whatever has taken place, the cycle's end leaves no RUNNING slice without work. -/
theorem State.slicesHaveWork_tick (s : State) : s.tick.SlicesHaveWork := by
  intro p hp
  obtain ⟨q, -, rfl⟩ := List.mem_map.mp hp
  exact Core.sliceHasWork_dropIdle _

theorem State.slicesHaveWork_reset : State.reset.SlicesHaveWork := fun _ hp => absurd hp List.not_mem_nil

/-- Every memory is empty after reset. -/
@[simp] theorem State.memory_reset (sp : Space) : State.reset.memory sp = Memory.empty := by
  cases sp <;> rfl

theorem State.memoriesCanonical_reset : State.reset.MemoriesCanonical := fun sp => by
  rw [State.memory_reset, Memory.wf_empty]

end Sys2Proof.Machine

namespace Sys2Proof.Proofs

open Sys2Proof.Machine

/-- Settles O5: the end of the step's cycle makes a RUNNING slice without work DONE on every core. -/
theorem stepKeepsSlicesAtWork : Obligations.StepKeepsSlicesAtWork := by
  intro s t _ h
  obtain ⟨u, -, rfl⟩ := exists_tick_of_step h
  exact u.slicesHaveWork_tick

/-- Settles O6: no core is listed, and every memory is empty. -/
theorem resetHoldsInvariants : Obligations.ResetHoldsInvariants :=
  ⟨State.slicesHaveWork_reset, State.memoriesCanonical_reset⟩

end Sys2Proof.Proofs

/-! ## Launches (R355, R361) -/

namespace Sys2Proof.Machine

section
variable {s u : State} {d a : BitVec 5} {l : List Reg}

/-- R361. As a release, LAUNCH waits for the context's earlier accesses. -/
theorem exec_launch_waits (h : s.me.pend ≠ []) : exec (.launch d a) s = .next s.hold := by
  change execLaunch d a s = _
  rw [execLaunch, if_pos (by simp [h])]

/-- R361. The first word of a record that is out of order for the current context. -/
def State.badLaunchHere (s : State) (l : List Reg) : Option Nat :=
  badLaunch l (fun y => y == s.me.dom || s.me.priv) (fun t => t == 0 || s.me.priv) (s.jobHas s.myCore.job)

/-- R361. The current context's launch of a record in order, on the state that the record's read leaves. -/
def State.launchHere (s u : State) (l : List Reg) : Option (State × Word) :=
  u.launch l s.myCore.job (if s.me.priv then recWord l 4 else s.me.tvec) s.me.xlbase

section
variable (hp : s.me.pend = []) (hc : s.recordCap a 640 64 = .ok ()) (ha : (s.x a).toNat < 2 ^ 55)
  (hr : s.readGranules (s.who s.cur) (s.x a) (s.g a).permLC 40 = .ok (u, l))
include hp hc ha hr

/-- R361 step 2. The first word out of order is ILLEGAL_OPERAND with its address. -/
theorem exec_launch_malformed {w : Nat} (hb : s.badLaunchHere l = some w) : exec (.launch d a) s =
    .next (u.takeTrap s.cur ⟨Cause.illegalOperand, s.me.pc, s.x a + w64 (8 * w), s.openProg⟩) := by
  unfold State.badLaunchHere at hb
  change execLaunch d a s = _
  rw [execLaunch, if_neg (by simp [hp]), State.recordTouched_of_read hc hr]
  simp only [State.check, asTrap, hc, State.needOperand_true (decide_eq_true ha), hr, hb, bind, Except.bind]
  rfl

/-- R361 steps 3 and 4. A record in order is launched: the reply is the handle, or all ones. -/
theorem exec_launch_wellFormed (hb : s.badLaunchHere l = none) : exec (.launch d a) s =
    .next (match s.launchHere u l with
      | none => u.awaitReply d noResource
      | some (t, h) => t.awaitReply d h) := by
  unfold State.badLaunchHere at hb
  change execLaunch d a s = _
  rw [execLaunch, if_neg (by simp [hp]), State.recordTouched_of_read hc hr]
  simp only [State.check, asTrap, hc, State.needOperand_true (decide_eq_true ha), hr, hb, bind, Except.bind, State.launchHere]
  cases u.launch l s.myCore.job (if s.me.priv then recWord l 4 else s.me.tvec) s.me.xlbase <;> rfl
end

/-! ### Levels (R358 to R360) -/

/-- R359. CWAIT of a handle in order gives the level's count once it is low enough. -/
theorem exec_cwait_legal {n : BitVec 16} (h : s.levelCheck (s.x a) (n == 0) = .ok ()) : exec (.cwait d a n) s =
    .next (if s.levelCount (s.x a) ≤ n.toNat then (s.setX d (w64 (s.levelCount (s.x a)))).advance else s.hold) := by
  change execCwait d a n s = _
  simp only [execCwait, h, bind, Except.bind, State.finish_ok, State.waitFor, decide_eq_true_eq]

/-- R360. A first CANCEL of a handle in order acts, and keeps how many items it has cancelled. -/
theorem exec_cancel_acts (ha : s.arrival = none) (h : s.levelCheck (s.x a) true = .ok ()) (hp : s.me.pend = []) :
    exec (.cancel d a) s =
      .next (((s.cancelLevel (s.x a)).1.keep (.cancel (s.cancelLevel (s.x a)).2)).cancelWait d (s.x a) (s.cancelLevel (s.x a)).2) := by
  change execCancel d a s = _
  simp only [execCancel, ha, h, hp, bind, Except.bind]
  rfl

/-- R360. A CANCEL that has acted completes with their number once they are gone. -/
theorem exec_cancel_kept {k : Nat} (ha : s.arrival = some (.cancel k)) : exec (.cancel d a) s =
    .next (if s.cancelDone (s.x a) then s.completeWait d (w64 k) else s.hold) := by
  change execCancel d a s = _
  simp only [execCancel, ha]
  rfl
end

end Sys2Proof.Machine

/-! ## Slices (R364, R365) -/

namespace Sys2Proof.Machine

section
variable {s : State} {core k : Nat} {x : Slice}

section
variable (hx : (s.core core).slice k = some x)
include hx

/-- R364. A DONE slice of a running job is released once its period has passed. -/
theorem exec_sliceRelease_due (hd : x.ready = false) (ht : x.released + x.period ≤ s.cycle.toNat) (hj : s.jobState k = 2) :
    exec (.sliceRelease core k) s = .next (s.modCore core (fun c => c.setSlice (s.newSlice k))) := by
  change execSliceRelease core k s = _
  simp only [execSliceRelease, hx]
  rw [if_pos (by simp [hd, ht, hj])]

/-- R364. A READY slice past its deadline is missed once. -/
theorem exec_deadlineMiss_late (hr : x.ready = true) (hm : x.missed = false) (ht : x.deadline < s.cycle.toNat) :
    exec (.deadlineMiss core k) s = .next ((s.modCore core (fun c => c.setSlice { x with missed := true })).countMiss k) := by
  change execDeadlineMiss core k s = _
  simp only [execDeadlineMiss, hx]
  rw [if_pos (by simp [hr, hm, ht])]
end

/-- R364. A vacant core takes its due slice, and with it what of the slice's job can be restored there. -/
theorem exec_sliceDispatch_due (hp : (s.core core).preempted = false) (hr : (s.core core).runningSlice = none)
    (hc : (s.core core).current = none) (hs : (s.core core).slices ≠ []) (hd : s.dueSlice core = some x) :
    exec (.sliceDispatch core) s = .next (if s.restorable core x.job then
      (s.modCore core (·.runSlice x.job)).handlerReturn core x.job else s.modCore core (·.runSlice x.job)) := by
  change execSliceDispatch core s = _
  simp [execSliceDispatch, hp, hr, hc, hs, hd]

section
variable (hx : (s.core core).runningSlice = some x) (hl : x.left = 0)
include hx hl

/-- R364, R365. A spent budget gives the slice its grace and the context a deferred trap. -/
theorem exec_sliceBudgetExpiry_spent (hg : x.grace = false) : exec (.sliceBudgetExpiry core) s =
    .next ((s.modCore core (fun c => c.setSlice { x with grace := true, left := s.jobGrace x.job })).deferControl core
      ⟨.budget, 0, ⟨Cause.budget, 0, w64 x.deadline, 0⟩⟩) := by
  change execSliceBudgetExpiry core s = _
  simp only [execSliceBudgetExpiry, hx]
  rw [if_pos (by simp [hl, hg])]

/-- R364. A spent grace ends the slice, and a core that can be pre-empted is. -/
theorem exec_sliceGraceExpiry_spent (hg : x.grace = true) (hp : s.preemptible core = true) : exec (.sliceGraceExpiry core) s =
    .next (((s.modCore core Core.endSlice).preempt core).countMiss x.job) := by
  change execSliceGraceExpiry core s = _
  simp only [execSliceGraceExpiry, hx]
  rw [if_pos (by simp [hl, hg, hp])]
end
end

end Sys2Proof.Machine

/-! ## What is settled of work levels -/

namespace Sys2Proof.Proofs

open Sys2Proof.Machine

/-- Settles O56: LAUNCH by its record's first word out of order and what is free, CWAIT and CANCEL by their level, and a slice's event by
its condition. -/
theorem workInstructions : Obligations.WorkInstructions := by
  refine ⟨fun s d a n => ⟨exec_launch_waits, fun u l hrights hcovers halign haddr hread => ?_, exec_cwait_legal, exec_cancel_acts,
      fun k => exec_cancel_kept⟩,
    fun s core k x => ⟨exec_sliceRelease_due, exec_sliceDispatch_due, exec_sliceBudgetExpiry_spent, exec_sliceGraceExpiry_spent,
      exec_deadlineMiss_late⟩⟩
  have hcap : s.recordCap a 640 64 = .ok () := State.recordCap_ok hrights hcovers halign
  refine ⟨fun w hp hb => ⟨_, exec_launch_malformed hp hcap haddr hread hb⟩, fun hb hp => ?_⟩
  have hlaunch := exec_launch_wellFormed (d := d) hp hcap haddr hread hb
  exact ⟨fun hnone => by rw [hlaunch, State.launchHere, hnone]; rfl, fun t h hsome => by rw [hlaunch, State.launchHere, hsome]⟩

end Sys2Proof.Proofs

/-! ## Barriers (R366 to R370) -/

namespace Sys2Proof.Machine

section
variable {s u : State} {d a : BitVec 5} {ix : BitVec 16} {k m : Nat} (hb : s.barrier ix = .ok (u, k))
include hb

section
variable (hm : s.barOperand a = .ok m)
include hm

/-- R370. An arrival waits for the context's stores. -/
theorem exec_barrive_waits (hw : s.me.writesPending = true) : exec (.barrive d a ix) s = .next s.hold := by
  change execBarrive d a ix s = _
  simp only [execBarrive, hb, hm, hw, bind, Except.bind]
  rfl

/-- R370. BARRIVE gives the generation as it stood at the arrival. -/
theorem exec_barrive_arrives {t : State} {g : Nat} (hw : s.me.writesPending = false) (ht : u.arrive k m ix.toNat = .ok (t, g)) :
    exec (.barrive d a ix) s = .next (t.setX d (w64 g)).advance := by
  change execBarrive d a ix s = _
  simp only [execBarrive, hb, hm, hw, ht, bind, Except.bind]
  rfl

/-- R370. BSYNC arrives as BARRIVE does, and then waits. -/
theorem exec_bsync_arrives {t : State} {g : Nat} (hw : s.me.writesPending = false) (ht : u.arrive k m ix.toNat = .ok (t, g))
    (ha : s.arrival = none) : exec (.bsync d a ix) s =
      .next (((t.setX d (w64 g)).keep (.bsync (w64 g) s.me.dom)).bsyncWait k (w64 g)) := by
  change execBsync d a ix s = _
  simp only [execBsync, hb, ha, hm, hw, ht, bind, Except.bind]
  rfl

/-- R370. BWAIT completes once the generation has changed. -/
theorem exec_bwait_legal : exec (.bwait a ix) s = .next (if (u.barRec k).gen ≠ m then u.advance else s.hold) := by
  change execBwait a ix s = _
  simp only [execBwait, hb, hm, bind, Except.bind, State.finishOn_ok, State.waitFor, decide_eq_true_eq]
end

/-- R370. A BSYNC that has arrived waits on what its reads leave. -/
theorem exec_bsync_kept {g : Word} {dom : BitVec 6} (ha : s.arrival = some (.bsync g dom)) :
    exec (.bsync d a ix) s = .next (u.bsyncWait k g) := by
  change execBsync d a ix s = _
  simp only [execBsync, hb, ha, bind, Except.bind]
  rfl
end

/-! ### Completion (R368) -/

/-- R368. A record after a completion: the next generation, without arrivals, of as many members. -/
theorem BarRec.complete_spec (b : BarRec) (sel : Option Nat) : (b.complete sel).gen = (b.gen + 1) % 2 ^ 32 ∧
    (b.complete sel).arrived = 0 ∧ (b.complete sel).expected = b.expected := by
  unfold BarRec.complete
  split <;> exact ⟨rfl, rfl, rfl⟩

/-- R368. A full generation completes. -/
theorem exec_generationComplete_full {s : State} {k : Nat} (hk : (SMap.find s.bars k).isSome = true)
    (ha : (s.barRec k).arrived = (s.barRec k).expected) (he : (s.barRec k).expected ≠ 0) (hb : (s.barRec k).beats = 0) :
    exec (.generationComplete k) s = .next (((s.modBarRec k (·.complete (s.selection k))).modBar k (fun x =>
      { x with size := 0, first := none, landed := [], missed := [] })).restartStep (s.stileDom (s.barRec k).sdom)) :=
  congrArg _ (if_pos (by simp [hk, BarRec.full, ha, he, hb]))

end Sys2Proof.Machine

/-! ## The phase barrier's reads and the current context (R230, R371, R372) -/

namespace Sys2Proof.Machine

/-- A check that precedes others has passed where they give a value. -/
theorem exists_of_bind_ok {ε α β : Type} {m : Except ε α} {f : α → Except ε β} {y : β} (h : m >>= f = .ok y) :
    ∃ x, m = .ok x ∧ f x = .ok y := by
  cases m with
  | error e => cases h
  | ok x => exact ⟨x, rfl, h⟩

section
variable {s u : State} {who : Who} {a : Word} {n i core : Nat}

theorem State.cur_translate {k : Access} {l : Loc} {b : Bool} (h : s.translate who a k = .ok (u, l, b)) : u.cur = s.cur := by
  rw [State.translate_frame h]

/-- R329. Bytes of the storage that are read are translated at most. -/
theorem State.onlyTranslated_of_readStorage {b : Nat} (h : s.readStorage who n i = .ok (u, b)) : OnlyTranslated s u := by
  obtain ⟨⟨v, ls, t⟩, hcopy, hrest⟩ := exists_of_bind_ok h
  dsimp only at hrest
  split at hrest
  · cases hrest
  · cases hrest
    exact State.onlyTranslated_of_copyBytes hcopy

/-- R371. So are those that are read for a launch. -/
theorem State.onlyTranslated_of_readLaunch {b : Nat} (h : s.readLaunch who a n = some (u, b)) : OnlyTranslated s u := by
  unfold State.readLaunch at h
  split at h
  · split at h
    · next hr => cases h; exact State.onlyTranslated_of_readStorage hr
    · cases h
  · cases h

theorem State.cur_phaseBytes {b : Nat} (h : s.phaseBytes who a = some (u, b)) : u.cur = s.cur := by
  unfold State.phaseBytes at h
  split at h
  · cases h
  · rw [State.onlyTranslated_of_readLaunch h]

theorem State.cur_fetchRecord {r : BitVec 512} (h : s.fetchRecord who i = .ok (u, r)) : u.cur = s.cur := by
  obtain ⟨region, -, hregion⟩ := exists_of_bind_ok h
  cases region with
  | translated =>
    obtain ⟨⟨v, l, t⟩, htranslate, hhome⟩ := exists_of_bind_ok hregion
    cases ensure_bind_ok hhome
    exact State.cur_translate htranslate
  | fabric => cases hregion
  | spad c o => cases hregion
  | cmem c o => cases hregion

theorem State.cur_recordOf {r : BitVec 512} (h : s.recordOf who i = .ok (u, r)) : u.cur = s.cur := by
  have hrecord : s.record who i = .ok (u, r) := ensure_bind_ok h
  simp only [State.record] at hrecord
  split at hrecord
  · cases hrecord; rfl
  · obtain ⟨⟨v, x⟩, hfetch, hfill⟩ := exists_of_bind_ok hrecord
    cases hfill
    exact (State.cur_fetchRecord hfetch :)

/-- R368. Finding a launch's phase barrier leaves the current context the same. -/
theorem State.cur_phaseBarrier {k : Nat} {p : Option PhaseRec} (h : s.phaseBarrier core = some (u, k, p)) : u.cur = s.cur := by
  unfold State.phaseBarrier at h
  split at h
  · cases h
  · split at h
    · cases h
    · next v b hbytes =>
      dsimp only at h
      split at h
      · cases h
      · next w r hrecord =>
        split at h
        · cases h
        · split at h
          · cases h
          · next x l t htranslate =>
            split at h
            · cases h
              rw [State.cur_translate htranslate, State.cur_recordOf hrecord, State.cur_phaseBytes hbytes]
            · cases h
end

end Sys2Proof.Machine

/-! ## Slot transfers: issue and waiting (R371 to R373) -/

namespace Sys2Proof.Machine

/-- R372 checks 3 and 4. A schedule entry is for a transfer of `len` bytes from a core to a core in a slot. -/
def Sched.fits (src dst slot len : Nat) (e : Sched) : Bool :=
  e.src == src && e.dst == dst && e.slot == slot && decide (len ≤ 16 * e.max)

/-! ### The entry of a slotted transfer -/

section
variable {s : State} {k slot dst len core : Nat} {p : Option PhaseRec} {q : PhaseRec}

/-- R372. Without a schedule. -/
theorem State.slotEntry_noSchedule (h : (s.barRec k).nf = true ∨ p = none) : s.slotEntry k p slot dst len = .error (3, none) := by
  have hnone : (if (s.barRec k).nf then none else p) = none := by rcases h with h | h <;> simp [h]
  simp only [State.slotEntry, hnone]

section
variable (hn : (s.barRec k).nf = false) (hcore : s.cur.core = core)
include hn hcore

theorem State.slotEntry_unreadable (hc : s.chosen core k q = none) : s.slotEntry k (some q) slot dst len = .error (2, none) := by
  simp only [State.slotEntry, hn, hcore, hc, Bool.false_eq_true, if_false]

section
variable {t : State} {es : List Sched} (hc : s.chosen core k q = some (t, es))
include hc

theorem State.slotEntry_absent (he : es.findIdx? (Sched.fits core dst slot len) = none) :
    s.slotEntry k (some q) slot dst len = .error (2, none) := by
  change es.findIdx? (fun e => e.src == core && e.dst == dst && e.slot == slot && decide (len ≤ 16 * e.max)) = none at he
  simp only [State.slotEntry, hn, hcore, hc, he, Bool.false_eq_true, if_false]

/-- R372. Past the time in which the slot's beats could end. -/
theorem State.slotEntry_late {i : Nat} (he : es.findIdx? (Sched.fits core dst slot len) = some i)
    (ht : (slot + 1) * 2 ^ q.slog < s.stepcyc core + beatsOf len) :
    s.slotEntry k (some q) slot dst len = .error (1, some i) := by
  change es.findIdx? (fun e => e.src == core && e.dst == dst && e.slot == slot && decide (len ≤ 16 * e.max)) = some i at he
  have hlate : ¬(s.stepcyc core : Int) ≤ ((slot + 1) * 2 ^ q.slog : Nat) - (beatsOf len : Int) := by omega
  simp only [State.slotEntry, hn, hcore, hc, he, if_neg hlate, Bool.false_eq_true, if_false]
end
end
end

theorem toNat_ne_lateSlot {slot : BitVec 12} (h : slot ≠ 4095) : slot.toNat ≠ lateSlot := fun hs => h (BitVec.eq_of_toNat_eq hs)

theorem BarRec.communicates_false {b : BarRec} (h : b.gen % 2 = 0) : b.communicates = false := by simp [BarRec.communicates, h]
theorem BarRec.communicates_true {b : BarRec} (h : b.gen % 2 = 1) : b.communicates = true := by simp [BarRec.communicates, h]

/-! ### SLOTSEND -/

section
variable {s : State} {a b c : BitVec 5} {slot : BitVec 12} {ops : Nat × Nat × Nat × Nat} (ho : s.slotOperands a b c = .ok ops)
include ho

/-- R372. Outside a launch with a phase barrier. -/
theorem exec_slotsend_outside (hb : s.phaseBarrier s.cur.core = none) : exec (.slotsend c a b slot) s =
    .next ((s.phaseTouched s.cur.core).takeTrap s.cur (s.slotTrap slot.toNat 4)) := by
  change execSlotsend c a b slot s = _
  simp only [execSlotsend, ho, hb, bind, Except.bind]
  rfl

section
variable {u : State} {k : Nat} {p : Option PhaseRec} (hb : s.phaseBarrier s.cur.core = some (u, k, p))
include hb

/-- R372. Outside a communication step. -/
theorem exec_slotsend_computing (hg : (u.barRec k).gen % 2 = 0) : exec (.slotsend c a b slot) s =
    .next (u.takeTrap s.cur (s.slotTrap slot.toNat 4)) := by
  change execSlotsend c a b slot s = _
  simp only [execSlotsend, ho, hb, BarRec.communicates_false hg, bind, Except.bind]
  rfl

section
variable (hg : (u.barRec k).gen % 2 = 1)
include hg

/-- R372. In the late lane it needs no schedule: it sends once there is room. -/
theorem exec_slotsend_late (hs : slot = 4095) : exec (.slotsend c a b slot) s =
    .next (if s.myCore.locks.length + 2 ≤ 16 ∧ s.me.cntCopy < 15 then u.sendSlot (s.newXfer k 4095 none 0 ops) else s.hold) := by
  subst hs
  change execSlotsend c a b 4095 s = _
  simp only [execSlotsend, ho, hb, BarRec.communicates_true hg, bind, Except.bind, ← Bool.decide_and, decide_eq_true_eq]
  rfl

section
variable (hs : slot ≠ 4095)
include hs

/-- R372. A transfer with an entry of the schedule sends once there is room. -/
theorem exec_slotsend_scheduled {t : State} {i slog : Nat} (he : u.slotEntry k p slot.toNat ops.2.2.1 ops.1 = .ok (t, i, slog)) :
    exec (.slotsend c a b slot) s = .next (if s.myCore.locks.length + 2 ≤ 16 ∧ s.me.cntCopy < 15 then
      t.sendSlot (s.newXfer k slot.toNat (some i) slog ops) else s.hold) := by
  change execSlotsend c a b slot s = _
  simp only [execSlotsend, ho, hb, BarRec.communicates_true hg, Bool.not_true, Bool.false_eq_true, if_false,
    if_neg (toNat_ne_lateSlot hs), he, bind, Except.bind, ← Bool.decide_and, decide_eq_true_eq]
  rfl

/-- R372. Any other violates its slot. -/
theorem exec_slotsend_violates {reason : Nat} {missed : Option Nat}
    (he : u.slotEntry k p slot.toNat ops.2.2.1 ops.1 = .error (reason, missed)) : exec (.slotsend c a b slot) s =
      .next ((u.slotMissed k p missed).takeTrap s.cur (s.slotTrap slot.toNat reason)) := by
  change execSlotsend c a b slot s = _
  simp only [execSlotsend, ho, hb, BarRec.communicates_true hg, Bool.not_true, Bool.false_eq_true, if_false,
    if_neg (toNat_ne_lateSlot hs), he, bind, Except.bind]
  rfl
end
end
end
end

/-! ### SLOTWAIT -/

/-- R373. The schedule's entries for a core up to a slot, by their places in it. -/
def slotsUntil (es : List Sched) (core slot : Nat) : List Nat :=
  (es.zipIdx.filter (fun e => e.1.dst == core && decide (e.1.slot ≤ slot))).map (·.2)

section
variable {s : State} {d : BitVec 5} {slot : BitVec 12}

/-- R373. Outside a launch with a phase barrier. -/
theorem exec_slotwait_outside (hb : s.phaseBarrier s.cur.core = none) : exec (.slotwait d slot) s = .next (s.setX d 0).advance := by
  change execSlotwait d slot s = _
  simp only [execSlotwait, hb]

section
variable {u : State} {k : Nat} {p : Option PhaseRec} (hb : s.phaseBarrier s.cur.core = some (u, k, p))
include hb

/-- R373. Outside a communication step, and without a schedule. -/
theorem exec_slotwait_idle (h : (u.barRec k).gen % 2 = 0 ∨ (u.barRec k).nf = true) :
    exec (.slotwait d slot) s = .next (s.setX d 0).advance := by
  have hidle : (!(u.barRec k).communicates || (u.barRec k).nf) = true := by
    rcases h with h | h
    · rw [BarRec.communicates_false h]; rfl
    · rw [h, Bool.or_true]
  change execSlotwait d slot s = _
  simp only [execSlotwait, hb, hidle, if_true]

section
variable {q : PhaseRec} {t : State} {es : List Sched} (hg : (u.barRec k).gen % 2 = 1) (hn : (u.barRec k).nf = false) (hp : p = some q)
  (hc : u.chosen s.cur.core k q = some (t, es))
include hg hn hp hc

/-- R373. With one, it waits for the entries of the own core up to the slot, and gives how many of them are missed. -/
theorem exec_slotwait_scheduled : exec (.slotwait d slot) s = .next (s.waitFor
    ((slotsUntil es s.cur.core slot.toNat).all (fun i => NSet.has (s.bar k).landed i || NSet.has (s.bar k).missed i))
    (t.setX d (w64 ((slotsUntil es s.cur.core slot.toNat).filter (fun i => NSet.has (s.bar k).missed i)).length)).advance) := by
  subst hp
  change execSlotwait d slot s = _
  simp only [execSlotwait, hb, BarRec.communicates_true hg, hn, Option.bind_some, hc]
  rfl

theorem exec_slotwait_settled
    (h : ∀ i ∈ slotsUntil es s.cur.core slot.toNat, NSet.has (s.bar k).landed i = true ∨ NSet.has (s.bar k).missed i = true) :
    exec (.slotwait d slot) s = .next
      (t.setX d (w64 ((slotsUntil es s.cur.core slot.toNat).filter (fun i => NSet.has (s.bar k).missed i)).length)).advance := by
  have hall : (slotsUntil es s.cur.core slot.toNat).all (fun i => NSet.has (s.bar k).landed i || NSet.has (s.bar k).missed i) = true :=
    List.all_eq_true.mpr fun i hi => Bool.or_eq_true_iff.mpr (h i hi)
  rw [exec_slotwait_scheduled hb hg hn hp hc, hall, State.waitFor_true]

theorem exec_slotwait_open
    (h : ∃ i ∈ slotsUntil es s.cur.core slot.toNat, NSet.has (s.bar k).landed i = false ∧ NSet.has (s.bar k).missed i = false) :
    exec (.slotwait d slot) s = .next s.hold := by
  have hall : (slotsUntil es s.cur.core slot.toNat).all (fun i => NSet.has (s.bar k).landed i || NSet.has (s.bar k).missed i) = false := by
    obtain ⟨i, hi, hl, hm⟩ := h
    exact List.all_eq_false.mpr ⟨i, hi, by simp [hl, hm]⟩
  rw [exec_slotwait_scheduled hb hg hn hp hc, hall, State.waitFor_false]
end
end
end

/-! ## Slot transfers: progress (R372, R374) -/

section
variable {s : State} {k : Nat} {x : Xfer} (hx : s.xfer k = some x)
include hx

/-- R372. A slotted transfer starts no earlier than its slot. -/
theorem exec_slotTransferStart_due (hs : x.slot ≠ 4095) (ht : x.slot * 2 ^ x.slog ≤ s.stepcyc x.ctx.core) (hm : s.mayStartXfer x = true) :
    exec (.slotTransferStart k) s = .next (s.startXfer x) := by
  change execSlotTransferStart k s = _
  simp only [execSlotTransferStart, hx]
  rw [if_pos (by simp [lateSlot, hs, ht, hm])]

/-- R372. A late one starts after the slotted ones of its barrier. -/
theorem exec_lateLaneStart_last (hs : x.slot = 4095) (ho : ∀ y ∈ s.xfers, y.bar ≠ x.bar ∨ y.slot = 4095 ∨ y.started = true)
    (hm : s.mayStartXfer x = true) : exec (.lateLaneStart k) s = .next (s.startXfer x) := by
  have hothers : s.xfers.all (fun y => y.bar != x.bar || y.slot == lateSlot || y.started) = true :=
    List.all_eq_true.mpr fun y hy => by simpa [lateSlot, or_assoc] using ho y hy
  change execLateLaneStart k s = _
  simp only [execLateLaneStart, hx]
  rw [hothers, hm, if_pos (by rw [hs]; rfl)]

/-- R374. A started transfer lands its next beat at a receiver that takes it. -/
theorem exec_slotBeatLand_received (hs : x.started = true) (hr : s.receives x = true) :
    exec (.slotBeatLand k) s = .next (s.landBeat x) := by
  change execSlotBeatLand k s = _
  simp only [execSlotBeatLand, hx]
  rw [if_pos (by simp [hs, hr])]
end

end Sys2Proof.Machine

/-! ## What is settled of the Stile -/

namespace Sys2Proof.Proofs

open Sys2Proof.Machine

/-- Settles O57: a barrier's instructions by the barrier and the operand, SLOTSEND by the entry that the schedule has for it, SLOTWAIT by
the entries up to its slot, and each event where its condition holds. -/
theorem barriersAndSlots : Obligations.BarriersAndSlots := by
  refine ⟨fun s d a ix u k m hb hm => ⟨exec_barrive_waits hb hm, fun hw t g ht => ⟨exec_barrive_arrives hb hm hw ht,
      exec_bsync_arrives hb hm hw ht⟩, exec_bwait_legal hb hm, fun g dom => exec_bsync_kept hb⟩,
    fun s c a b slot len src dc dst ho => ⟨exec_slotsend_outside ho, fun u k p hb => ⟨exec_slotsend_computing ho hb,
      fun hg => ⟨exec_slotsend_late ho hb hg, fun hs => ⟨fun t i slog => exec_slotsend_scheduled ho hb hg hs, ?_, ?_⟩⟩⟩⟩,
    fun s d slot => ⟨exec_slotwait_outside, fun u k p hb => ⟨exec_slotwait_idle hb, fun q t es hg hn hp hc =>
      ⟨exec_slotwait_settled hb hg hn hp hc, exec_slotwait_open hb hg hn hp hc⟩⟩⟩,
    fun s k => ⟨fun hk ha he hbeats => ⟨exec_generationComplete_full hk ha he hbeats, BarRec.complete_spec _ _⟩,
      fun x hx => ⟨exec_slotTransferStart_due hx, exec_lateLaneStart_last hx, exec_slotBeatLand_received hx⟩⟩⟩
  all_goals have hcur : u.cur = s.cur := State.cur_phaseBarrier hb
  · intro h
    rw [exec_slotsend_violates ho hb hg hs (State.slotEntry_noSchedule h), State.slotMissed, hcur]
    rfl
  · intro hn q hq
    subst hq
    have hcore : u.cur.core = s.cur.core := congrArg _ hcur
    refine ⟨fun hc => ?_, fun t es hc => ⟨fun he => ?_, fun i he ht => ?_⟩⟩
    · rw [exec_slotsend_violates ho hb hg hs (State.slotEntry_unreadable hn hcore hc), State.slotMissed, hcur]
      rfl
    · rw [exec_slotsend_violates ho hb hg hs (State.slotEntry_absent hn hcore hc he), State.slotMissed, hcur]
      rfl
    · rw [exec_slotsend_violates ho hb hg hs (State.slotEntry_late hn hcore hc he ht), State.slotMissed, hcur]
      rfl

end Sys2Proof.Proofs

/-! ## Remote keys: RKREG and RKREVOKE (R407, R413, R414) -/

namespace Sys2Proof.Machine

/-! ### A register's write that completes -/

section
variable (u : State) (d : BitVec 5) (w : Word)

/-- R89. What the register reads after it. -/
theorem State.reg_setX_advance :
    (u.setX d w).advance.me.reg d.toNat = if d = 0 then Reg.zero else Reg.plain w := by
  have hwritten : (u.setX d w).advance.me.reg d.toNat = (u.me.setReg d.toNat (Reg.plain w)).reg d.toNat := by
    rw [State.setX, State.setG_advance_eq, State.me_setCtx_cur]
    rfl
  rw [hwritten]
  split
  · next hd => subst hd; rfl
  · next hd => exact Ctx.reg_setReg_self _ _ fun h => hd (BitVec.eq_of_toNat_eq h)

/-- It leaves the key table. -/
theorem State.keyAt_setX_advance (i : Nat) : (u.setX d w).advance.keyAt i = u.keyAt i := by
  rw [State.setX, State.setG_advance_eq]
  rfl
end

/-! ### RKREG -/

/-- R413. The entry of a new key, made by the current context. -/
def State.keyEntry (s : State) (kind : BitVec 2) (rights : BitVec 3) (base n i : Nat) (c : BitVec 22) : Key :=
  { used := true, check := c, kind := kind, rights := rights, base := base, length := n, core := s.cur.core
    dom := s.me.dom, xlbase := s.me.xlbase, last := (s.keyAt i).last }

/-- R413. The state with an entry of the key table set; the free value of its CHECK is used up. -/
def State.withKey (s : State) (i : Nat) (e : Key) : State := { s with keys := SMap.set s.keys i e, freeN := s.freeN + 1 }

theorem State.keyAt_withKey (s : State) (i : Nat) (e : Key) : (s.withKey i e).keyAt i = e := SMap.getD_set_self _ _ _ _

section
variable {s : State} {d a b : BitVec 5} {kind : BitVec 2} {rights : BitVec 3} {base n : Nat}
  (hr : rights = 1 ∨ rights = 2 ∨ rights = 3 ∨ rights = 7) (hk : kind ≠ 3)
  (hd : kind = 2 → a = 0 ∧ rights = 2 ∧ base = 0 ∧ n = 0) (hregion : kind ≠ 2 → s.keyRegion a kind rights = .ok (base, n))
include hr hk hd hregion

/-- R413. The checks of an RKREG give the region of its key: none for a mailbox. -/
theorem State.rkreg_checks (m : Nat × Nat → Chk State) :
    (do s.needOperand ((rights == 1 || rights == 2 || rights == 3 || rights == 7) && kind != 3) (rkregT2 kind rights)
        s.needOperand (kind != 2 || (a == 0 && rights == 2)) (rkregT2 kind rights)
        let r ← if kind = 2 then .ok (0, 0) else s.keyRegion a kind rights
        m r) = m (base, n) := by
  rw [State.needOperand_bind_true (by simpa [or_assoc] using And.intro hr hk)]
  by_cases h2 : kind = 2
  · obtain ⟨ha, hright, hbase, hlength⟩ := hd h2
    rw [State.needOperand_bind_true (by simp [ha, hright]), if_pos h2, hbase, hlength]
    rfl
  · rw [State.needOperand_bind_true (by simpa using Or.inl h2), if_neg h2, hregion h2]
    rfl

/-- R413. Without an entry for its key, RKREG gives the reply that says so. -/
theorem exec_rkreg_none {r : Word} (hkey : s.newKey (s.x b) = .error r) :
    exec (.rkreg d a b kind rights) s = .next (s.setX d r).advance := by
  change execRkreg d a b kind rights s = _
  rw [execRkreg, State.rkreg_checks hr hk hd hregion]
  simp only [hkey, State.finish_ok]

/-- R413. With one, it sets the entry and gives the key. -/
theorem exec_rkreg_registers {i : Nat} {c : BitVec 22} (hkey : s.newKey (s.x b) = .ok (i, c)) :
    exec (.rkreg d a b kind rights) s =
      .next ((s.withKey i (s.keyEntry kind rights base n i c)).setX d (w64 (c.toNat * 2 ^ 10 + i))).advance := by
  change execRkreg d a b kind rights s = _
  rw [execRkreg, State.rkreg_checks hr hk hd hregion]
  simp only [hkey, State.finish_ok]
  rfl
end

/-! ### RKREVOKE -/

/-- R407. A key's word: the entry in [9:0], the CHECK in [31:10]. -/
theorem bits_key_entry (w : Word) : bits w 9 0 = w.toNat % 1024 := congrArg (· % 1024) (Nat.div_one w.toNat)

theorem bits_key_check {w : Word} (h : w.toNat < 2 ^ 32) : bits w 31 10 = w.toNat / 1024 :=
  Nat.mod_eq_of_lt (Nat.div_lt_of_lt_mul h)

section
variable {s : State} {d a : BitVec 5} {e : Key} (hx : (s.x a).toNat < 2 ^ 32) (he : s.keyAt ((s.x a).toNat % 1024) = e)
include hx he

/-- R414. A number that is no key in use gives 1. -/
theorem exec_rkrevoke_unknown (h : ¬(e.used = true ∧ e.check.toNat = (s.x a).toNat / 1024)) :
    exec (.rkrevoke d a) s = .next (s.setX d 1).advance := by
  have hunknown : (!e.used || e.check.toNat != (s.x a).toNat / 1024) = true := by
    cases hu : e.used with
    | false => rfl
    | true => simpa [hu] using h
  change execRkrevoke d a s = _
  rw [execRkrevoke, State.needOperand_bind_true (by simp [bits_upper_eq_zero hx])]
  simp only [bits_key_entry, bits_key_check hx, he, hunknown, if_true, State.finish_ok]

/-- R414. A key of the own domain, or any in privileged mode, is revoked. -/
theorem exec_rkrevoke_known (h : e.used = true ∧ e.check.toNat = (s.x a).toNat / 1024) (hm : e.dom = s.me.dom ∨ s.me.priv = true) :
    exec (.rkrevoke d a) s =
      .next (({ s with keys := SMap.set s.keys ((s.x a).toNat % 1024) e.revoked } : State).setX d 0).advance := by
  have hknown : (!e.used || e.check.toNat != (s.x a).toNat / 1024) = false := by simp [h]
  change execRkrevoke d a s = _
  rw [execRkrevoke, State.needOperand_bind_true (by simp [bits_upper_eq_zero hx])]
  simp only [bits_key_entry, bits_key_check hx, he, hknown, Bool.false_eq_true, if_false]
  rw [State.needOperand_bind_true (by simpa using hm)]
  rfl
end

end Sys2Proof.Machine

/-! ## TGEN and STMC (R404, R405, R415, R416) -/

namespace Sys2Proof.Machine

section
variable {s : State} {d : BitVec 5}

/-- R415. TGEN takes SCOPEGEN and gives it. -/
theorem exec_tgen_decided (h : (s.jobOf s.myJob).reconf = none) : exec (.tgen d) s =
    .next ((s.modJob s.myJob (fun k => { k with tgen := k.scopegen })).setX d ((s.jobOf s.myJob).scopegen.setWidth 64)).advance := by
  change execTgen d s = _
  rw [execTgen, h]
  rfl

/-- R415. During a RECONF it waits. -/
theorem exec_tgen_reconfiguring (h : (s.jobOf s.myJob).reconf ≠ none) : exec (.tgen d) s = .next s.hold := by
  obtain ⟨r, hr⟩ := Option.ne_none_iff_exists'.mp h
  change execTgen d s = _
  rw [execTgen, hr]
  rfl
end

/-! ### The checks of a group's instructions -/

section
variable {s : State} {α : Type} (m : Unit → Chk α)

theorem State.needGroup_bind (h : s.hasGroup s.myJob = true) : s.needGroup >>= m = m () := by
  rw [State.needGroup, State.need_true _ _ _ h]
  rfl

theorem State.needTopo_bind (h : (s.jobOf s.myJob).tgen = (s.jobOf s.myJob).scopegen) : s.needTopo >>= m = m () := by
  rw [State.needTopo, State.need_true _ _ _ (beq_iff_eq.mpr h)]
  rfl

/-- R405. STALE_TOPO, where TGEN lags. -/
theorem State.needTopo_bind_stale (h : (s.jobOf s.myJob).tgen ≠ (s.jobOf s.myJob).scopegen) : s.needTopo >>= m =
    .error ⟨0x42, s.me.pc, (s.jobOf s.myJob).scopegen.setWidth 64, (s.jobOf s.myJob).tgen.setWidth 64⟩ := by
  rw [State.needTopo, State.need_false _ _ _ (beq_eq_false_iff_ne.mpr h)]
  rfl
end

/-! ### STMC -/

section
variable {s : State} {v : Reg} {x : Word} {devs : List Nat} {early : Bool}

/-- R416. An STMC past its checks waits for its context's stores. -/
theorem State.stmcSend_waits (h : s.me.writesPending = true) :
    s.stmcSend x v devs early = (s.keep (.stmcIssued devs early)).hold := if_pos h

/-- R416. To no other device it completes at once. -/
theorem State.stmcSend_nobody (h : s.me.writesPending = false) (hd : devs = []) : s.stmcSend x v devs early = s.dropArrival.advance := by
  rw [State.stmcSend, h, hd]
  rfl

/-- R416. To others it sends a store each, and waits for their replies. -/
theorem State.stmcSend_sends (h : s.me.writesPending = false) (hd : devs ≠ []) :
    s.stmcSend x v devs early = (s.multicast x v devs early).hold := by
  simp only [State.stmcSend, h, List.isEmpty_iff, hd, Bool.false_eq_true, if_false]

/-- R416. What an instruction does that goes on as an STMC past its checks. -/
theorem State.stmcSend_cases {o : Out} (ho : o = .next (s.stmcSend x v devs early)) :
    (s.me.writesPending = true → o = .next (s.keep (.stmcIssued devs early)).hold) ∧
    (s.me.writesPending = false → devs = [] → o = .next s.dropArrival.advance) ∧
    (s.me.writesPending = false → devs ≠ [] → o = .next (s.multicast x v devs early).hold) := by
  subst ho
  exact ⟨fun hw => congrArg _ (State.stmcSend_waits hw), fun hw hd => congrArg _ (State.stmcSend_nobody hw hd),
    fun hw hd => congrArg _ (State.stmcSend_sends hw hd)⟩

variable {a b : BitVec 5} {scope : BitVec 3}

/-- R416. An STMC that waits has its checks behind it. -/
theorem exec_stmc_issued (ha : s.arrival = some (.stmcIssued devs early)) :
    exec (.stmc a b scope) s = .next (s.stmcSend (s.x a) (s.g b) devs early) := by
  change execStmc a b scope s = _
  rw [execStmc, ha]

section
variable (ha : s.arrival = none) (hc : checkCap (s.g a) s.me.dom s.me.priv .store (s.x a) 8 8 = .ok ())
  (hg : s.hasGroup s.myJob = true) (hf : isFabric (s.x a) = true) (hn : (s.x a).toNat / 2 ^ 44 % 2 ^ 16 = 0)
  (hdevs : (s.scopeSet s.myJob (s.curPlan s.myJob) scope.toNat).filter (fun n => n != s.fabid.toNat) = devs) (hl : devs.length ≤ 64)
include ha hc hg hf hn hdevs hl

/-- R416. The checks of an STMC, up to that of TGEN, pass. -/
theorem exec_stmc_legal : exec (.stmc a b scope) s = s.finish (do
    s.needTopo
    .ok (s.stmcSend (s.x a) (s.g b) devs (!s.reconfiguring))) := by
  have hcap : s.check (checkCap (s.g a) s.me.dom s.me.priv .store (s.x a) 8 8) (s.regProg a) = .ok () := by rw [hc]; rfl
  have hdevice : bits (s.x a) 59 44 = 0 := hn
  change execStmc a b scope s = _
  simp only [execStmc, ha, hcap, hdevs]
  change s.finish (s.needGroup >>= _) = _
  rw [State.needGroup_bind _ hg, State.needOperand_bind_true (by simp [hf, hdevice, hl])]

theorem exec_stmc_stale (ht : (s.jobOf s.myJob).tgen ≠ (s.jobOf s.myJob).scopegen) : exec (.stmc a b scope) s = .next
    (s.takeTrap s.cur ⟨0x42, s.me.pc, (s.jobOf s.myJob).scopegen.setWidth 64, (s.jobOf s.myJob).tgen.setWidth 64⟩) := by
  rw [exec_stmc_legal ha hc hg hf hn hdevs hl, State.needTopo_bind_stale _ ht, State.finish_error]

theorem exec_stmc_current (ht : (s.jobOf s.myJob).tgen = (s.jobOf s.myJob).scopegen) :
    exec (.stmc a b scope) s = .next (s.stmcSend (s.x a) (s.g b) devs (!s.reconfiguring)) := by
  rw [exec_stmc_legal ha hc hg hf hn hdevs hl, State.needTopo_bind _ ht, State.finish_ok]
end

section
variable {seq : Nat} {failed : List (Nat × BitVec 8)} (ha : s.arrival = some (.stmc seq devs failed))
  (hp : ∀ o ∈ s.me.pend, o.isAccess = false ∨ o.seq ≠ seq ∨ o.head ≠ s.me.pc)
include ha hp

/-- R416. Once every member has replied, an STMC completes, or traps where one has refused. -/
theorem exec_stmc_replied : exec (.stmc a b scope) s = .next (if failed.isEmpty then s.dropArrival.advance
    else s.dropArrival.takeTrap s.cur
      ⟨0x45, s.me.pc, failedBitmap failed, s.byteProg (lowestCause failed).toNat⟩) := by
  have hreplied : s.me.pend.any (fun o => o.isAccess && o.seq == seq && o.head == s.me.pc) = false :=
    List.any_eq_false.mpr fun o ho => by
      rcases hp o ho with h | h | h <;> simp [h]
  change execStmc a b scope s = _
  simp only [execStmc, ha, State.stmcWait, hreplied, Bool.false_eq_true, if_false]
  rfl

theorem exec_stmc_taken (h : failed = []) : exec (.stmc a b scope) s = .next s.dropArrival.advance := by
  rw [exec_stmc_replied ha hp, h]
  rfl

theorem exec_stmc_refused (h : failed ≠ []) : exec (.stmc a b scope) s =
    .next (s.dropArrival.takeTrap s.cur ⟨0x45, s.me.pc, failedBitmap failed, s.byteProg (lowestCause failed).toNat⟩) := by
  rw [exec_stmc_replied ha hp, if_neg (by simpa using h)]
end
end

/-- R136. TRAPPROG[7:0] is the byte stated. -/
theorem State.toNat_byteProg_mod (s : State) (c : BitVec 8) : (s.byteProg c.toNat).toNat % 256 = c.toNat := by
  have hbyte : (s.byteProg c.toNat).setWidth 8 = c := by
    have hfits : c.toNat % 256 = c.toNat := Nat.mod_eq_of_lt c.isLt
    refine BitVec.eq_of_getLsbD_eq fun i hi => ?_
    simp [State.byteProg, hi, hfits]
  exact congrArg BitVec.toNat hbyte

end Sys2Proof.Machine

/-! ## GBAR, RECONF and ABORT (R417 to R419) -/

namespace Sys2Proof.Machine

section
variable {s : State} {d a : BitVec 5} {plan : BitVec 8} {v : Word}

/-- R417. A GBAR of a context without open stores joins its device's arrivals. -/
theorem exec_gbar_joins (ha : s.arrival = none) (hx : (s.x a).toNat < 2 ^ 32) (hg : s.hasGroup s.myJob = true)
    (ht : (s.jobOf s.myJob).tgen = (s.jobOf s.myJob).scopegen) (hw : s.me.writesPending = false) :
    exec (.gbar d a) s = .next (s.gbarJoin (s.x a)).hold := by
  change execGbar d a s = _
  simp only [execGbar, ha]
  rw [State.needOperand_bind_true (by simp [bits_upper_eq_zero hx]), State.needGroup_bind _ hg, State.needTopo_bind _ ht, hw]
  rfl

/-- R417. It completes with what its release brings. -/
theorem exec_gbar_released {e : Nat} (ha : s.arrival = some (.gbar e (some v))) : exec (.gbar d a) s = .next (s.completeWait d v) := by
  change execGbar d a s = _
  rw [execGbar, ha]

/-- R418. A RECONF to the plan that has come into force since the context's last TGEN completes at once. -/
theorem exec_reconf_inForce (ha : s.arrival = none) (hg : s.hasGroup s.myJob = true) (hp : plan.toNat = s.curPlan s.myJob)
    (ht : (s.jobOf s.myJob).tgen = (s.jobOf s.myJob).scopegen - 1) :
    exec (.reconf d plan) s = .next (s.setX d ((s.jobOf s.myJob).scopegen.setWidth 64)).advance := by
  have hdone : (s.hasGroup s.myJob && plan.toNat == s.curPlan s.myJob &&
      (s.jobOf s.myJob).tgen == (s.jobOf s.myJob).scopegen - 1) = true := by simp [hg, hp, ht]
  change execReconf d plan s = _
  simp only [execReconf, ha, hdone, if_true]

/-- R418. The first RECONF of a device, to a valid plan, makes it drain. -/
theorem exec_reconf_begins (ha : s.arrival = none) (hp : plan.toNat < s.planCount s.myJob)
    (hv : s.planValid s.myJob plan.toNat = true) (ht : (s.jobOf s.myJob).tgen = (s.jobOf s.myJob).scopegen)
    (hr : (s.jobOf s.myJob).reconf = none) :
    exec (.reconf d plan) s = .next ((State.reconfDrain ((s.keep (.reconf none)).modJob s.myJob (fun k =>
      { k with reconf := some (plan.toNat, .draining) })) s.myJob).hold) := by
  have hlags : ((s.jobOf s.myJob).tgen == (s.jobOf s.myJob).scopegen - 1) = false := by
    rw [ht, beq_eq_false_iff_ne]
    bv_omega
  change execReconf d plan s = _
  simp only [execReconf, ha, hlags, Bool.and_false, Bool.false_eq_true, if_false]
  rw [State.reconfJoin, State.needOperand_bind_true (by simp [hp, hv]), State.needTopo_bind _ ht]
  simp only [hr, State.finish_ok]

/-- R418. It completes with what its end brings. -/
theorem exec_reconf_decided (ha : s.arrival = some (.reconf (some v))) : exec (.reconf d plan) s = .next (s.completeWait d v) := by
  change execReconf d plan s = _
  rw [execReconf, ha]

/-- R419. ABORT completes, and its token goes to the root. -/
theorem exec_abort_sends (hx : (s.x a).toNat < 2 ^ 32) (hg : s.hasGroup s.myJob = true) :
    exec (.abort a) s = .next (s.advance.sendToken s.myJob ((s.x a).setWidth 32)) := by
  change execAbort a s = _
  rw [execAbort, State.needOperand_bind_true (by simp [bits_upper_eq_zero hx]), State.needGroup_bind _ hg, State.finish_ok]

/-- R401, R403. Without a group there is no way to a root. -/
theorem exec_abort_ungrouped (hx : (s.x a).toNat < 2 ^ 32) (hg : s.hasGroup s.myJob = false) :
    exec (.abort a) s = .next (s.takeTrap s.cur ⟨0x44, s.me.pc, s.openVal, s.openProg⟩) := by
  change execAbort a s = _
  rw [execAbort, State.needOperand_bind_true (by simp [bits_upper_eq_zero hx]), State.needGroup, State.need_false _ _ _ hg]
  rfl
end

end Sys2Proof.Machine

/-! ## What is settled of the fabric's instructions -/

namespace Sys2Proof.Proofs

open Sys2Proof.Machine

/-- Settles O59: each instruction by the lemmas of its case; the three cases of an STMC past its checks are the same at its issue and after
its wait. -/
theorem fabricInstructions : Obligations.FabricInstructions := by
  intro s d a b kd rt sc plan x job j
  refine ⟨fun base n hr hk hd hregion => ⟨fun r hkey => exec_rkreg_none hr hk hd hregion hkey, fun i c hkey =>
      ⟨_, exec_rkreg_registers hr hk hd hregion hkey, State.reg_setX_advance _ _ _, ?_⟩⟩,
    fun hx => ⟨exec_rkrevoke_unknown hx rfl, exec_rkrevoke_known hx rfl⟩, exec_tgen_decided, exec_tgen_reconfiguring,
    fun ha hc hg hf hn => ?_, fun devs early ha => State.stmcSend_cases (exec_stmc_issued ha),
    fun seq devs failed ha hp => ⟨exec_stmc_taken ha hp, fun hfail =>
      ⟨_, State.toNat_byteProg_mod _ _, exec_stmc_refused ha hp hfail⟩⟩,
    exec_gbar_joins, fun e v ha => exec_gbar_released ha, exec_reconf_inForce, exec_reconf_begins, fun v ha => exec_reconf_decided ha,
    exec_abort_sends, fun hx hg => ⟨_, _, exec_abort_ungrouped hx hg⟩⟩
  · rw [State.keyAt_setX_advance, State.keyAt_withKey]
    rfl
  · intro devs hl
    exact ⟨exec_stmc_stale ha hc hg hf hn rfl hl, fun ht => State.stmcSend_cases (exec_stmc_current ha hc hg hf hn rfl hl ht)⟩

end Sys2Proof.Proofs

/-! ## Ports and links (R398 to R400, R403) -/

namespace Sys2Proof.Machine

/-! ### A port that changes -/

section
variable (s : State) {p q : Nat} (f : Port → Port)

@[simp] theorem State.port_modPort_self : (s.modPort p f).port p = f (s.port p) := SMap.getD_set_self _ _ _ _

theorem State.port_modPort_ne (h : q ≠ p) : (s.modPort p f).port q = s.port q := SMap.getD_set_ne _ _ _ h

/-- R400. A port is up in state 2. -/
theorem State.portUp_of (hp : p < 8) (hs : (s.port p).state = 2) : s.portUp p = true := by simp [State.portUp, hp, hs]
end

/-! ### Flits -/

section
variable {s : State} {p : Nat} {f : Flit}

/-- R399. What a flit acknowledges is kept no longer. -/
def State.flitAcked (s : State) (p : Nat) (f : Flit) : State :=
  s.modPort p (fun q => { q with
    kept := q.kept.filter (fun g => decide (f.ack ≤ g.seq))
    lastAck := if (s.port p).kept.any (fun g => decide (g.seq < f.ack)) then s.cycle.toNat else q.lastAck })

/-- R399. A flit in sequence is accepted, and its request stands at the network interface. -/
def State.flitAccepted (s : State) (p : Nat) (f : Flit) : State :=
  let t := (s.flitAcked p f).modPort p (fun q => { q with expect := q.expect + 1 })
  { t with inbound := t.inbound ++ (f.req.map (fun r => { r with uid := 0, va := 0, via := p })).toList }

theorem State.port_flitAcked : (s.flitAcked p f).port p = { s.port p with
    kept := (s.port p).kept.filter (fun g => decide (f.ack ≤ g.seq))
    lastAck := if (s.port p).kept.any (fun g => decide (g.seq < f.ack)) then s.cycle.toNat else (s.port p).lastAck } :=
  State.port_modPort_self _ _

theorem State.port_flitAccepted :
    (s.flitAccepted p f).port p = { (s.flitAcked p f).port p with expect := ((s.flitAcked p f).port p).expect + 1 } :=
  State.port_modPort_self (s.flitAcked p f) (fun q => { q with expect := q.expect + 1 })

section
variable (hp : p < 8) (hs : (s.port p).state = 2) (hc : f.crcOk = true)
include hp hs hc

/-- R399. The reply of a flit in sequence is taken after its request. -/
theorem exec_flitReceive_inSequence (h : f.seq = (s.port p).expect) :
    exec (.flitReceive p f) s = .next (f.reply.elim (s.flitAccepted p f) (s.flitAccepted p f).takeReply) := by
  change execFlitReceive p f s = _
  simp only [execFlitReceive, s.portUp_of hp hs, hc, h]
  cases hq : f.req <;> cases f.reply <;> simp [State.flitAccepted, State.flitAcked, hq]

/-- R399. One out of sequence is discarded, but for what it acknowledges. -/
theorem exec_flitReceive_outOfSequence (h : f.seq ≠ (s.port p).expect) : exec (.flitReceive p f) s = .next (s.flitAcked p f) := by
  change execFlitReceive p f s = _
  simp only [execFlitReceive, s.portUp_of hp hs, hc, if_neg h]
  rfl
end

/-- R399. Without a port that is up, and with a damaged flit, nothing happens. -/
theorem exec_flitReceive_discards (h : 8 ≤ p ∨ (s.port p).state ≠ 2 ∨ f.crcOk = false) : exec (.flitReceive p f) s = .next s := by
  have hdiscard : (!s.portUp p || !f.crcOk) = true := by
    rcases h with h | h | h
    · simp [State.portUp, Nat.not_lt.mpr h]
    · simp only [State.portUp, beq_eq_false_iff_ne.mpr h, Bool.and_false, Bool.not_false, Bool.true_or]
    · simp [h]
  exact congrArg _ (if_pos hdiscard)

/-- R399. An idle flit goes out after a microsecond. -/
theorem exec_idleFlit_due (hp : p < 8) (hs : (s.port p).state = 2) (ht : (s.port p).lastSend + 1250 ≤ s.cycle.toNat) :
    exec (.idleFlit p) s = .next (s.sendFlit p none none) :=
  congrArg _ (if_pos (by simp [s.portUp_of hp hs, microsecond, ht]))

/-- R399. A link fails after a millisecond without an acknowledgement. -/
theorem exec_linkFailTimeout_due (hp : p < 8) (hs : (s.port p).state = 2) (hk : (s.port p).kept ≠ [])
    (ht : (s.port p).lastAck + 1250000 ≤ s.cycle.toNat) : exec (.linkFailTimeout p) s = .next (s.failPort p) :=
  congrArg _ (if_pos (by simp [s.portUp_of hp hs, microsecond, hk, ht]))

/-- R399. A kept reply is dropped after two milliseconds. -/
theorem exec_keptReplyExpiry_due {k : Nat} {x : Kept} (hx : s.kept[k]? = some x) (ht : x.at_ + 2500000 ≤ s.cycle.toNat) :
    exec (.keptReplyExpiry k) s = .next { s with kept := s.kept.eraseIdx k } := by
  change execKeptReplyExpiry k s = _
  simp only [execKeptReplyExpiry, hx]
  exact congrArg _ (if_pos ht)
end

end Sys2Proof.Machine

/-! ## Requests at the network interface (R398, R399, R403, R408) -/

namespace Sys2Proof.Machine

section
variable {s : State} {k : Nat} {r : Request} (hr : s.inbound[k]? = some r) (hready : s.requestReady k r = true)
include hr hready

/-! ### Requests that leave -/

section
variable (hd : r.dst ≠ s.fabid.toNat ∨ s.fabid = 0xFFFF)
include hd

/-- R398, R403. A request to another device leaves as its port grants it. -/
theorem exec_forwardRequest_leaves :
    exec (.forwardRequest k) s = .next (s.routeGranted { s with inbound := s.inbound.eraseIdx k } r) := by
  have hother : ¬(r.dst = s.fabid.toNat ∧ s.fabid ≠ 0xFFFF) := by
    rintro ⟨h, hf⟩
    exact hd.elim (fun hne => hne h) hf
  change execForwardRequest k s = _
  simp only [execForwardRequest, hr, hready, if_neg hother]
  rfl

/-- R403. Without a way it goes to its refusal. -/
theorem exec_forwardRequest_noWay (hn : s.nextPort r.job r.dst = none) :
    exec (.forwardRequest k) s = .next (State.route { s with inbound := s.inbound.eraseIdx k } r) := by
  rw [exec_forwardRequest_leaves hr hready hd, State.routeGranted, hn]

/-- R398. It waits while the port grants another virtual device. -/
theorem exec_forwardRequest_granted {via v : Nat} {left : SMap Nat} (hn : s.nextPort r.job r.dst = some via)
    (hg : s.grant via (s.portWaiting via) = some (v, left)) : exec (.forwardRequest k) s =
      .next (if v = s.senderDevice r.job then
        (State.modPort { s with inbound := s.inbound.eraseIdx k } via (fun x => { x with credits := left })).route r else s) := by
  rw [exec_forwardRequest_leaves hr hready hd, State.routeGranted, hn]
  simp only [hg]
end

/-! ### Requests that are admitted -/

/-- R399, R408. What becomes of another device's request by what it meets, in a state in which it stays where it is to be tried again. -/
def State.answered (s : State) (r : Request) : Admit → State
  | .retry => s
  | .refused u c => u.sendReply r (some c) 0
  | .done u w => State.sendReply { u with kept := u.kept ++ [⟨r.src, r.ctx, r.tag, w, s.cycle.toNat⟩] } r none w

section
variable (hd : r.dst = s.fabid.toNat) (hf : s.fabid ≠ 0xFFFF) (hnew : s.tooNew r = false) (hown : ownRequest r = false)
include hd hf hnew hown

/-- R399. A request whose reply is kept is answered again. -/
theorem exec_inboundRequestAdmit_kept {e : Kept} (hk : s.keptReply r = some e) :
    exec (.inboundRequestAdmit k) s = .next (State.sendReply { s with inbound := s.inbound.eraseIdx k } r none e.reply) := by
  have hmine : ¬(r.dst ≠ s.fabid.toNat ∨ s.fabid = 0xFFFF) := not_or.mpr ⟨not_not_intro hd, hf⟩
  change execInboundRequestAdmit k s = _
  simp only [execInboundRequestAdmit, hr, if_neg hmine, hready, hnew, hown, hk]
  rfl

/-- R399, R408. Any other is checked and performed. -/
theorem exec_inboundRequestAdmit_new (hk : s.keptReply r = none) : exec (.inboundRequestAdmit k) s =
    .next (s.answered r (State.admitRequest { s with inbound := s.inbound.eraseIdx k } r)) := by
  have hmine : ¬(r.dst ≠ s.fabid.toNat ∨ s.fabid = 0xFFFF) := not_or.mpr ⟨not_not_intro hd, hf⟩
  change execInboundRequestAdmit k s = _
  simp only [execInboundRequestAdmit, hr, if_neg hmine, hready, hnew, hown, hk]
  cases State.admitRequest { s with inbound := s.inbound.eraseIdx k } r <;> rfl
end
end

end Sys2Proof.Machine

/-! ## The training of ports (R402, R418) -/

namespace Sys2Proof.Machine

section
variable (s : State) (job : Nat)

/-- R418. A report leaves every port. -/
theorem State.ports_reconfReport : (s.reconfReport job).ports = s.ports := by
  unfold State.reconfReport
  split
  · split <;> rfl
  · rfl

/-- R418. So do the reports of all jobs. -/
theorem State.ports_reportAll : s.reportAll.ports = s.ports := by
  have hfold : ∀ (l : List Nat) (t : State), (l.foldl (fun u j => u.reconfReport j) t).ports = t.ports := by
    intro l
    induction l with
    | nil => exact fun t => rfl
    | cons j l ih => exact fun t => (ih _).trans (t.ports_reconfReport j)
  exact hfold _ s

/-- R418. A report of a device that switches leaves the plan that it switches to. -/
theorem State.reconf_reconfReport {p since : Nat} {ports : List Nat} (h : (s.jobOf job).reconf = some (p, .switching ports since)) :
    ∃ phase, ((s.reconfReport job).jobOf job).reconf = some (p, phase) := by
  simp only [State.reconfReport, h]
  split
  · exact ⟨_, h⟩
  · exact ⟨_, congrArg Job.reconf (State.jobOf_modJob_self _ _ _)⟩
end

section
variable {s : State} {p : Nat}

theorem exec_portTrainingComplete_training (hp : p < 8) (hs : (s.port p).state = 1) :
    ∃ t, exec (.portTrainingComplete p) s = .next t ∧ (t.port p).state = 2 := by
  have hexec : exec (.portTrainingComplete p) s = .next
      (s.modPort p (fun q => { q with state := 2, lastSend := s.cycle.toNat, lastAck := s.cycle.toNat })).reportAll :=
    congrArg _ (if_pos (by rw [hs, decide_eq_true hp]; rfl))
  refine ⟨_, hexec, ?_⟩
  rw [State.port, State.ports_reportAll]
  exact congrArg Port.state (State.port_modPort_self _ _)

/-- R399, R418. A port that trains for too long is failed. -/
theorem exec_portTrainTimeout_late (hs : (s.port p).state = 1) (hl : (s.jobs.any fun j => j.2.trainingLate p s.cycle.toNat) = true) :
    exec (.portTrainTimeout p) s = .next (s.failPort p).reportAll :=
  congrArg _ (if_pos (by rw [hs, hl]; rfl))

/-- R402, R418. The state whose ports of a plan train, with their command words sent out. -/
def State.trainPorts (s : State) (job plan : Nat) (ports : List Nat) : State :=
  ports.foldl (fun t q => t.modPort q (fun x => { x with state := 1, cmd := some (s.command job plan q) })) s

/-- Changing ports in turn changes the ports alone. -/
theorem State.foldl_modPort_eq (f : Nat → Port → Port) (l : List Nat) (s : State) :
    l.foldl (fun t q => t.modPort q (f q)) s = { s with ports := (l.foldl (fun t q => t.modPort q (f q)) s).ports } := by
  induction l generalizing s with
  | nil => rfl
  | cons q l ih => rw [List.foldl_cons, ih]; rfl

/-- Changing ports in turn to state 1 leaves each of them there. -/
theorem State.foldl_modPort_training {f : Nat → Port → Port} (hf : ∀ q x, (f q x).state = 1) {q : Nat} (l : List Nat) (s : State)
    (h : q ∈ l ∨ (s.port q).state = 1) : ((l.foldl (fun t p => t.modPort p (f p)) s).port q).state = 1 := by
  induction l generalizing s with
  | nil => exact h.resolve_left (List.not_mem_nil)
  | cons p l ih =>
    refine ih _ ?_
    by_cases hq : q = p
    · subst hq
      exact .inr (by rw [State.port_modPort_self, hf])
    · rw [State.port_modPort_ne _ _ hq]
      exact h.imp_left fun hmem => (List.mem_cons.mp hmem).resolve_left hq

theorem State.jobOf_trainPorts (job plan : Nat) (l : List Nat) (n : Nat) : (s.trainPorts job plan l).jobOf n = s.jobOf n := by
  rw [State.trainPorts, State.foldl_modPort_eq]
  rfl

/-- R418. A device that has arrived, at the root once its verdict is to switch, trains every port of the new plan. -/
theorem exec_reconfSwitch_trains {job plan : Nat} (hj : (s.jobOf job).reconf = some (plan, .arrived))
    (hv : s.isRoot job = false ∨ (s.jobOf job).rootVerdict = some true) :
    ∃ t phase, exec (.reconfSwitch job) s = .next t ∧ (t.jobOf job).reconf = some (plan, phase) ∧
      ∀ q ∈ s.planPorts job plan, (t.port q).state = 1 := by
  have hgoes : ¬(s.isRoot job && (s.jobOf job).rootVerdict != some true) = true := by
    rcases hv with h | h <;> simp [h]
  have hexec : exec (.reconfSwitch job) s = .next (((s.trainPorts job plan (s.planPorts job plan)).modJob job
      (fun k => { k with reconf := some (plan, .switching (s.planPorts job plan) s.cycle.toNat) })).reconfReport job) := by
    change execReconfSwitch job s = _
    simp only [execReconfSwitch, hj, if_neg hgoes]
    rfl
  obtain ⟨phase, hphase⟩ := State.reconf_reconfReport ((s.trainPorts job plan (s.planPorts job plan)).modJob job
    (fun k => { k with reconf := some (plan, .switching (s.planPorts job plan) s.cycle.toNat) })) job
    (congrArg Job.reconf (State.jobOf_modJob_self _ _ _))
  refine ⟨_, phase, hexec, hphase, fun q hq => ?_⟩
  rw [State.port, State.ports_reconfReport]
  exact State.foldl_modPort_training (fun _ _ => rfl) _ s (.inl hq)
end

end Sys2Proof.Machine

/-! ## The end of a RECONF (R418) -/

namespace Sys2Proof.Machine

/-! ### Held requests -/

section
variable (s : State)

theorem State.jobs_releaseHeld : s.releaseHeld.jobs = s.jobs := by
  unfold State.releaseHeld
  split <;> rfl

theorem State.reconfiguring_releaseHeld : s.releaseHeld.reconfiguring = s.reconfiguring :=
  congrArg (List.any · fun p : Nat × Job => p.2.reconf.isSome) s.jobs_releaseHeld

/-- R418. Requests are held while a RECONF is open, and go behind the others once none is. -/
theorem State.releaseHeld_cases :
    (s.releaseHeld.reconfiguring = false → s.releaseHeld.inbound = s.inbound ++ s.heldReqs ∧ s.releaseHeld.heldReqs = []) ∧
    (s.releaseHeld.reconfiguring = true → s.releaseHeld.inbound = s.inbound ∧ s.releaseHeld.heldReqs = s.heldReqs) := by
  rw [State.reconfiguring_releaseHeld]
  constructor <;> (intro h; rw [State.releaseHeld, h]; exact ⟨rfl, rfl⟩)
end

/-- R418. A job after a RECONF of it has been decided. -/
theorem State.jobOf_reconfEnd (s : State) (job : Nat) (v : Word) : (s.reconfEnd job v).jobOf job =
    { s.jobOf job with reconf := none, rootPlans := [], rootVerdict := none, rootReports := [] } := by
  rw [State.reconfEnd, State.jobOf, State.jobs_releaseHeld]
  exact State.jobOf_modJob_self _ _ _

/-! ### The events that decide it -/

section
variable {s : State} {job plan : Nat}

/-- R418. The plans with which the members of a group have arrived at the root. -/
def State.arrivedPlans (s : State) (job : Nat) : List Nat :=
  (s.members job).filterMap (fun m => SMap.find (s.jobOf job).rootPlans m)

/-- R418. At the root, once every member has arrived, the verdict is whether their plans are the same. -/
theorem exec_reconfAllArrived_decides {t : State} (hdrain : s.reconfDrain job = t) (hroot : t.isRoot job = true)
    (hm : t.members job ≠ []) (hp : (t.arrivedPlans job).length = (t.members job).length)
    (hv : (t.jobOf job).rootVerdict = none) : exec (.reconfAllArrived job) s = .next (t.modJob job (fun k =>
      { k with rootVerdict := some ((t.arrivedPlans job).all (fun p => some p == (t.arrivedPlans job).head?)) })) := by
  have hdecides : ¬(!t.isRoot job || (t.members job).isEmpty || decide ((t.arrivedPlans job).length ≠ (t.members job).length) ||
      (t.jobOf job).rootVerdict.isSome) = true := by simp [hroot, hm, hp, hv]
  subst hdrain
  exact congrArg _ (if_neg hdecides)

/-- R418. The state with a plan in force, under the next generation. -/
def State.withPlan (s : State) (job plan : Nat) : State :=
  State.modJob { s with main := (s.main.write (s.groupAddr job + 4) 4 (s.groupGen job + 1).toNat).write (s.groupAddr job + 20) 4 plan }
    job (fun k => { k with scopegen := s.groupGen job + 1 })

/-- R418. A commit moves GEN, CURPLAN and SCOPEGEN, and releases what the RECONF held. -/
theorem exec_reconfCommit_reported (hj : (s.jobOf job).reconf = some (plan, .reported))
    (hr : s.isRoot job = false ∨ ∀ m ∈ s.members job, NSet.has (s.jobOf job).rootReports m = true) :
    ∃ t, exec (.reconfCommit job) s = .next t ∧ (t.jobOf job).reconf = none ∧ (t.jobOf job).scopegen = s.groupGen job + 1 ∧
      (t.reconfiguring = false → t.inbound = s.inbound ++ s.heldReqs ∧ t.heldReqs = []) ∧
      (t.reconfiguring = true → t.inbound = s.inbound ∧ t.heldReqs = s.heldReqs) := by
  have hgoes : ¬(s.isRoot job && !(s.members job).all (fun m => NSet.has (s.jobOf job).rootReports m)) = true := by
    rcases hr with h | h
    · simp [h]
    · simp [List.all_eq_true.mpr h]
  have hexec : exec (.reconfCommit job) s = .next ((s.withPlan job plan).reconfEnd job ((s.groupGen job + 1).setWidth 64)) := by
    change execReconfCommit job s = _
    simp only [execReconfCommit, hj, if_neg hgoes]
    rfl
  refine ⟨_, hexec, ?_, ?_, State.releaseHeld_cases _⟩
  · rw [State.jobOf_reconfEnd]
  · rw [State.jobOf_reconfEnd]
    exact congrArg Job.scopegen (State.jobOf_modJob_self _ _ _)

theorem exec_reconfFail_arrived (hj : (s.jobOf job).reconf = some (plan, .arrived))
    (hv : s.isRoot job = false ∨ (s.jobOf job).rootVerdict = some false) :
    exec (.reconfFail job) s = .next (s.reconfEnd job 0xFFFFFFFFFFFFFFFF) := by
  have hgoes : ¬(s.isRoot job && (s.jobOf job).rootVerdict != some false) = true := by
    rcases hv with h | h <;> simp [h]
  change execReconfFail job s = _
  simp only [execReconfFail, hj, if_neg hgoes]
  rfl
end

end Sys2Proof.Machine

/-! ## What the root of a group sends and receives (R401, R417, R419) -/

namespace Sys2Proof.Machine

section
variable {s : State} {job device : Nat} {v : BitVec 64}

/-! ### Episodes -/

/-- R417. An episode completes at the root with the first arrival of every member. -/
theorem exec_gbarEpisodeComplete_full (hroot : s.isRoot job = true) (hg : s.hasGroup job = true) (hm : s.members job ≠ [])
    (ha : ∀ m ∈ s.members job, ∃ e ∈ (s.jobOf job).rootArr, e.1 = m) : ∃ t, exec (.gbarEpisodeComplete job) s = .next t ∧
      (t.jobOf job).rootArr = takeArrivals (s.members job) (s.jobOf job).rootArr := by
  have hall : (s.members job).all (fun m => (s.jobOf job).rootArr.any (fun p => p.1 == m)) = true := by simpa using ha
  have hempty : (s.members job).isEmpty = false := by simpa using hm
  change ∃ t, execGbarEpisodeComplete job s = .next t ∧ _
  simp only [execGbarEpisodeComplete, hroot, hg, hall, hempty, Bool.not_true, Bool.or_false, Bool.false_eq_true, if_false]
  exact ⟨_, rfl, congrArg Job.rootArr (State.jobOf_modJob_self _ _ _)⟩

/-- R417. A release from the root of another device. -/
theorem exec_gbarRelease_received (hroot : s.isRoot job = false) : exec (.gbarRelease job v) s = .next (s.gbarDeliver job v) :=
  congrArg _ (if_neg (by simp [hroot]))

/-- R417. On its own device the root's oldest release is delivered. -/
theorem exec_gbarRelease_own {r : Word} {rest : List RootMsg} (hroot : s.isRoot job = true)
    (ho : (s.jobOf job).rootOut = .release r :: rest) :
    exec (.gbarRelease job v) s = .next ((s.modJob job (fun k => { k with rootOut := rest })).gbarDeliver job r) := by
  change execGbarRelease job v s = _
  simp only [execGbarRelease, hroot, ho, if_true]

/-! ### Arrivals -/

section
variable (hroot : s.isRoot job = true ∧ s.hasGroup job = true)
include hroot

/-- R417. The arrival of a device of one step. -/
theorem exec_groupArrivalReceive_step (h : v.toNat / 2 ^ 32 % 8 = 0) : ∃ t, exec (.groupArrivalReceive job device v) s = .next t ∧
    (t.jobOf job).rootArr = (s.jobOf job).rootArr ++ [(device, BitVec.ofNat 64 (v.toNat % 2 ^ 32))] := by
  have hkind : bits v 34 32 = 0 := h
  have hstep : bits v 31 0 = v.toNat % 2 ^ 32 := congrArg (· % 2 ^ 32) (Nat.div_one _)
  change ∃ t, execGroupArrivalReceive job device v s = .next t ∧ _
  simp only [execGroupArrivalReceive, hroot, hkind, hstep, Bool.not_true, Bool.or_false, Bool.false_eq_true, if_false]
  exact ⟨_, rfl, congrArg Job.rootArr (State.jobOf_modJob_self _ _ _)⟩

/-- R419. The token of a device. -/
theorem exec_groupArrivalReceive_token (h : v.toNat / 2 ^ 32 % 8 = 4) : ∃ t, exec (.groupArrivalReceive job device v) s = .next t ∧
    (t.jobOf job).tokens = (s.jobOf job).tokens ++ [⟨device, v.setWidth 32⟩] := by
  have hkind : bits v 34 32 = 4 := h
  change ∃ t, execGroupArrivalReceive job device v s = .next t ∧ _
  simp only [execGroupArrivalReceive, hroot, hkind, Bool.not_true, Bool.or_false, Bool.false_eq_true, if_false]
  exact ⟨_, rfl, congrArg Job.tokens (State.jobOf_modJob_self _ _ _)⟩
end

/-! ### Tokens -/

/-- R419. The root takes its oldest token, and the arrivals of the open episode are discarded. -/
theorem exec_abortTokenBroadcast_root {tk : Token} {rest : List Token} (hroot : s.isRoot job = true)
    (ht : (s.jobOf job).tokens = tk :: rest) :
    ∃ t, exec (.abortTokenBroadcast job) s = .next t ∧ (t.jobOf job).tokens = rest ∧ (t.jobOf job).rootArr = [] := by
  change ∃ t, execAbortTokenBroadcast job s = .next t ∧ _
  simp only [execAbortTokenBroadcast, ht, hroot, Bool.not_true, Bool.false_eq_true, if_false]
  exact ⟨_, rfl, congrArg Job.tokens (State.jobOf_modJob_self _ _ _), congrArg Job.rootArr (State.jobOf_modJob_self _ _ _)⟩

/-- R419. A token from the root of another device reaches the job's contexts. -/
theorem exec_abortTokenArrival_received {w reason : BitVec 32} (hroot : s.isRoot job = false) :
    exec (.abortTokenArrival job device w reason) s = .next (s.takeToken job ⟨device, reason⟩ w) :=
  congrArg _ (if_neg (by simp [hroot]))
end

end Sys2Proof.Machine

/-! ## What is settled of the fabric's steps -/

namespace Sys2Proof.Proofs

open Sys2Proof.Machine

/-- Settles O60: each event by the lemma of the case in which its condition holds; what the root's events change is read off the job that
they leave. -/
theorem fabricEvents : Obligations.FabricEvents := by
  refine ⟨fun s p k f => ⟨fun hp hs hc => ⟨fun hseq => ⟨s.flitAccepted p f, ?_, ?_, rfl, exec_flitReceive_inSequence hp hs hc hseq⟩,
      fun hseq => ⟨_, exec_flitReceive_outOfSequence hp hs hc hseq, ?_, rfl⟩⟩,
    exec_flitReceive_discards, exec_idleFlit_due, exec_linkFailTimeout_due, fun r hr hready =>
      ⟨fun hd => ⟨exec_forwardRequest_noWay hr hready hd, fun via v left hn hg => exec_forwardRequest_granted hr hready hd hn hg⟩,
        fun hd hf hnew hown => ⟨fun e hk => exec_inboundRequestAdmit_kept hr hready hd hf hnew hown hk, fun hk => ?_⟩⟩,
    fun x hx ht => exec_keptReplyExpiry_due hx ht, exec_portTrainingComplete_training, exec_portTrainTimeout_late⟩,
    fun s job device v w rs => ⟨fun ⟨hroot, hg⟩ hm ha => exec_gbarEpisodeComplete_full hroot hg hm ha, exec_gbarRelease_received,
      fun r rest hroot ho => exec_gbarRelease_own hroot ho, exec_reconfAllArrived_decides rfl,
      fun p hj hv => exec_reconfSwitch_trains hj hv, fun p hj hr => exec_reconfCommit_reported hj hr,
      fun p hj hv => exec_reconfFail_arrived hj hv, exec_groupArrivalReceive_step, exec_groupArrivalReceive_token,
      fun tk rest hroot ht => exec_abortTokenBroadcast_root hroot ht, exec_abortTokenArrival_received⟩⟩
  · rw [State.port_flitAccepted, State.port_flitAcked]
  · rw [State.port_flitAccepted, State.port_flitAcked]
  · rw [State.port_flitAcked]
  · rw [exec_inboundRequestAdmit_new hr hready hd hf hnew hown hk]
    exact ⟨fun u c hm => by rw [hm]; rfl, fun hm => by rw [hm]; rfl, fun u w hm => by rw [hm]; rfl⟩

end Sys2Proof.Proofs

/-! ## The round trip of the encodings (R64 to R66, R79, R81 to R83, R276, R277) -/

namespace Sys2Proof

open Laws.Encoding (Fit)

/-! ### Fields of a word -/

/-- Two fields share no bit. -/
def Field.apart (f e : Field) : Bool := decide (f.lo + f.width ≤ e.lo) || decide (e.lo + e.width ≤ f.lo)

/-- A layout of fields within the lowest `n` bits, no two of which share a bit. -/
def laidOut (n : Nat) (fs : List Field) : Bool :=
  match fs with
  | [] => true
  | f :: fs => decide (f.lo + f.width ≤ n) && fs.all f.apart && laidOut n fs

theorem Field.testBit_get (f : Field) (w j : Nat) : (f.get w).testBit j = (decide (j < f.width) && w.testBit (f.lo + j)) := by
  rw [Field.get, Nat.testBit_mod_two_pow, Nat.testBit_shiftRight]

theorem Field.get_lt (f : Field) (w : Nat) : f.get w < 2 ^ f.width := Nat.mod_lt _ (Nat.two_pow_pos _)

/-- A value that fits its field reads back, whatever stands outside the field. -/
theorem Field.get_shiftLeft_or {f : Field} {v w : Nat} (hv : v < 2 ^ f.width) (hw : f.get w = 0) : f.get (v <<< f.lo ||| w) = v := by
  rw [Field.get] at hw
  rw [Field.get, Nat.shiftRight_or_distrib, Nat.shiftLeft_shiftRight, Nat.or_mod_two_pow, hw, Nat.or_zero, Nat.mod_eq_of_lt hv]

/-- A value in another field reads as zero. -/
theorem Field.get_shiftLeft_of_apart {f e : Field} {v : Nat} (hv : v < 2 ^ e.width) (h : f.apart e = true) :
    f.get (v <<< e.lo) = 0 := by
  simp only [Field.apart, Bool.or_eq_true, decide_eq_true_eq] at h
  refine Nat.eq_of_testBit_eq fun j => ?_
  rw [Field.testBit_get, Nat.zero_testBit, Nat.testBit_shiftLeft, Bool.and_eq_false_imp]
  intro hj
  rw [decide_eq_true_eq] at hj
  rcases h with h | h
  · simp [Nat.not_le.mpr (Nat.lt_of_lt_of_le (Nat.add_lt_add_left hj f.lo) h)]
  · have hhigh : v < 2 ^ (f.lo + j - e.lo) := Nat.lt_of_lt_of_le hv (Nat.pow_le_pow_right (by decide) (by omega))
    simp [Nat.testBit_lt_two_pow hhigh]

/-- Every value fits its field. -/
def valuesFit (l : List (Field × Nat)) : Prop := ∀ p ∈ l, p.2 < 2 ^ p.1.width

/-- A field apart from all that are packed reads as zero. -/
theorem Field.get_packFields_of_apart {f : Field} {l : List (Field × Nat)} (hv : valuesFit l)
    (h : (l.map Prod.fst).all f.apart = true) : f.get (packFields l) = 0 := by
  induction l with
  | nil => simp [packFields, Field.get]
  | cons p l ih =>
    obtain ⟨hp, hl⟩ := List.forall_mem_cons.mp hv
    simp only [List.map_cons, List.all_cons, Bool.and_eq_true] at h
    have h1 := Field.get_shiftLeft_of_apart hp h.1
    have h2 := ih hl h.2
    rw [Field.get] at h1 h2
    rw [packFields, Field.get, Nat.shiftRight_or_distrib, Nat.or_mod_two_pow, h1, h2, Nat.or_zero]

/-- R64 to R66. Every field that is packed reads back. -/
theorem get_packFields {n : Nat} {l : List (Field × Nat)} (hl : laidOut n (l.map Prod.fst) = true) (hv : valuesFit l) :
    ∀ p ∈ l, p.1.get (packFields l) = p.2 := by
  induction l with
  | nil => exact List.forall_mem_nil _
  | cons q l ih =>
    obtain ⟨hq, hrest⟩ := List.forall_mem_cons.mp hv
    simp only [List.map_cons, laidOut, Bool.and_eq_true] at hl
    obtain ⟨⟨-, hapart⟩, hout⟩ := hl
    refine List.forall_mem_cons.mpr ⟨Field.get_shiftLeft_or hq (Field.get_packFields_of_apart hrest hapart), fun p hp => ?_⟩
    have hpq : p.1.apart q.1 = true := by
      have h := List.all_eq_true.mp hapart p.1 (List.mem_map_of_mem hp)
      rwa [Field.apart, Bool.or_comm] at h
    have hz := Field.get_shiftLeft_of_apart hq hpq
    have hp' := ih hout hrest p hp
    rw [Field.get] at hz hp'
    rw [packFields, Field.get, Nat.shiftRight_or_distrib, Nat.or_mod_two_pow, hz, hp', Nat.zero_or]

/-- Packed fields stay within their layout. -/
theorem packFields_lt {n : Nat} {l : List (Field × Nat)} (hl : laidOut n (l.map Prod.fst) = true) (hv : valuesFit l) :
    packFields l < 2 ^ n := by
  induction l with
  | nil => exact Nat.two_pow_pos n
  | cons q l ih =>
    obtain ⟨hq, hrest⟩ := List.forall_mem_cons.mp hv
    simp only [List.map_cons, laidOut, Bool.and_eq_true, decide_eq_true_eq] at hl
    obtain ⟨⟨hn, -⟩, hout⟩ := hl
    refine Nat.or_lt_two_pow ?_ (ih hout hrest)
    calc q.2 <<< q.1.lo = q.2 * 2 ^ q.1.lo := Nat.shiftLeft_eq _ _
      _ < 2 ^ q.1.width * 2 ^ q.1.lo := Nat.mul_lt_mul_of_pos_right hq (Nat.two_pow_pos _)
      _ = 2 ^ (q.1.lo + q.1.width) := by rw [← Nat.pow_add, Nat.add_comm]
      _ ≤ 2 ^ n := Nat.pow_le_pow_right (by decide) hn

/-! ### Operands of a row -/

theorem valuesFit_zip {fs : List Field} {vs : List Nat} (h : Fit fs vs) : valuesFit (fs.zip vs) := by
  induction fs generalizing vs with
  | nil => exact List.forall_mem_nil _
  | cons f fs ih =>
    cases vs with
    | nil => exact List.forall_mem_nil _
    | cons v vs => exact List.forall_mem_cons.mpr ⟨h.1, ih h.2⟩

theorem map_fst_zip_of_fit {fs : List Field} {vs : List Nat} (h : Fit fs vs) : (fs.zip vs).map Prod.fst = fs := by
  induction fs generalizing vs with
  | nil => rfl
  | cons f fs ih =>
    cases vs with
    | nil => exact h.elim
    | cons v vs => exact congrArg (f :: ·) (ih h.2)

/-- Values are what their fields read, where each reads its own. -/
theorem map_get_eq_of_fit {fs : List Field} {vs : List Nat} {w : Nat} (h : Fit fs vs) (hg : ∀ p ∈ fs.zip vs, p.1.get w = p.2) :
    fs.map (·.get w) = vs := by
  induction fs generalizing vs with
  | nil =>
    cases vs with
    | nil => rfl
    | cons v vs => exact h.elim
  | cons f fs ih =>
    cases vs with
    | nil => exact h.elim
    | cons v vs =>
      obtain ⟨hv, hrest⟩ := List.forall_mem_cons.mp hg
      exact congrArg₂ List.cons hv (ih h.2 hrest)

/-- What fields read from a word fits them. -/
theorem fit_map_get (fs : List Field) (w : Nat) : Fit fs (fs.map (·.get w)) := by
  induction fs with
  | nil => trivial
  | cons f fs ih => exact ⟨f.get_lt w, ih⟩

/-- The values that operands of the fields' widths have, from any numbers. -/
def operandValues (fs : List Field) (v : Nat → Nat) : List Nat := fs.mapIdx (fun k f => v k % 2 ^ f.width)

theorem operandValues_of_fit {fs : List Field} {vs : List Nat} (h : Fit fs vs) : operandValues fs (fun k => vs.getD k 0) = vs := by
  induction fs generalizing vs with
  | nil =>
    cases vs with
    | nil => rfl
    | cons v vs => exact h.elim
  | cons f fs ih =>
    cases vs with
    | nil => exact h.elim
    | cons v vs =>
      rw [operandValues, List.mapIdx_cons]
      exact congrArg₂ List.cons (Nat.mod_eq_of_lt h.1) (ih h.2)

/-! ### The core's tables -/

/-- The fields of a row, its G bit and its constants first. -/
def Row.fields (r : Row) : List Field := fieldG :: (r.consts.map Prod.fst ++ r.args)

/-- R64 to R66. A row's fields share no bit and lie in its form's halfwords, and its constants fit theirs. -/
theorem coreRows_laidOut : ∀ r ∈ coreRows, laidOut (16 * (1 + r.form)) r.fields = true ∧
    r.consts.all (fun p => decide (p.2 < 2 ^ p.1.width)) = true := by decide +kernel

/-- R79. The order of the tables: by major, then by minor, then by a field that tells two instructions of one minor apart; rows of
one major have one form. -/
def Row.before (r q : Row) : Bool :=
  decide (r.major < q.major) || (r.major == q.major && r.form == q.form &&
    match r.minor, q.minor with
    | some m, some n => decide (m < n) || (m == n &&
      match r.fixed, q.fixed with
      | [(f, a)], [(e, b)] => f == e && decide (a < b)
      | _, _ => false)
    | _, _ => false)

/-- What the order says of two rows. -/
theorem Row.before_iff {r q : Row} : r.before q = true ↔ r.major < q.major ∨ (r.major = q.major ∧ r.form = q.form ∧
    ∃ m n, r.minor = some m ∧ q.minor = some n ∧
      (m < n ∨ (m = n ∧ ∃ f a b, r.fixed = [(f, a)] ∧ q.fixed = [(f, b)] ∧ a < b))) := by
  unfold Row.before
  simp only [Bool.or_eq_true, decide_eq_true_eq, Bool.and_eq_true, beq_iff_eq, and_assoc]
  refine or_congr_right (and_congr_right fun _ => and_congr_right fun _ => ?_)
  split
  · next m n hm hn =>
    simp only [hm, hn, Option.some.injEq, exists_and_left, exists_eq_left', Bool.or_eq_true, decide_eq_true_eq, Bool.and_eq_true,
      beq_iff_eq]
    refine or_congr_right (and_congr_right fun _ => ?_)
    split
    · next f a e b hf he =>
      simp only [hf, he, Bool.and_eq_true, beq_iff_eq, decide_eq_true_eq, List.cons.injEq, Prod.mk.injEq, and_true]
      constructor
      · rintro ⟨rfl, hab⟩
        exact ⟨f, a, ⟨rfl, rfl⟩, b, ⟨rfl, rfl⟩, hab⟩
      · rintro ⟨x, y, ⟨rfl, rfl⟩, z, ⟨rfl, rfl⟩, hab⟩
        exact ⟨rfl, hab⟩
    · next hno =>
      simp only [Bool.false_eq_true, false_iff]
      rintro ⟨f, a, hf, b, hb, -⟩
      exact hno f a f b hf hb
  · next hno =>
    simp only [Bool.false_eq_true, false_iff]
    rintro ⟨m, n, hm, hn, -⟩
    exact hno _ _ hm hn

theorem Row.before_trans {r q p : Row} (h1 : r.before q = true) (h2 : q.before p = true) : r.before p = true := by
  rw [Row.before_iff] at *
  rcases h1 with h1 | ⟨hmaj1, hform1, m, n, hm, hn, h1⟩
  · rcases h2 with h2 | ⟨hmaj2, -⟩
    · exact .inl (h1.trans h2)
    · exact .inl (hmaj2 ▸ h1)
  · rcases h2 with h2 | ⟨hmaj2, hform2, n', k, hn', hk, h2⟩
    · exact .inl (hmaj1 ▸ h2)
    · obtain rfl : n = n' := Option.some.inj (hn.symm.trans hn')
      refine .inr ⟨hmaj1.trans hmaj2, hform1.trans hform2, m, k, hm, hk, ?_⟩
      rcases h1 with h1 | ⟨rfl, f, a, b, hf, hb, hab⟩
      · rcases h2 with h2 | ⟨rfl, -⟩
        · exact .inl (h1.trans h2)
        · exact .inl h1
      · rcases h2 with h2 | ⟨rfl, e, b', c, he, hc, hbc⟩
        · exact .inl h2
        · obtain ⟨rfl, rfl⟩ : f = e ∧ b = b' := by simpa using hb.symm.trans he
          exact .inr ⟨rfl, f, a, c, hf, hc, hab.trans hbc⟩

theorem coreRows_rising : coreRows.IsChain (fun r q => r.before q = true) := by decide +kernel

/-- The tables are in order. -/
theorem coreRows_pairwise : coreRows.Pairwise (fun r q => r.before q = true) := by
  let : IsTrans Row (fun r q => r.before q = true) := ⟨fun _ _ _ => Row.before_trans⟩
  exact List.isChain_iff_pairwise.mp coreRows_rising

/-- A row's constants and operands read back from the word that it packs, which its form's halfwords hold. -/
theorem Row.get_pack {r : Row} (hr : r ∈ coreRows) {g : Nat} (hg : g < 2) {vs : List Nat} (hf : Fit r.args vs) :
    (∀ p ∈ (fieldG, g) :: (r.consts ++ r.args.zip vs), p.1.get (r.pack g vs) = p.2) ∧ r.pack g vs < 2 ^ (16 * (1 + r.form)) := by
  obtain ⟨hlaid, hconsts⟩ := coreRows_laidOut r hr
  have hfields : (((fieldG, g) :: (r.consts ++ r.args.zip vs)).map Prod.fst) = r.fields := by
    rw [List.map_cons, List.map_append, map_fst_zip_of_fit hf, Row.fields]
  have hfit : valuesFit ((fieldG, g) :: (r.consts ++ r.args.zip vs)) :=
    List.forall_mem_cons.mpr ⟨hg, List.forall_mem_append.mpr ⟨fun p hp => of_decide_eq_true (List.all_eq_true.mp hconsts p hp),
      valuesFit_zip hf⟩⟩
  rw [← hfields] at hlaid
  exact ⟨get_packFields hlaid hfit, packFields_lt hlaid hfit⟩

theorem Row.fits_iff {r : Row} {w : Nat} : r.fits w = true ↔ r.pack (fieldG.get w) (r.values w) = w := beq_iff_eq

/-- R66. A row packs a word that fits it and gives back the operand values. -/
theorem Row.fits_pack {r : Row} (hr : r ∈ coreRows) {g : Nat} (hg : g < 2) {vs : List Nat} (hf : Fit r.args vs) :
    r.values (r.pack g vs) = vs ∧ fieldG.get (r.pack g vs) = g ∧ r.fits (r.pack g vs) = true := by
  obtain ⟨hget, -⟩ := Row.get_pack hr hg hf
  obtain ⟨hG, hrest⟩ := List.forall_mem_cons.mp hget
  have hvalues : r.values (r.pack g vs) = vs := map_get_eq_of_fit hf (List.forall_mem_append.mp hrest).2
  exact ⟨hvalues, hG, Row.fits_iff.mpr (by rw [hvalues, hG])⟩

/-- A word that fits a row of the tables holds its constants. -/
theorem Row.get_of_fits {r : Row} (hr : r ∈ coreRows) {w : Nat} (h : r.fits w = true) : ∀ p ∈ r.consts, p.1.get w = p.2 := by
  obtain ⟨hget, -⟩ := Row.get_pack hr (fieldG.get_lt w) (fit_map_get r.args w)
  rw [show r.pack (fieldG.get w) (r.args.map (·.get w)) = w from Row.fits_iff.mp h] at hget
  exact fun p hp => hget p (List.mem_cons_of_mem _ (List.mem_append_left _ hp))

/-- R64, R65. The same, by name. -/
theorem Row.heads_of_fits {r : Row} (hr : r ∈ coreRows) {w : Nat} (h : r.fits w = true) :
    fieldOp.get w = r.major ∧ fieldTL.get w = r.form ∧ (∀ m, r.minor = some m → r.minorField.get w = m) ∧
      ∀ p ∈ r.fixed, p.1.get w = p.2 := by
  have hget := Row.get_of_fits hr h
  simp only [Row.consts, List.forall_mem_cons, List.forall_mem_append] at hget
  obtain ⟨hop, htl, hminor, hfixed⟩ := hget
  refine ⟨hop, htl, fun m hm => ?_, hfixed⟩
  rw [hm] at hminor
  exact hminor _ (List.mem_singleton_self _)

/-- No word fits two rows of which one stands before the other. -/
theorem Row.not_fits_of_before {r q : Row} (hr : r ∈ coreRows) (hq : q ∈ coreRows) (h : r.before q = true) {w : Nat}
    (h1 : r.fits w = true) : q.fits w = false := by
  rw [Bool.eq_false_iff]
  intro h2
  obtain ⟨hop1, -, hmin1, hfix1⟩ := Row.heads_of_fits hr h1
  obtain ⟨hop2, -, hmin2, hfix2⟩ := Row.heads_of_fits hq h2
  rcases Row.before_iff.mp h with hlt | ⟨-, hform, m, n, hm, hn, hlt⟩
  · omega
  · have hfield : r.minorField = q.minorField := by rw [Row.minorField, Row.minorField, hform]
    have hmn : m = n := by rw [← hmin1 m hm, ← hmin2 n hn, hfield]
    rcases hlt with hlt | ⟨-, f, a, b, ha, hb, hlt⟩
    · omega
    · have h1 : f.get w = a := hfix1 (f, a) (ha ▸ List.mem_singleton_self _)
      have h2 : f.get w = b := hfix2 (f, b) (hb ▸ List.mem_singleton_self _)
      omega

/-- Two different rows of the tables stand one before the other. -/
theorem coreRows_ordered : ∀ r ∈ coreRows, ∀ q ∈ coreRows, r ≠ q → r.before q = true ∨ q.before r = true := by
  let _ : Std.Symm (fun r q : Row => r.before q = true ∨ q.before r = true) := ⟨fun _ _ => Or.symm⟩
  exact (coreRows_pairwise.imp Or.inl).forall

/-- R66. At most one row of the tables fits a word. -/
theorem Row.eq_of_fits {r q : Row} (hr : r ∈ coreRows) (hq : q ∈ coreRows) {w : Nat} (h1 : r.fits w = true) (h2 : q.fits w = true) :
    q = r := by
  by_contra hne
  rcases coreRows_ordered q hq r hr hne with h | h
  · rw [Row.not_fits_of_before hq hr h h2] at h1; cases h1
  · rw [Row.not_fits_of_before hr hq h h1] at h2; cases h2

/-- R79. The rows of one major have one form. -/
theorem Row.form_eq_of_major_eq {r q : Row} (hr : r ∈ coreRows) (hq : q ∈ coreRows) (h : r.major = q.major) : r.form = q.form := by
  by_cases hne : r = q
  · rw [hne]
  · rcases coreRows_ordered r hr q hq hne with hb | hb
    · rcases Row.before_iff.mp hb with hlt | ⟨-, hform, -⟩
      · omega
      · exact hform
    · rcases Row.before_iff.mp hb with hlt | ⟨-, hform, -⟩
      · omega
      · exact hform.symm

/-- The first of a list with a property that one alone has. -/
theorem find?_eq_some_of_unique {α : Type} {l : List α} {p : α → Bool} {a : α} (ha : a ∈ l) (hp : p a = true)
    (hu : ∀ b ∈ l, p b = true → b = a) : l.find? p = some a := by
  obtain ⟨b, hb⟩ := Option.isSome_iff_exists.mp (List.find?_isSome.mpr ⟨a, ha, hp⟩)
  rw [hb, hu b (List.mem_of_find?_eq_some hb) (List.find?_some hb)]

/-! ### Decoding -/

/-- R66, R81, R82. A word that fits a row decodes to the instruction that the row makes, if that is well formed. -/
theorem decodeCore_of_fits {r : Row} (hr : r ∈ coreRows) {w : Nat} (h : r.fits w = true) (hwf : (r.instr (r.values w)).wf = true) :
    decodeCore w = .instr (r.instr (r.values w)) := by
  obtain ⟨hop, htl, hminor, -⟩ := Row.heads_of_fits hr h
  have hmajor : (r.major == fieldOp.get w) = true := beq_iff_eq.mpr hop.symm
  have hmin : r.minorIs w = true := by
    unfold Row.minorIs
    split
    · next m hm => exact beq_iff_eq.mpr (hminor m hm)
    · rfl
  have hmem1 : r ∈ coreRows.filter (fun r => r.major == fieldOp.get w) := List.mem_filter.mpr ⟨hr, hmajor⟩
  have hmem2 : r ∈ coreRows.filter (fun r => r.major == fieldOp.get w && r.minorIs w) :=
    List.mem_filter.mpr ⟨hr, by rw [hmajor, hmin]; rfl⟩
  have hfind : (coreRows.filter (fun r => r.major == fieldOp.get w && r.minorIs w)).find? (·.fits w) = some r :=
    find?_eq_some_of_unique hmem2 h fun q hq => Row.eq_of_fits hr (List.mem_filter.mp hq).1 h
  unfold decodeCore
  split
  · next hnil => rw [hnil] at hmem1; exact absurd hmem1 List.not_mem_nil
  · next r0 l hl =>
    obtain ⟨hr0, hmajor0⟩ := List.mem_filter.mp (hl ▸ List.mem_cons_self : r0 ∈ coreRows.filter (fun r => r.major == fieldOp.get w))
    have hform : ¬(r0.form ≠ fieldTL.get w) := by
      rw [not_not, htl]
      exact Row.form_eq_of_major_eq hr0 hr ((beq_iff_eq.mp hmajor0).trans hop)
    split
    · next hnil => rw [hnil] at hmem2; exact absurd hmem2 List.not_mem_nil
    · next r1 rs hrs =>
      rw [if_neg hform, ← hrs, hfind]
      exact if_pos hwf

/-- A word that decodes fits a row, which makes its instruction, and that is well formed. -/
theorem exists_fits_of_decodeCore {w : Nat} {i : Instr} (h : decodeCore w = .instr i) :
    i.wf = true ∧ ∃ r ∈ coreRows, r.fits w = true ∧ r.instr (r.values w) = i := by
  unfold decodeCore at h
  split at h
  · cases h
  · split at h
    · cases h
    · next r1 rs hrs =>
      split at h
      · cases h
      · split at h
        · cases h
        · next r hfind =>
          split at h
          · next hwf =>
            cases h
            have hmem := List.mem_of_find?_eq_some hfind
            rw [← hrs] at hmem
            have hfits := List.find?_some hfind
            exact ⟨hwf, r, (List.mem_filter.mp hmem).1, hfits, rfl⟩
          · cases h

/-! ### The walker's table -/

/-- R276. A walker row's fields share no bit of its 32, and its opcode fits the opcode's. -/
theorem walkRows_laidOut : ∀ r ∈ walkRows, laidOut 32 (fieldWOp :: r.args) = true ∧ r.op < 2 ^ fieldWOp.width := by decide +kernel

/-- R277. No two walker rows have one opcode. -/
theorem walkRows_op_rising : (walkRows.map (·.op)).Pairwise (· < ·) := by decide +kernel

theorem WalkRow.get_pack {r : WalkRow} (hr : r ∈ walkRows) {vs : List Nat} (hf : Fit r.args vs) :
    (∀ p ∈ (fieldWOp, r.op) :: r.args.zip vs, p.1.get (r.pack vs) = p.2) ∧ r.pack vs < 2 ^ 32 := by
  obtain ⟨hlaid, hop⟩ := walkRows_laidOut r hr
  have hfields : (((fieldWOp, r.op) :: r.args.zip vs).map Prod.fst) = fieldWOp :: r.args := by
    rw [List.map_cons, map_fst_zip_of_fit hf]
  have hfit : valuesFit ((fieldWOp, r.op) :: r.args.zip vs) := List.forall_mem_cons.mpr ⟨hop, valuesFit_zip hf⟩
  rw [← hfields] at hlaid
  exact ⟨get_packFields hlaid hfit, packFields_lt hlaid hfit⟩

theorem WalkRow.fits_iff {r : WalkRow} {w : Nat} : r.fits w = true ↔ r.pack (r.values w) = w := beq_iff_eq

theorem WalkRow.fits_pack {r : WalkRow} (hr : r ∈ walkRows) {vs : List Nat} (hf : Fit r.args vs) :
    r.values (r.pack vs) = vs ∧ r.fits (r.pack vs) = true := by
  obtain ⟨hget, -⟩ := WalkRow.get_pack hr hf
  have hvalues : r.values (r.pack vs) = vs := map_get_eq_of_fit hf (List.forall_mem_cons.mp hget).2
  exact ⟨hvalues, WalkRow.fits_iff.mpr (by rw [hvalues])⟩

theorem WalkRow.op_of_fits {r : WalkRow} (hr : r ∈ walkRows) {w : Nat} (h : r.fits w = true) : fieldWOp.get w = r.op := by
  obtain ⟨hget, -⟩ := WalkRow.get_pack hr (fit_map_get r.args w)
  rw [show r.pack (r.args.map (·.get w)) = w from WalkRow.fits_iff.mp h] at hget
  exact hget (fieldWOp, r.op) List.mem_cons_self

/-- R276. At most one row of the walker's table fits a word. -/
theorem WalkRow.eq_of_fits {r q : WalkRow} (hr : r ∈ walkRows) (hq : q ∈ walkRows) {w : Nat} (h1 : r.fits w = true)
    (h2 : q.fits w = true) : q = r := by
  have hops : q.op = r.op := (WalkRow.op_of_fits hq h2).symm.trans (WalkRow.op_of_fits hr h1)
  exact List.inj_on_of_nodup_map (walkRows_op_rising.imp Nat.ne_of_lt) hq hr hops

theorem decodeWalk_of_fits {r : WalkRow} (hr : r ∈ walkRows) {w : Nat} (h : r.fits w = true) :
    decodeWalk w = some (r.instr (r.values w)) := by
  rw [decodeWalk, find?_eq_some_of_unique hr h fun q hq => WalkRow.eq_of_fits hr hq h]

theorem exists_fits_of_decodeWalk {w : Nat} {i : Instr} (h : decodeWalk w = some i) :
    ∃ r ∈ walkRows, r.fits w = true ∧ r.instr (r.values w) = i := by
  unfold decodeWalk at h
  split at h
  · next r hfind =>
    have hfits := List.find?_some hfind
    exact ⟨r, List.mem_of_find?_eq_some hfind, hfits, Option.some.inj h⟩
  · cases h

/-! ### Encoding -/

theorem encode_core {i : Instr} {r : Row} {vs : List Nat} (h : i.coding = some (.core r vs)) (g : Bool) :
    encode g i = some (r.pack g.toNat vs) := by
  rw [encode, h]

theorem encode_walk {i : Instr} {r : WalkRow} {vs : List Nat} (h : i.coding = some (.walk r vs)) (g : Bool) :
    encode g i = some (r.pack vs) := by
  rw [encode, h]

/-- R64. The G bit of a word, as a truth value and back. -/
theorem toNat_fieldG (w : Nat) : (fieldG.get w == 1).toNat = fieldG.get w := by
  have h : fieldG.get w < 2 := fieldG.get_lt w
  generalize fieldG.get w = n at h
  interval_cases n <;> rfl

/-! ### The coding of what a row makes -/

/-- Each of a table's rows makes, from any numbers, an instruction that is encoded under that row with those numbers cut to its fields. -/
theorem coding_coreRows0 (v : Nat → Nat) : coreRows0.map (fun r => (r.make v).coding) =
    coreRows0.map (fun r => some (.core r (operandValues r.args v))) := rfl
theorem coding_coreRows1 (v : Nat → Nat) : coreRows1.map (fun r => (r.make v).coding) =
    coreRows1.map (fun r => some (.core r (operandValues r.args v))) := rfl
theorem coding_coreRows2 (v : Nat → Nat) : coreRows2.map (fun r => (r.make v).coding) =
    coreRows2.map (fun r => some (.core r (operandValues r.args v))) := rfl
theorem coding_coreRows3 (v : Nat → Nat) : coreRows3.map (fun r => (r.make v).coding) =
    coreRows3.map (fun r => some (.core r (operandValues r.args v))) := rfl
theorem coding_coreRows4 (v : Nat → Nat) : coreRows4.map (fun r => (r.make v).coding) =
    coreRows4.map (fun r => some (.core r (operandValues r.args v))) := rfl
theorem coding_coreRows5 (v : Nat → Nat) : coreRows5.map (fun r => (r.make v).coding) =
    coreRows5.map (fun r => some (.core r (operandValues r.args v))) := rfl
theorem coding_coreRows6 (v : Nat → Nat) : coreRows6.map (fun r => (r.make v).coding) =
    coreRows6.map (fun r => some (.core r (operandValues r.args v))) := rfl
theorem coding_coreRows7 (v : Nat → Nat) : coreRows7.map (fun r => (r.make v).coding) =
    coreRows7.map (fun r => some (.core r (operandValues r.args v))) := rfl
theorem coding_coreRows8 (v : Nat → Nat) : coreRows8.map (fun r => (r.make v).coding) =
    coreRows8.map (fun r => some (.core r (operandValues r.args v))) := rfl
theorem coding_coreRows9 (v : Nat → Nat) : coreRows9.map (fun r => (r.make v).coding) =
    coreRows9.map (fun r => some (.core r (operandValues r.args v))) := rfl
theorem coding_coreRows10 (v : Nat → Nat) : coreRows10.map (fun r => (r.make v).coding) =
    coreRows10.map (fun r => some (.core r (operandValues r.args v))) := rfl
theorem coding_coreRows11 (v : Nat → Nat) : coreRows11.map (fun r => (r.make v).coding) =
    coreRows11.map (fun r => some (.core r (operandValues r.args v))) := rfl
theorem coding_coreRows12 (v : Nat → Nat) : coreRows12.map (fun r => (r.make v).coding) =
    coreRows12.map (fun r => some (.core r (operandValues r.args v))) := rfl
theorem coding_coreRows13 (v : Nat → Nat) : coreRows13.map (fun r => (r.make v).coding) =
    coreRows13.map (fun r => some (.core r (operandValues r.args v))) := rfl
theorem coding_coreRows14 (v : Nat → Nat) : coreRows14.map (fun r => (r.make v).coding) =
    coreRows14.map (fun r => some (.core r (operandValues r.args v))) := rfl
theorem coding_coreRows15 (v : Nat → Nat) : coreRows15.map (fun r => (r.make v).coding) =
    coreRows15.map (fun r => some (.core r (operandValues r.args v))) := rfl
theorem coding_coreRows16 (v : Nat → Nat) : coreRows16.map (fun r => (r.make v).coding) =
    coreRows16.map (fun r => some (.core r (operandValues r.args v))) := rfl
theorem coding_coreRows17 (v : Nat → Nat) : coreRows17.map (fun r => (r.make v).coding) =
    coreRows17.map (fun r => some (.core r (operandValues r.args v))) := rfl

/-- The same of all the tables. -/
theorem coding_coreRows (v : Nat → Nat) : coreRows.map (fun r => (r.make v).coding) =
    coreRows.map (fun r => some (.core r (operandValues r.args v))) := by
  simp only [coreRows, List.map_append, coding_coreRows0, coding_coreRows1, coding_coreRows2, coding_coreRows3, coding_coreRows4,
    coding_coreRows5, coding_coreRows6, coding_coreRows7, coding_coreRows8, coding_coreRows9, coding_coreRows10, coding_coreRows11,
    coding_coreRows12, coding_coreRows13, coding_coreRows14, coding_coreRows15, coding_coreRows16, coding_coreRows17]

/-- R79. A row of the tables makes an instruction that is encoded under that row, with the operand values that fit it. -/
theorem Row.coding_instr {r : Row} (hr : r ∈ coreRows) {vs : List Nat} (hf : Fit r.args vs) :
    (r.instr vs).coding = some (.core r vs) := by
  have h := coding_coreRows (fun k => vs.getD k 0)
  rw [List.map_inj_left] at h
  rw [Row.instr, h r hr, operandValues_of_fit hf]

theorem coding_walkRows (v : Nat → Nat) : walkRows.map (fun r => (r.make v).coding) =
    walkRows.map (fun r => some (.walk r (operandValues r.args v))) := rfl

theorem WalkRow.coding_instr {r : WalkRow} (hr : r ∈ walkRows) {vs : List Nat} (hf : Fit r.args vs) :
    (r.instr vs).coding = some (.walk r vs) := by
  have h := coding_walkRows (fun k => vs.getD k 0)
  rw [List.map_inj_left] at h
  rw [WalkRow.instr, h r hr, operandValues_of_fit hf]

/-! ### The coding of an instruction -/

namespace Laws.Encoding

/-- The coding of every instruction is right: the lemmas of its constructors, in their order. -/
theorem statement (i : Instr) : Statement i :=
  Instr.casesOn (motive := Statement) i
    nop hend yield vsync uiret eret ifence shfence xfence halt snap break_ wait_ hstart hjoin hstat hkill trap syscall movfc movtc
    savectx restctx beq bne blt bge bltu bgeu br call jmpr callr ret vloop add sub mul mulh mulhu div divu rem remu and_ or_ xor_
    andn shl shr sra rotr min_ max_ minu maxu seq sne slt sltu sle sleu addi andi ori xori shli shri srai rotri slti sltui muli
    clz ctz popc sextb sexth sextw zextb zexth zextw brev bswap ldi ldih ldipc sel bext bins sfadd sfsub sfmul sfdiv sfmin sfmax
    sfsqrt sfeq sflt sfle sffma sfcvt sfclass klim kset kadv kmask klock kopen kinfo kstrip kcopy klimi kadvi kmaski ldb ldh ldw
    ldd ldbs ldhs ldws ldc stb sth stw std stc ldbx ldhx ldwx lddx stbx sthx stwx stdx ldm stm amoadd amoand amoor amoxor amoswap
    amomin amomax amominu amomaxu cas cas2 ldaq strl fence vadd vsub vmul vmin vmax vand vor vxor vandn vshl vshr vsra vscaleb
    vadds vsubs vabsd vmov vneg vabs vnot vclass viota vbcast vrcp vrsqrt vsqrt vfma vfms vfnma vsel vceq vcne vclt vcle vcun
    vclassm vcvt vrnd vtag vpack vunpack vredsum vredmax vredmin vperm vextr vins vld vst vgath vscat sbind spos sget vexp2f
    vlog2f vtanh vtopk vtopknz park unpark wload mma mmasw accz accrd accwr acccp tload tstore ttrans chadd chsub chmul chcomp
    chdiff chint chmov chfree chlen chnorm chtrunc chfit cheval chroot chconst chx chld chst chscal cpy cpym cpyq igather iscatter
    evwait evsig cbar wkstart wkstat stvec ldnear delvec ixstamp nsubmit ndone ndoneQ narm narmEdge cwait cancel launch barrive
    bwait bsync slotsend slotwait Laws.Encoding.seal reconf tgen gbar abort stmc rkreg rkrevoke wnop wadd wsub wand wor wxor wshl wshr waddi
    wmuli wldi wldB wldH wldW wldD wstB wstH wstW wstD wflt wfle wbeq wbne wbltu wj wdinit wdabs wdfin wzrow wrins wemit wsig wend
    walkStepLimit digestBlockCompress vsqctlDiscard mxctlDiscard cpctlDiscard xlinvPage xlinvDomain xlinvAll domainWrite rndWrite
    flagsWrite flagsRead fntolWrite fnstatRead dtermClear vdctlRst vdirq jsgo irqstatClear lntrig lnres atgo hostRegisterWrite
    packageReset stackWake opticalEngineWake dieRailWake securityProcessorBoot decsynLinkTrain bypass idcode samplePreload extest
    arrayWake arraySleep launchItemStart takeDeferredTrap enterUserHandler mailboxDeposit spillDelivery rucksackDelivery
    loadComplete storePerformed remoteRefusal translationWalk sequencerExecute vloopReplay matrixOpStart matrixOpComplete
    functionOpComplete copyStart copyComplete copyFail indirectPostStart indirectPostComplete indirectPostFail preemption
    nodeAgeing nodePlaceAffinity nodeSteal gangReserveBegin gangCommit gangReserveFail gangBackoffExpiry gangDrainStart
    drainCoreReserve nodeCompletion nodeFail rambleAdmit rambleSearch rambleReply rambleFail rambleHeldReplyDelivery sliceRelease
    sliceDispatch sliceBudgetExpiry sliceGraceExpiry deadlineMiss generationComplete slotTransferStart lateLaneStart slotBeatLand
    uncorrectableError terminationDone lanternCoreCapture lanternCaptureComplete sealDigestDone attestationDone flitReceive
    idleFlit linkFailTimeout forwardRequest inboundRequestAdmit gbarEpisodeComplete gbarRelease reconfAllArrived reconfSwitch
    portTrainTimeout reconfCommit reconfFail abortTokenBroadcast reservedMajorIssue sequentialLineEntry debuggerResume
    hostMemoryWindowAccess perBankRefresh stackTemperatureReport portTrainingComplete keptReplyExpiry groupArrivalReceive
    abortTokenArrival

end Laws.Encoding

end Sys2Proof

/-! ## What is settled of the encodings -/

namespace Sys2Proof.Proofs

open Sys2Proof.Machine
open Sys2Proof.Laws.Encoding (Fit)

/-- Settles O1: the row of an instruction's coding packs a word that fits that row, and it alone; so decoding finds the row and reads the
operands back. -/
theorem decodeOfEncode : Obligations.DecodeOfEncode := by
  intro i g w hwf henc
  have hst := Laws.Encoding.statement i
  unfold Laws.Encoding.Statement at hst
  unfold encode at henc
  split at henc
  · next r vs hcode =>
    simp only [hcode] at hst ⊢
    obtain ⟨⟨k, hk⟩, hfit, hinstr⟩ := hst
    have hr := List.mem_of_getElem? hk
    cases henc
    have hg : g.toNat < 2 := Bool.toNat_lt g
    obtain ⟨hvalues, hG, hfits⟩ := Row.fits_pack hr hg hfit
    have htl := (Row.heads_of_fits hr hfits).2.1
    have hbits : i.bits = 16 * (1 + r.form) := by rw [Instr.bits, hcode]
    have hdec := decodeCore_of_fits hr hfits (by rw [hvalues, hinstr]; exact hwf)
    rw [hvalues, hinstr] at hdec
    refine ⟨hdec, by rw [coreBits, htl, hbits], ?_, hG⟩
    rw [hbits]
    exact (Row.get_pack hr hg hfit).2
  · next r vs hcode =>
    simp only [hcode] at hst ⊢
    obtain ⟨⟨k, hk⟩, hfit, hinstr⟩ := hst
    have hr := List.mem_of_getElem? hk
    cases henc
    obtain ⟨hvalues, hfits⟩ := WalkRow.fits_pack hr hfit
    have hdec := decodeWalk_of_fits hr hfits
    rw [hvalues, hinstr] at hdec
    exact ⟨hdec, (WalkRow.get_pack hr hfit).2⟩
  · cases henc

/-- Settles O2: a word that decodes fits a row, so it is what that row packs from its operands, and the row's instruction is encoded
under that row. -/
theorem encodeOfDecode : Obligations.EncodeOfDecode := by
  refine ⟨fun w i h => ?_, fun w i h => ?_⟩
  · obtain ⟨hwf, r, hr, hfits, rfl⟩ := exists_fits_of_decodeCore h
    have hcode : (r.instr (r.values w)).coding = some (.core r (r.values w)) := Row.coding_instr hr (fit_map_get r.args w)
    refine ⟨hwf, ?_⟩
    rw [encode_core hcode, toNat_fieldG, Row.fits_iff.mp hfits]
  · obtain ⟨r, hr, hfits, rfl⟩ := exists_fits_of_decodeWalk h
    have hcode : (r.instr (r.values w)).coding = some (.walk r (r.values w)) := WalkRow.coding_instr hr (fit_map_get r.args w)
    rw [encode_walk hcode, WalkRow.fits_iff.mp hfits]

theorem decodeCore_of_encode {i : Instr} {g : Bool} {w : Nat} {r : Row} {vs : List Nat} (hcode : i.coding = some (.core r vs))
    (hwf : i.wf = true) (h : r.pack g.toNat vs = w) : decodeCore w = .instr i := by
  have henc : encode g i = some w := (encode_core hcode g).trans (congrArg some h)
  have h := decodeOfEncode i g w hwf henc
  simp only [hcode] at h
  exact h.1

theorem decodeWalk_of_encode {i : Instr} {w : Nat} {r : WalkRow} {vs : List Nat} (hcode : i.coding = some (.walk r vs))
    (hwf : i.wf = true) (h : r.pack vs = w) : decodeWalk w = some i := by
  have henc : encode false i = some w := (encode_walk hcode false).trans (congrArg some h)
  have h := decodeOfEncode i false w hwf henc
  simp only [hcode] at h
  exact h.1

/-- Settles O3: each word written out is what the instruction's row packs, with the G bit that it holds. -/
theorem decodeOfWrittenWords : Obligations.DecodeOfWrittenWords :=
  ⟨decodeCore_of_encode (g := true) rfl rfl rfl, decodeCore_of_encode (g := true) rfl rfl rfl,
    decodeCore_of_encode (g := true) rfl rfl rfl, decodeCore_of_encode (g := false) rfl rfl rfl,
    decodeCore_of_encode (g := true) rfl rfl rfl, decodeCore_of_encode (g := true) rfl rfl rfl, by decide +kernel,
    decodeWalk_of_encode rfl rfl rfl, decodeWalk_of_encode rfl rfl rfl⟩

end Sys2Proof.Proofs

/-! ## Steps of the agenda (R73, R77, R83, R272), and completion (R67, R68) -/

namespace Sys2Proof.Machine

@[simp] theorem State.groupOpen_pop (s : State) (c : CtxId) : s.pop.groupOpen c = s.groupOpen c := rfl
@[simp] theorem State.halt_pop (s : State) : s.pop.halt = s.halt := rfl

/-- R73, R83. An issue inside a group: the step runs the member at the program counter. -/
theorem step_inside {s : State} {c : CtxId} {rest : List Action} {i : Instr} (hk : CtxId.known c = true)
    (ha : s.agenda = .issue c :: rest) (hg : s.groupOpen c = false) (hp : (s.ctx c).gpos ≠ 0) (hi : s.pop.contextIssues c = true)
    (hd : (memberAt (s.ctx c).line (headIndex (s.ctx c).pc)).dec = .instr i) :
    step s = passCycle (exec i (s.pop.beginMember c (s.ctx c).gpos (memberAt (s.ctx c).line (headIndex (s.ctx c).pc)).word
      (decide (half (s.ctx c).line (headIndex (s.ctx c).pc) / 32768 = 1)))) := by
  have hissue : s.pop.issue c = s.pop.member c (s.pop.ctx c).gpos := by
    refine State.issue_inside ?_ ?_ hi
    · rw [State.groupOpen_pop]; exact hg
    · rw [State.ctx_pop]; exact hp
  rw [← State.ctx_pop] at hd
  have hrun := hissue.trans (State.member_instr hd)
  rw [State.ctx_pop] at hrun
  exact step_issue hk ha hrun

/-- R73, R77, R83. An issue at a boundary where nothing else is due and the group is ready: the step runs the group's first member. -/
theorem step_start {s t : State} {c : CtxId} {rest : List Action} {i : Instr} (hk : CtxId.known c = true)
    (ha : s.agenda = .issue c :: rest) (hg : s.groupOpen c = false) (hp : (s.ctx c).gpos = 0) (hw : (s.ctx c).waiting = false)
    (hstop : s.pop.stopsHere c = none) (hi : s.pop.contextIssues c = true) (haside : s.pop.standsAside c = false)
    (htake : s.pop.takesHere c = none) (hturn : s.pop.turn c = true) (henter : s.pop.enterLine c = (t, true))
    (hf : groupFault (t.ctx c).line (t.ctx c).pc (c.slot != control) (t.ctx c).priv = none)
    (hr : t.groupReady c (groupInstrs (t.ctx c).line (t.ctx c).pc) = true)
    (hd : (memberAt (t.ctx c).line (headIndex (t.ctx c).pc)).dec = .instr i) :
    step s = passCycle (exec i ((t.readied c).beginMember c 0 (memberAt (t.ctx c).line (headIndex (t.ctx c).pc)).word
      (decide (half (t.ctx c).line (headIndex (t.ctx c).pc) / 32768 = 1)))) := by
  have hissue : s.pop.issue c = t.startGroup c := by
    refine State.issue_start ?_ ?_ ?_ hstop hi haside htake henter hturn
    · rw [State.groupOpen_pop]; exact hg
    · rw [State.ctx_pop]; exact hp
    · rw [State.ctx_pop]; exact hw
  obtain ⟨hline, hpc⟩ := t.readied_line c
  have hmember : (memberAt ((t.readied c).ctx c).line (headIndex ((t.readied c).ctx c).pc)).dec = .instr i := by rw [hline, hpc]; exact hd
  have hrun := hissue.trans ((State.startGroup_ready hf hr).trans (State.member_instr hmember))
  rw [hline, hpc] at hrun
  exact step_issue hk ha hrun

/-- R272, R276. A walk thread's issue: the step runs the word at its program counter. -/
theorem step_thread {s : State} {cl th : Nat} {rest : List Action} {w : BitVec 32} {i : Instr} (hc : cl < Config.clusters) (ht : th < 8)
    (ha : s.agenda = .walk cl th :: rest) (hrun : ((s.cluster cl).thread th).state = .run)
    (hdig : ((s.cluster cl).thread th).awaitsDigest = false) (hwd : (s.cluster cl).withdrawn = false)
    (hturn : (s.cluster cl).walkTurn th = true) (hhalt : s.halt = false) (hfence : s.dfence.getLsbD (cl / 10) = false)
    (hex : ((s.cluster cl).thread th).exhausted = false) (hpc : 0 ≤ ((s.cluster cl).thread th).pc)
    (hword : ((s.cluster cl).thread th).code[((s.cluster cl).thread th).pc.toNat]? = some w) (hd : decodeWalk w.toNat = some i) :
    step s = passCycle (exec i { s.pop.modCluster cl (fun k => { k with wkLast := th }) with wk := (cl, th) }) := by
  rw [← State.cluster_pop] at hrun hdig hwd hturn hex hpc hword
  rw [← State.dfence_pop] at hfence
  rw [← State.halt_pop] at hhalt
  exact step_walk hc ht ha (State.issueWalk_instr hrun hdig hwd hfence hex hpc hword hd hhalt hturn)

end Sys2Proof.Machine

/-! ## What is settled of steps and completion -/

namespace Sys2Proof.Proofs

open Sys2Proof.Machine

/-- Settles O4: an issue inside a group, one that starts a group, and one of a walk thread. -/
theorem stepRunsDecoded : Obligations.StepRunsDecoded :=
  ⟨fun _ _ _ _ hk ha hg hp hi hd => step_inside hk ha hg hp hi hd,
    fun _ _ _ _ _ hk ha hg hp hw hstop hi haside htake hturn henter hf hr hd =>
      step_start hk ha hg hp hw hstop hi haside htake hturn henter hf hr hd,
    fun _ _ _ _ _ _ hc ht ha hrun hdig hwd hturn hhalt hfence hex hpc hword hd =>
      step_thread hc ht ha hrun hdig hwd hturn hhalt hfence hex hpc hword hd⟩

/-- Settles O8: a completion changes the program counter and the wait mark by the rule of the next head, a jump by its target. -/
theorem advanceMovesToNextHead : Obligations.AdvanceMovesToNextHead := fun s =>
  ⟨by rw [State.advance_eq, Ctx.nextHead, BitVec.add_assoc]; rfl, funext s.jump_eq⟩

end Sys2Proof.Proofs

/-! ## Lines that agree in header, heads and tails (R61 to R64) -/

namespace Sys2Proof.Machine

section
variable {l m : BitVec 512}

theorem tailsUpTo_mono (l : BitVec 512) {i j : Nat} (h : i ≤ j) : tailsUpTo l i ≤ tailsUpTo l j := by
  induction h with
  | refl => exact Nat.le_refl _
  | step _ ih => exact Nat.le_add_right_of_le ih

/-- R64. The tails of the first heads are as long where those heads are the same. -/
theorem tailsUpTo_congr {n : Nat} (h : ∀ i ≤ n, half m i = half l i) : tailsUpTo m n = tailsUpTo l n := by
  induction n with
  | zero => rfl
  | succ n ih =>
    have hlast : headTL m (n + 1) = headTL l (n + 1) := by rw [headTL, headTL, h (n + 1) (Nat.le_refl _)]
    rw [tailsUpTo, tailsUpTo, ih fun i hi => h i (Nat.le_succ_of_le hi), hlast]

theorem lineHeads_congr (h : ∀ i ≤ lineHeads l, half m i = half l i) : lineHeads m = lineHeads l := by
  rw [lineHeads, lineHeads, h 0 (Nat.zero_le _)]

/-- R62. The framing of a line depends on its header and its heads. -/
theorem lineFramed_congr (h : ∀ i ≤ lineHeads l, half m i = half l i) : lineFramed m = lineFramed l := by
  rw [lineFramed, lineFramed, lineHeads_congr h, tailsUpTo_congr h, h 0 (Nat.zero_le _)]

/-- R62. The tails of a framed line's heads take at most 31 halfwords. -/
theorem tailsUpTo_lt_of_framed (h : lineFramed l = true) : tailsUpTo l (lineHeads l) < 32 := by
  simp only [lineFramed, Bool.and_eq_true, decide_eq_true_eq] at h
  omega

/-- R62, R83. The halfwords of a framed line's instruction lie among the tails. -/
theorem tail_of_framed (hf : lineFramed l = true) {i k : Nat} (h1 : 1 ≤ i) (hi : i ≤ lineHeads l) (hk : k < headTL l i) :
    32 - tailsUpTo l (lineHeads l) ≤ 32 - tailsUpTo l i + k ∧ 32 - tailsUpTo l i + k < 32 := by
  obtain ⟨j, rfl⟩ := Nat.exists_eq_add_of_le' h1
  have hmono := tailsUpTo_mono l hi
  have hlt := tailsUpTo_lt_of_framed hf
  rw [tailsUpTo] at hmono ⊢
  omega

/-- R63. The instruction at each head depends on the heads and the tails alone. -/
theorem lineWord_congr (h : ∀ i ≤ lineHeads l, half m i = half l i)
    (ht : ∀ i, 32 - tailsUpTo l (lineHeads l) ≤ i → i < 32 → half m i = half l i) (hf : lineFramed l = true) {i : Nat} (h1 : 1 ≤ i)
    (hi : i ≤ lineHeads l) : lineWord m i = lineWord l i := by
  have htails : tailsUpTo m i = tailsUpTo l i := tailsUpTo_congr fun j hj => h j (hj.trans hi)
  have htl : headTL m i = headTL l i := by rw [headTL, headTL, h i hi]
  have htail : ∀ k, (if k < headTL l i then half m (32 - tailsUpTo l i + k) else 0) =
      if k < headTL l i then half l (32 - tailsUpTo l i + k) else 0 := fun k => by
    split
    · next hk =>
      obtain ⟨hlo, hhi⟩ := tail_of_framed hf h1 hi hk
      exact ht _ hlo hhi
    · rfl
  simp only [lineWord, htails, htl, htail, h i hi]
end

end Sys2Proof.Machine

/-! ## What is settled of lines -/

namespace Sys2Proof.Proofs

open Sys2Proof.Machine

/-- Settles O18: framing, heads, instructions and the next head read the header, the heads and the tails alone. -/
theorem ignoredBytes : Obligations.IgnoredBytes := fun _ _ h ht =>
  ⟨lineFramed_congr h, lineHeads_congr h, fun hf _ h1 hi => lineWord_congr h ht hf h1 hi, fun _ _ => by
    simp only [Ctx.nextHead, lineHeads_congr h]⟩

end Sys2Proof.Proofs

/-! ## The checks of a control transfer (R70, R291, R381) -/

namespace Sys2Proof.Machine

/-- R70. The bits of a target that must be zero. -/
theorem badTarget_iff (a : Word) : (bits a 63 55 ≠ 0 ∨ a.getLsbD 0 = true) ↔ a.toNat / 2 ^ 55 ≠ 0 ∨ a.toNat % 2 = 1 := by
  have hhigh : bits a 63 55 = a.toNat / 2 ^ 55 := Nat.mod_eq_of_lt (by have := a.isLt; omega)
  have hlow : a.getLsbD 0 = decide (a.toNat % 2 = 1) := by rw [BitVec.getLsbD, Nat.testBit_zero]
  rw [hhigh, hlow, decide_eq_true_eq]

section
variable {s : State} {w : Who} {lines : SMap (BitVec 512)} {a : Word}

/-- R70. A target with such a bit is a bad one, and nothing is fetched. -/
theorem State.targetFor_badBits (h : a.toNat / 2 ^ 55 ≠ 0 ∨ a.toNat % 2 = 1) :
    s.targetFor w lines a = .error ⟨Cause.badTarget, a⟩ ∧ s.fetchedFor w a = s :=
  ⟨if_pos ((badTarget_iff a).mpr h), if_pos ((badTarget_iff a).mpr h)⟩

section
variable (h1 : a.toNat < 2 ^ 55) (h2 : a.toNat % 2 = 0)
include h1 h2

theorem goodTarget : ¬(bits a 63 55 ≠ 0 ∨ a.getLsbD 0 = true) := by
  rw [badTarget_iff]
  omega

/-- R70, R291. A target in order is fetched, and its checks are those of the fetched line. -/
theorem State.targetFor_good : s.fetchedFor w a = s.walked w (lineAddr a) .fetch ∧
    s.targetFor w lines a = match s.fetchLine w lines a with
      | .error f => .error ⟨f.cause, a⟩
      | .ok (_, line) => ensure (decide (1 ≤ headIndex a) && decide (headIndex a ≤ lineHeads line)) Cause.badTarget a :=
  ⟨if_neg (goodTarget h1 h2), (if_neg (goodTarget h1 h2)).trans rfl⟩

/-- R70. A line that does not translate fails the target with the translation's cause. -/
theorem State.targetFor_untranslated {f : Fail} (ht : s.translate w (lineAddr a) .fetch = .error f) :
    s.targetFor w lines a = .error ⟨f.cause, a⟩ ∧ s.fetchedFor w a = s := by
  obtain ⟨hfetched, hchecks⟩ := State.targetFor_good (s := s) (w := w) (lines := lines) h1 h2
  have hline : s.fetchLine w lines a = .error f := by rw [State.fetchLine, ht]; rfl
  rw [hline] at hchecks
  exact ⟨hchecks, hfetched.trans (State.walked_error ht)⟩

section
variable {u : State} {l : Loc} {sl : Bool} (ht : s.translate w (lineAddr a) .fetch = .ok (u, l, sl))
include ht

/-- R62, R70, R381. A line that translates is stopped by a fence, then by its header, then by its head index. -/
theorem State.targetFor_translated : s.fetchedFor w a = u ∧ s.targetFor w lines a =
    if u.homeFenced l = true then .error ⟨Cause.linkDown, a⟩
    else if lineFramed (u.chooseLine (SMap.find lines (lineKey l)) l) = false then .error ⟨Cause.illegalLine, a⟩
    else if 1 ≤ a.toNat / 2 % 32 ∧ a.toNat / 2 % 32 ≤ lineHeads (u.chooseLine (SMap.find lines (lineKey l)) l) then .ok ()
    else .error ⟨Cause.badTarget, a⟩ := by
  obtain ⟨hfetched, hchecks⟩ := State.targetFor_good (s := s) (w := w) (lines := lines) h1 h2
  refine ⟨hfetched.trans (State.walked_ok ht), hchecks.trans ?_⟩
  have hline : s.fetchLine w lines a = (ensure (!u.homeFenced l) Cause.linkDown a >>= fun _ =>
      ensure (lineFramed (u.chooseLine (SMap.find lines (lineKey l)) l)) Cause.illegalLine a >>= fun _ =>
        .ok ({ u with freeN := u.freeN + 1 }, u.chooseLine (SMap.find lines (lineKey l)) l)) := by
    rw [State.fetchLine, ht]; rfl
  rw [hline, ensure_bind, ensure_bind]
  generalize u.chooseLine (SMap.find lines (lineKey l)) l = line
  cases hf : u.homeFenced l with
  | true => rfl
  | false =>
    cases hframed : lineFramed line with
    | false => rfl
    | true =>
      change ensure (decide (1 ≤ a.toNat / 2 % 32) && decide (a.toNat / 2 % 32 ≤ lineHeads line)) Cause.badTarget a = _
      simp only [← Bool.decide_and, ensure_eq, decide_eq_false_iff_not, ite_not]
      rfl
end
end

/-- R70. Whichever check fails, TRAPVAL holds the target. -/
theorem State.val_of_targetFor {f : Fail} (h : s.targetFor w lines a = .error f) : f.val = a := by
  unfold State.targetFor at h
  split at h
  · cases h; rfl
  · split at h
    · cases h; rfl
    · rw [ensure_eq] at h
      split at h <;> cases h
      rfl
end

/-! ## The transfers (R69, R70, R123 to R125) -/

section
variable {s : State}

/-- R70, R291. A transfer goes on from the state that the fetch of its target leaves, or traps there at its own head. -/
theorem State.finishTarget_transfer (tgt : Word) (f : State → State) :
    (s.checkTarget s.cur tgt = .ok () →
      s.finishTarget tgt (s.transfer tgt f) = .next ((f (s.targetTouched s.cur tgt)).jump tgt)) ∧
    ∀ e, s.checkTarget s.cur tgt = .error e → s.finishTarget tgt (s.transfer tgt f) =
      .next ((s.targetTouched s.cur tgt).takeTrap s.cur ⟨e.cause, s.me.pc, tgt, s.openProg⟩) := by
  refine ⟨fun h => ?_, fun e h => ?_⟩
  · rw [State.transfer, h]; rfl
  · have hval : e.val = tgt := State.val_of_targetFor h
    rw [State.transfer, h, ← hval]; rfl

/-- R124. A call's link, on the state that the fetch of its target leaves. -/
theorem State.link_targetTouched (d : BitVec 5) (tgt : Word) :
    (s.targetTouched s.cur tgt).link d = (s.targetTouched s.cur tgt).setX d (s.me.nextHead s.me.pc) := by
  rw [State.link, State.targetTouched, State.me_fetchedFor]

/-- R123. The conditional branches, with their conditions. -/
def branchForms (s : State) (a b : BitVec 5) (o : BitVec 16) : List (Instr × Bool) :=
  [ (Instr.beq a b o, decide (s.x a = s.x b)), (.bne a b o, decide (s.x a ≠ s.x b)), (.blt a b o, decide ((s.x a).toInt < (s.x b).toInt))
  , (.bge a b o, decide ((s.x b).toInt ≤ (s.x a).toInt)), (.bltu a b o, decide ((s.x a).toNat < (s.x b).toNat))
  , (.bgeu a b o, decide ((s.x b).toNat ≤ (s.x a).toNat)) ]

/-- R123. Each of them goes to its target where its condition holds, and else completes. -/
theorem exec_branchForms (a b : BitVec 5) (o : BitVec 16) : ∀ p ∈ branchForms s a b o, exec p.1 s =
    s.finishTarget (s.relTarget o) (if p.2 = true then s.transfer (s.relTarget o) id else .ok s.advance) := by
  simp only [branchForms, List.forall_mem_cons]
  refine ⟨rfl, ?_, rfl, rfl, rfl, rfl, List.forall_mem_nil _⟩
  rw [decide_not]
  rfl

/-- R125. The transfers to a register's address. -/
theorem exec_jumps (d a : BitVec 5) : exec (.jmpr a) s = s.jumpReg a id ∧ exec (.callr d a) s = s.jumpReg a (·.link d) ∧
    exec (.ret a) s = s.jumpReg a id := ⟨rfl, rfl, rfl⟩

section
variable {a : BitVec 5}

/-- R125. An untagged register, or a capability with the right to go there, makes a transfer. -/
theorem State.jumpReg_passes (f : State → State) (h : (s.g a).tag = false ∨
    (checkCapRights (s.g a) s.me.dom s.me.priv .transfer (s.x a) = .ok () ∧ (s.g a).covers (s.x a).toNat 2 = true)) :
    s.jumpReg a f = s.finishTarget (s.x a) (s.transfer (s.x a) f) := by
  have hpass : s.checkJump a = .ok () := by
    rw [State.checkJump]
    rcases h with h | ⟨hr, hc⟩
    · rw [h]; rfl
    · change (if (s.g a).tag = true then s.check (checkCapRights (s.g a) s.me.dom s.me.priv .transfer (s.x a) >>= fun _ =>
        ensure ((s.g a).covers (s.x a).toNat 2) Cause.capBounds (s.x a)) (s.regProg a) else .ok ()) = _
      rw [hr, hc, ite_eq_right_iff]
      exact fun _ => rfl
  rw [State.jumpReg, hpass]

/-- R92, R125. A capability without the right traps with the check's cause, before its target is looked at. -/
theorem State.jumpReg_fails (f : State → State) (ht : (s.g a).tag = true) {e : Fail}
    (h : (checkCapRights (s.g a) s.me.dom s.me.priv .transfer (s.x a) >>= fun _ =>
      ensure ((s.g a).covers (s.x a).toNat 2) Cause.capBounds (s.x a)) = .error e) :
    s.jumpReg a f = .next (s.takeTrap s.cur ⟨e.cause, s.me.pc, e.val, s.regProg a⟩) := by
  have hfail : s.checkJump a = .error ⟨e.cause, s.me.pc, e.val, s.regProg a⟩ := by
    change (if (s.g a).tag = true then s.check (checkCapRights (s.g a) s.me.dom s.me.priv .transfer (s.x a) >>= fun _ =>
      ensure ((s.g a).covers (s.x a).toNat 2) Cause.capBounds (s.x a)) (s.regProg a) else .ok ()) = _
    rw [if_pos ht, h]
    rfl
  rw [State.jumpReg, hfail]

/-- R92. The checks of a capability's rights name the address. -/
theorem val_of_checkCapRights {r : Reg} {dom : BitVec 6} {priv : Bool} {k : CapUse} {addr : Word} {e : Fail}
    (h : checkCapRights r dom priv k addr = .error e) : e.val = addr := by
  simp only [checkCapRights, ensure_eq] at h
  repeat' split at h
  all_goals cases h
  all_goals rfl
end
end

/-! ## The frame of the transfers (R68 to R70, R95, R291) -/

/-- Where a trap is taken on the state that a walk leaves. -/
theorem OnlyWalk.frame_trap {s u : State} {a : Word} {k : Access} (h : OnlyWalk (s.who s.cur) s u a k) (t : Trap) :
    OnlyTrap s.me (u.takeTrap s.cur t).me ∧ SameButTrapWalks s (u.takeTrap s.cur t) a k := by
  obtain ⟨ok, hu, -⟩ := u.takeTrap_eq s.cur t
  have hctx : u.ctx s.cur = s.me := h.ctx s.cur
  have hreader : u.trapReader s.cur = s.trapReader s.cur := by simp only [State.trapReader, State.who, h.ctx]
  rw [hctx, hreader] at hu
  have hcur : (u.fetchedFor (s.trapReader s.cur) s.me.tvec).cur = s.cur := (State.cur_fetchedFor _ _ _).trans h.cur
  have hme : (u.takeTrap s.cur t).me = s.me.trapped s.cur.slot t ok := by
    rw [hu, State.me_eq, State.setCtx_cur, hcur, State.ctx_setCtx_self]
  refine ⟨?_, u, h.sameButWalkOf, h.me, ?_⟩
  · rw [hme]; exact Ctx.onlyTrap_trapped _ _ _ _
  · rw [hu, ← h.cur]
    exact (u.onlyWalk_fetchedFor _ _).sameButWalkOf_setCtx _

/-- A context after a transfer: a register written, and the program counter at the target. -/
def Ctx.transferred (x : Ctx) (d : BitVec 5) (r : Reg) (tgt : Word) : Ctx :=
  { x.setReg d.toNat r with pc := tgt, waiting := false }

theorem Ctx.onlyRegister_transferred (x : Ctx) (d : BitVec 5) (r : Reg) (tgt : Word) : OnlyRegister d x (x.transferred d r tgt) := by
  refine ⟨?_, fun n hn => Ctx.reg_setReg_ne _ _ hn⟩
  rw [Ctx.transferred, Ctx.setReg_rest]

/-- R24, R68 to R70. What a transfer leaves: it completes with at most its register and the program counter changed beside its target's
walk, or it traps. -/
def Transferred (s t : State) (d : BitVec 5) (tgt : Word) : Prop :=
  (OnlyRegister d s.me t.me ∧ SameButWalk s t (lineAddr tgt) .fetch) ∨ (OnlyTrap s.me t.me ∧ SameButTrapWalks s t (lineAddr tgt) .fetch)

section
variable {s t : State} {d : BitVec 5} {tgt : Word} {f : State → State}

/-- A change of the current context's register and program counter, on the state that the fetch of a target leaves. -/
theorem State.transferred_targetTouched (s : State) (d : BitVec 5) (r : Reg) (tgt pc : Word) :
    Transferred s ((s.targetTouched s.cur tgt).setCtx s.cur (s.me.transferred d r pc)) d tgt := by
  have hwalk := s.onlyWalk_fetchedFor (s.who s.cur) tgt
  have hme : ((s.targetTouched s.cur tgt).setCtx s.cur (s.me.transferred d r pc)).me = s.me.transferred d r pc := by
    rw [State.me_eq, State.setCtx_cur, State.targetTouched, State.cur_fetchedFor, State.ctx_setCtx_self]
  refine .inl ⟨?_, hwalk.sameButWalkOf_setCtx _⟩
  rw [hme]
  exact Ctx.onlyRegister_transferred _ _ _ _

/-- What stands beside the jump of a transfer: nothing, or a link. -/
def Links (s : State) (d : BitVec 5) (tgt : Word) (f : State → State) : Prop :=
  ∃ r, (f (s.targetTouched s.cur tgt)).jump tgt = (s.targetTouched s.cur tgt).setCtx s.cur (s.me.transferred d r tgt)

theorem State.links_id (s : State) (tgt : Word) : Links s 0 tgt id :=
  ⟨Reg.zero, by rw [id, State.jump_eq, State.targetTouched, State.cur_fetchedFor, State.me_fetchedFor]; rfl⟩

theorem State.links_link (s : State) (d : BitVec 5) (tgt : Word) : Links s d tgt (·.link d) := by
  refine ⟨Reg.plain (s.me.nextHead s.me.pc), ?_⟩
  change ((s.targetTouched s.cur tgt).link d).jump tgt = _
  rw [State.link_targetTouched, State.setX, State.setG_eq, State.jump_eq, State.setCtx_cur, State.me_setCtx_cur, State.setCtx_setCtx,
    State.targetTouched, State.cur_fetchedFor, State.me_fetchedFor]
  rfl

theorem State.transferred_finishTarget (hf : Links s d tgt f) (h : s.finishTarget tgt (s.transfer tgt f) = .next t) :
    Transferred s t d tgt := by
  obtain ⟨hok, herr⟩ := State.finishTarget_transfer (s := s) tgt f
  cases hc : s.checkTarget s.cur tgt with
  | ok _ =>
    obtain ⟨r, hr⟩ := hf
    rw [hok hc, hr] at h
    cases h
    exact s.transferred_targetTouched d r tgt tgt
  | error e =>
    rw [herr e hc] at h
    cases h
    exact .inr ((s.onlyWalk_fetchedFor (s.who s.cur) tgt).frame_trap _)

/-- R123. A conditional branch, taken or not. -/
theorem exec_branchForms_frame {a b : BitVec 5} {o : BitVec 16} : ∀ p ∈ branchForms s a b o, exec p.1 s = .next t →
    Transferred s t 0 (s.relTarget o) := by
  intro p hp h
  rw [exec_branchForms a b o p hp] at h
  split at h
  · exact State.transferred_finishTarget (s.links_id _) h
  · cases h
    refine .inl ⟨?_, (OnlyWalk.refl s _ _ _).sameButWalkOf_setCtx _⟩
    rw [State.advance_eq, State.me_setCtx_cur]
    exact ⟨rfl, fun _ _ => rfl⟩

/-- R123. A conditional branch that is not taken completes. -/
theorem exec_branchForms_untaken {a b : BitVec 5} {o : BitVec 16} : ∀ p ∈ branchForms s a b o, p.2 = false →
    exec p.1 s = .next s.advance := by
  intro p hp hn
  rw [exec_branchForms a b o p hp, hn]
  rfl

/-- R125. A transfer to a register's address. -/
theorem State.transferred_jumpReg {a : BitVec 5} (hf : Links s d (s.x a) f) (h : s.jumpReg a f = .next t) :
    Transferred s t d (s.x a) := by
  unfold State.jumpReg at h
  split at h
  · cases h
    exact .inr ((OnlyWalk.refl s _ _ _).frame_trap _)
  · exact State.transferred_finishTarget hf h
end

end Sys2Proof.Machine

/-! ## What is settled of the transfers -/

namespace Sys2Proof.Proofs

open Sys2Proof.Machine

/-- Settles O20: the target's bits, the translation of its line, and the checks of the line in their order. -/
theorem targetChecks : Obligations.TargetChecks := by
  refine fun s c a => ⟨State.targetFor_badBits, fun h1 h2 => ⟨fun f => State.targetFor_untranslated h1 h2, fun u l sl ht => ?_⟩⟩
  obtain ⟨htouched, hchecks⟩ := State.targetFor_translated (lines := (s.ctx c).lines) h1 h2 ht
  have hlines : (u.ctx c).lines = (s.ctx c).lines := by rw [(State.onlyWalk_of_translate ht).ctx]
  dsimp only
  rw [hlines]
  refine ⟨htouched, fun hf => hchecks.trans (if_pos hf), fun hf hl => ?_, fun hf hl => ?_⟩
  · rw [State.checkTarget, hchecks, hf, hl]; rfl
  · rw [State.checkTarget, hchecks, hf, hl]; rfl

/-- Settles O19: a branch that is not taken, the transfers by whether their target passes, and the capabilities without the right. -/
theorem branchResults : Obligations.BranchResults := by
  intro s d a b o o32
  have goes {i : Instr} {tgt : Word} {f g : State → State} (hi : exec i s = s.finishTarget tgt (s.transfer tgt f))
      (hg : f (s.targetTouched s.cur tgt) = g (s.targetTouched s.cur tgt)) :
      (s.checkTarget s.cur tgt = .ok () → exec i s = .next ((g (s.targetTouched s.cur tgt)).jump tgt)) ∧
        ∀ e, s.checkTarget s.cur tgt = .error e →
          ∃ prog, exec i s = .next ((s.targetTouched s.cur tgt).takeTrap s.cur ⟨e.cause, s.me.pc, tgt, prog⟩) := by
    rw [hi, ← hg]
    obtain ⟨hok, herr⟩ := State.finishTarget_transfer (s := s) tgt f
    exact ⟨hok, fun e he => ⟨_, herr e he⟩⟩
  let link : State → State := fun u => u.setX d (s.me.nextHead s.me.pc)
  have hlink {tgt} : (s.targetTouched s.cur tgt).link d = link (s.targetTouched s.cur tgt) := State.link_targetTouched d tgt
  obtain ⟨hjmpr, hcallr, hret⟩ := exec_jumps (s := s) d a
  refine ⟨fun p hp => ⟨exec_branchForms_untaken p hp, fun ht => goes (f := id) (g := id) ?_ rfl⟩,
    goes (f := id) (g := id) rfl rfl, goes (f := (·.link d)) (g := link) rfl hlink,
    fun h => ⟨goes (g := id) (hjmpr.trans (State.jumpReg_passes id h)) rfl,
      goes (g := link) (hcallr.trans (State.jumpReg_passes _ h)) hlink,
      goes (g := id) (hret.trans (State.jumpReg_passes id h)) rfl⟩, fun p hp ht => ?_⟩
  · rw [exec_branchForms a b o p hp, ht]; rfl
  · have hreg : ∃ f, exec p s = s.jumpReg a f := by
      simp only [List.mem_cons, List.not_mem_nil, or_false] at hp
      rcases hp with rfl | rfl | rfl
      · exact ⟨_, hjmpr⟩
      · exact ⟨_, hcallr⟩
      · exact ⟨_, hret⟩
    obtain ⟨f, hf⟩ := hreg
    refine ⟨fun e he => ⟨s.regProg a, ?_⟩, fun hr hc => ⟨s.regProg a, ?_⟩⟩
    · rw [hf, State.jumpReg_fails f ht (e := e) (by rw [he]; rfl), val_of_checkCapRights he]
    · rw [hf, State.jumpReg_fails f ht (e := ⟨Cause.capBounds, s.x a⟩) (by rw [hr, hc]; rfl)]
      rfl

/-- Settles O21: a transfer that completes changes its context on what its target's walk leaves, one that traps takes its trap there. -/
theorem transferFrame : Obligations.TransferFrame := by
  intro s t d a b o o32
  have hbranch := exec_branchForms_frame (s := s) (t := t) (a := a) (b := b) (o := o)
  simp only [branchForms, List.forall_mem_cons] at hbranch
  obtain ⟨hbeq, hbne, hblt, hbge, hbltu, hbgeu, -⟩ := hbranch
  have hfar (d : BitVec 5) (f : State → State) (hf : Links s d (s.relTarget o32) f)
      (h : s.finishTarget (s.relTarget o32) (s.transfer (s.relTarget o32) f) = .next t) := State.transferred_finishTarget hf h
  have hreg (d : BitVec 5) (f : State → State) (hf : Links s d (s.x a) f) (h : s.jumpReg a f = .next t) :=
    State.transferred_jumpReg hf h
  refine ⟨?_, ?_, fun p hp hn h => ?_⟩
  · simp only [List.forall_mem_cons]
    exact ⟨hbeq, hbne, hblt, hbge, hbltu, hbgeu, hfar 0 id (s.links_id _), hreg 0 id (s.links_id _), hreg 0 id (s.links_id _),
      List.forall_mem_nil _⟩
  · simp only [List.forall_mem_cons]
    exact ⟨hfar d _ (s.links_link d _), hreg d _ (s.links_link d _), List.forall_mem_nil _⟩
  · rw [exec_branchForms_untaken p hp hn] at h
    cases h
    rw [State.advance_eq, State.me_setCtx_cur]
    exact ⟨⟨rfl, fun _ _ => rfl⟩, s.sameElsewhere_setCtx _, s.sameBytes_setCtx _ _⟩

end Sys2Proof.Proofs

/-! ## Fences and waits (R72, R97, R98, R104, R233) -/

namespace Sys2Proof.Machine

section
variable {s : State}

theorem State.waitFor_eq (s : State) (b : Bool) (done : State) : s.waitFor b done = if b = true then done else s.hold := rfl

theorem ite_not_eq_true {α : Type} (b : Bool) (x y : α) : (if (!b) = true then x else y) = if b = true then y else x := by
  cases b <;> rfl

/-- R72. IFENCE waits for the context's stores. -/
theorem exec_ifence_eq : exec .ifence s = .next (if s.me.writesPending = true then s.hold
    else s.advance.modMe (fun c => { c with lines := [], lineVa := noLine })) :=
  congrArg Host.Outcome.next (ite_not_eq_true _ _ _)

/-- R233. SHFENCE waits for the context's stores. -/
theorem exec_shfence_eq : exec .shfence s = .next (if s.me.writesPending = true then s.hold
    else s.advance.modMyCore (fun k => { k with recCache := [] })) :=
  congrArg Host.Outcome.next (ite_not_eq_true _ _ _)

/-- R104. XFENCE waits for the engine operations too. -/
theorem exec_xfence_eq : exec .xfence s = .next (if s.enginesDone = true ∧ s.me.writesPending = false then s.advance else s.hold) := by
  change Host.Outcome.next (s.waitFor _ _) = _
  simp only [State.waitFor_eq, Bool.and_eq_true, Bool.not_eq_true']

/-- R104, R154. VSYNC waits for the sequencer, and the window of VLOOP begins anew. -/
theorem exec_vsync_running (hh : s.helper = false) (hv : s.myCore.vsqSusp = false) : exec .vsync s = .next
    (if s.myCore.seq = [] then s.advance.modMyCore (fun k => { k with window := [] }) else s.hold) := by
  change s.controlOnly _ = _
  rw [State.controlOnly_control _ hh, State.needOperand_bind_true (by rw [hv]; rfl), State.finish_ok]
  simp only [State.waitFor_eq, List.isEmpty_iff]

/-- R98. A count within its bound; 15 places none. -/
theorem withinBound_iff (n : Nat) (b : BitVec 4) : withinBound n b = true ↔ b = 15 ∨ n ≤ b.toNat := by
  simp [withinBound]

/-- R98. What a WAIT waits for. -/
def State.waitOver (s : State) (ld st cp tl : BitVec 4) : Prop :=
  (ld = 15 ∨ s.me.cntLoad ≤ ld.toNat) ∧ (st = 15 ∨ s.me.cntStore ≤ st.toNat) ∧ (cp = 15 ∨ s.me.cntCopy ≤ cp.toNat) ∧
    (s.helper = true ∨ tl = 15 ∨ s.tileCount ≤ tl.toNat)

/-- R98. A helper has no bound on tiles. -/
theorem State.tileBound_eq_iff (tl : BitVec 4) : s.tileBound tl = 15 ↔ tl = 15 ∨ s.helper = true := by
  cases h : s.helper <;> simp [State.tileBound, h]

theorem State.tileBound_within_iff (tl : BitVec 4) :
    withinBound s.tileCount (s.tileBound tl) = true ↔ s.helper = true ∨ tl = 15 ∨ s.tileCount ≤ tl.toNat := by
  cases h : s.helper <;> simp [State.tileBound, h, withinBound_iff]

/-- R97, R98. WAIT, where no engine that it waits for is suspended, completes once every count is within its bound. -/
theorem exec_wait_eq {ld st cp tl : BitVec 4} (hm : tl = 15 ∨ s.helper = true ∨ s.myCore.mxSusp = false)
    (hc : s.helper = true ∨ cp = 15 ∨ s.myCore.cpSusp = false) :
    (s.waitOver ld st cp tl → exec (.wait_ ld st cp tl) s = .next
      (if tl = 15 ∨ s.helper = true then s.advance else s.advance.modMe Ctx.mergePending)) ∧
    (¬s.waitOver ld st cp tl → exec (.wait_ ld st cp tl) s = .next s.hold) := by
  have htile : (s.tileBound tl == 15 || !s.myCore.mxSusp) = true := by
    rw [Bool.or_eq_true, beq_iff_eq, State.tileBound_eq_iff, Bool.not_eq_true', or_assoc]
    exact hm
  have hcopy : (s.helper || cp == 15 || !s.myCore.cpSusp) = true := by
    simp only [Bool.or_eq_true, beq_iff_eq, Bool.not_eq_true', or_assoc]
    exact hc
  have hover : (withinBound s.me.cntLoad ld && withinBound s.me.cntStore st && withinBound s.me.cntCopy cp &&
      withinBound s.tileCount (s.tileBound tl)) = true ↔ s.waitOver ld st cp tl := by
    rw [Bool.and_eq_true, State.tileBound_within_iff]
    simp only [Bool.and_eq_true, withinBound_iff, and_assoc, State.waitOver]
  have hexec : exec (.wait_ ld st cp tl) s = .next (s.waitFor (withinBound s.me.cntLoad ld && withinBound s.me.cntStore st &&
      withinBound s.me.cntCopy cp && withinBound s.tileCount (s.tileBound tl))
      (if tl = 15 ∨ s.helper = true then s.advance else s.advance.modMe Ctx.mergePending)) := by
    simp only [← State.tileBound_eq_iff]
    change s.finish (s.needOperand _ _ >>= fun _ => s.needOperand _ _ >>= fun _ => .ok _) = _
    rw [State.needOperand_bind_true htile, State.needOperand_bind_true hcopy, State.finish_ok]
  rw [hexec]
  exact ⟨fun h => congrArg Host.Outcome.next (if_pos (hover.mpr h)), fun h => congrArg Host.Outcome.next (if_neg (mt hover.mp h))⟩
end

/-! ## Software traps and traps at decode (R77, R78, R83, R104 to R107) -/

section
variable {s : State}

/-- R107. TRAP and SYSCALL. -/
theorem exec_trap_syscall (s : State) (i : BitVec 16) : exec (.trap i) s = .next (s.takeTrap s.cur ⟨0x70, s.me.pc, i.setWidth 64, 0⟩) ∧
    exec (.syscall i) s = .next (s.takeTrap s.cur ⟨0x71, s.me.pc, i.setWidth 64, 0⟩) := ⟨rfl, rfl⟩

/-- R104. BREAK stops the core or traps. -/
theorem exec_break_eq : exec .break_ s = .next (if s.me.dbgctl = true then s.modMyCore (fun k => { k with broken := true })
    else s.takeTrap s.cur ⟨0x70, s.me.pc, BitVec.allOnes 64, s.openProg⟩) := rfl

/-- R78. In a helper the instructions of the control context alone raise NOT_IN_HELPER. -/
theorem exec_controlForms_helper (hh : s.helper = true) (slot : BitVec 4) (n a b d : BitVec 5) (o : BitVec 16) :
    ∀ i ∈ [Instr.hstart slot a b o, .hjoin d n, .hstat d n, .hkill n, .vsync, .uiret],
      exec i s = .next (s.takeTrap s.cur ⟨0x06, s.me.ghead, s.me.ir, s.position⟩) := by
  have honly (m : Chk State) := State.controlOnly_helper m hh
  have htarget (tgt : Word) (m : Chk State) : s.controlTarget tgt m = _ := (State.controlOn_helper _ m hh).trans (honly m)
  simp only [List.forall_mem_cons]
  refine ⟨htarget _ _, honly _, honly _, honly _, honly _, ?_, List.forall_mem_nil _⟩
  change (if s.me.uia = true then _ else _) = _
  split
  · exact htarget _ _
  · exact honly _

/-- R104. HALT in user mode. -/
theorem exec_halt_user (hp : s.me.priv = false) : exec .halt s = .next (s.takeTrap s.cur ⟨0x05, s.me.ghead, s.me.ir, s.position⟩) :=
  State.privileged_user _ hp
end

/-! ## Returns from traps (R95, R100, R101, R104, R291) -/

section
variable {s : State}

/-- A change of a cluster that keeps its memory keeps every memory. -/
theorem State.memory_modCluster (s : State) {n : Nat} {f : Cluster → Cluster} (h : (f (s.cluster n)).mem = (s.cluster n).mem) (sp : Space) :
    (s.modCluster n f).memory sp = s.memory sp := by
  cases sp with
  | cmem m =>
    change ((s.modCluster n f).cluster m).mem = (s.cluster m).mem
    by_cases hm : m = n
    · rw [hm, State.cluster_modCluster_self, h]
    · rw [State.cluster_modCluster_ne _ _ hm]
  | main => rfl
  | host => rfl
  | spad m => rfl

/-- A change of a core that keeps its scratchpad keeps every memory. -/
theorem State.memory_modCore (s : State) {n : Nat} {f : Core → Core} (h : (f (s.core n)).spad = (s.core n).spad) (sp : Space) :
    (s.modCore n f).memory sp = s.memory sp := by
  cases sp with
  | spad m =>
    change ((s.modCore n f).core m).spad = (s.core m).spad
    by_cases hm : m = n
    · rw [hm, State.modCore_eq, State.core_setCore_self, h]
    · rw [State.modCore_eq, State.core_setCore_ne _ _ hm]
  | main => rfl
  | host => rfl
  | cmem m => rfl

/-- R5, R191. A wake request for a core's queue changes no memory and no context. -/
theorem State.wakeForQueue_frame (s : State) (core : Nat) :
    (∀ sp, (s.wakeForQueue core).memory sp = s.memory sp) ∧ (s.wakeForQueue core).me = s.me := by
  unfold State.wakeForQueue
  split
  · refine ⟨s.memory_modCluster ?_, rfl⟩
    split <;> rfl
  · exact ⟨fun _ => rfl, rfl⟩

/-- R154, R189, R244. Engines that resume change neither the scratchpad nor a context of their core. -/
theorem Core.resumeEngines_frame (k : Core) (x : Ctx) : (k.resumeEngines x).spad = k.spad ∧ (k.resumeEngines x).ctxs = k.ctxs := by
  simp only [Core.resumeEngines, Core.resumeCopies]
  constructor <;> split <;> split <;> split <;> rfl

/-- R104. ERET, but to the contexts that a resident handler restores. -/
theorem exec_eret_returns (hp : s.me.priv = true) (hb : s.helper = true ∨ s.myCore.preempted = false ∨ s.me.depth ≠ 0)
    (ht : s.checkTarget s.cur s.me.trapPc = .ok ()) : ∃ t, exec .eret s = .next t ∧ t.me = s.me.leaveTrap s.cur.slot ∧
      ∀ sp, t.memory sp = (s.targetTouched s.cur s.me.trapPc).memory sp := by
  have hbank : ¬((!s.me.priv || (!s.helper && s.myCore.preempted && s.me.depth == 0)) = true) := by
    rw [hp]
    rcases hb with h | h | h <;> simp [h]
  let v := (s.targetTouched s.cur s.me.trapPc).modMe (·.leaveTrap s.cur.slot)
  have hv : v.me = s.me.leaveTrap s.cur.slot := by rw [State.me_modMe, State.targetTouched, State.me_fetchedFor]
  have hmem (sp : Space) : v.memory sp = (s.targetTouched s.cur s.me.trapPc).memory sp := State.memory_setCtx _ _ _ _
  have hexec : exec .eret s = .next (if s.helper = true then v else (v.modMyCore (·.resumeEngines s.me)).wakeForQueue s.cur.core) := by
    change (if _ then _ else _) = _
    rw [if_neg hbank, State.finishTarget, ht]
    rfl
  refine ⟨_, hexec, ?_⟩
  split
  · exact ⟨hv, hmem⟩
  · obtain ⟨hspad, hctxs⟩ := Core.resumeEngines_frame v.myCore s.me
    obtain ⟨hmemory, hme⟩ := (v.modMyCore (·.resumeEngines s.me)).wakeForQueue_frame s.cur.core
    refine ⟨hme.trans ?_, fun sp => (hmemory sp).trans ?_⟩
    · exact (State.ctx_modCore v hctxs v.cur.slot).trans hv
    · exact (v.memory_modCore hspad sp).trans (hmem sp)

/-- R104. ERET in user mode. -/
theorem exec_eret_user (hp : s.me.priv = false) : exec .eret s = .next (s.takeTrap s.cur ⟨0x05, s.me.ghead, s.me.ir, s.position⟩) := by
  have hbank : (!s.me.priv || (!s.helper && s.myCore.preempted && s.me.depth == 0)) = true := by rw [hp]; rfl
  change (if _ then _ else _) = _
  rw [if_pos hbank, State.privileged_user _ hp]
  rfl

/-- Registers copied under numbers from a base on. -/
theorem getD_foldl_set (f : Nat → Reg) (b : Nat) (l : List Nat) (m : SMap Reg) (n : Nat) (z : Reg) :
    SMap.getD (l.foldl (fun m k => SMap.set m (b + k) (f k)) m) n z = if ∃ k ∈ l, b + k = n then f (n - b) else SMap.getD m n z := by
  induction l generalizing m with
  | nil => simp
  | cons k l ih =>
    rw [List.foldl_cons, ih]
    by_cases hl : ∃ j ∈ l, b + j = n
    · have hcons : ∃ j ∈ k :: l, b + j = n := by obtain ⟨j, hj, hn⟩ := hl; exact ⟨j, List.mem_cons_of_mem _ hj, hn⟩
      rw [if_pos hl, if_pos hcons]
    · rw [if_neg hl]
      by_cases hk : b + k = n
      · rw [if_pos ⟨k, List.mem_cons_self, hk⟩, ← hk, SMap.getD_set_self, Nat.add_sub_cancel_left]
      · have hcons : ¬∃ j ∈ k :: l, b + j = n := by
          rintro ⟨j, hj, hn⟩
          rcases List.mem_cons.mp hj with rfl | hj
          · exact hk hn
          · exact hl ⟨j, hj, hn⟩
        rw [if_neg hcons, SMap.getD_set_ne _ _ _ (Ne.symm hk)]

/-- R100. Swapping the banks exchanges g24 to g31 with the other bank and leaves the registers below. -/
theorem Ctx.swapBanks_regs (c : Ctx) : (∀ n < 24, c.swapBanks.reg n = c.reg n) ∧ ∀ k < 8,
    c.swapBanks.reg (24 + k) = SMap.getD c.shadow (24 + k) Reg.zero ∧
      SMap.getD c.swapBanks.shadow (24 + k) Reg.zero = SMap.getD c.regs (24 + k) Reg.zero := by
  have hin {k : Nat} (hk : k < 8) : ∃ j ∈ List.range 8, 24 + j = 24 + k := ⟨k, List.mem_range.mpr hk, rfl⟩
  refine ⟨fun n hn => ?_, fun k hk => ⟨?_, ?_⟩⟩
  · have hout : ¬∃ j ∈ List.range 8, 24 + j = n := by rintro ⟨j, -, hj⟩; omega
    simp only [Ctx.swapBanks, Ctx.reg, getD_foldl_set (fun k => SMap.getD c.shadow (24 + k) Reg.zero), if_neg hout]
  · have hz : 24 + k ≠ 0 := by omega
    simp only [Ctx.swapBanks, Ctx.reg, getD_foldl_set (fun k => SMap.getD c.shadow (24 + k) Reg.zero), if_neg hz, if_pos (hin hk),
      Nat.add_sub_cancel_left]
  · simp only [Ctx.swapBanks, getD_foldl_set (fun k => SMap.getD c.regs (24 + k) Reg.zero), if_pos (hin hk), Nat.add_sub_cancel_left]

/-- R101. The context that UIRET leaves. -/
theorem Ctx.leaveUser_fields (c : Ctx) : c.leaveUser.pc = (c.reg 30).word ∧ c.leaveUser.uia = false ∧ c.leaveUser.priv = c.priv ∧
    c.leaveUser.regs = c.swapBanks.regs ∧ c.leaveUser.shadow = c.swapBanks.shadow := ⟨rfl, rfl, rfl, rfl, rfl⟩

/-- The registers of two contexts agree where their maps do. -/
theorem Ctx.reg_congr {x y : Ctx} (h : x.regs = y.regs) (n : Nat) : x.reg n = y.reg n := by
  rw [Ctx.reg, Ctx.reg, h]

/-- R101. UIRET in a user handler. -/
theorem exec_uiret_returns (hh : s.helper = false) (hu : s.me.uia = true)
    (ht : s.checkTarget s.cur (s.me.reg 30).word = .ok ()) :
    exec .uiret s = .next ((s.targetTouched s.cur (s.me.reg 30).word).setCtx s.cur s.me.leaveUser) := by
  have hmod : (s.targetTouched s.cur (s.me.reg 30).word).modMe Ctx.leaveUser =
      (s.targetTouched s.cur (s.me.reg 30).word).setCtx s.cur s.me.leaveUser := by
    rw [State.modMe_eq, State.targetTouched, State.cur_fetchedFor, State.me_fetchedFor]
  change (if s.me.uia = true then _ else _) = _
  rw [if_pos hu, State.controlTarget, State.controlOn_control _ _ hh, ht, ← hmod]
  rfl
end

end Sys2Proof.Machine

/-! ## What is settled of context control -/

namespace Sys2Proof.Proofs

open Sys2Proof.Machine

/-- Settles O22: each completes once its condition holds and else is held. -/
theorem fencesAndWaits : Obligations.FencesAndWaits := fun _ _ _ _ _ =>
  ⟨rfl, exec_ifence_eq, exec_shfence_eq, exec_xfence_eq, exec_vsync_running, fun hm hc =>
    exec_wait_eq hm hc⟩

/-- Settles O24: the software's traps and stops, and the traps of decode. -/
theorem softwareAndDecodeTraps : Obligations.SoftwareAndDecodeTraps :=
  ⟨fun s i _ => ⟨(exec_trap_syscall s i).1, (exec_trap_syscall s i).2, fun h => exec_break_eq.trans (congrArg Host.Outcome.next (if_pos h)),
      fun h => ⟨_, exec_break_eq.trans (congrArg Host.Outcome.next (if_neg (by rw [h]; decide)))⟩, rfl, rfl⟩,
    fun _ slot n a b d o => ⟨fun hh i hi => ⟨_, exec_controlForms_helper hh slot n a b d o i hi⟩, fun hp => ⟨_, exec_halt_user hp⟩⟩⟩

/-- Settles O25: ERET's context and memory, its trap in user mode, and UIRET's context with the banks exchanged. -/
theorem trapReturns : Obligations.TrapReturns := by
  refine fun s => ⟨fun hp hb ht => ?_, fun hp => ⟨_, exec_eret_user hp, rfl, rfl, rfl⟩, fun hh hu ht => ?_⟩
  · obtain ⟨t, hexec, hme, hmem⟩ := exec_eret_returns hp hb ht
    refine ⟨t, hexec, hme.trans ?_, fun sp x hx => ?_⟩
    · rw [State.helper, bne, Bool.not_not]; rfl
    · rw [hmem]
      exact s.sameBytesButWalk_fetchedFor _ _ sp x hx
  · obtain ⟨hlow, hbanks⟩ := s.me.swapBanks_regs
    obtain ⟨hpc, huia, hpriv, hregs, hshadow⟩ := s.me.leaveUser_fields
    have hme : ((s.targetTouched s.cur (s.me.reg 30).word).setCtx s.cur s.me.leaveUser).me = s.me.leaveUser := by
      rw [State.me_eq, State.setCtx_cur, State.targetTouched, State.cur_fetchedFor, State.ctx_setCtx_self]
    refine ⟨_, exec_uiret_returns hh hu ht, ?_⟩
    rw [hme, hshadow]
    refine ⟨rfl, hpc, huia, hpriv, fun n hn => ?_, fun k hk => ?_⟩
    · rw [Ctx.reg_congr hregs, hlow n hn]
    · rw [Ctx.reg_congr hregs]
      exact hbanks k hk

end Sys2Proof.Proofs

/-! ## The steps of a context itself (R71, R80 to R83, R100, R419, R424) -/

namespace Sys2Proof.Machine

section
variable {s : State}

/-- R419, R424. Which deferred traps are due. -/
theorem Ctx.dueTraps_eq (c : Ctx) : c.dueTraps = c.deferred.filter (fun e => decide (c.tokenDepth = 0) || e.cls != .abort) := by
  by_cases h : c.tokenDepth = 0 <;> simp [Ctx.dueTraps, h]

/-- R424. The next of the due traps is taken on the state whose wait is abandoned. -/
theorem exec_takeDeferredTrap_due {c : CtxId} {d : Deferred} (ht : (s.ctx c).takesDeferred = true)
    (hd : nextDeferred (s.ctx c).dueTraps = some d) : exec (.takeDeferredTrap c) s =
      .next (((s.abandonWait c).modCtx c (·.takeDeferred d)).takeTrap c { d.trap with pc := ((s.abandonWait c).ctx c).pc }) := by
  have hpc : (((s.abandonWait c).modCtx c (·.takeDeferred d)).ctx c).pc = ((s.abandonWait c).ctx c).pc := by
    rw [State.ctx_modCtx_self]; rfl
  rw [← hpc]
  change Host.Outcome.next (match if (s.ctx c).takesDeferred then nextDeferred (s.ctx c).dueTraps else none with
    | none => s
    | some d => _) = _
  rw [if_pos ht, hd]

/-- R100. The context in its user handler. -/
theorem Ctx.enterUser_fields (c : Ctx) : c.enterUser.uia = true ∧ c.enterUser.priv = false ∧ c.enterUser.pc = c.uivec ∧
    c.enterUser.reg 30 = Reg.plain c.pc :=
  ⟨rfl, rfl, rfl, Ctx.reg_setReg_self c.swapBanks _ (by decide)⟩

/-- R100. A due user handler whose entry passes its checks is entered. -/
theorem exec_enterUserHandler_passes {core : Nat} (ht : (s.ctx ⟨core, control⟩).takesUser = true)
    (hc : (s.abandonWait ⟨core, control⟩).checkTarget ⟨core, control⟩ (s.ctx ⟨core, control⟩).uivec = .ok ()) :
    exec (.enterUserHandler core) s =
      .next (((s.abandonWait ⟨core, control⟩).targetTouched ⟨core, control⟩ (s.ctx ⟨core, control⟩).uivec).modCtx ⟨core, control⟩
        Ctx.enterUser) := by
  change Host.Outcome.next (if (!(s.ctx ⟨core, control⟩).takesUser) = true then s else
    match (s.abandonWait ⟨core, control⟩).checkTarget ⟨core, control⟩ (s.ctx ⟨core, control⟩).uivec with
    | .error f => _
    | .ok () => _) = _
  rw [ht, hc]
  rfl

/-- R80 to R83. A head that is no instruction, first of its group. -/
theorem exec_reservedMajorIssue_first {w : Word} {sub : Nat} (hw : reservedSubcode w = some sub) (hg : s.me.gpos = 0) :
    exec (.reservedMajorIssue w) s = .next (s.takeTrap s.cur ⟨0x02, s.me.pc, w, BitVec.ofNat 64 sub⟩) := by
  change Host.Outcome.next (match reservedSubcode w with
    | none => s
    | some sub => _) = _
  rw [hw, hg]
  change Host.Outcome.next (s.takeTrap s.cur ⟨0x02, s.me.pc, w, BitVec.ofNat 64 sub + 0⟩) = _
  rw [show BitVec.ofNat 64 sub + 0 = BitVec.ofNat 64 sub from BitVec.add_zero _]

/-- R71. A context at head 1 of a line enters it. -/
theorem exec_sequentialLineEntry_first {c : CtxId} (hl : (s.ctx c).life = .live) (hh : (s.ctx c).halted = false)
    (hg : (s.ctx c).gpos = 0) (hi : headIndex (s.ctx c).pc = 1) : exec (.sequentialLineEntry c) s = .next (s.enterLine c).1 :=
  congrArg Host.Outcome.next (if_pos ⟨hl, by rw [hh]; rfl, hg, hi⟩)
end

end Sys2Proof.Machine

/-! ## The engine's instructions where they are refused (R78, R186, R188, R212, R246) -/

namespace Sys2Proof.Machine

section
variable {s : State}

/-- R195 to R202, R212. The instructions of the matrix and function engine. -/
def engineForms (t x d : BitVec 3) (a b c fmt : BitVec 5) (rb rd nm stride : BitVec 10) (n : BitVec 6) (cq pr : BitVec 2)
    (sat cvt : BitVec 1) (m : BitVec 13) (k : BitVec 12) : List Instr :=
  [ .wload t a, .mma t a rb cq, .mmasw t a rb cq, .accz nm rb, .accrd t rb cq sat pr, .accwr t rb cq, .acccp n rb rd
  , .tload t a b stride, .tstore t a b cvt fmt stride, .ttrans x t, .chadd d t x, .chsub d t x, .chmul d t x, .chcomp d t x
  , .chdiff d t, .chint d t, .chmov d t, .chfree d, .chlen a t, .chnorm a t, .chtrunc d t b, .chfit d a b m, .cheval a t b
  , .chroot a t b k, .chconst d a b c, .chx d a b, .chld d a b, .chst t a b, .chscal d t b ]

/-- R212. A function instruction issues to the engine. -/
theorem State.issueFn_issues (s : State) (i : Instr) (reads : List (BitVec 3)) (limits : Bool) (cap : Option (BitVec 5 × CapUse))
    (ra rb rc : Reg) : ∃ check, s.issueFn i reads limits cap ra rb rc = s.issueEngine check := ⟨_, rfl⟩

/-- R186. Each of them issues to the engine. -/
theorem exec_engineForms (s : State) (t x d : BitVec 3) (a b c fmt : BitVec 5) (rb rd nm stride : BitVec 10) (n : BitVec 6)
    (cq pr : BitVec 2) (sat cvt : BitVec 1) (m : BitVec 13) (k : BitVec 12) :
    ∀ i ∈ engineForms t x d a b c fmt rb rd nm stride n cq pr sat cvt m k, ∃ check, exec i s = s.issueEngine check := by
  simp only [engineForms, List.forall_mem_cons]
  have hfree : ∃ check, exec (.chfree d) s = s.issueEngine check := s.issueFn_issues (.chfree d) [] true none Reg.zero Reg.zero Reg.zero
  exact ⟨⟨_, rfl⟩, ⟨_, rfl⟩, ⟨_, rfl⟩, ⟨_, rfl⟩, ⟨_, rfl⟩, ⟨_, rfl⟩, ⟨_, rfl⟩, ⟨_, rfl⟩, ⟨_, rfl⟩, ⟨_, rfl⟩, ⟨_, rfl⟩, ⟨_, rfl⟩,
    ⟨_, rfl⟩, ⟨_, rfl⟩, ⟨_, rfl⟩, ⟨_, rfl⟩, ⟨_, rfl⟩, hfree, ⟨_, rfl⟩, ⟨_, rfl⟩, ⟨_, rfl⟩, ⟨_, rfl⟩, ⟨_, rfl⟩, ⟨_, rfl⟩,
    ⟨_, rfl⟩, ⟨_, rfl⟩, ⟨_, rfl⟩, ⟨_, rfl⟩, ⟨_, rfl⟩, List.forall_mem_nil _⟩

variable (check : MxChk State)

/-- R186. A suspended engine refuses what is issued to it. -/
theorem State.issueEngine_suspended (hh : s.helper = false) (hm : s.myCore.mxSusp = true) : s.issueEngine check =
    .next (s.takeTrap s.cur ⟨0x03, s.me.pc, 0x818, s.byteProg 0⟩) := by
  unfold State.issueEngine
  rw [State.controlOnly_control _ hh, hm]
  rfl

/-- R246. It waits for a PARK or UNPARK that is held. -/
theorem State.issueEngine_parked (hh : s.helper = false) (hm : s.myCore.mxSusp = false) (hp : s.myCore.parkBusy ≠ 0) :
    s.issueEngine check = .next s.hold := by
  have hheld : s.myCore.parkHeld = true := decide_eq_true (Nat.pos_of_ne_zero hp)
  unfold State.issueEngine
  rw [State.controlOnly_control _ hh, hm, hheld]
  rfl

/-- R96. A stated low byte of TRAPPROG. -/
theorem State.byteProg_zero (s : State) : (s.byteProg 0).setWidth 8 = (0 : BitVec 8) := by
  refine BitVec.eq_of_toNat_eq ?_
  rw [BitVec.toNat_setWidth]
  exact s.toNat_byteProg_mod 0
end

end Sys2Proof.Machine

/-! ## What is settled of a context's own steps and of refused engine instructions -/

namespace Sys2Proof.Proofs

open Sys2Proof.Machine

/-- Settles O27: a deferred trap, a user handler, a head that is no instruction, and the entry of a line. -/
theorem contextSteps : Obligations.ContextSteps := by
  refine ⟨fun s c d ht hd => ?_, fun s core ht hc => ?_, fun s w sub hw hg => exec_reservedMajorIssue_first hw hg,
    fun s c hl hh hg hi => exec_sequentialLineEntry_first hl hh hg hi⟩
  · rw [← Ctx.dueTraps_eq] at hd
    exact exec_takeDeferredTrap_due ht hd
  · refine ⟨_, exec_enterUserHandler_passes ht hc, ?_⟩
    rw [State.ctx_modCtx_self, State.targetTouched, State.ctx_fetchedFor]
    exact Ctx.enterUser_fields _

/-- Settles O44: each issues to the engine, which is refused in a helper and while the engine is suspended, and waits for a PARK. -/
theorem engineInstructionsRefused : Obligations.EngineInstructionsRefused := by
  intro s t x d a b c fmt rb rd nm stride n cq pr sat cvt m k i hi
  obtain ⟨check, hexec⟩ := exec_engineForms s t x d a b c fmt rb rd nm stride n cq pr sat cvt m k i hi
  rw [hexec]
  exact ⟨fun hh => ⟨_, State.controlOnly_helper _ hh⟩, fun hh hm => ⟨_, s.byteProg_zero, State.issueEngine_suspended check hh hm⟩,
    State.issueEngine_parked check⟩

end Sys2Proof.Proofs

/-! ## What the sequencer accepts (R151, R154, R157, R246) -/

namespace Sys2Proof.Machine

section
variable {s : State}

/-- R151. Each of them is put to acceptance with the general registers it reads. -/
theorem exec_vectorForms (s : State) (d a b c tag : BitVec 5) (rm m q st : BitVec 3) (pr : BitVec 4) (mode : BitVec 2)
    (cls k : BitVec 10) :
    ∀ p ∈ vectorForms d a b c tag rm m q st pr mode cls k, exec p.1 s = s.accept p.1 p.2.1 p.2.2 := by
  simp only [vectorForms, List.forall_mem_cons, List.not_mem_nil, false_implies, implies_true, and_true]
  and_intros <;> rfl

/-- R160 to R173. Each of them has operands and an effect. -/
theorem vop_vectorForms (s : State) (x y : Reg) (d a b c tag : BitVec 5) (rm m q st : BitVec 3) (pr : BitVec 4) (mode : BitVec 2)
    (cls k : BitVec 10) :
    ∀ p ∈ vectorForms d a b c tag rm m q st pr mode cls k, ∃ v, vop (s.seqEntry p.1 x y) = some v := by
  simp only [vectorForms, List.forall_mem_cons, List.not_mem_nil, false_implies, implies_true, and_true]
  and_intros <;> exact ⟨_, rfl⟩

section
variable {i : Instr} {a b : BitVec 5}

/-- R154. A suspended sequencer accepts nothing. -/
theorem State.accept_suspended (hh : s.helper = false) (hv : s.myCore.vsqSusp = true) :
    s.accept i a b = .next (s.takeTrap s.cur ⟨0x03, s.me.pc, 0x810, s.openProg⟩) := by
  unfold State.accept
  rw [State.controlOnly_control _ hh, hv]
  rfl

variable (hh : s.helper = false) (hv : s.myCore.vsqSusp = false)
include hh hv

/-- R151. It waits for a free entry and for the SBINDs of its streams. -/
theorem State.accept_full (hr : s.myCore.acceptReady i = false) : s.accept i a b = .next s.hold := by
  unfold State.accept
  rw [State.controlOnly_control _ hh, hv, hr]
  rfl

/-- R151. Its checks decide. -/
theorem State.accept_ready {v : VOp} (hr : s.myCore.acceptReady i = true) (ho : vop (s.seqEntry i (s.g a) (s.g b)) = some v) :
    s.accept i a b = s.finish (s.acceptChecks v (s.seqEntry i (s.g a) (s.g b)) a >>= fun _ =>
      .ok (s.modMyCore (·.push (s.seqEntry i (s.g a) (s.g b)))).advance) := by
  unfold State.accept
  rw [State.controlOnly_control _ hh, hv, hr]
  simp only [ho]
  rfl

/-- R246. A PARK or UNPARK whose checks pass. -/
theorem State.acceptPark_passes {store : Bool} {x : BitVec 6} {rb : BitVec 10} (hr : s.myCore.acceptReady i = true)
    (hc : s.parkChecks (s.seqEntry i (s.g a) (s.g b)) store (parkObject x rb) a = .ok ()) : s.acceptPark i store x a b rb =
      .next ((s.modMyCore (fun c => { c.push (s.seqEntry i (s.g a) (s.g b)) with parkBusy := c.parkBusy + 1 })).modMe
        (fun c => { c with cntTile := c.cntTile + 1 })).advance := by
  unfold State.acceptPark
  rw [State.controlOnly_control _ hh, hv, hr]
  simp only [hc]
  rfl
end

/-- R157. The two halves of a count below 2^32. -/
theorem bits_of_lt {x : Word} (h : x.toNat < 2 ^ 32) : bits x 31 0 = x.toNat ∧ bits x 63 32 = 0 := by
  constructor <;> simp [bits] <;> omega

/-- R157. VLOOP of a legal body. -/
theorem exec_vloop_passes {u : BitVec 1} {k a : BitVec 5} {n : BitVec 16} (hh : s.helper = false) (hv : s.myCore.vsqSusp = false)
    (hk : k.toNat ≤ s.myCore.window.length)
    (hp : ∀ e ∈ s.myCore.window.drop (s.myCore.window.length - k.toNat), e.parks = none)
    (ha : a = 0 ∨ (s.x a).toNat < 2 ^ 32) : exec (.vloop u k a n) s = .next (s.modMyCore (fun c => { c with
      seq := c.seq ++ (if (if a = 0 then n.toNat else (s.x a).toNat) = 0 then []
        else [SeqItem.replay (s.myCore.window.drop (s.myCore.window.length - k.toNat)) 0 (if a = 0 then n.toNat else (s.x a).toNat)
          (u == 1) false])
      window := [] })).advance := by
  have hcount : (if a = 0 then n.toNat else bits (s.x a) 31 0) = if a = 0 then n.toNat else (s.x a).toNat := by
    split
    · rfl
    · next h => exact (bits_of_lt (ha.resolve_left h)).1
  have hlegal : (decide (k.toNat ≤ s.myCore.window.length) &&
      (s.myCore.window.drop (s.myCore.window.length - k.toNat)).all (fun e => e.parks.isNone) &&
      (a == 0 || bits (s.x a) 63 32 == 0)) = true := by
    have hbits : a = 0 ∨ bits (s.x a) 63 32 = 0 := ha.imp_right fun h => (bits_of_lt h).2
    simpa [hk] using ⟨hp, hbits⟩
  change s.controlOnly _ = _
  rw [State.controlOnly_control _ hh, hv]
  simp only [hlegal, hcount]
  rfl
end

end Sys2Proof.Machine

/-! ## What is settled of the sequencer's acceptance -/

namespace Sys2Proof.Proofs

open Sys2Proof.Machine

/-- Settles O40: acceptance of a vector instruction by the state of the sequencer, PARK and UNPARK, and VLOOP. -/
theorem sequencerAccepts : Obligations.SequencerAccepts := by
  refine ⟨fun s d a b c tag rm m q st pr mode cls k p hp => ?_, fun s x a b k rb u n hh hv => ⟨?_, exec_vloop_passes hh hv⟩⟩
  · rw [exec_vectorForms s d a b c tag rm m q st pr mode cls k p hp]
    refine ⟨fun hh hv hr => ?_, State.accept_full, fun hh hv => ⟨_, State.accept_suspended hh hv⟩,
      fun hh => ⟨_, State.controlOnly_helper _ hh⟩⟩
    obtain ⟨v, hop⟩ := vop_vectorForms s (s.g p.2.1) (s.g p.2.2) d a b c tag rm m q st pr mode cls k p hp
    refine ⟨v, hop, fun hc => ?_, fun t hc => ?_⟩
    · rw [State.accept_ready hh hv hr hop, hc]
      rfl
    · rw [State.accept_ready hh hv hr hop, hc]
      rfl
  · simp only [List.forall_mem_cons, List.not_mem_nil, false_implies, implies_true, and_true]
    exact ⟨State.acceptPark_passes (i := .park x a b rb) (b := b) hh hv,
      State.acceptPark_passes (i := .unpark x a b rb) (b := b) hh hv⟩

end Sys2Proof.Proofs

/-! ## What an access to memory leaves of the contexts (R134, R184, R291) -/

namespace Sys2Proof.Machine

/-- A state with the contexts of another, and the same context current. -/
def State.SameCtxs (s t : State) : Prop := t.cur = s.cur ∧ ∀ c, t.ctx c = s.ctx c

namespace State.SameCtxs

theorem refl (s : State) : s.SameCtxs s := ⟨rfl, fun _ => rfl⟩

theorem trans {s t u : State} (h : s.SameCtxs t) (h' : t.SameCtxs u) : s.SameCtxs u :=
  ⟨h'.1.trans h.1, fun c => (h'.2 c).trans (h.2 c)⟩

theorem me {s t : State} (h : s.SameCtxs t) : t.me = s.me := by
  rw [State.me_eq, h.1, h.2, State.me_eq]

theorem of_foldl {α : Type} {f : State → α → State} (hf : ∀ t x, State.SameCtxs t (f t x)) (l : List α) (s : State) :
    s.SameCtxs (l.foldl f s) := by
  induction l generalizing s with
  | nil => exact .refl s
  | cons x l ih => exact (hf s x).trans (ih (f s x))

theorem of_onlyWalk {s t : State} {w : Who} {a : Word} {k : Access} (h : OnlyWalk w s t a k) : s.SameCtxs t := ⟨h.cur, h.ctx⟩

/-- A core changed but for its contexts. -/
theorem of_modCore (s : State) {n : Nat} {f : Core → Core} (h : (f (s.core n)).ctxs = (s.core n).ctxs) : s.SameCtxs (s.modCore n f) := by
  refine ⟨rfl, fun c => ?_⟩
  obtain ⟨core, slot⟩ := c
  by_cases hn : core = n
  · subst hn
    exact s.ctx_modCore h slot
  · rw [State.ctx, State.modCore_eq, State.core_setCore_ne _ _ hn]
    rfl

theorem of_setMemory (s : State) (sp : Space) (m : Memory) : s.SameCtxs (s.setMemory sp m) := by
  cases sp with
  | main => exact .refl s
  | host => exact .refl s
  | spad n => exact .of_modCore s rfl
  | cmem n => exact ⟨rfl, fun _ => rfl⟩

theorem of_clearCovered (s : State) (spans : List (Loc × Nat)) : s.SameCtxs (s.clearCovered spans) :=
  .of_foldl (fun t sp => .of_setMemory t sp _) _ s

/-- R251. One unit of an image. -/
theorem of_putUnit (s : State) (l : Loc) (skips : Nat → Bool) (off value : Nat) : s.SameCtxs (s.putUnit l skips off value) := by
  unfold State.putUnit
  dsimp only
  split
  · exact .trans (.of_setMemory s _ _) (.of_clearCovered _ _)
  · exact .trans (.of_foldl (fun t k => .of_setMemory t _ _) _ s) (.of_clearCovered _ _)

/-- R253. The place of a unit. -/
theorem of_unitPlace {s t : State} {a : Word} {use : CapUse} {l : Loc} (h : s.unitPlace a use = .ok (t, l)) : s.SameCtxs t := by
  unfold State.unitPlace at h
  cases hr : s.resolve (s.who s.cur) a 64 use with
  | error f => rw [hr] at h; cases h
  | ok p =>
    rw [hr] at h
    obtain ⟨u, _ | _⟩ := p
    · change (if u.homeFenced _ then Except.error _ else Except.ok (u, _)) = _ at h
      split at h
      · cases h
      · cases h; exact .of_onlyWalk (State.onlyWalk_of_resolve hr)
    · cases h

/-- R253. The units of an image, written up to the one that fails. -/
theorem of_putUnits (base : Word) (skips : Nat → Bool) (k : Nat) (units : List (Nat × Nat × Nat)) (s : State) :
    s.SameCtxs (s.putUnits base skips k units).1 := by
  induction units generalizing s k with
  | nil => exact .refl s
  | cons unit rest ih =>
    obtain ⟨off, cls, v⟩ := unit
    unfold State.putUnits
    split
    · exact .refl s
    · next hp => exact (SameCtxs.of_unitPlace hp).trans (.trans (.of_putUnit _ _ _ _ _) (ih _ _))

end State.SameCtxs

end Sys2Proof.Machine

/-! ## Saving a suspended context (R109, R251 to R254) -/

namespace Sys2Proof.Machine

section
variable {s : State}

/-- R109. A suspended context of a pre-empted core. -/
theorem State.selected_suspended {x : BitVec 4} {k : Ctx} (hp : s.myCore.preempted = true)
    (hk : SMap.find s.myCore.suspended x.toNat = some k) : s.selected x = .ok k := by
  simp only [State.selected, hp, if_true, hk]

/-- R253. TRAPPROG counts the units completed, with bit 32. -/
theorem State.toNat_unitProg_mod (s : State) (j : Nat) : (s.unitProg j).toNat % 2 ^ 33 = 2 ^ 32 + j % 2 ^ 32 := by
  have hlow : (s.openProg &&& ~~~(0x1FFFFFFFF : Word)).setWidth 33 = 0 := by
    rw [BitVec.setWidth_and]
    exact BitVec.and_zero
  have hset : (s.unitProg j).setWidth 33 = (w64 (2 ^ 32 + j % 2 ^ 32)).setWidth 33 := by
    rw [State.unitProg, BitVec.setWidth_or, hlow]
    exact BitVec.zero_or
  have hnat := congrArg BitVec.toNat hset
  rw [BitVec.toNat_setWidth, BitVec.toNat_setWidth] at hnat
  rw [hnat, w64, BitVec.toNat_ofNat]
  omega

/-- R251. The live registers that SAVECTX goes by. -/
def State.savedLive (s : State) (k : Ctx) (cls : BitVec 8) : Live := if cls.getLsbD 7 then s.liveAt s.cur.core k.pc else Live.all

/-- R252. The units that SAVECTX writes. -/
def State.saveUnits (s : State) (slot : Nat) (a : Word) (k : Ctx) (cls : BitVec 8) : List (Nat × Nat × Nat) :=
  unitsOf (s.areas s.cur.core slot k cls (s.savedLive k cls) (s.imageSeed a k s.me.unitsDone)) cls

/-- R252, R254. A state in which `n` units have been written, with what SAVECTX by `s` notes of them. -/
def State.imageNoted (s t : State) (slot : Nat) (a : Word) (k : Ctx) (cls : BitVec 8) (n : Nat) : State :=
  let t1 := t.noteSaved slot k a (s.saveUnits slot a k cls) n
  if cls.getLsbD 6 then
    t1.keepImage ⟨s.cur.core, a.toNat, s.imageSeed a k s.me.unitsDone, k.uid,
      if slot = control then some (s.myCore.held.getD (s.holdWork s.cur.core)) else none⟩
  else t1

/-- R109, R253. SAVECTX of a suspended context whose capability covers the image. -/
theorem exec_savectx_covered {x : BitVec 4} {a : BitVec 5} {cls : BitVec 8} {k : Ctx} (hpriv : s.me.priv = true)
    (hp : s.myCore.preempted = true) (hk : SMap.find s.myCore.suspended x.toNat = some k)
    (hc : checkCap (s.g a) s.me.dom true .store (s.x a) (imageBytes x.toNat) 1 = .ok ()) : exec (.savectx x a cls) s =
      .next (match s.putUnits (s.x a) ((s.savedLive k cls).skips k cls) s.me.unitsDone
          ((s.saveUnits x.toNat (s.x a) k cls).drop s.me.unitsDone) with
        | (u, some (j, f)) => (s.imageNoted u x.toNat (s.x a) k cls j).takeTrap s.cur ⟨f.cause, s.me.pc, f.val, s.unitProg j⟩
        | (u, none) => (s.imageNoted u x.toNat (s.x a) k cls (s.saveUnits x.toNat (s.x a) k cls).length).advance) := by
  change s.privileged (s.saveContext x a cls) = _
  rw [State.privileged_priv _ hpriv]
  unfold State.saveContext
  rw [State.selected_suspended hp hk, hpriv]
  change s.finish (s.check (checkCap (s.g a) s.me.dom true .store (s.x a) (imageBytes x.toNat) 1) _ >>= _) = _
  rw [hc]
  change s.finish (match s.putUnits (s.x a) ((s.savedLive k cls).skips k cls) s.me.unitsDone
      ((s.saveUnits x.toNat (s.x a) k cls).drop s.me.unitsDone) with
    | (s1, some (k, f)) => _
    | (s1, none) => _) = _
  generalize s.putUnits _ _ _ _ = r
  obtain ⟨u, _ | ⟨j, f⟩⟩ := r <;> rfl

section
variable (t : State) (slot : Nat) (a : Word) (k : Ctx) (cls : BitVec 8) (n : Nat)

theorem State.noteSaved_frame (units : List (Nat × Nat × Nat)) :
    t.SameCtxs (t.noteSaved slot k a units n) ∧ (t.noteSaved slot k a units n).main = t.main := by
  unfold State.noteSaved
  split
  · exact ⟨.of_modCore t rfl, rfl⟩
  · exact ⟨.refl t, rfl⟩

/-- What SAVECTX notes lies outside the contexts that run and outside device memory. -/
theorem State.imageNoted_frame :
    t.SameCtxs (s.imageNoted t slot a k cls n) ∧ (s.imageNoted t slot a k cls n).main = t.main := by
  have h := t.noteSaved_frame slot a k n (s.saveUnits slot a k cls)
  unfold State.imageNoted
  dsimp only
  split
  · exact h
  · exact h

theorem State.core_imageNoted (c : Nat) : (s.imageNoted t slot a k cls n).core c =
    (t.noteSaved slot k a (s.saveUnits slot a k cls) n).core c := by
  unfold State.imageNoted
  dsimp only
  split <;> rfl
end

/-- R252. An image of class [0] has units of that class. -/
theorem State.saveUnits_class0 (slot : Nat) (a : Word) (k : Ctx) {cls : BitVec 8} (h : cls.getLsbD 0 = true) :
    (s.saveUnits slot a k cls).any (fun u => u.2.1 == 0) = true := by
  have harea : (⟨0, 0x100, 12, k.bankImage⟩ : Area) ∈
      s.areas s.cur.core slot k cls (s.savedLive k cls) (s.imageSeed a k s.me.unitsDone) := by
    unfold State.areas
    dsimp only
    split
    · exact List.mem_append_left _ (List.mem_append_right _ (List.mem_singleton_self _))
    · exact List.mem_append_left _ (List.mem_append_left _ (List.mem_append_left _
        (List.mem_append_right _ (List.mem_singleton_self _))))
  have hfirst : (0 : Nat) ∈ List.range 12 := List.mem_range.mpr (by decide)
  exact List.any_eq_true.mpr ⟨_, List.mem_flatMap.mpr ⟨_, List.mem_filter.mpr ⟨harea, h⟩, List.mem_map_of_mem hfirst⟩, rfl⟩

/-- R254. Once all of them are written the context is known to stand in its image. -/
theorem State.suspended_imageNoted {t : State} {slot : Nat} {a : Word} {k : Ctx} {cls : BitVec 8} (h : cls.getLsbD 0 = true) :
    SMap.find (s.imageNoted t slot a k cls (s.saveUnits slot a k cls).length).myCore.suspended slot =
      some { k with saved := some a, heldLive := k.pendingRegs } := by
  have hnote : t.noteSaved slot k a (s.saveUnits slot a k cls) (s.saveUnits slot a k cls).length = t.setSuspended slot (k.savedAt a) := by
    rw [State.noteSaved, s.saveUnits_class0 slot a k h, List.drop_length]
    rfl
  rw [State.myCore, State.core_imageNoted, (State.imageNoted_frame ..).1.1, hnote]
  rw [State.setSuspended, State.modMyCore_eq, State.core_setCore_self]
  exact SMap.find_set_self _ _ _

/-- Completion of an instruction keeps what a core holds suspended. -/
theorem State.suspended_advance (s : State) : s.advance.myCore.suspended = s.myCore.suspended := by
  rw [State.advance_eq, State.myCore, State.setCtx_cur]
  rw [State.core_setCtx_self]
  rfl

section
variable {x : BitVec 4} {a : BitVec 5} {cls : BitVec 8} {k : Ctx} (hpriv : s.me.priv = true) (hp : s.myCore.preempted = true)
  (hk : SMap.find s.myCore.suspended x.toNat = some k)
  (hc : checkCap (s.g a) s.me.dom true .store (s.x a) (imageBytes x.toNat) 1 = .ok ()) {u : State}
include hpriv hp hk hc

/-- R109, R252, R254. SAVECTX whose units all pass completes, the image written and noted. -/
theorem exec_savectx_completes (hput : s.putUnits (s.x a) ((s.savedLive k cls).skips k cls) s.me.unitsDone
      ((s.saveUnits x.toNat (s.x a) k cls).drop s.me.unitsDone) = (u, none)) :
    ∃ t, exec (.savectx x a cls) s = .next t ∧ t.me.pc = s.me.nextHead s.me.pc ∧ t.main = u.main ∧
      (cls.getLsbD 0 = true →
        SMap.find t.myCore.suspended x.toNat = some { k with saved := some (s.x a), heldLive := k.pendingRegs }) := by
  have hexec := exec_savectx_covered (cls := cls) hpriv hp hk hc
  rw [hput] at hexec
  have hu : s.SameCtxs u := by
    have h := State.SameCtxs.of_putUnits (s.x a) ((s.savedLive k cls).skips k cls) s.me.unitsDone
      ((s.saveUnits x.toNat (s.x a) k cls).drop s.me.unitsDone) s
    rwa [hput] at h
  obtain ⟨hctxs, hmain⟩ := s.imageNoted_frame u x.toNat (s.x a) k cls (s.saveUnits x.toNat (s.x a) k cls).length
  refine ⟨State.advance _, hexec, ?_, hmain, fun h0 => ?_⟩
  · rw [State.advance_eq, State.me_setCtx_cur, (hu.trans hctxs).me]
  · rw [State.suspended_advance]
    exact State.suspended_imageNoted h0

/-- R253. SAVECTX that stops at a unit: the units before it are written, and the trap counts them. -/
theorem exec_savectx_stops {j : Nat} {f : Fail} (hput : s.putUnits (s.x a) ((s.savedLive k cls).skips k cls) s.me.unitsDone
      ((s.saveUnits x.toNat (s.x a) k cls).drop s.me.unitsDone) = (u, some (j, f))) :
    ∃ (t : State) (prog : BitVec 64), prog.toNat % 2 ^ 33 = 2 ^ 32 + j % 2 ^ 32 ∧ t.main = u.main ∧
      exec (.savectx x a cls) s = .next (t.takeTrap s.cur ⟨f.cause, s.me.pc, f.val, prog⟩) := by
  have hexec := exec_savectx_covered (cls := cls) hpriv hp hk hc
  rw [hput] at hexec
  exact ⟨_, s.unitProg j, s.toNat_unitProg_mod j, (s.imageNoted_frame u x.toNat (s.x a) k cls j).2, hexec⟩
end
end

end Sys2Proof.Machine

/-! ## Restoring a suspended context (R70, R109, R253, R255) -/

namespace Sys2Proof.Machine

section
variable {s : State}

/-- R252. The units that RESTCTX reads. -/
def State.loadUnits (s : State) (slot : Nat) (k : Ctx) (cls : BitVec 8) : List (Nat × Nat × Nat) :=
  unitsOf (s.areas s.cur.core slot k cls Live.all s.freeN) cls

/-- R70. The words of the head that an image holds: its pc and its STATUS. -/
def imagePc (img : Nat) : Word := BitVec.ofNat 64 (part img 0 8)
def imageStatus (img : Nat) : Word := BitVec.ofNat 64 (part img 8 8)

/-- R70, R253. RESTCTX checks the head where it has read it now. -/
abbrev readsHead (cls : BitVec 8) (k0 : Nat) (r : List Nat) : Prop := cls.getLsbD 6 ∧ k0 = 0 ∧ r ≠ []

/-- R70, R291. The check of the head of an image, and the state that it leaves. -/
def State.imageHead (u : State) (k : Ctx) (img : Nat) (cls : BitVec 8) (k0 : Nat) (r : List Nat) : Res Unit :=
  if readsHead cls k0 r then u.checkImagePc k (imagePc img) (imageStatus img) else .ok ()
def State.imageHeadTouched (u : State) (k : Ctx) (img : Nat) (cls : BitVec 8) (k0 : Nat) (r : List Nat) : State :=
  if readsHead cls k0 r then u.imagePcTouched k (imagePc img) (imageStatus img) else u

theorem readsHead_iff {cls : BitVec 8} {k0 : Nat} {r : List Nat} :
    (cls.getLsbD 6 && k0 == 0 && !r.isEmpty) = true ↔ readsHead cls k0 r := by
  simp [and_assoc]

/-- R253. What becomes of RESTCTX once it has read what it can: `r` by the state `u`, and where it stopped. -/
def State.afterUnits (s u : State) (slot : Nat) (a : Word) (k : Ctx) (cls : BitVec 8) (r : List Nat)
    (stop : Option (Nat × Fail)) : State :=
  let loads := s.loadUnits slot k cls
  let k0 := s.me.unitsDone
  let img := overlay loads k0 r
  let v := u.imageHeadTouched k img cls k0 r
  match u.imageHead k img cls k0 r, stop with
  | .error f, _ => v.takeTrap s.cur ⟨f.cause, s.me.pc, f.val, s.openProg⟩
  | .ok (), some (j, f) => (v.applyImage slot k a loads k0 r cls false).takeTrap s.cur ⟨f.cause, s.me.pc, f.val, s.unitProg j⟩
  | .ok (), none => (v.applyImage slot k a loads k0 r cls true).advance

section
variable {u : State} {slot : Nat} {a : Word} {k : Ctx} {cls : BitVec 8} {r : List Nat} {stop : Option (Nat × Fail)}

/-- R70. A head that fails its check: nothing is applied. -/
theorem State.afterUnits_badHead {f : Fail}
    (h : u.imageHead k (overlay (s.loadUnits slot k cls) s.me.unitsDone r) cls s.me.unitsDone r = .error f) :
    s.afterUnits u slot a k cls r stop =
      (u.imagePcTouched k (imagePc (overlay (s.loadUnits slot k cls) s.me.unitsDone r))
        (imageStatus (overlay (s.loadUnits slot k cls) s.me.unitsDone r))).takeTrap s.cur ⟨f.cause, s.me.pc, f.val, s.openProg⟩ := by
  have hread : readsHead cls s.me.unitsDone r := by
    by_contra hn
    rw [State.imageHead, if_neg hn] at h
    cases h
  simp only [State.afterUnits, h, State.imageHeadTouched, if_pos hread]

variable (h : u.imageHead k (overlay (s.loadUnits slot k cls) s.me.unitsDone r) cls s.me.unitsDone r = .ok ())
include h

theorem State.afterUnits_completes : s.afterUnits u slot a k cls r none =
    ((u.imageHeadTouched k (overlay (s.loadUnits slot k cls) s.me.unitsDone r) cls s.me.unitsDone r).applyImage slot k a
      (s.loadUnits slot k cls) s.me.unitsDone r cls true).advance := by
  simp only [State.afterUnits, h]

theorem State.afterUnits_stops {j : Nat} {f : Fail} : s.afterUnits u slot a k cls r (some (j, f)) =
    ((u.imageHeadTouched k (overlay (s.loadUnits slot k cls) s.me.unitsDone r) cls s.me.unitsDone r).applyImage slot k a
      (s.loadUnits slot k cls) s.me.unitsDone r cls false).takeTrap s.cur ⟨f.cause, s.me.pc, f.val, s.unitProg j⟩ := by
  simp only [State.afterUnits, h]
end

/-- R109, R253. RESTCTX of a suspended context whose capability covers the image. -/
theorem exec_restctx_covered {x : BitVec 4} {a : BitVec 5} {cls : BitVec 8} {k : Ctx} (hpriv : s.me.priv = true)
    (hp : s.myCore.preempted = true) (hk : SMap.find s.myCore.suspended x.toNat = some k)
    (hc : checkCap (s.g a) s.me.dom true .load (s.x a) (imageBytes x.toNat) 1 = .ok ()) {u : State} {r : List Nat}
    {stop : Option (Nat × Fail)}
    (hget : s.getUnits (s.x a) s.me.unitsDone ((s.loadUnits x.toNat k cls).drop s.me.unitsDone) [] = (u, r, stop)) :
    exec (.restctx x a cls) s = .next (s.afterUnits u x.toNat (s.x a) k cls r stop) := by
  have hcheck : s.check (checkCap (s.g a) s.me.dom s.me.priv .load (s.x a) (imageBytes x.toNat) 1) (s.regProg a) = .ok () := by
    rw [hpriv, hc]; rfl
  change s.privileged (s.restoreContext x a cls) = _
  rw [State.privileged_priv _ hpriv]
  unfold State.restoreContext
  rw [State.selected_suspended hp hk]
  unfold State.loadUnits at hget
  simp only [bind, Except.bind, hcheck, hget, readsHead_iff]
  unfold State.afterUnits State.imageHead State.imageHeadTouched imagePc imageStatus State.loadUnits w64
  by_cases hh : readsHead cls s.me.unitsDone r
  · simp only [if_pos hh]
    generalize u.checkImagePc k _ _ = head
    obtain f | ⟨⟩ := head
    · rfl
    · obtain _ | ⟨j, f⟩ := stop <;> rfl
  · simp only [if_neg hh]
    obtain _ | ⟨j, f⟩ := stop <;> rfl
end

end Sys2Proof.Machine

/-! ## Pre-emption, and what reaches a context (R103, R136, R249, R250, R254, R255) -/

namespace Sys2Proof.Machine

section
variable {s : State}

/-- R249, R250. A core on which the resident handler runs and whose engines hold nothing. -/
def Core.Handling (k : Core) : Prop := k.preempted = true ∧ k.mxq = [] ∧ k.copies = [] ∧ k.seq = []

/-- R249, R250. A pre-empted core is such a core. -/
theorem State.handling_preempt (s : State) (core : Nat) : ((s.preempt core).core core).Handling := by
  have hentered : ∀ (t : State) (uid next : Nat) (held : Held),
      (({ t.modCore core (fun c => c.enterHandler uid held) with uidNext := next } : State).core core).Handling := by
    intro t uid next held
    change ((t.modCore core (fun c => c.enterHandler uid held)).core core).Handling
    rw [State.modCore_eq, State.core_setCore_self]
    exact ⟨rfl, rfl, rfl, rfl⟩
  unfold State.preempt
  dsimp only
  split
  · rw [State.targetTouched, State.core_fetchedFor]
    exact hentered _ _ _ _
  · obtain ⟨m, hm⟩ := State.core_modCtx (State.targetTouched _ _ _) core control _
    rw [hm, State.targetTouched, State.core_fetchedFor]
    exact hentered _ _ _ _

/-- R364. PREEMPTION of a core that is outbid. -/
theorem exec_preemption_outbid {core : Nat} (hp : s.preemptible core = true) (ho : s.outbid core = true) :
    exec (.preemption core) s = .next (s.preemptSlice core) :=
  congrArg Host.Outcome.next (if_pos (by rw [hp, ho]; rfl))

/-- R364. No slice of a core runs whose slices all stopped. -/
theorem runningSlice_stopped (c : Core) :
    ({ c with slices := c.slices.map (fun x => { x with running := false }) } : Core).runningSlice = none := by
  simp [Core.runningSlice]

/-- R103. A deposit sets D, and MBP where IE is set. -/
theorem Ctx.deposit_fields (x : Ctx) (v : Word) :
    (x.deposit v).mbox = x.mbox ||| 0x40 ∧ (x.deposit v).mbp = (x.mbp || x.mbox.getLsbD 7) := by
  have h : ∀ (d : BitVec 5) (r : Reg), (x.deliver false d r).mbox = x.mbox ∧ (x.deliver false d r).mbp = x.mbp := by
    intro d r
    unfold Ctx.deliver Ctx.setReg
    split
    · split <;> exact ⟨rfl, rfl⟩
    · exact ⟨rfl, rfl⟩
  obtain ⟨hbox, hmbp⟩ := h (BitVec.ofNat 5 (x.mbox.toNat % 32)) (Reg.plain v)
  unfold Ctx.deposit
  dsimp only
  rw [hbox, hmbp]
  exact ⟨rfl, rfl⟩

/-- R88, R102, R103. When the mailbox of a context is open. -/
theorem Ctx.mailboxOpen_of {x : Ctx} (hg : x.gpos = 0) (he : x.mbox.getLsbD 5 = true) (hr : x.mbox.toNat % 32 ≠ 0)
    (hd : x.mbox.getLsbD 6 = false) : x.mailboxOpen = true := by
  rw [Ctx.mailboxOpen, hg, he, hd, bne_iff_ne.mpr hr]
  rfl

section
variable {c : CtxId} (hl : (s.ctx c).life = .live) (ho : (s.ctx c).mailboxOpen = true)
include hl ho

/-- R103. MAILBOX_DEPOSIT at an open mailbox. -/
theorem exec_mailboxDeposit_open (v : BitVec 64) : exec (.mailboxDeposit c v) s = .next (s.modCtx c (·.deposit v)) :=
  congrArg Host.Outcome.next (if_pos (by simp [hl, ho]))

/-- R255. SPILL_DELIVERY at an open mailbox. -/
theorem exec_spillDelivery_open {w : Word} {d : BitVec 6} {ws : List (Word × BitVec 6)} (hs : (s.ctx c).spill = (w, d) :: ws)
    (hp : (s.core c.core).preempted = false) :
    exec (.spillDelivery c) s = .next (s.modCtx c (fun x => { x.deposit w with spill := ws })) := by
  change Host.Outcome.next (match (s.ctx c).spill with
    | [] => s
    | (v, _) :: rest => if (s.ctx c).life = Life.live && (s.ctx c).mailboxOpen && !(s.core c.core).preempted then
        s.modCtx c (fun x => { x.deposit v with spill := rest }) else s) = _
  simp [hs, hl, ho, hp]
end

/-- R357. LAUNCH_ITEM_START of an item that may start. -/
theorem exec_launchItemStart_due {core : Nat} {it : LaunchItem} (hn : (s.core core).nextItem = some it)
    (hm : s.mayStartItem core it = true) :
    exec (.launchItemStart core) s = .next ((s.modCore core (·.dequeue it)).startItem core it) := by
  change Host.Outcome.next (match (s.core core).nextItem with
    | none => s
    | some it => if s.mayStartItem core it then _ else s) = _
  rw [hn]
  exact congrArg Host.Outcome.next (if_pos hm)

section
variable {c : CtxId} {k : Nat} {v : BitVec 64}

/-- R254. RUCKSACK_DELIVERY of a reply. -/
theorem exec_rucksackDelivery_reply {x : Ctx} {j : Nat} {op : PendOp} {addr : Word} {key : BitVec 32}
    (ho : pendingAt ((s.core c.core).outs c.slot) k = some (x, j, op)) (hh : op.home = .remote addr key)
    (hr : op.kind.reads = true) (hu : op.kind.isUnit = false) (hs : s.sentOut x.uid op = true) :
    exec (.rucksackDelivery c k v) s = .next (s.rucksackReply c x op j (v.setWidth 128)) := by
  change execRucksackDelivery c k v s = _
  simp only [execRucksackDelivery, ho, hh, hr, hu, hs]
  rfl

/-- R254. RUCKSACK_DELIVERY of a deposit into a spill buffer with room. -/
theorem exec_rucksackDelivery_deposit {x : Ctx} {rest : List Ctx} {u : State}
    (hn : pendingAt ((s.core c.core).outs c.slot) k = none)
    (hx : ((s.core c.core).outs c.slot).drop (k - (((s.core c.core).outs c.slot).map (·.pend.length)).foldl (· + ·) 0) = x :: rest)
    (hl : x.spill.length < 64)
    (hw : s.rucksackWrite c.core x (0x3000 + 32 * x.spill.length) 32 (spillImage [(v, x.dom)]) = some u) :
    exec (.rucksackDelivery c k v) s = .next (u.modOwner c x.uid (fun y => { y with spill := y.spill ++ [(v, x.dom)] })) := by
  change execRucksackDelivery c k v s = _
  simp only [execRucksackDelivery, hn, hx, State.spillDeposit, if_pos hl, hw]
  rfl

/-- R136. REMOTE_REFUSAL of an access whose request is out. -/
theorem exec_remoteRefusal_out {cause : BitVec 8} {x : Ctx} {op : PendOp} {rest : List PendOp} {addr : Word} {key : BitVec 32}
    (hx : s.addressee c k = some x) (hp : x.pend.drop k = op :: rest) (hh : op.home = .remote addr key) (ha : op.isAccess = true)
    (hu : op.kind.isUnit = false) (hs : s.sentOut x.uid op = true) :
    exec (.remoteRefusal c k cause) s = .next (s.refuseOwner c x k op cause addr) := by
  change execRemoteRefusal c k cause s = _
  simp only [execRemoteRefusal, hx, hp, hh, ha, hu, hs]
  rfl
end
end

end Sys2Proof.Machine

/-! ## What is settled of the images of contexts and of what reaches a context -/

namespace Sys2Proof.Proofs

open Sys2Proof.Machine

/-- Settles O52: SAVECTX and RESTCTX, pre-emption, the start of a launch item, and what comes for a context. -/
theorem contextImages : Obligations.ContextImages := by
  refine ⟨fun s x a cls k hpriv hp hk => ⟨fun hc => ?_, fun hc u r stop hget => ?_⟩, fun s core hp ho => ?_,
    fun s core it hn hm => exec_launchItemStart_due hn hm, fun s c k v cause => ⟨fun hl hg he hr hd => ?_, ⟨?_, ?_⟩, ?_⟩⟩
  · exact ⟨fun u hput => exec_savectx_completes hpriv hp hk hc hput, fun u j f hput => exec_savectx_stops hpriv hp hk hc hput⟩
  · have hexec := exec_restctx_covered hpriv hp hk hc hget
    refine ⟨fun f hf => ⟨s.openProg, ?_⟩, fun hf => ⟨?_, ?_⟩⟩
    · rw [hexec, State.afterUnits_badHead hf]
      rfl
    · rintro rfl
      rw [hexec, State.afterUnits_completes hf]
      rfl
    · rintro j f rfl
      refine ⟨s.unitProg j, s.toNat_unitProg_mod j, ?_⟩
      rw [hexec, State.afterUnits_stops hf]
      rfl
  · obtain ⟨hpre, hmx, hcp, hseq⟩ := s.handling_preempt core
    refine ⟨_, exec_preemption_outbid hp ho, ?_⟩
    rw [State.preemptSlice, State.modCore_eq, State.core_setCore_self]
    exact ⟨hpre, runningSlice_stopped _, hmx, hcp, hseq⟩
  · have hopen := Ctx.mailboxOpen_of hg he hr hd
    refine ⟨⟨_, exec_mailboxDeposit_open hl hopen v, ?_⟩, fun w d ws hs hp => ⟨_, exec_spillDelivery_open hl hopen hs hp, ?_⟩⟩
    · rw [State.ctx_modCtx_self]
      exact Ctx.deposit_fields _ v
    · rw [State.ctx_modCtx_self]
      exact ⟨(Ctx.deposit_fields _ w).1, rfl⟩
  · exact fun x j op addr key ho hh hr hu hs => exec_rucksackDelivery_reply ho hh hr hu hs
  · exact fun x rest u hn hx hl hw => exec_rucksackDelivery_deposit hn hx hl hw
  · exact fun x op rest addr key hx hp hh ha hu hs => exec_remoteRefusal_out hx hp hh ha hu hs

end Sys2Proof.Proofs
